-- ==== Sys2Proof/Word.lean ====
section
/-! DEFINITION. The word types of the machine and their plainest arithmetic. -/

namespace Sys2Proof

/-- One byte. -/
abbrev Byte := BitVec 8
/-- A register of the register window, or a scalar instruction word: 32 bits (R448). -/
abbrev Word := BitVec 32
/-- A general register g0 to g31 or a program counter (R42). -/
abbrev DWord := BitVec 64
/-- A tensor descriptor (Table 2.8). -/
abbrev Desc := BitVec 256
/-- A wide instruction, words W0 to W15 (Table 2.5). -/
abbrev Wide := BitVec 512

end Sys2Proof
end

