-- ==== Sys2Proof/Syntax.lean ====
section
/-! DEFINITION. The commands of the block: one constructor per row of spec/opcode_table.json, with the operands the
row's rule needs. A register number is rd, ra or rb of Table 2.2; `w` is the whole wide instruction of Table 2.5; a value
the outside world brings (a measured level, a message, the result of a self-test) is an operand (log entry 1). -/

namespace Sys2Proof

/-- The supplies of Table 17.1. -/
inductive Supply where
  | vmain | vaux | vstby
  deriving DecidableEq, Repr

/-- The two gaffers. -/
inductive Gaffer where
  | gw | ge
  deriving DecidableEq, Repr

/-- Who writes a shared function (R24): the host through PF0, or a gaffer. -/
inductive Writer where
  | host | gaffer (g : Gaffer)
  deriving DecidableEq, Repr

/-- The filtered input pins of R484. -/
inductive Pin where
  | wakeN | tickIn | alertN
  deriving DecidableEq, Repr

/-- Who makes a request of an arbiter (R111): the context whose entry or scalar access it serves, the host port, a tier
write-back, the promotion of hot pages, or a router's input port with the class that its cell's request carries. -/
inductive ReqBy where
  | ctx (jc : Fin 16) | host | writeBack | promotion | port (lc : Bool)
  deriving DecidableEq, Repr

/-- A requester that asserts at an arbiter (R111): its index at the instance, and who it is. -/
structure Req where
  idx : Nat
  who : ReqBy
  deriving DecidableEq, Repr

/-- The emergency requesters of R112. -/
inductive Emerg where
  | zeroise | refresh | debug
  deriving DecidableEq, Repr

/-- The holder of an arbiter's grant, or a requester that is masked (R112, R116). -/
inductive Grant where
  | req (idx : Nat)
  | emerg (e : Emerg)
  deriving DecidableEq, Repr

/-- A regulated resource instance (R327). -/
inductive BucketInst where
  | t1 (ch : Fin 8) | t2 (ch : Fin 8) | t3
  deriving DecidableEq, Repr

/-- A region of a copy manifest (R442). -/
structure ManEntry where
  region : Nat
  kind : Nat
  len : Nat
  off : Nat
  digest : BitVec 256
  deriving DecidableEq, Repr

/-- A voted copy found to disagree (R454): register offset, lowest disagreeing bit, copy. -/
structure Upset where
  off : Nat
  bit : Fin 32
  copy : Fin 3
  deriving DecidableEq, Repr

/-- The tiers of Table 11.1. -/
inductive Tier where
  | t1 | t2 | t3
  deriving DecidableEq, Repr

/-- A memory error that an access met: its tier and its 32-byte sector there; whether it was uncorrectable, which for T2 is
poison, and for T3 a request that the host answers with Unsupported Request, Completer Abort or not in time, or an NVMe command
that fails twice (R303, R311, R313, R315). -/
structure Ecc where
  tier : Tier
  sector : Nat
  ue : Bool
  deriving DecidableEq, Repr

/-- The emergency requesters that assert at an arbitration point, and the transfers made under the grant since the point before
(R113, R114). -/
structure ArbPoint where
  ems : List Emerg
  made : Nat
  deriving DecidableEq, Repr

/-- What a TICK cell carries: the master's number, the delay summed so far, and the residence time in this package (R369). -/
structure TickCell where
  num : BitVec 64
  delay : BitVec 32
  resid : BitVec 16
  deriving DecidableEq, Repr

/-- The window whose copy ends, and the memory errors that the copy met. -/
structure WinDone where
  win : Fin 4
  ecc : List Ecc
  deriving DecidableEq, Repr

/-- What start-up meets (Table 17.7): the hub's self-test, each channel's self-test and HBM4 training, the T2 capacity
found on each far-memory link in GiB with the slots of it that measured badly, whether the upstream port enables ARI
forwarding, and the tick master's number. -/
structure StartEnv where
  hubOk : Bool
  selfTest : BitVec 8
  hbm : BitVec 8
  t2Gib : List Nat
  t2Bad : List (List (Fin 9))
  ari : Bool
  masterNum : BitVec 64
  deriving DecidableEq, Repr

/-- Who waits for a tier: an engine, the scalar thread of a context, or the mover of a stream window (R315, R330). -/
inductive Agent where
  | engine (eng : Fin 11) | thread (jc : Fin 16) | window (w : Fin 4)
  deriving DecidableEq, Repr

/-- JTAG operations (R504): an IEEE 1149.1 boundary scan over the signal levels, another IEEE 1149.1 instruction, or an
instruction of the debug port. -/
inductive JtagOp where
  | scan (levels : List Bool)
  | bypass (inBit : Bool)
  | debug
  deriving DecidableEq, Repr


/-- A fabric cell (Table 12.7); LEN follows from the payload. -/
structure Cell where
  dst : BitVec 24
  src : BitVec 24
  vc : BitVec 3
  typ : BitVec 4
  last : Bool
  wire : Bool
  enc : Bool
  msg : BitVec 16
  offset : BitVec 12
  data : List (BitVec 8)
  lseq : BitVec 12
  lack : BitVec 12
  nak : Bool
  crvc : BitVec 3
  crcnt : BitVec 6
  deriving DecidableEq, Repr

/-- A message of a collective (R391): its sender, its opening cell and its data; the command names its KIND. -/
structure CMsg where
  src : BitVec 24
  id : BitVec 64
  seq : BitVec 16
  tree : Bool
  index : BitVec 32
  data : List (BitVec 8)
  deriving DecidableEq, Repr

/-- What link training meets (Table 12.11): whether every step ended in time and the key agreement passed, the slots of
the link that measured badly, what the peer says of itself (`wire`: it has wire compression), the median delay, the peer's
CREDITS, and on the memory link the capacity of the expander in GiB. -/
structure Training where
  ok : Bool
  bad : List (Fin 9)
  peer : BitVec 24
  peerPort : Fin 16
  enc : Bool
  wire : Bool
  delay : BitVec 16
  share : List Nat
  gib : Nat
  deriving DecidableEq, Repr

/-- The commands of the block: one constructor per row of spec/opcode_table.json, in the table's order. -/
inductive Instr where
  /-- SUPPLY_PRESENT (R469). -/
  | supplyPresent (sup : Supply)
  /-- SUPPLY_ABSENT (R470). -/
  | supplyAbsent (sup : Supply)
  /-- PERST_ASSERT (R495). -/
  | perstAssert
  /-- PERST_RELEASE (R470). -/
  | perstRelease
  /-- START_UP (R493). -/
  | startUp (env : StartEnv)
  /-- STARTUP_REPEAT (R494). -/
  | startupRepeat (env : StartEnv)
  /-- FL_EN_FALL (R505). -/
  | flEnFall
  /-- HOST_PORT_LINK_UP (R32). -/
  | hostPortLinkUp (ari : Bool)
  /-- CONFIG_REQUEST_ABSENT (R33). -/
  | configRequestAbsent (fn : Nat)
  /-- FLR_CHANNEL (R34). -/
  | flrChannel (ch : Fin 8)
  /-- FLR_CHANNEL_DONE (R523). -/
  | flrChannelDone (ch : Fin 8)
  /-- FLR_HUB (R34). -/
  | flrHub
  /-- CHANNEL_RETIRE (R37). -/
  | channelRetire (ch : Fin 8)
  /-- HUB_FAULT (R38). -/
  | hubFault (ch : Fin 8)
  /-- GAFFER_RESET (R20). -/
  | gafferReset (gaf : Gaffer)
  /-- GAFFER_RETURN (R479). -/
  | gafferReturn (gaf : Gaffer)
  /-- LEASE_RENEW (R21). -/
  | leaseRenew (gaf : Gaffer) (epoch : BitVec 32)
  /-- LEASE_EXPIRE (R21). -/
  | leaseExpire (observer : Gaffer)
  /-- LEASE_CLAIM (R23). -/
  | leaseClaim (gaf : Gaffer) (epoch : BitVec 32)
  /-- LEASE_WINDOW_END (R25). -/
  | leaseWindowEnd
  /-- SPLIT_GAFFER_RESET (R29). -/
  | splitGafferReset (ms : Nat)
  /-- GW_CLAIM (R30). -/
  | gwClaim
  /-- GE_CLAIM (R30). -/
  | geClaim (heard : Bool)
  /-- SPLIT_SEEN_CLEAR (R30). -/
  | splitSeenClear
  /-- PASSIVE_HOLD_RELEASE (R30). -/
  | passiveHoldRelease
  /-- ALU_ADD (R522). -/
  | aluAdd (ch : Fin 8) (jc : Fin 16) (rd ra rb : Fin 32)
  /-- ALU_SUB (R522). -/
  | aluSub (ch : Fin 8) (jc : Fin 16) (rd ra rb : Fin 32)
  /-- ALU_AND (R522). -/
  | aluAnd (ch : Fin 8) (jc : Fin 16) (rd ra rb : Fin 32)
  /-- ALU_OR (R522). -/
  | aluOr (ch : Fin 8) (jc : Fin 16) (rd ra rb : Fin 32)
  /-- ALU_XOR (R522). -/
  | aluXor (ch : Fin 8) (jc : Fin 16) (rd ra rb : Fin 32)
  /-- ALU_SLL (R522). -/
  | aluSll (ch : Fin 8) (jc : Fin 16) (rd ra rb : Fin 32)
  /-- ALU_SRL (R522). -/
  | aluSrl (ch : Fin 8) (jc : Fin 16) (rd ra rb : Fin 32)
  /-- ALU_SRA (R522). -/
  | aluSra (ch : Fin 8) (jc : Fin 16) (rd ra rb : Fin 32)
  /-- ALU_SLT (R522). -/
  | aluSlt (ch : Fin 8) (jc : Fin 16) (rd ra rb : Fin 32)
  /-- ALU_SLTU (R522). -/
  | aluSltu (ch : Fin 8) (jc : Fin 16) (rd ra rb : Fin 32)
  /-- ALU_MIN (R522). -/
  | aluMin (ch : Fin 8) (jc : Fin 16) (rd ra rb : Fin 32)
  /-- ALU_MAX (R522). -/
  | aluMax (ch : Fin 8) (jc : Fin 16) (rd ra rb : Fin 32)
  /-- ALU_MUL (R522). -/
  | aluMul (ch : Fin 8) (jc : Fin 16) (rd ra rb : Fin 32)
  /-- ALU_MULH (R522). -/
  | aluMulh (ch : Fin 8) (jc : Fin 16) (rd ra rb : Fin 32)
  /-- ALU_MULHU (R522). -/
  | aluMulhu (ch : Fin 8) (jc : Fin 16) (rd ra rb : Fin 32)
  /-- ALU_DIV (R45). -/
  | aluDiv (ch : Fin 8) (jc : Fin 16) (rd ra rb : Fin 32)
  /-- ALU_DIVU (R45). -/
  | aluDivu (ch : Fin 8) (jc : Fin 16) (rd ra rb : Fin 32)
  /-- ALU_REM (R45). -/
  | aluRem (ch : Fin 8) (jc : Fin 16) (rd ra rb : Fin 32)
  /-- ALU_REMU (R45). -/
  | aluRemu (ch : Fin 8) (jc : Fin 16) (rd ra rb : Fin 32)
  /-- ADDI (R45). -/
  | addi (ch : Fin 8) (jc : Fin 16) (rd ra : Fin 32) (imm : BitVec 16)
  /-- ANDI (R45). -/
  | andi (ch : Fin 8) (jc : Fin 16) (rd ra : Fin 32) (imm : BitVec 16)
  /-- ORI (R45). -/
  | ori (ch : Fin 8) (jc : Fin 16) (rd ra : Fin 32) (imm : BitVec 16)
  /-- XORI (R45). -/
  | xori (ch : Fin 8) (jc : Fin 16) (rd ra : Fin 32) (imm : BitVec 16)
  /-- SHI (R522). -/
  | shi (ch : Fin 8) (jc : Fin 16) (rd ra : Fin 32) (imm : BitVec 16)
  /-- SLTI (R45). -/
  | slti (ch : Fin 8) (jc : Fin 16) (rd ra : Fin 32) (imm : BitVec 16)
  /-- MOVZ (R45). -/
  | movz (ch : Fin 8) (jc : Fin 16) (rd : Fin 32) (hw : Fin 4) (rsv : BitVec 3) (imm : BitVec 16)
  /-- MOVK (R45). -/
  | movk (ch : Fin 8) (jc : Fin 16) (rd : Fin 32) (hw : Fin 4) (rsv : BitVec 3) (imm : BitVec 16)
  /-- LD (R47). -/
  | ld (ch : Fin 8) (jc : Fin 16) (rd ra : Fin 32) (imm : BitVec 16)
  /-- LW (R47). -/
  | lw (ch : Fin 8) (jc : Fin 16) (rd ra : Fin 32) (imm : BitVec 16)
  /-- LWU (R47). -/
  | lwu (ch : Fin 8) (jc : Fin 16) (rd ra : Fin 32) (imm : BitVec 16)
  /-- LOAD_COMPLETE (R524). -/
  | loadComplete (ch : Fin 8) (jc : Fin 16) (ecc : List Ecc)
  /-- ST (R47). -/
  | st (ch : Fin 8) (jc : Fin 16) (rd ra : Fin 32) (imm : BitVec 16)
  /-- STW (R47). -/
  | stw (ch : Fin 8) (jc : Fin 16) (rd ra : Fin 32) (imm : BitVec 16)
  /-- LDL (R47). -/
  | ldl (ch : Fin 8) (jc : Fin 16) (rd ra : Fin 32) (imm : BitVec 16)
  /-- STL (R47). -/
  | stl (ch : Fin 8) (jc : Fin 16) (rd ra : Fin 32) (imm : BitVec 16)
  /-- BEQ (R45). -/
  | beq (ch : Fin 8) (jc : Fin 16) (ra rb : Fin 32) (off : BitVec 16)
  /-- BNE (R45). -/
  | bne (ch : Fin 8) (jc : Fin 16) (ra rb : Fin 32) (off : BitVec 16)
  /-- BLT (R45). -/
  | blt (ch : Fin 8) (jc : Fin 16) (ra rb : Fin 32) (off : BitVec 16)
  /-- BGE (R45). -/
  | bge (ch : Fin 8) (jc : Fin 16) (ra rb : Fin 32) (off : BitVec 16)
  /-- BLTU (R45). -/
  | bltu (ch : Fin 8) (jc : Fin 16) (ra rb : Fin 32) (off : BitVec 16)
  /-- BGEU (R45). -/
  | bgeu (ch : Fin 8) (jc : Fin 16) (ra rb : Fin 32) (off : BitVec 16)
  /-- JAL (R45). -/
  | jal (ch : Fin 8) (jc : Fin 16) (off : BitVec 26)
  /-- JALR (R45). -/
  | jalr (ch : Fin 8) (jc : Fin 16) (rd ra : Fin 32) (imm : BitVec 16)
  /-- TDLD (R55). -/
  | tdld (ch : Fin 8) (jc : Fin 16) (td : Fin 64) (ra : Fin 32) (imm : BitVec 15)
  /-- TDST (R55). -/
  | tdst (ch : Fin 8) (jc : Fin 16) (td : Fin 64) (ra : Fin 32) (imm : BitVec 15)
  /-- TDSET (R55). -/
  | tdset (ch : Fin 8) (jc : Fin 16) (td : Fin 64) (ra : Fin 32) (w : Fin 4)
  /-- TDGET (R55). -/
  | tdget (ch : Fin 8) (jc : Fin 16) (td : Fin 64) (ra : Fin 32) (w : Fin 4)
  /-- WAIT (R63). -/
  | wait (ch : Fin 8) (jc : Fin 16) (sem : Fin 256) (count : BitVec 8) (tg : Bool)
  /-- SIG (R60). -/
  | sig (ch : Fin 8) (jc : Fin 16) (sem : Fin 256) (count : BitVec 8) (tg : Bool)
  /-- CLAIM (R60). -/
  | claim (ch : Fin 8) (jc : Fin 16) (ra : Fin 32) (sem : Fin 256)
  /-- FREE (R108). -/
  | free (ch : Fin 8) (jc : Fin 16) (sem : Fin 256)
  /-- READ (R60). -/
  | read (ch : Fin 8) (jc : Fin 16) (rd : Fin 32) (sem : Fin 256)
  /-- CSRR (R48). -/
  | csrr (ch : Fin 8) (jc : Fin 16) (rd : Fin 32) (rsv : BitVec 5) (num : BitVec 16)
  /-- FENCE (R70). -/
  | fence (ch : Fin 8) (jc : Fin 16) (imm : BitVec 16)
  /-- YIELD (R99). -/
  | yield (ch : Fin 8) (jc : Fin 16)
  /-- HALT (R44). -/
  | halt (ch : Fin 8) (jc : Fin 16)
  /-- TRAP (R73). -/
  | trap (ch : Fin 8) (jc : Fin 16) (imm : BitVec 16)
  /-- SEM_TIMEOUT (R65). -/
  | semTimeout (ch : Fin 8) (jc : Fin 16) (eng : Option (Fin 11))
  /-- CH_SEM_WRITE (R63). -/
  | chSemWrite (ch : Fin 8) (sem : Fin 256) (val : BitVec 32)
  /-- WIDE_RETRY (R66). -/
  | wideRetry (ch : Fin 8) (jc : Fin 16)
  /-- ENTRY_START (R67). -/
  | entryStart (ch : Fin 8) (eng : Fin 11) (b2b : Bool)
  /-- PASS_BOUNDARY (R68). -/
  | passBoundary (ch : Fin 8) (eng : Fin 11) (stall : Nat) (upsets : List (List (Fin 16 × Fin 32))) (ecc : List Ecc)
  /-- ENTRY_COMPLETE (R71). -/
  | entryComplete (ch : Fin 8) (eng : Fin 11) (stall : Nat) (upsets : List (List (Fin 16 × Fin 32))) (ecc : List Ecc)
  /-- CQ_BASE_WRITE (R74). -/
  | cqBaseWrite (ch : Fin 8) (jc : Fin 16) (hi : Bool) (val : BitVec 32)
  /-- CQ_RD_WRITE (R72). -/
  | cqRdWrite (ch : Fin 8) (jc : Fin 16) (val : BitVec 32)
  /-- TICK_BOUNDARY (R84). -/
  | tickBoundary
  /-- RWT_LATCH (R83). -/
  | rwtLatch
  /-- TICK_IN_EDGE (R77). -/
  | tickInEdge (err : Int)
  /-- TICK_MESSAGE (R369). -/
  | tickMessage (ch : Fin 8) (link : Fin 16) (cell : TickCell) (err : Int)
  /-- TICK_HOLDOVER (R77). -/
  | tickHoldover
  /-- TICK_CFG_WRITE (R82). -/
  | tickCfgWrite (by_ : Writer) (val : BitVec 32)
  /-- TICK_NUM_READ (R453). -/
  | tickNumRead
  /-- QUANTUM_BOUNDARY (R93). -/
  | quantumBoundary (ch : Fin 8)
  /-- SQ_DOORBELL (R89). -/
  | sqDoorbell (ch : Fin 8) (q : Fin 8) (val : BitVec 32)
  /-- SQ_BASE_WRITE (R89). -/
  | sqBaseWrite (ch : Fin 8) (q : Fin 8) (hi : Bool) (val : BitVec 32)
  /-- JCR_RD_WRITE (R92). -/
  | jcrRdWrite (ch : Fin 8) (q : Fin 8) (val : BitVec 32)
  /-- JOB_KILL (R105). -/
  | jobKill (ch : Fin 8) (val : BitVec 32)
  /-- ATOMIC_LIMIT (R103). -/
  | atomicLimit (ch : Fin 8) (eng : Fin 11)
  /-- DONATION_LIMIT (R108). -/
  | donationLimit (ch : Fin 8) (jc : Fin 16)
  /-- ARB_GRANT (R112). -/
  | arbGrant (ch : Fin 8) (cls : Fin 4) (inst : Nat) (reqs : List Req) (at_ : ArbPoint)
  /-- RESOURCE_HANG (R116). -/
  | resourceHang (ch : Fin 8) (cls : Fin 4) (inst : Nat) (unit : Option (Fin 11))
  /-- MX_GEMM (R122). -/
  | mxGemm (ch : Fin 8) (jc : Fin 16) (w : BitVec 512)
  /-- MX_GEMV (R124). -/
  | mxGemv (ch : Fin 8) (jc : Fin 16) (w : BitVec 512)
  /-- MX_CONV (R202). -/
  | mxConv (ch : Fin 8) (jc : Fin 16) (w : BitVec 512)
  /-- AVERAGE_POOLING (R207). -/
  | averagePooling (ch : Fin 8) (jc : Fin 16) (w : BitVec 512)
  /-- MAXIMUM_POOLING (R208). -/
  | maximumPooling (ch : Fin 8) (jc : Fin 16) (w : BitVec 512)
  /-- ARWS_OWN_WRITE (R128). -/
  | arwsOwnWrite (ch : Fin 8) (idx : Fin 128) (val : BitVec 32)
  /-- ARWS_CLEAR_DONE (R130). -/
  | arwsClearDone (ch : Fin 8) (slot : Fin 512)
  /-- AT_PREFILL (R255). -/
  | atPrefill (ch : Fin 8) (jc : Fin 16) (w : BitVec 512)
  /-- AT_DECODE (R268). -/
  | atDecode (ch : Fin 8) (jc : Fin 16) (w : BitVec 512)
  /-- AT_DECODE_GQ (R268). -/
  | atDecodeGq (ch : Fin 8) (jc : Fin 16) (w : BitVec 512)
  /-- EP_MAP_PASS (R182). -/
  | epMapPass (ch : Fin 8) (jc : Fin 16) (w : BitVec 512)
  /-- EP_MAP_ADD (R182). -/
  | epMapAdd (ch : Fin 8) (jc : Fin 16) (w : BitVec 512)
  /-- EP_MAP_MUL (R182). -/
  | epMapMul (ch : Fin 8) (jc : Fin 16) (w : BitVec 512)
  /-- SMAX_NORM (R182). -/
  | smaxNorm (ch : Fin 8) (jc : Fin 16) (w : BitVec 512)
  /-- RMS_NORM (R182). -/
  | rmsNorm (ch : Fin 8) (jc : Fin 16) (w : BitVec 512)
  /-- EP_REDUCE_SUM (R183). -/
  | epReduceSum (ch : Fin 8) (jc : Fin 16) (w : BitVec 512)
  /-- EP_REDUCE_MAX (R183). -/
  | epReduceMax (ch : Fin 8) (jc : Fin 16) (w : BitVec 512)
  /-- EP_REDUCE_MIN (R183). -/
  | epReduceMin (ch : Fin 8) (jc : Fin 16) (w : BitVec 512)
  /-- SUMSQ (R183). -/
  | sumsq (ch : Fin 8) (jc : Fin 16) (w : BitVec 512)
  /-- AMAX (R183). -/
  | amax (ch : Fin 8) (jc : Fin 16) (w : BitVec 512)
  /-- ARGMAX (R183). -/
  | argmax (ch : Fin 8) (jc : Fin 16) (w : BitVec 512)
  /-- LSE (R183). -/
  | lse (ch : Fin 8) (jc : Fin 16) (w : BitVec 512)
  /-- EP_SAMPLE (R184). -/
  | epSample (ch : Fin 8) (jc : Fin 16) (w : BitVec 512)
  /-- FT_CTL_WRITE (R211). -/
  | ftCtlWrite (ch : Fin 8) (val : BitVec 32)
  /-- FT_READY (R211). -/
  | ftReady (ch : Fin 8)
  /-- FT_JC_RANGE_WRITE (R222). -/
  | ftJcRangeWrite (ch : Fin 8) (jc : Fin 16) (val : BitVec 32)
  /-- FT_HOST_RELEASE (R244). -/
  | ftHostRelease (ch : Fin 8) (val : BitVec 32)
  /-- HOST_RELEASE_APPLY (R244). -/
  | hostReleaseApply (ch : Fin 8)
  /-- FT_FORK (R226). -/
  | ftFork (ch : Fin 8) (jc : Fin 16) (w : BitVec 512)
  /-- FT_PRUNE (R239). -/
  | ftPrune (ch : Fin 8) (jc : Fin 16) (w : BitVec 512)
  /-- FT_LOOKUP_READ (R249). -/
  | ftLookupRead (ch : Fin 8) (jc : Fin 16) (w : BitVec 512)
  /-- FT_LOOKUP_RESERVE (R228). -/
  | ftLookupReserve (ch : Fin 8) (jc : Fin 16) (w : BitVec 512)
  /-- FT_LOOKUP_COMMIT (R231). -/
  | ftLookupCommit (ch : Fin 8) (jc : Fin 16) (w : BitVec 512)
  /-- FT_LOOKUP_INFO (R220). -/
  | ftLookupInfo (ch : Fin 8) (jc : Fin 16) (w : BitVec 512)
  /-- FT_PIN_PIN (R241). -/
  | ftPinPin (ch : Fin 8) (jc : Fin 16) (w : BitVec 512)
  /-- UNPIN (R241). -/
  | unpin (ch : Fin 8) (jc : Fin 16) (w : BitVec 512)
  /-- FT_PIN_RELEASE (R241). -/
  | ftPinRelease (ch : Fin 8) (jc : Fin 16) (w : BitVec 512)
  /-- DETACH (R241). -/
  | detach (ch : Fin 8) (jc : Fin 16) (w : BitVec 512)
  /-- ADOPT (R241). -/
  | adopt (ch : Fin 8) (jc : Fin 16) (w : BitVec 512)
  /-- SET_PUNTY (R241). -/
  | setPunty (ch : Fin 8) (jc : Fin 16) (w : BitVec 512)
  /-- RC_CTL_WRITE (R278). -/
  | rcCtlWrite (ch : Fin 8) (val : BitVec 32)
  /-- RC_READY (R278). -/
  | rcReady (ch : Fin 8)
  /-- RC_CHUNK (R286). -/
  | rcChunk (ch : Fin 8) (jc : Fin 16) (w : BitVec 512)
  /-- RC_FLUSH (R289). -/
  | rcFlush (ch : Fin 8) (jc : Fin 16) (w : BitVec 512)
  /-- RC_STEP (R289). -/
  | rcStep (ch : Fin 8) (jc : Fin 16) (w : BitVec 512)
  /-- RC_EXPORT_COPY (R295). -/
  | rcExportCopy (ch : Fin 8) (jc : Fin 16) (w : BitVec 512)
  /-- RC_EXPORT_MOVE (R297). -/
  | rcExportMove (ch : Fin 8) (jc : Fin 16) (w : BitVec 512)
  /-- RC_EXPORT_FREE (R295). -/
  | rcExportFree (ch : Fin 8) (jc : Fin 16) (w : BitVec 512)
  /-- RC_IMPORT_RECORD (R295). -/
  | rcImportRecord (ch : Fin 8) (jc : Fin 16) (w : BitVec 512)
  /-- RC_IMPORT_ZERO (R295). -/
  | rcImportZero (ch : Fin 8) (jc : Fin 16) (w : BitVec 512)
  /-- CH_RC_SWAP (R297). -/
  | chRcSwap (ch : Fin 8) (val : BitVec 32)
  /-- RC_SWAPPED (R297). -/
  | rcSwapped (ch : Fin 8)
  /-- MEM_MMU_WRITE (R306). -/
  | memMmuWrite (ch : Fin 8) (val : BitVec 32)
  /-- INV (R306). -/
  | inv (ch : Fin 8) (val : BitVec 32)
  /-- FLUSH (R320). -/
  | flush (ch : Fin 8) (val : BitVec 32)
  /-- TC_WB_RETRY (R321). -/
  | tcWbRetry (ch : Fin 8) (ok : Bool)
  /-- PROMOTION_PERIOD (R322). -/
  | promotionPeriod (ch : Fin 8)
  /-- WINDOW_COPY_START (R324). -/
  | windowCopyStart (ch : Fin 8) (win : Fin 4)
  /-- WINDOW_COPY_DONE (R324). -/
  | windowCopyDone (ch : Fin 8) (x : WinDone)
  /-- WINDOW_LATE (R326). -/
  | windowLate (ch : Fin 8) (win : Fin 4)
  /-- SW_CFG_WRITE (R324). -/
  | swCfgWrite (ch : Fin 8) (win : Fin 4) (val : BitVec 32)
  /-- REG_REFILL (R328). -/
  | regRefill (inst : BucketInst) (reqs : List (Nat × Nat))
  /-- REGULATOR_TUNING (R329). -/
  | regulatorTuning (inst : BucketInst)
  /-- REG_CFG_WRITE (R328). -/
  | regCfgWrite (inst : BucketInst) (src : Fin 9) (val : BitVec 32)
  /-- T2_LINK_FAIL (R311). -/
  | t2LinkFail (ch : Fin 8) (recovered : Bool)
  /-- T2_COMPLETION_TIMEOUT (R311). -/
  | t2CompletionTimeout (ch : Fin 8) (who : Option Agent) (va : BitVec 56)
  /-- NVME_TIMEOUT (R315). -/
  | nvmeTimeout (ch : Fin 8) (who : Agent) (va : BitVec 56) (second : Bool) (cycles : Nat)
  /-- TIER_STALL (R331). -/
  | tierStall (ch : Fin 8) (who : Agent) (cause : Fin 9) (cycles : Nat)
  /-- KV_PAGE_MASK (R332). -/
  | kvPageMask (ch : Fin 8) (page : BitVec 32)
  /-- LS_COPY (R334). -/
  | lsCopy (ch : Fin 8) (jc : Fin 16) (ls : Fin 4) (w : BitVec 512)
  /-- WRITEBACK (R334). -/
  | writeback (ch : Fin 8) (jc : Fin 16) (ls : Fin 4) (w : BitVec 512)
  /-- PREFETCH (R334). -/
  | prefetch (ch : Fin 8) (jc : Fin 16) (ls : Fin 4) (w : BitVec 512)
  /-- LS_FILL (R334). -/
  | lsFill (ch : Fin 8) (jc : Fin 16) (ls : Fin 4) (w : BitVec 512)
  /-- LASER_LOW (R342). -/
  | laserLow (ch : Fin 8) (las : Fin 2) (slot : Fin 9) (power : BitVec 12)
  /-- LASER_LOST (R342). -/
  | laserLost (ch : Fin 8) (las : Fin 2) (slot : Fin 9) (power : BitVec 12)
  /-- LOSS_OF_LIGHT (R40). -/
  | lossOfLight (ch : Fin 8) (link : Fin 16)
  /-- LANE_FAIL (R345). -/
  | laneFail (ch : Fin 8) (lane : Fin 85) (ber : BitVec 8)
  /-- RING_LOOP (R364). -/
  | ringLoop (ch : Fin 8) (lane : Fin 85) (rx : Bool) (code : BitVec 12) (temp : BitVec 8) (slew : BitVec 16) (advise : Bool)
  /-- RING_LOCK_LOST (R364). -/
  | ringLockLost (ch : Fin 8) (lane : Fin 85) (rx : Bool)
  /-- FAB_RING_MAN (R365). -/
  | fabRingMan (ch : Fin 8) (val : BitVec 32)
  /-- CONTROL_CODEWORD (R348). -/
  | controlCodeword (ch : Fin 8) (lane : Fin 85) (count : BitVec 32) (stamp : BitVec 64) (corr : Nat) (ber : BitVec 8) (ann : Option (Fin 9))
  /-- SPARE_SWITCH (R372). -/
  | spareSwitch (ch : Fin 8) (grp : Fin 13)
  /-- CELL_RECEIVE (R350). -/
  | cellReceive (ch : Fin 8) (link : Fin 16) (c : Cell) (macOk : Bool)
  /-- FAB_MSG_LOST (R353). -/
  | fabMsgLost (ch : Fin 8) (src : BitVec 24) (vc : BitVec 3) (msg : BitVec 16)
  /-- FAB_VC_STALL (R356). -/
  | fabVcStall (ch : Fin 8) (link : Fin 16) (vc : BitVec 3)
  /-- VC_WEIGHT_TUNING (R360). -/
  | vcWeightTuning (ch : Fin 8) (link : Fin 16)
  /-- MAC_GROUP_CLOSE (R362). -/
  | macGroupClose (ch : Fin 8) (link : Fin 16)
  /-- KEY_RENEWAL (R362). -/
  | keyRenewal (ch : Fin 8) (link : Fin 16)
  /-- LINK_TRAINING (R367): of a port or sibling link, or of the memory link. -/
  | linkTraining (ch : Fin 8) (link : Option (Fin 16)) (t : Training)
  /-- LINK_TRAINING_RETRY (R367). -/
  | linkTrainingRetry (ch : Fin 8) (link : Fin 16)
  /-- LINK_DELAY_MEASURE (R369). -/
  | linkDelayMeasure (ch : Fin 8) (link : Fin 16) (delay : BitVec 16)
  /-- FAB_LINK_DOWN (R371). -/
  | fabLinkDown (ch : Fin 8) (link : Fin 16)
  /-- LINK_DARK_END (R371). -/
  | linkDarkEnd (ch : Fin 8) (link : Fin 16)
  /-- CL_SLOT_WRITE (R375). -/
  | clSlotWrite (ch : Fin 8) (slot : Fin 16) (word : Fin 8) (val : BitVec 32)
  /-- CL_REDUCE_ALLREDUCE (R387). -/
  | clReduceAllreduce (ch : Fin 8) (jc : Fin 16) (w : BitVec 512)
  /-- REDUCE_SCATTER (R387). -/
  | reduceScatter (ch : Fin 8) (jc : Fin 16) (w : BitVec 512)
  /-- CL_BCAST (R387). -/
  | clBcast (ch : Fin 8) (jc : Fin 16) (w : BitVec 512)
  /-- CL_ALLGATHER (R387). -/
  | clAllgather (ch : Fin 8) (jc : Fin 16) (w : BitVec 512)
  /-- CL_ALLTOALL (R387). -/
  | clAlltoall (ch : Fin 8) (jc : Fin 16) (w : BitVec 512)
  /-- EX_DISPATCH (R396). -/
  | exDispatch (ch : Fin 8) (jc : Fin 16) (w : BitVec 512)
  /-- EX_COMBINE (R399). -/
  | exCombine (ch : Fin 8) (jc : Fin 16) (w : BitVec 512)
  /-- JOIN (R378). -/
  | join (ch : Fin 8) (m : CMsg)
  /-- ABORT (R380). -/
  | abort (ch : Fin 8) (m : CMsg)
  /-- ORDER_TIMEOUT (R379). -/
  | orderTimeout (ch : Fin 8) (ex : Bool) (jc : Fin 16)
  /-- CL_STALL (R381). -/
  | clStall (ch : Fin 8) (slot : Fin 16)
  /-- CL_PASS (R381). -/
  | clPass (ch : Fin 8)
  /-- UP (R385). -/
  | up (ch : Fin 8) (m : CMsg)
  /-- DOWN (R385). -/
  | down (ch : Fin 8) (m : CMsg)
  /-- BLOCK (R387). -/
  | block (ch : Fin 8) (m : CMsg)
  /-- COUNT (R396). -/
  | count (ch : Fin 8) (m : CMsg) (tk : List Nat)
  /-- GRANT (R397). -/
  | grant (ch : Fin 8) (m : CMsg)
  /-- ROWS (R396). -/
  | rows (ch : Fin 8) (m : CMsg)
  /-- DONE (R396). -/
  | done (ch : Fin 8) (m : CMsg)
  /-- RET (R399). -/
  | ret (ch : Fin 8) (m : CMsg) (tk : List Nat)
  /-- INR_GO (R392). -/
  | inrGo (ch : Fin 8) (val : BitVec 32)
  /-- REDUCE (R392). -/
  | reduce (ch : Fin 8) (m : CMsg) (down : Bool)
  /-- BATCH (R409). -/
  | batch (ch : Fin 8) (jc : Fin 16) (w : BitVec 512)
  /-- LIVE (R412). -/
  | live (ch : Fin 8) (jc : Fin 16) (w : BitVec 512)
  /-- RECORD_DECODE_DONE (R407). -/
  | recordDecodeDone (ch : Fin 8) (lane : Fin 16)
  /-- SLOW_RECORD (R414). -/
  | slowRecord (ch : Fin 8) (lane : Fin 16)
  /-- GT_BUSY_UPDATE (R419). -/
  | gtBusyUpdate (ch : Fin 8) (busy : Nat)
  /-- GT_SPLIT_WRITE (R421). -/
  | gtSplitWrite (ch : Fin 8) (val : BitVec 32)
  /-- DIGEST_ROUND (R426). -/
  | digestRound (ch : Fin 8)
  /-- DIGEST_REGION_DONE (R427). -/
  | digestRegionDone (ch : Fin 8)
  /-- DIGEST (R428). -/
  | digest (ch : Fin 8) (src : BitVec 24) (region : BitVec 16) (tick : BitVec 64) (digest : BitVec 256)
  /-- HBM_RETRAIN (R431). -/
  | hbmRetrain (ch : Fin 8) (pc : Fin 128) (ok : Bool) (recent : Bool)
  /-- HISTORY_COMPACTION (R434). -/
  | historyCompaction
  /-- CPER_RD_WRITE (R439). -/
  | cperRdWrite (val : BitVec 32)
  /-- COPY_EPOCH (R441). -/
  | copyEpoch (ch : Fin 8)
  /-- PC_COPY_GO (R441). -/
  | pcCopyGo (ch : Fin 8) (val : BitVec 32)
  /-- PC_RESTORE_GO (R443). -/
  | pcRestoreGo (ch : Fin 8) (val : BitVec 32)
  /-- COPY_DATA (R442). -/
  | copyData (ch : Fin 8) (src : BitVec 24) (epoch : BitVec 32) (region : BitVec 16) (off : BitVec 32) (data : List (BitVec 8))
  /-- MANIFEST (R442). -/
  | manifest (ch : Fin 8) (src : BitVec 24) (epoch : BitVec 64) (entries : List ManEntry)
  /-- RESTORE_REQ (R443). -/
  | restoreReq (ch : Fin 8) (src : BitVec 24)
  /-- ACK (R442). -/
  | ack (ch : Fin 8) (src : BitVec 24) (epoch : BitVec 32) (status : BitVec 32)
  /-- PC_ACK_TIMEOUT (R442). -/
  | pcAckTimeout (ch : Fin 8)
  /-- RESTORE_FAIL (R444). -/
  | restoreFail (ch : Fin 8)
  /-- REG_WRITE (R448). -/
  | regWrite (pf : Fin 9) (off : Nat) (be : BitVec 4) (val : BitVec 32)
  /-- ALIAS_WRITE (R451). -/
  | aliasWrite (pf : Fin 9) (off : Nat) (b : Fin 32) (be : BitVec 4) (val : BitVec 32)
  /-- READ_CLEAR (R449). -/
  | readClear (pf : Fin 9) (off : Nat)
  /-- SERIAL_READ (R453). -/
  | serialRead
  /-- VOTE_CHECK (R454). -/
  | voteCheck (pf : Fin 9) (upsets : List Upset)
  /-- EVENT_IRQ (R457). -/
  | eventIrq (pf : Fin 9)
  /-- LOAD (R465). -/
  | load (by_ : Writer)
  /-- MOULD_STAGED (R460). -/
  | mouldStaged
  /-- COMMIT (R466). -/
  | commit (by_ : Writer)
  /-- DRAIN_LIMIT (R466). -/
  | drainLimit
  /-- MOULD_COMMIT (R466). -/
  | mouldCommit
  /-- ABANDON (R467). -/
  | abandon (by_ : Writer)
  /-- STORE (R462). -/
  | store (by_ : Writer)
  /-- CURRENT_SUM (R471). -/
  | currentSum (ma mv : Nat)
  /-- CAP_CREDIT_UPDATE (R482). -/
  | capCreditUpdate (ch : Fin 8) (draw : Nat)
  /-- IDLE_T (R474). -/
  | idleT (ch : Fin 8)
  /-- SLEEP_T (R474). -/
  | sleepT (ch : Fin 8)
  /-- DEEP_T (R474). -/
  | deepT (ch : Fin 8)
  /-- POWER_ENTRY_DONE (R475). -/
  | powerEntryDone (ch : Fin 8)
  /-- POWER_EXIT_DONE (R475). -/
  | powerExitDone (ch : Fin 8)
  /-- PWR_WAKE (R477). -/
  | pwrWake (ch : Fin 8) (code : Fin 8)
  /-- PWR_CMD (R480). -/
  | pwrCmd (ch : Fin 8) (val : BitVec 32)
  /-- HUB_PWR_OFF (R481). -/
  | hubPwrOff (val : BitVec 32)
  /-- WAKE_N (R484). -/
  | wakeN
  /-- ALERT_N (R483). -/
  | alertN
  /-- STUCK_INPUT (R485). -/
  | stuckInput (pin : Pin)
  /-- PIN_REARM (R485). -/
  | pinRearm (pin : Pin)
  /-- SEC_ALARM (R486). -/
  | secAlarm (sensor : Fin 5) (ch : Fin 8) (slot : Nat)
  /-- SEC_ERASED (R490). -/
  | secErased
  /-- SEC_ALARM_ACK (R489). -/
  | secAlarmAck (by_ : Writer) (val : BitVec 32) (persist : BitVec 5)
  /-- SEC_POLICY_WRITE (R487). -/
  | secPolicyWrite (by_ : Writer) (val : BitVec 32)
  /-- I3C_STATUS (R503). -/
  | i3cStatus
  /-- HIST_COUNT (R503). -/
  | histCount
  /-- HIST_READ (R503). -/
  | histRead (idx : BitVec 32)
  /-- I3C_PWR_OFF (R481). -/
  | i3cPwrOff (key : BitVec 16) (force : BitVec 8)
  /-- I3C_TEMP (R503). -/
  | i3cTemp (hub : BitVec 8)
  /-- THERM_HOLD (R510). -/
  | thermHold (ch : Fin 8) (tj : BitVec 8)
  /-- THERM_HOLD_RELEASE (R510). -/
  | thermHoldRelease (ch : Fin 8) (tj : BitVec 8)
  /-- THERM_TRIP (R511). -/
  | thermTrip (ch : Fin 8) (tj : BitVec 8)
  /-- THERM_TRIP_RELEASE (R511). -/
  | thermTripRelease (ch : Fin 8) (tj : BitVec 8) (pass : Bool)
  /-- ILLEGAL_OP (R45). -/
  | illegalOp (ch : Fin 8) (jc : Fin 16) (w : BitVec 512)
  /-- UNCORRECTABLE_CODEWORD (R347). -/
  | uncorrectableCodeword (ch : Fin 8) (lane : Fin 85)
  /-- ALERT_N_INACTIVE (R483). -/
  | alertNInactive
  /-- LASER_RETURN (R342): the slot's power now, and the highest since the monitor's report before. -/
  | laserReturn (ch : Fin 8) (las : Fin 2) (slot : Fin 9) (power : BitVec 12) (peak : BitVec 12)
  /-- STORE_DONE (R462). -/
  | storeDone
  /-- WRITE_BACK_COMPLETE (R320). -/
  | writeBackComplete (ch : Fin 8) (ok : Bool)
  /-- COPY_READ_DONE (R441). -/
  | copyReadDone (ch : Fin 8)
  /-- INR_FAIL (R392). -/
  | inrFail (ch : Fin 8)
  /-- ROW_REMAP_DONE (R435). -/
  | rowRemapDone (ch : Fin 8) (row : Nat)
  /-- REQUESTER_UNMASKED (R116). -/
  | requesterUnmasked (ch : Fin 8) (cls : Fin 4) (inst : Nat) (req : Grant)
  /-- FLASH_RECOVERY_PORT_ACCESS (R505). -/
  | flashRecoveryPortAccess (wr : Bool) (addr : Nat) (data : List (BitVec 8)) (len : Nat)
  /-- JTAG_INSTRUCTION (R504). -/
  | jtagInstruction (op : JtagOp)
  deriving DecidableEq, Repr

end Sys2Proof
end

