-- ==== Sys2Proof/WellFormed.lean ====
section
/-! DEFINITION. Well-formed commands: the operands of a row are those its rule admits. A wide instruction carries the ENG,
OP and mode of its row (Table 2.5, Table 2.9); the parts of a message, an image of a register write and a measured value
keep to their ranges. -/

namespace Sys2Proof

/-- What the row of a wide instruction fixes of its words: ENG, OP and, where the row is one mode of an operation, the bits
of PARAM that hold the mode and its value. -/
structure WideRow where
  eng : Nat
  op : Nat
  mode : Option (Nat × Nat × Nat)
  deriving DecidableEq, Repr

/-- A wide command's channel and context, its words, and what its row fixes of them. -/
def Instr.wideRow : Instr → Option (Fin 8 × Fin 16 × Wide × WideRow)
  | .mxGemm ch jc w => some (ch, jc, w, ⟨0, 1, none⟩)
  | .mxGemv ch jc w => some (ch, jc, w, ⟨0, 2, none⟩)
  | .mxConv ch jc w => some (ch, jc, w, ⟨0, 3, some (109, 108, 0)⟩)
  | .averagePooling ch jc w => some (ch, jc, w, ⟨0, 3, some (109, 108, 1)⟩)
  | .maximumPooling ch jc w => some (ch, jc, w, ⟨0, 3, some (109, 108, 2)⟩)
  | .atPrefill ch jc w => some (ch, jc, w, ⟨0, 0x10, none⟩)
  | .atDecode ch jc w => some (ch, jc, w, ⟨0, 0x11, none⟩)
  | .atDecodeGq ch jc w => some (ch, jc, w, ⟨0, 0x12, none⟩)
  | .epMapPass ch jc w => some (ch, jc, w, ⟨1, 1, some (3, 0, 0)⟩)
  | .epMapAdd ch jc w => some (ch, jc, w, ⟨1, 1, some (3, 0, 1)⟩)
  | .epMapMul ch jc w => some (ch, jc, w, ⟨1, 1, some (3, 0, 2)⟩)
  | .smaxNorm ch jc w => some (ch, jc, w, ⟨1, 1, some (3, 0, 3)⟩)
  | .rmsNorm ch jc w => some (ch, jc, w, ⟨1, 1, some (3, 0, 4)⟩)
  | .epReduceSum ch jc w => some (ch, jc, w, ⟨1, 2, some (3, 0, 0)⟩)
  | .epReduceMax ch jc w => some (ch, jc, w, ⟨1, 2, some (3, 0, 1)⟩)
  | .epReduceMin ch jc w => some (ch, jc, w, ⟨1, 2, some (3, 0, 2)⟩)
  | .sumsq ch jc w => some (ch, jc, w, ⟨1, 2, some (3, 0, 3)⟩)
  | .amax ch jc w => some (ch, jc, w, ⟨1, 2, some (3, 0, 4)⟩)
  | .argmax ch jc w => some (ch, jc, w, ⟨1, 2, some (3, 0, 5)⟩)
  | .lse ch jc w => some (ch, jc, w, ⟨1, 2, some (3, 0, 6)⟩)
  | .epSample ch jc w => some (ch, jc, w, ⟨1, 3, none⟩)
  | .ftFork ch jc w => some (ch, jc, w, ⟨2, 1, none⟩)
  | .ftPrune ch jc w => some (ch, jc, w, ⟨2, 2, none⟩)
  | .ftLookupRead ch jc w => some (ch, jc, w, ⟨2, 3, some (1, 0, 0)⟩)
  | .ftLookupReserve ch jc w => some (ch, jc, w, ⟨2, 3, some (1, 0, 1)⟩)
  | .ftLookupCommit ch jc w => some (ch, jc, w, ⟨2, 3, some (1, 0, 2)⟩)
  | .ftLookupInfo ch jc w => some (ch, jc, w, ⟨2, 3, some (1, 0, 3)⟩)
  | .ftPinPin ch jc w => some (ch, jc, w, ⟨2, 4, some (2, 0, 0)⟩)
  | .unpin ch jc w => some (ch, jc, w, ⟨2, 4, some (2, 0, 1)⟩)
  | .ftPinRelease ch jc w => some (ch, jc, w, ⟨2, 4, some (2, 0, 2)⟩)
  | .detach ch jc w => some (ch, jc, w, ⟨2, 4, some (2, 0, 3)⟩)
  | .adopt ch jc w => some (ch, jc, w, ⟨2, 4, some (2, 0, 4)⟩)
  | .setPunty ch jc w => some (ch, jc, w, ⟨2, 4, some (2, 0, 5)⟩)
  | .rcChunk ch jc w => some (ch, jc, w, ⟨3, 1, none⟩)
  | .rcFlush ch jc w => some (ch, jc, w, ⟨3, 5, none⟩)
  | .rcStep ch jc w => some (ch, jc, w, ⟨3, 2, none⟩)
  | .rcExportCopy ch jc w => some (ch, jc, w, ⟨3, 3, some (1, 0, 0)⟩)
  | .rcExportMove ch jc w => some (ch, jc, w, ⟨3, 3, some (1, 0, 1)⟩)
  | .rcExportFree ch jc w => some (ch, jc, w, ⟨3, 3, some (1, 0, 2)⟩)
  | .rcImportRecord ch jc w => some (ch, jc, w, ⟨3, 4, some (0, 0, 0)⟩)
  | .rcImportZero ch jc w => some (ch, jc, w, ⟨3, 4, some (0, 0, 1)⟩)
  | .lsCopy ch jc ls w => some (ch, jc, w, ⟨(6 + ls.val), 1, some (1, 0, 0)⟩)
  | .writeback ch jc ls w => some (ch, jc, w, ⟨(6 + ls.val), 1, some (1, 0, 1)⟩)
  | .prefetch ch jc ls w => some (ch, jc, w, ⟨(6 + ls.val), 1, some (1, 0, 2)⟩)
  | .lsFill ch jc ls w => some (ch, jc, w, ⟨(6 + ls.val), 2, none⟩)
  | .clReduceAllreduce ch jc w => some (ch, jc, w, ⟨4, 1, some (5, 4, 0)⟩)
  | .reduceScatter ch jc w => some (ch, jc, w, ⟨4, 1, some (5, 4, 1)⟩)
  | .clBcast ch jc w => some (ch, jc, w, ⟨4, 2, none⟩)
  | .clAllgather ch jc w => some (ch, jc, w, ⟨4, 3, none⟩)
  | .clAlltoall ch jc w => some (ch, jc, w, ⟨4, 4, none⟩)
  | .exDispatch ch jc w => some (ch, jc, w, ⟨5, 1, none⟩)
  | .exCombine ch jc w => some (ch, jc, w, ⟨5, 2, none⟩)
  | .batch ch jc w => some (ch, jc, w, ⟨0xA, 1, some (1, 0, 0)⟩)
  | .live ch jc w => some (ch, jc, w, ⟨0xA, 1, some (1, 0, 1)⟩)
  | _ => none

/-- The channel and the context of a scalar instruction (R41, R522). -/
def Instr.scalarOf : Instr → Option (Fin 8 × Fin 16)
  | .aluAdd ch jc _ _ _ => some (ch, jc)
  | .aluSub ch jc _ _ _ => some (ch, jc)
  | .aluAnd ch jc _ _ _ => some (ch, jc)
  | .aluOr ch jc _ _ _ => some (ch, jc)
  | .aluXor ch jc _ _ _ => some (ch, jc)
  | .aluSll ch jc _ _ _ => some (ch, jc)
  | .aluSrl ch jc _ _ _ => some (ch, jc)
  | .aluSra ch jc _ _ _ => some (ch, jc)
  | .aluSlt ch jc _ _ _ => some (ch, jc)
  | .aluSltu ch jc _ _ _ => some (ch, jc)
  | .aluMin ch jc _ _ _ => some (ch, jc)
  | .aluMax ch jc _ _ _ => some (ch, jc)
  | .aluMul ch jc _ _ _ => some (ch, jc)
  | .aluMulh ch jc _ _ _ => some (ch, jc)
  | .aluMulhu ch jc _ _ _ => some (ch, jc)
  | .aluDiv ch jc _ _ _ => some (ch, jc)
  | .aluDivu ch jc _ _ _ => some (ch, jc)
  | .aluRem ch jc _ _ _ => some (ch, jc)
  | .aluRemu ch jc _ _ _ => some (ch, jc)
  | .addi ch jc _ _ _ => some (ch, jc)
  | .andi ch jc _ _ _ => some (ch, jc)
  | .ori ch jc _ _ _ => some (ch, jc)
  | .xori ch jc _ _ _ => some (ch, jc)
  | .shi ch jc _ _ _ => some (ch, jc)
  | .slti ch jc _ _ _ => some (ch, jc)
  | .movz ch jc _ _ _ _ => some (ch, jc)
  | .movk ch jc _ _ _ _ => some (ch, jc)
  | .ld ch jc _ _ _ => some (ch, jc)
  | .lw ch jc _ _ _ => some (ch, jc)
  | .lwu ch jc _ _ _ => some (ch, jc)
  | .st ch jc _ _ _ => some (ch, jc)
  | .stw ch jc _ _ _ => some (ch, jc)
  | .ldl ch jc _ _ _ => some (ch, jc)
  | .stl ch jc _ _ _ => some (ch, jc)
  | .beq ch jc _ _ _ => some (ch, jc)
  | .bne ch jc _ _ _ => some (ch, jc)
  | .blt ch jc _ _ _ => some (ch, jc)
  | .bge ch jc _ _ _ => some (ch, jc)
  | .bltu ch jc _ _ _ => some (ch, jc)
  | .bgeu ch jc _ _ _ => some (ch, jc)
  | .jal ch jc _ => some (ch, jc)
  | .jalr ch jc _ _ _ => some (ch, jc)
  | .tdld ch jc _ _ _ => some (ch, jc)
  | .tdst ch jc _ _ _ => some (ch, jc)
  | .tdset ch jc _ _ _ => some (ch, jc)
  | .tdget ch jc _ _ _ => some (ch, jc)
  | .wait ch jc _ _ _ => some (ch, jc)
  | .sig ch jc _ _ _ => some (ch, jc)
  | .claim ch jc _ _ => some (ch, jc)
  | .free ch jc _ => some (ch, jc)
  | .read ch jc _ _ => some (ch, jc)
  | .csrr ch jc _ _ _ => some (ch, jc)
  | .fence ch jc _ => some (ch, jc)
  | .yield ch jc => some (ch, jc)
  | .halt ch jc => some (ch, jc)
  | .trap ch jc _ => some (ch, jc)
  | _ => none

/-- The words carry what the row fixes. -/
def WideRow.fits (r : WideRow) (w : Wide) : Bool :=
  (w.extractLsb' 20 4).toNat == r.eng && (w.extractLsb' 12 8).toNat == r.op &&
    match r.mode with
    | none => true
    | some (hi, lo, v) => (w.extractLsb' (392 + lo) (hi + 1 - lo)).toNat == v

/-- A cell's payload: at most 256 bytes, in whole words (Table 12.7). -/
def Cell.wf (c : Cell) : Bool := c.data.length ≤ 256 && c.data.length % 4 == 0

/-- The checks of the other commands' operands. -/
def Instr.operandsOk : Instr → Bool
  | .startUp env => env.t2Gib.length ≤ 8 && env.t2Bad.length ≤ 8 && env.t2Gib.all (· ≤ 512)
  | .startupRepeat env => env.t2Gib.length ≤ 8 && env.t2Bad.length ≤ 8 && env.t2Gib.all (· ≤ 512)
  | .cellReceive _ _ c _ => c.wf
  | .linkTraining _ _ t => t.share.length == 8
  | .arbGrant _ _ _ reqs _ => (reqs.map (·.idx)).Nodup
  | .copyData _ _ _ _ _ data => data.length ≤ 2 ^ 19
  | .manifest _ _ _ entries => entries.length ≤ 63
  | .regWrite _ off _ _ => off % 4 == 0
  | .aliasWrite _ off _ _ _ => off % 4 == 0 && off ≤ 0x7FFFC
  | .readClear _ off => off % 4 == 0
  | .clSlotWrite _ _ word _ => word.val < 5
  | .secAlarm _ _ slot => slot < 9
  | .flashRecoveryPortAccess wr _ data len => if wr then data.length == len else data.isEmpty
  | .configRequestAbsent fn => fn < 256
  | _ => true

/-- A well-formed command. -/
def Instr.wf (i : Instr) : Bool :=
  i.operandsOk && match i.wideRow with
    | none => true
    | some (_, _, w, r) => r.fits w

/-- The commands that the machine is meant to be sent. -/
abbrev Instr.WellFormed (i : Instr) : Prop := i.wf = true

end Sys2Proof
end

