-- ==== Sys2Proof/Machine/RegMap.lean ====
section
/-! DEFINITION. The register map of the spec, as data: every register table of chapters 01 to 18 (R447, R448, Table 16.1).
One row per register: whether PF0 and whether PF1 to PF8 hold it, its offset, the stride and the number of its
instances, the class of its heading, and its fields (bits, class, reset value, cleared on read, reset value "from mould").
The names of the fields follow as constants, under the register's and the field's own names. -/

namespace Sys2Proof.Machine

/-- The access classes of Table 16.1. -/
inductive FldClass where
  | rw | ro | w1c | rwt | rwv | epoch
  deriving DecidableEq, Repr

/-- One field of a register table. -/
structure RegField where
  hi : Nat
  lo : Nat
  cls : FldClass
  rst : Nat
  /-- The table says "cleared on read" (R449). -/
  clr : Bool
  /-- The table gives the reset value as "from mould" (R523). -/
  mould : Bool
  deriving DecidableEq, Repr

/-- One register table: `count` instances from `base`, `stride` bytes apart. -/
structure RegDef where
  hub : Bool
  chan : Bool
  base : Nat
  stride : Nat
  count : Nat
  cls : FldClass
  fields : List RegField
  deriving DecidableEq, Repr

/-- A field of one register instance: the register's offset and its bits. -/
structure Fld where
  off : Nat
  hi : Nat
  lo : Nat
  deriving DecidableEq, Repr

/-- The register tables, part 1. -/
def regTable0 : List RegDef := [
  -- GAF_LEASE
  ⟨true, false, 0x200, 0, 1, .rwv,
    [⟨31, 0, .ro, 0, false, false⟩]⟩,
  -- GAF_LEASE_STATUS
  ⟨true, false, 0x204, 0, 1, .ro,
    [⟨0, 0, .ro, 0, false, false⟩,
     ⟨1, 1, .ro, 0, false, false⟩,
     ⟨2, 2, .ro, 0, false, false⟩,
     ⟨3, 3, .ro, 0, false, false⟩,
     ⟨7, 4, .ro, 0, false, false⟩,
     ⟨15, 8, .ro, 255, false, false⟩]⟩,
  -- GAF_SPLIT
  ⟨true, false, 0x208, 0, 1, .w1c,
    [⟨0, 0, .w1c, 0, false, false⟩,
     ⟨1, 1, .w1c, 0, false, false⟩,
     ⟨5, 2, .ro, 0, false, false⟩,
     ⟨15, 8, .ro, 0, false, false⟩]⟩,
  -- HUB_CH_FUSE
  ⟨true, false, 0x10, 0, 1, .ro,
    [⟨7, 0, .ro, 255, false, false⟩,
     ⟨11, 8, .ro, 8, false, false⟩,
     ⟨15, 12, .ro, 0, false, false⟩,
     ⟨19, 16, .ro, 1, false, false⟩]⟩,
  -- HUB_CH_LIVE
  ⟨true, false, 0x14, 0, 1, .ro,
    [⟨7, 0, .ro, 255, false, false⟩,
     ⟨15, 8, .ro, 0, false, false⟩,
     ⟨23, 16, .ro, 255, false, false⟩]⟩,
  -- CH_SEM
  ⟨false, true, 0x2000, 4, 256, .rw,
    [⟨15, 0, .rw, 0, false, false⟩,
     ⟨20, 16, .ro, 16, false, false⟩,
     ⟨21, 21, .ro, 0, false, false⟩]⟩,
  -- CH_SEM_INIT
  ⟨false, true, 0x2400, 4, 256, .ro,
    [⟨15, 0, .ro, 0, false, false⟩]⟩,
  -- CH_SEM_WAITLIM
  ⟨false, true, 0x300, 0, 1, .rw,
    [⟨19, 0, .rw, 0, false, false⟩]⟩,
  -- CH_QSTAT
  ⟨false, true, 0x400, 4, 11, .ro,
    [⟨6, 0, .ro, 0, false, false⟩,
     ⟨7, 7, .ro, 0, false, false⟩,
     ⟨11, 8, .ro, 0, false, false⟩,
     ⟨19, 12, .ro, 0, true, false⟩]⟩,
  -- CH_JC_STATUS
  ⟨false, true, 0x1000, 64, 16, .ro,
    [⟨3, 0, .ro, 0, false, false⟩,
     ⟨11, 4, .ro, 0, false, false⟩,
     ⟨23, 16, .ro, 0, false, false⟩]⟩,
  -- CH_JC_FAULT
  ⟨false, true, 0x1004, 64, 16, .ro,
    [⟨15, 0, .ro, 0, false, false⟩,
     ⟨19, 16, .ro, 0, false, false⟩,
     ⟨25, 20, .ro, 0, false, false⟩]⟩,
  -- CH_JC_CQ_LO
  ⟨false, true, 0x1008, 64, 16, .rw,
    [⟨31, 12, .rw, 0, false, false⟩]⟩]

/-- The register tables, part 2. -/
def regTable1 : List RegDef := [
  -- CH_JC_CQ_HI
  ⟨false, true, 0x100C, 64, 16, .rw,
    [⟨23, 0, .rw, 0, false, false⟩,
     ⟨27, 24, .rw, 0, false, false⟩,
     ⟨31, 31, .rw, 0, false, false⟩]⟩,
  -- CH_JC_CQ_PTR
  ⟨false, true, 0x1010, 64, 16, .rw,
    [⟨15, 0, .ro, 0, false, false⟩,
     ⟨31, 16, .rw, 0, false, false⟩]⟩,
  -- HUB_TICK_CFG
  ⟨true, false, 0x100, 0, 1, .rwt,
    [⟨23, 0, .rwt, 100000, false, false⟩,
     ⟨25, 24, .rwt, 0, false, false⟩,
     ⟨26, 26, .ro, 0, false, true⟩]⟩,
  -- HUB_TICK_STAT
  ⟨true, false, 0x104, 0, 1, .ro,
    [⟨1, 0, .ro, 0, false, false⟩,
     ⟨2, 2, .ro, 0, false, false⟩,
     ⟨3, 3, .ro, 0, false, false⟩,
     ⟨4, 4, .ro, 0, false, false⟩,
     ⟨15, 8, .ro, 0, true, false⟩,
     ⟨23, 16, .ro, 0, true, false⟩]⟩,
  -- HUB_TICK_NUM_LO
  ⟨true, false, 0x108, 0, 1, .ro,
    [⟨31, 0, .ro, 0, false, false⟩]⟩,
  -- HUB_TICK_NUM_HI
  ⟨true, false, 0x10C, 0, 1, .ro,
    [⟨31, 0, .ro, 0, false, false⟩]⟩,
  -- CH_TICK_SEM
  ⟨false, true, 0x504, 0, 1, .rw,
    [⟨7, 0, .rw, 0, false, false⟩,
     ⟨15, 8, .rw, 1, false, false⟩,
     ⟨16, 16, .rw, 0, false, false⟩]⟩,
  -- CH_SQ_BASE_LO
  ⟨false, true, 0x800, 16, 8, .rw,
    [⟨31, 12, .rw, 0, false, false⟩]⟩,
  -- CH_SQ_BASE_HI
  ⟨false, true, 0x804, 16, 8, .rw,
    [⟨23, 0, .rw, 0, false, false⟩,
     ⟨27, 24, .rw, 0, false, false⟩,
     ⟨31, 31, .rw, 0, false, false⟩]⟩,
  -- CH_SQ_PTR
  ⟨false, true, 0x808, 16, 8, .rw,
    [⟨15, 0, .ro, 0, false, false⟩,
     ⟨31, 16, .rw, 0, false, false⟩]⟩,
  -- CH_SQ_JPTR
  ⟨false, true, 0x80C, 16, 8, .rw,
    [⟨15, 0, .ro, 0, false, false⟩,
     ⟨31, 16, .rw, 0, false, false⟩]⟩,
  -- CH_SCHED
  ⟨false, true, 0x500, 0, 1, .rwt,
    [⟨7, 0, .epoch, 0, false, false⟩,
     ⟨15, 8, .rwt, 5, false, false⟩,
     ⟨19, 16, .rwt, 4, false, false⟩,
     ⟨23, 20, .rwt, 4, false, false⟩]⟩]

/-- The register tables, part 3. -/
def regTable2 : List RegDef := [
  -- CH_JC_SCHED
  ⟨false, true, 0x1014, 64, 16, .ro,
    [⟨0, 0, .ro, 0, false, false⟩,
     ⟨1, 1, .ro, 0, false, false⟩,
     ⟨2, 2, .ro, 0, false, false⟩,
     ⟨3, 3, .ro, 0, false, false⟩,
     ⟨19, 4, .ro, 0, false, false⟩,
     ⟨27, 20, .ro, 0, false, false⟩]⟩,
  -- CH_JOB_KILL
  ⟨false, true, 0x508, 0, 1, .rw,
    [⟨3, 0, .rw, 0, false, false⟩,
     ⟨31, 31, .rw, 0, false, false⟩]⟩,
  -- CH_CLIENT_SUB
  ⟨false, true, 0x4000, 16, 256, .ro,
    [⟨31, 0, .ro, 0, false, false⟩]⟩,
  -- CH_CLIENT_DONE
  ⟨false, true, 0x4004, 16, 256, .ro,
    [⟨31, 0, .ro, 0, false, false⟩]⟩,
  -- CH_CLIENT_PRE
  ⟨false, true, 0x4008, 16, 256, .ro,
    [⟨31, 0, .ro, 0, false, false⟩]⟩,
  -- CH_CLIENT_KILL
  ⟨false, true, 0x400C, 16, 256, .ro,
    [⟨31, 0, .ro, 0, false, false⟩]⟩,
  -- CH_ARB_CFG
  ⟨false, true, 0x600, 8, 4, .rw,
    [⟨7, 0, .rw, 0, false, false⟩,
     ⟨15, 8, .rw, 0, false, false⟩,
     ⟨25, 16, .rw, 0, false, false⟩]⟩,
  -- CH_ARB_STAT
  ⟨false, true, 0x604, 8, 4, .ro,
    [⟨7, 0, .ro, 0, true, false⟩,
     ⟨15, 8, .ro, 0, true, false⟩,
     ⟨23, 16, .ro, 0, true, false⟩]⟩,
  -- CH_ARWS_OWN
  ⟨false, true, 0x5000, 4, 128, .rw,
    [⟨4, 0, .rw, 16, false, false⟩,
     ⟨12, 8, .rw, 16, false, false⟩,
     ⟨20, 16, .rw, 16, false, false⟩,
     ⟨28, 24, .rw, 16, false, false⟩]⟩,
  -- CH_ARWS_STAT
  ⟨false, true, 0x5200, 0, 1, .ro,
    [⟨9, 0, .ro, 0, false, false⟩,
     ⟨19, 10, .ro, 512, false, false⟩,
     ⟨27, 20, .ro, 0, true, false⟩]⟩,
  -- CH_MX_XSPAN
  ⟨false, true, 0x708, 0, 1, .ro,
    [⟨31, 0, .ro, 0, true, false⟩]⟩,
  -- CH_MX_STAT
  ⟨false, true, 0x700, 0, 1, .ro,
    [⟨0, 0, .ro, 0, false, false⟩,
     ⟨1, 1, .ro, 0, false, false⟩,
     ⟨3, 2, .ro, 0, false, false⟩,
     ⟨7, 4, .ro, 0, false, false⟩,
     ⟨23, 8, .ro, 0, false, false⟩,
     ⟨24, 24, .ro, 0, false, false⟩]⟩]

/-- The register tables, part 4. -/
def regTable3 : List RegDef := [
  -- CH_MX_ACT
  ⟨false, true, 0x704, 0, 1, .ro,
    [⟨31, 0, .ro, 0, false, false⟩]⟩,
  -- CH_MX_RESIDUE
  ⟨false, true, 0x70C, 0, 1, .ro,
    [⟨3, 0, .ro, 0, false, false⟩,
     ⟨8, 4, .ro, 0, false, false⟩,
     ⟨9, 9, .ro, 0, false, false⟩,
     ⟨23, 16, .ro, 0, true, false⟩,
     ⟨31, 24, .ro, 0, true, false⟩]⟩,
  -- CH_FMT_STAT
  ⟨false, true, 0x900, 0, 1, .ro,
    [⟨15, 0, .ro, 0, true, false⟩,
     ⟨31, 16, .ro, 0, true, false⟩]⟩,
  -- CH_EP_STAT
  ⟨false, true, 0xA00, 0, 1, .ro,
    [⟨0, 0, .ro, 0, false, false⟩,
     ⟨4, 1, .ro, 0, false, false⟩,
     ⟨5, 5, .ro, 0, false, false⟩]⟩,
  -- CH_EP_DRAINCYC
  ⟨false, true, 0xA04, 0, 1, .ro,
    [⟨31, 0, .ro, 0, false, false⟩]⟩,
  -- CH_EP_ENTCYC
  ⟨false, true, 0xA08, 0, 1, .ro,
    [⟨31, 0, .ro, 0, false, false⟩]⟩,
  -- CH_EP_NOCAND
  ⟨false, true, 0xA0C, 0, 1, .ro,
    [⟨15, 0, .ro, 0, true, false⟩]⟩,
  -- FT_CTL
  ⟨false, true, 0x6000, 0, 1, .rw,
    [⟨0, 0, .rw, 0, false, false⟩,
     ⟨1, 1, .ro, 0, false, false⟩]⟩,
  -- FT_CFGBLK_LO
  ⟨false, true, 0x6004, 0, 1, .rw,
    [⟨31, 6, .rw, 0, false, false⟩]⟩,
  -- FT_CFGBLK_HI
  ⟨false, true, 0x6008, 0, 1, .rw,
    [⟨23, 0, .rw, 0, false, false⟩]⟩,
  -- FT_HOST_RELEASE
  ⟨false, true, 0x600C, 0, 1, .rw,
    [⟨31, 0, .rw, 0, false, false⟩]⟩,
  -- FT_CULLET
  ⟨false, true, 0x6010, 0, 1, .ro,
    [⟨28, 0, .ro, 0, false, false⟩]⟩]

/-- The register tables, part 5. -/
def regTable4 : List RegDef := [
  -- FT_QUAR
  ⟨false, true, 0x6014, 0, 1, .ro,
    [⟨28, 0, .ro, 0, false, false⟩]⟩,
  -- FT_CULLET_LOW
  ⟨false, true, 0x6018, 0, 1, .rw,
    [⟨28, 0, .rw, 0, false, false⟩]⟩,
  -- FT_OCC
  ⟨false, true, 0x601C, 0, 1, .ro,
    [⟨16, 0, .ro, 0, false, false⟩]⟩,
  -- FT_RECLAIM
  ⟨false, true, 0x6020, 0, 1, .ro,
    [⟨23, 0, .ro, 0, false, false⟩]⟩,
  -- FT_PFX_STAT
  ⟨false, true, 0x6024, 0, 1, .ro,
    [⟨11, 0, .ro, 0, true, false⟩,
     ⟨15, 12, .ro, 0, true, false⟩,
     ⟨23, 16, .ro, 0, true, false⟩,
     ⟨31, 24, .ro, 0, true, false⟩]⟩,
  -- FT_PINKEEP
  ⟨false, true, 0x6028, 0, 1, .ro,
    [⟨15, 0, .ro, 0, true, false⟩]⟩,
  -- FT_JC_RANGE
  ⟨false, true, 0x6100, 4, 16, .rw,
    [⟨15, 0, .rw, 0, false, false⟩,
     ⟨31, 16, .rw, 4095, false, false⟩]⟩,
  -- CH_AT_STAT
  ⟨false, true, 0x710, 0, 1, .ro,
    [⟨7, 0, .ro, 0, true, false⟩,
     ⟨15, 8, .ro, 0, true, false⟩,
     ⟨23, 16, .ro, 0, true, false⟩]⟩,
  -- CH_AT_SHARED
  ⟨false, true, 0x714, 0, 1, .ro,
    [⟨31, 0, .ro, 0, false, false⟩]⟩,
  -- CH_RC_CTL
  ⟨false, true, 0x6800, 0, 1, .rw,
    [⟨0, 0, .rw, 0, false, false⟩,
     ⟨1, 1, .ro, 0, false, false⟩]⟩,
  -- CH_RC_TABLE_LO
  ⟨false, true, 0x6804, 0, 1, .rw,
    [⟨31, 12, .rw, 0, false, false⟩]⟩,
  -- CH_RC_TABLE_HI
  ⟨false, true, 0x6808, 0, 1, .rw,
    [⟨23, 0, .rw, 0, false, false⟩]⟩]

/-- The register tables, part 6. -/
def regTable5 : List RegDef := [
  -- CH_RC_SWAP
  ⟨false, true, 0x680C, 0, 1, .rw,
    [⟨31, 0, .rw, 0, false, false⟩]⟩,
  -- CH_RC_SWAP_ST
  ⟨false, true, 0x6810, 0, 1, .ro,
    [⟨1, 0, .ro, 0, false, false⟩]⟩,
  -- CH_RC_SWAP_DST_LO
  ⟨false, true, 0x6814, 0, 1, .rw,
    [⟨31, 6, .rw, 0, false, false⟩]⟩,
  -- CH_RC_SWAP_DST_HI
  ⟨false, true, 0x6818, 0, 1, .rw,
    [⟨23, 0, .rw, 0, false, false⟩]⟩,
  -- CH_RC_STAT
  ⟨false, true, 0x681C, 0, 1, .ro,
    [⟨14, 0, .ro, 0, false, false⟩,
     ⟨23, 16, .ro, 0, true, false⟩,
     ⟨31, 24, .ro, 0, true, false⟩]⟩,
  -- MEM_MMU
  ⟨false, true, 0x7000, 0, 1, .rw,
    [⟨24, 0, .rw, 0, false, false⟩,
     ⟨28, 28, .rw, 0, false, false⟩,
     ⟨29, 29, .ro, 0, false, false⟩,
     ⟨31, 31, .rw, 0, false, false⟩]⟩,
  -- MEM_TC_CFG
  ⟨false, true, 0x7010, 0, 1, .epoch,
    [⟨15, 0, .epoch, 0, false, false⟩,
     ⟨28, 16, .epoch, 0, false, false⟩]⟩,
  -- MEM_TC_CTL
  ⟨false, true, 0x7014, 0, 1, .rw,
    [⟨0, 0, .rw, 0, false, false⟩,
     ⟨23, 2, .ro, 0, false, false⟩,
     ⟨31, 24, .ro, 0, true, false⟩]⟩,
  -- MEM_REG_CFG
  ⟨false, true, 0x7100, 8, 18, .rwv,
    [⟨15, 0, .rwv, 0, false, true⟩,
     ⟨30, 16, .rwv, 0, false, true⟩,
     ⟨31, 31, .rwv, 0, false, true⟩]⟩,
  -- MEM_REG_TOK
  ⟨false, true, 0x7104, 8, 18, .ro,
    [⟨15, 0, .ro, 0, false, false⟩,
     ⟨31, 16, .ro, 0, true, false⟩]⟩,
  -- MEM_SW_CFG
  ⟨false, true, 0x7400, 8, 4, .rw,
    [⟨22, 0, .rw, 0, false, false⟩,
     ⟨29, 23, .rw, 0, false, false⟩,
     ⟨30, 30, .rw, 0, false, false⟩,
     ⟨31, 31, .rw, 0, false, false⟩]⟩,
  -- MEM_SW_STAT
  ⟨false, true, 0x7404, 8, 4, .ro,
    [⟨6, 0, .ro, 0, false, false⟩,
     ⟨7, 7, .ro, 0, false, false⟩,
     ⟨15, 8, .ro, 0, true, false⟩,
     ⟨23, 16, .ro, 0, true, false⟩,
     ⟨31, 24, .ro, 0, true, false⟩]⟩]

/-- The register tables, part 7. -/
def regTable6 : List RegDef := [
  -- MEM_TIER_STALL
  ⟨false, true, 0x7300, 4, 9, .ro,
    [⟨31, 0, .ro, 0, false, false⟩]⟩,
  -- MEM_TIER_EVT
  ⟨false, true, 0x7324, 0, 1, .rw,
    [⟨15, 0, .rw, 100, false, false⟩]⟩,
  -- MEM_SUBST
  ⟨false, true, 0x7328, 0, 1, .ro,
    [⟨15, 0, .ro, 0, true, false⟩,
     ⟨31, 16, .ro, 0, true, false⟩]⟩,
  -- MEM_T2_STAT
  ⟨false, true, 0x732C, 0, 1, .ro,
    [⟨1, 0, .ro, 0, false, false⟩,
     ⟨2, 2, .ro, 0, false, false⟩,
     ⟨12, 3, .ro, 0, false, false⟩,
     ⟨20, 13, .ro, 0, true, false⟩,
     ⟨28, 21, .ro, 0, true, false⟩]⟩,
  -- MEM_PROMO
  ⟨false, true, 0x7330, 0, 1, .ro,
    [⟨11, 0, .ro, 0, false, false⟩,
     ⟨23, 12, .ro, 0, false, false⟩,
     ⟨31, 24, .ro, 0, true, false⟩]⟩,
  -- FAB_PORT_STAT
  ⟨false, true, 0x8000, 16, 16, .ro,
    [⟨2, 0, .ro, 0, false, false⟩,
     ⟨3, 3, .ro, 0, false, false⟩,
     ⟨6, 4, .ro, 0, false, false⟩,
     ⟨7, 7, .ro, 0, false, false⟩,
     ⟨23, 8, .ro, 0, false, false⟩,
     ⟨31, 24, .ro, 0, true, false⟩]⟩,
  -- FAB_PORT_PEER
  ⟨false, true, 0x8004, 16, 16, .ro,
    [⟨23, 0, .ro, 0, false, false⟩,
     ⟨27, 24, .ro, 0, false, false⟩]⟩,
  -- FAB_PORT_ERR
  ⟨false, true, 0x8008, 16, 16, .ro,
    [⟨11, 0, .ro, 0, true, false⟩,
     ⟨19, 12, .ro, 0, true, false⟩,
     ⟨25, 20, .ro, 0, true, false⟩,
     ⟨31, 26, .ro, 0, true, false⟩]⟩,
  -- FAB_LANE_STAT
  ⟨false, true, 0x8200, 8, 85, .ro,
    [⟨11, 0, .ro, 0, false, false⟩,
     ⟨23, 12, .ro, 0, false, false⟩,
     ⟨24, 24, .ro, 0, false, false⟩,
     ⟨25, 25, .ro, 0, false, false⟩,
     ⟨26, 26, .ro, 0, false, false⟩,
     ⟨27, 27, .ro, 0, false, false⟩]⟩,
  -- FAB_LANE_Q
  ⟨false, true, 0x8204, 8, 85, .ro,
    [⟨7, 0, .ro, 0, false, false⟩,
     ⟨15, 8, .ro, 0, false, false⟩]⟩,
  -- FAB_LASER
  ⟨false, true, 0x8500, 4, 18, .ro,
    [⟨11, 0, .ro, 0, false, false⟩,
     ⟨12, 12, .ro, 0, false, false⟩,
     ⟨13, 13, .ro, 0, false, false⟩]⟩,
  -- FAB_VC_CFG
  ⟨false, true, 0x8600, 4, 8, .rwt,
    [⟨7, 0, .rwt, 0, false, true⟩,
     ⟨15, 8, .epoch, 0, false, true⟩,
     ⟨23, 16, .epoch, 0, false, true⟩,
     ⟨31, 24, .epoch, 0, false, true⟩]⟩]

/-- The register tables, part 8. -/
def regTable7 : List RegDef := [
  -- FAB_VC_STAT
  ⟨false, true, 0x8620, 4, 8, .ro,
    [⟨11, 0, .ro, 0, true, false⟩,
     ⟨21, 12, .ro, 0, true, false⟩,
     ⟨31, 22, .ro, 0, true, false⟩]⟩,
  -- FAB_RING_CTL
  ⟨false, true, 0x8680, 0, 1, .rw,
    [⟨1, 0, .rw, 0, false, true⟩,
     ⟨31, 16, .ro, 0, true, false⟩]⟩,
  -- FAB_RING_MAN
  ⟨false, true, 0x8684, 0, 1, .rw,
    [⟨6, 0, .rw, 0, false, false⟩,
     ⟨7, 7, .rw, 0, false, false⟩,
     ⟨19, 8, .rw, 0, false, false⟩,
     ⟨31, 31, .rw, 0, false, false⟩]⟩,
  -- FAB_RING_SLEW
  ⟨false, true, 0x8688, 0, 1, .ro,
    [⟨15, 0, .ro, 0, true, false⟩]⟩,
  -- FAB_ROUTE_G
  ⟨false, true, 0x40000, 4, 65536, .epoch,
    [⟨4, 0, .epoch, 0, false, true⟩,
     ⟨9, 5, .epoch, 0, false, true⟩,
     ⟨10, 10, .epoch, 0, false, true⟩]⟩,
  -- FAB_ROUTE_L, in the layout of FAB_ROUTE_G
  ⟨false, true, 0x8800, 4, 256, .epoch,
    [⟨4, 0, .epoch, 0, false, true⟩,
     ⟨9, 5, .epoch, 0, false, true⟩,
     ⟨10, 10, .epoch, 0, false, true⟩]⟩,
  -- CH_CL_SLOT_ID_LO
  ⟨false, true, 0x9000, 32, 16, .rw,
    [⟨31, 0, .rw, 0, false, false⟩]⟩,
  -- CH_CL_SLOT_ID_HI
  ⟨false, true, 0x9004, 32, 16, .rw,
    [⟨31, 0, .rw, 0, false, false⟩]⟩,
  -- CH_CL_SLOT_DESC_LO
  ⟨false, true, 0x9008, 32, 16, .rw,
    [⟨31, 6, .rw, 0, false, false⟩]⟩,
  -- CH_CL_SLOT_DESC_HI
  ⟨false, true, 0x900C, 32, 16, .rw,
    [⟨23, 0, .rw, 0, false, false⟩]⟩,
  -- CH_CL_SLOT_BUF
  ⟨false, true, 0x9010, 32, 16, .rw,
    [⟨11, 0, .rw, 0, false, false⟩,
     ⟨23, 12, .rw, 0, false, false⟩,
     ⟨26, 24, .rw, 0, false, false⟩,
     ⟨31, 31, .rw, 0, false, false⟩]⟩,
  -- CH_CL_SLOT_STAT
  ⟨false, true, 0x9014, 32, 16, .ro,
    [⟨1, 0, .ro, 0, false, false⟩,
     ⟨15, 2, .ro, 0, false, false⟩,
     ⟨31, 16, .ro, 0, false, false⟩]⟩,
  -- CH_CL_ORDER
  ⟨false, true, 0x9200, 0, 1, .rw,
    [⟨15, 0, .rw, 1000, false, false⟩,
     ⟨31, 16, .rw, 1000, false, false⟩]⟩]

/-- The register tables, part 9. -/
def regTable8 : List RegDef := [
  -- CH_CL_STAT
  ⟨false, true, 0x9204, 0, 1, .ro,
    [⟨7, 0, .ro, 0, true, false⟩,
     ⟨15, 8, .ro, 0, true, false⟩,
     ⟨23, 16, .ro, 0, true, false⟩,
     ⟨31, 24, .ro, 0, true, false⟩]⟩,
  -- CH_CL_INR_CTL
  ⟨false, true, 0x9210, 0, 1, .rw,
    [⟨3, 0, .rw, 0, false, false⟩,
     ⟨5, 4, .rw, 0, false, false⟩,
     ⟨29, 6, .rw, 0, false, false⟩,
     ⟨30, 30, .ro, 0, false, false⟩,
     ⟨31, 31, .rw, 0, false, false⟩]⟩,
  -- CH_CL_INR_SRC_LO
  ⟨false, true, 0x9218, 0, 1, .rw,
    [⟨31, 6, .rw, 0, false, false⟩]⟩,
  -- CH_CL_INR_SRC_HI
  ⟨false, true, 0x921C, 0, 1, .rw,
    [⟨23, 0, .rw, 0, false, false⟩]⟩,
  -- CH_CL_INR_DST_LO
  ⟨false, true, 0x9220, 0, 1, .rw,
    [⟨31, 6, .rw, 0, false, false⟩]⟩,
  -- CH_CL_INR_DST_HI
  ⟨false, true, 0x9224, 0, 1, .rw,
    [⟨23, 0, .rw, 0, false, false⟩]⟩,
  -- CH_EX_STAT
  ⟨false, true, 0x9300, 0, 1, .ro,
    [⟨15, 0, .ro, 0, true, false⟩,
     ⟨31, 16, .ro, 0, true, false⟩]⟩,
  -- CH_GT_SPLIT
  ⟨false, true, 0xA000, 0, 1, .rw,
    [⟨0, 0, .rw, 0, false, false⟩,
     ⟨5, 1, .rw, 0, false, false⟩,
     ⟨12, 6, .ro, 0, false, false⟩]⟩,
  -- CH_GT_BUDGET
  ⟨false, true, 0xA004, 0, 1, .rw,
    [⟨7, 0, .rw, 8, false, false⟩,
     ⟨27, 8, .rw, 500, false, false⟩]⟩,
  -- CH_GT_STAT
  ⟨false, true, 0xA008, 0, 1, .ro,
    [⟨7, 0, .ro, 0, true, false⟩,
     ⟨15, 8, .ro, 0, true, false⟩,
     ⟨23, 16, .ro, 0, true, false⟩,
     ⟨31, 24, .ro, 0, true, false⟩]⟩,
  -- CH_GT_DONE
  ⟨false, true, 0xA00C, 0, 1, .ro,
    [⟨31, 0, .ro, 0, false, false⟩]⟩,
  -- CH_GT_LANES
  ⟨false, true, 0xA010, 0, 1, .ro,
    [⟨15, 0, .ro, 0, false, false⟩,
     ⟨19, 16, .ro, 0, false, false⟩]⟩]

/-- The register tables, part 10. -/
def regTable9 : List RegDef := [
  -- CH_PROT_LO
  ⟨false, true, 0xB000, 0, 1, .rw,
    [⟨31, 12, .rw, 0, false, false⟩]⟩,
  -- CH_PROT_HI
  ⟨false, true, 0xB004, 0, 1, .rw,
    [⟨23, 0, .rw, 0, false, false⟩]⟩,
  -- CH_DIG_CFG
  ⟨false, true, 0xB008, 0, 1, .rw,
    [⟨15, 0, .rw, 1000, false, false⟩,
     ⟨31, 31, .rw, 0, false, false⟩]⟩,
  -- CH_DIG_STAT
  ⟨false, true, 0xB00C, 0, 1, .ro,
    [⟨0, 0, .ro, 0, false, false⟩,
     ⟨15, 8, .ro, 0, true, false⟩,
     ⟨23, 16, .ro, 0, true, false⟩,
     ⟨31, 24, .ro, 0, true, false⟩]⟩,
  -- CH_DIG_PEER
  ⟨false, true, 0xB040, 4, 8, .rw,
    [⟨23, 0, .rw, 0, false, false⟩,
     ⟨31, 31, .rw, 0, false, false⟩]⟩,
  -- CH_PC_CFG
  ⟨false, true, 0xB010, 0, 1, .rw,
    [⟨15, 0, .rw, 0, false, false⟩,
     ⟨31, 31, .rw, 0, false, false⟩]⟩,
  -- CH_PC_TGT
  ⟨false, true, 0xB014, 0, 1, .rw,
    [⟨23, 0, .rw, 0, false, false⟩,
     ⟨24, 24, .rw, 0, false, false⟩]⟩,
  -- CH_PC_CTL
  ⟨false, true, 0xB018, 0, 1, .rw,
    [⟨7, 0, .rw, 0, false, false⟩,
     ⟨15, 8, .rw, 0, false, false⟩,
     ⟨16, 16, .rw, 0, false, false⟩,
     ⟨17, 17, .rw, 0, false, false⟩,
     ⟨18, 18, .rw, 0, false, false⟩,
     ⟨31, 31, .rw, 0, false, false⟩]⟩,
  -- CH_PC_STAT
  ⟨false, true, 0xB01C, 0, 1, .ro,
    [⟨1, 0, .ro, 0, false, false⟩,
     ⟨2, 2, .ro, 0, false, false⟩,
     ⟨3, 3, .ro, 0, false, false⟩,
     ⟨23, 4, .ro, 0, false, false⟩,
     ⟨31, 24, .ro, 0, true, false⟩]⟩,
  -- CH_PAREA_LO
  ⟨false, true, 0xB020, 8, 2, .rw,
    [⟨11, 0, .rw, 0, false, false⟩,
     ⟨31, 12, .rw, 0, false, false⟩]⟩,
  -- CH_PAREA_HI
  ⟨false, true, 0xB024, 8, 2, .rw,
    [⟨23, 0, .rw, 0, false, false⟩]⟩,
  -- CH_PAREA_SRC
  ⟨false, true, 0xB030, 0, 1, .rw,
    [⟨23, 0, .rw, 0, false, false⟩]⟩]

/-- The register tables, part 11. -/
def regTable10 : List RegDef := [
  -- HUB_FH_STAT
  ⟨true, false, 0x20, 0, 1, .ro,
    [⟨6, 0, .ro, 0, false, false⟩,
     ⟨19, 8, .ro, 0, false, false⟩,
     ⟨31, 20, .ro, 0, false, false⟩]⟩,
  -- HUB_CPER_LO
  ⟨true, false, 0x30, 0, 1, .rw,
    [⟨31, 12, .rw, 0, false, false⟩]⟩,
  -- HUB_CPER_HI
  ⟨true, false, 0x34, 0, 1, .rw,
    [⟨31, 0, .rw, 0, false, false⟩]⟩,
  -- HUB_CPER_PTR
  ⟨true, false, 0x38, 0, 1, .rw,
    [⟨9, 0, .ro, 0, false, false⟩,
     ⟨19, 10, .rw, 0, false, false⟩,
     ⟨23, 20, .rw, 0, false, false⟩,
     ⟨24, 24, .rw, 0, false, false⟩,
     ⟨31, 25, .ro, 0, true, false⟩]⟩,
  -- HUB_PART_MAP
  ⟨true, false, 0x50, 0, 1, .epoch,
    [⟨31, 0, .epoch, 4294967295, false, false⟩]⟩,
  -- CH_VOTE/HUB_VOTE
  ⟨true, true, 0x40, 0, 1, .ro,
    [⟨15, 0, .ro, 0, true, false⟩,
     ⟨23, 16, .ro, 0, false, false⟩]⟩,
  -- CH_VOTE_LAST/HUB_VOTE_LAST
  ⟨true, true, 0x44, 0, 1, .ro,
    [⟨18, 0, .ro, 0, false, false⟩,
     ⟨23, 19, .ro, 0, false, false⟩,
     ⟨25, 24, .ro, 0, false, false⟩]⟩,
  -- CH_EVT_LO/HUB_EVT_LO
  ⟨true, true, 0x80, 0, 1, .rw,
    [⟨31, 12, .rw, 0, false, false⟩]⟩,
  -- CH_EVT_HI/HUB_EVT_HI
  ⟨true, true, 0x84, 0, 1, .rw,
    [⟨31, 0, .rw, 0, false, false⟩]⟩,
  -- CH_EVT_CFG/HUB_EVT_CFG
  ⟨true, true, 0x88, 0, 1, .rw,
    [⟨3, 0, .rw, 0, false, false⟩,
     ⟨15, 4, .rw, 0, false, false⟩,
     ⟨16, 16, .rw, 0, false, false⟩,
     ⟨30, 24, .ro, 0, true, false⟩,
     ⟨31, 31, .rw, 0, false, false⟩]⟩,
  -- CH_EVT_PTR/HUB_EVT_PTR
  ⟨true, true, 0x8C, 0, 1, .rw,
    [⟨15, 0, .ro, 0, false, false⟩,
     ⟨31, 16, .rw, 0, false, false⟩]⟩,
  -- HUB_MOULD_CMD
  ⟨true, false, 0x300, 0, 1, .rw,
    [⟨2, 0, .rw, 0, false, false⟩,
     ⟨31, 31, .rw, 0, false, false⟩]⟩]

/-- The register tables, part 12. -/
def regTable11 : List RegDef := [
  -- HUB_MOULD_ADDR_LO
  ⟨true, false, 0x304, 0, 1, .rw,
    [⟨31, 6, .rw, 0, false, false⟩]⟩,
  -- HUB_MOULD_ADDR_HI
  ⟨true, false, 0x308, 0, 1, .rw,
    [⟨31, 0, .rw, 0, false, false⟩]⟩,
  -- HUB_MOULD_LEN
  ⟨true, false, 0x30C, 0, 1, .rw,
    [⟨24, 0, .rw, 0, false, false⟩]⟩,
  -- HUB_MOULD_CFG
  ⟨true, false, 0x310, 0, 1, .rw,
    [⟨15, 0, .rw, 16, false, false⟩,
     ⟨16, 16, .rw, 0, false, false⟩]⟩,
  -- HUB_MOULD_AT
  ⟨true, false, 0x314, 0, 1, .rw,
    [⟨31, 0, .rw, 0, false, false⟩]⟩,
  -- HUB_MOULD_STAT
  ⟨true, false, 0x318, 0, 1, .ro,
    [⟨2, 0, .ro, 0, false, false⟩,
     ⟨3, 3, .ro, 0, false, false⟩,
     ⟨7, 4, .ro, 0, false, false⟩,
     ⟨13, 8, .ro, 0, false, false⟩,
     ⟨14, 14, .ro, 0, false, false⟩,
     ⟨18, 15, .ro, 0, false, false⟩]⟩,
  -- HUB_MOULD_SERIAL_LO
  ⟨true, false, 0x31C, 0, 1, .ro,
    [⟨31, 0, .ro, 0, false, false⟩]⟩,
  -- HUB_MOULD_SERIAL_HI
  ⟨true, false, 0x320, 0, 1, .ro,
    [⟨31, 0, .ro, 0, false, false⟩]⟩,
  -- CH_PWR_CFG
  ⟨false, true, 0xC000, 0, 1, .rw,
    [⟨13, 0, .rw, 50, false, false⟩,
     ⟨29, 14, .rw, 100, false, false⟩,
     ⟨30, 30, .rw, 1, false, false⟩]⟩,
  -- CH_PWR_CFG2
  ⟨false, true, 0xC010, 0, 1, .rw,
    [⟨15, 0, .rw, 10, false, false⟩]⟩,
  -- CH_PWR_CMD
  ⟨false, true, 0xC004, 0, 1, .rw,
    [⟨1, 0, .rw, 0, false, false⟩,
     ⟨31, 31, .rw, 0, false, false⟩]⟩,
  -- CH_PWR_STAT
  ⟨false, true, 0xC008, 0, 1, .ro,
    [⟨1, 0, .ro, 0, false, false⟩,
     ⟨2, 2, .ro, 0, false, false⟩,
     ⟨3, 3, .ro, 0, false, false⟩,
     ⟨7, 4, .ro, 0, false, false⟩,
     ⟨23, 16, .ro, 0, true, false⟩,
     ⟨31, 24, .ro, 0, true, false⟩]⟩]

/-- The register tables, part 13. -/
def regTable12 : List RegDef := [
  -- CH_PWR_CAP
  ⟨false, true, 0xC00C, 0, 1, .ro,
    [⟨15, 0, .ro, 0, true, false⟩,
     ⟨31, 16, .ro, 0, true, false⟩]⟩,
  -- HUB_PWR_OFF
  ⟨true, false, 0x400, 0, 1, .rw,
    [⟨0, 0, .rw, 0, false, false⟩,
     ⟨23, 8, .rw, 0, false, false⟩,
     ⟨31, 31, .rw, 0, false, false⟩]⟩,
  -- HUB_WAKE
  ⟨true, false, 0x404, 0, 1, .ro,
    [⟨1, 0, .ro, 0, false, false⟩]⟩,
  -- HUB_PIN_STAT
  ⟨true, false, 0x408, 0, 1, .ro,
    [⟨0, 0, .ro, 0, false, false⟩,
     ⟨1, 1, .ro, 0, false, false⟩,
     ⟨2, 2, .ro, 0, false, false⟩,
     ⟨3, 3, .ro, 0, false, false⟩,
     ⟨4, 4, .ro, 0, false, false⟩,
     ⟨5, 5, .ro, 0, false, false⟩,
     ⟨15, 8, .ro, 0, true, false⟩]⟩,
  -- HUB_SEC_POLICY
  ⟨true, false, 0x480, 0, 1, .rwv,
    [⟨1, 0, .rwv, 1, false, false⟩,
     ⟨2, 2, .ro, 0, false, false⟩,
     ⟨3, 3, .ro, 0, false, false⟩]⟩,
  -- HUB_SEC_ALARM
  ⟨true, false, 0x484, 0, 1, .w1c,
    [⟨0, 0, .w1c, 0, false, false⟩,
     ⟨1, 1, .w1c, 0, false, false⟩,
     ⟨2, 2, .w1c, 0, false, false⟩,
     ⟨3, 3, .w1c, 0, false, false⟩,
     ⟨4, 4, .w1c, 0, false, false⟩,
     ⟨5, 5, .ro, 0, false, false⟩,
     ⟨6, 6, .ro, 0, false, false⟩,
     ⟨15, 8, .ro, 0, true, false⟩]⟩,
  -- CH_THERM
  ⟨false, true, 0xC020, 0, 1, .ro,
    [⟨7, 0, .ro, 0, false, false⟩,
     ⟨8, 8, .ro, 0, false, false⟩,
     ⟨23, 16, .ro, 0, true, false⟩,
     ⟨31, 24, .ro, 0, false, false⟩]⟩,
  -- MEM_REG_CFG (T3 buckets of PF0)
  ⟨true, false, 0x7200, 8, 8, .rwv,
    [⟨15, 0, .rwv, 0, false, true⟩,
     ⟨30, 16, .rwv, 0, false, true⟩,
     ⟨31, 31, .rwv, 0, false, true⟩]⟩,
  -- MEM_REG_TOK (T3 buckets of PF0)
  ⟨true, false, 0x7204, 8, 8, .ro,
    [⟨15, 0, .ro, 0, false, false⟩,
     ⟨31, 16, .ro, 0, true, false⟩]⟩]

/-- Every register table of the spec. -/
def regTable : List RegDef :=
  regTable0 ++ regTable1 ++ regTable2 ++ regTable3 ++ regTable4 ++ regTable5 ++ regTable6 ++ regTable7 ++ regTable8 ++ regTable9 ++ regTable10 ++ regTable11 ++ regTable12

def R.GAF_LEASE_EPOCH : Fld := ⟨0x200, 31, 0⟩
def R.GAF_LEASE_STATUS_HOLDER : Fld := ⟨0x204, 0, 0⟩
def R.GAF_LEASE_STATUS_VALID : Fld := ⟨0x204, 1, 1⟩
def R.GAF_LEASE_STATUS_SPLIT : Fld := ⟨0x204, 2, 2⟩
def R.GAF_LEASE_STATUS_GE_PASSIVE : Fld := ⟨0x204, 3, 3⟩
def R.GAF_LEASE_STATUS_SPLIT_TICKS : Fld := ⟨0x204, 7, 4⟩
def R.GAF_LEASE_STATUS_AGE : Fld := ⟨0x204, 15, 8⟩
def R.GAF_SPLIT_SPLIT_SEEN : Fld := ⟨0x208, 0, 0⟩
def R.GAF_SPLIT_PASSIVE_HOLD : Fld := ⟨0x208, 1, 1⟩
def R.GAF_SPLIT_RESETS : Fld := ⟨0x208, 5, 2⟩
def R.GAF_SPLIT_FENCED_WRITES : Fld := ⟨0x208, 15, 8⟩
def R.HUB_CH_FUSE_CH_EN : Fld := ⟨0x10, 7, 0⟩
def R.HUB_CH_FUSE_GRADE : Fld := ⟨0x10, 11, 8⟩
def R.HUB_CH_FUSE_STEP_MAJOR : Fld := ⟨0x10, 15, 12⟩
def R.HUB_CH_FUSE_STEP_MINOR : Fld := ⟨0x10, 19, 16⟩
def R.HUB_CH_LIVE_LIVE : Fld := ⟨0x14, 7, 0⟩
def R.HUB_CH_LIVE_RETIRED : Fld := ⟨0x14, 15, 8⟩
def R.HUB_CH_LIVE_INRESET : Fld := ⟨0x14, 23, 16⟩
def R.CH_SEM_COUNT (i : Nat) : Fld := ⟨0x2000 + 4 * i, 15, 0⟩
def R.CH_SEM_OWNER (i : Nat) : Fld := ⟨0x2000 + 4 * i, 20, 16⟩
def R.CH_SEM_WAITERS (i : Nat) : Fld := ⟨0x2000 + 4 * i, 21, 21⟩
def R.CH_SEM_INIT_INIT (i : Nat) : Fld := ⟨0x2400 + 4 * i, 15, 0⟩
def R.CH_SEM_WAITLIM_LIMIT : Fld := ⟨0x300, 19, 0⟩
def R.CH_QSTAT_OCC (i : Nat) : Fld := ⟨0x400 + 4 * i, 6, 0⟩
def R.CH_QSTAT_RUNNING (i : Nat) : Fld := ⟨0x400 + 4 * i, 7, 7⟩
def R.CH_QSTAT_RUN_JC (i : Nat) : Fld := ⟨0x400 + 4 * i, 11, 8⟩
def R.CH_QSTAT_FULL_STALLS (i : Nat) : Fld := ⟨0x400 + 4 * i, 19, 12⟩
def R.CH_JC_STATUS_STATE (i : Nat) : Fld := ⟨0x1000 + 64 * i, 3, 0⟩
def R.CH_JC_STATUS_CLIENT (i : Nat) : Fld := ⟨0x1000 + 64 * i, 11, 4⟩
def R.CH_JC_STATUS_QUEUED (i : Nat) : Fld := ⟨0x1000 + 64 * i, 23, 16⟩
def R.CH_JC_FAULT_STATUS (i : Nat) : Fld := ⟨0x1004 + 64 * i, 15, 0⟩
def R.CH_JC_FAULT_ENG (i : Nat) : Fld := ⟨0x1004 + 64 * i, 19, 16⟩
def R.CH_JC_FAULT_TD (i : Nat) : Fld := ⟨0x1004 + 64 * i, 25, 20⟩
def R.CH_JC_CQ_LO_BASE_LO (i : Nat) : Fld := ⟨0x1008 + 64 * i, 31, 12⟩
def R.CH_JC_CQ_HI_BASE_HI (i : Nat) : Fld := ⟨0x100C + 64 * i, 23, 0⟩
def R.CH_JC_CQ_HI_SIZE (i : Nat) : Fld := ⟨0x100C + 64 * i, 27, 24⟩
def R.CH_JC_CQ_HI_EN (i : Nat) : Fld := ⟨0x100C + 64 * i, 31, 31⟩
def R.CH_JC_CQ_PTR_WR (i : Nat) : Fld := ⟨0x1010 + 64 * i, 15, 0⟩
def R.CH_JC_CQ_PTR_RD (i : Nat) : Fld := ⟨0x1010 + 64 * i, 31, 16⟩
def R.HUB_TICK_CFG_PERIOD : Fld := ⟨0x100, 23, 0⟩
def R.HUB_TICK_CFG_SRC : Fld := ⟨0x100, 25, 24⟩
def R.HUB_TICK_CFG_MASTER : Fld := ⟨0x100, 26, 26⟩
def R.HUB_TICK_STAT_SRC_NOW : Fld := ⟨0x104, 1, 0⟩
def R.HUB_TICK_STAT_HOLDOVER : Fld := ⟨0x104, 2, 2⟩
def R.HUB_TICK_STAT_PENDING : Fld := ⟨0x104, 3, 3⟩
def R.HUB_TICK_STAT_LOCKED : Fld := ⟨0x104, 4, 4⟩
def R.HUB_TICK_STAT_MISSED : Fld := ⟨0x104, 15, 8⟩
def R.HUB_TICK_STAT_STRAY : Fld := ⟨0x104, 23, 16⟩
def R.HUB_TICK_NUM_LO_NUM_LO : Fld := ⟨0x108, 31, 0⟩
def R.HUB_TICK_NUM_HI_NUM_HI : Fld := ⟨0x10C, 31, 0⟩
def R.CH_TICK_SEM_SEM : Fld := ⟨0x504, 7, 0⟩
def R.CH_TICK_SEM_COUNT : Fld := ⟨0x504, 15, 8⟩
def R.CH_TICK_SEM_EN : Fld := ⟨0x504, 16, 16⟩
def R.CH_SQ_BASE_LO_BASE_LO (i : Nat) : Fld := ⟨0x800 + 16 * i, 31, 12⟩
def R.CH_SQ_BASE_HI_BASE_HI (i : Nat) : Fld := ⟨0x804 + 16 * i, 23, 0⟩
def R.CH_SQ_BASE_HI_SIZE (i : Nat) : Fld := ⟨0x804 + 16 * i, 27, 24⟩
def R.CH_SQ_BASE_HI_EN (i : Nat) : Fld := ⟨0x804 + 16 * i, 31, 31⟩
def R.CH_SQ_PTR_HEAD (i : Nat) : Fld := ⟨0x808 + 16 * i, 15, 0⟩
def R.CH_SQ_PTR_TAIL (i : Nat) : Fld := ⟨0x808 + 16 * i, 31, 16⟩
def R.CH_SQ_JPTR_WR (i : Nat) : Fld := ⟨0x80C + 16 * i, 15, 0⟩
def R.CH_SQ_JPTR_RD (i : Nat) : Fld := ⟨0x80C + 16 * i, 31, 16⟩
def R.CH_SCHED_LC_SHARE : Fld := ⟨0x500, 7, 0⟩
def R.CH_SCHED_BE_SLICE : Fld := ⟨0x500, 15, 8⟩
def R.CH_SCHED_BE_ACTIVE : Fld := ⟨0x500, 19, 16⟩
def R.CH_SCHED_LC_CTX : Fld := ⟨0x500, 23, 20⟩
def R.CH_JC_SCHED_CLASS (i : Nat) : Fld := ⟨0x1014 + 64 * i, 0, 0⟩
def R.CH_JC_SCHED_SLICE (i : Nat) : Fld := ⟨0x1014 + 64 * i, 1, 1⟩
def R.CH_JC_SCHED_DONATED (i : Nat) : Fld := ⟨0x1014 + 64 * i, 2, 2⟩
def R.CH_JC_SCHED_DEMOTED (i : Nat) : Fld := ⟨0x1014 + 64 * i, 3, 3⟩
def R.CH_JC_SCHED_BUDGET (i : Nat) : Fld := ⟨0x1014 + 64 * i, 19, 4⟩
def R.CH_JC_SCHED_DEBT (i : Nat) : Fld := ⟨0x1014 + 64 * i, 27, 20⟩
def R.CH_JOB_KILL_JC : Fld := ⟨0x508, 3, 0⟩
def R.CH_JOB_KILL_GO : Fld := ⟨0x508, 31, 31⟩
def R.CH_CLIENT_SUB_SUB (i : Nat) : Fld := ⟨0x4000 + 16 * i, 31, 0⟩
def R.CH_CLIENT_DONE_DONE (i : Nat) : Fld := ⟨0x4004 + 16 * i, 31, 0⟩
def R.CH_CLIENT_PRE_PRE (i : Nat) : Fld := ⟨0x4008 + 16 * i, 31, 0⟩
def R.CH_CLIENT_KILL_KILL (i : Nat) : Fld := ⟨0x400C + 16 * i, 31, 0⟩
def R.CH_ARB_CFG_BURST (i : Nat) : Fld := ⟨0x600 + 8 * i, 7, 0⟩
def R.CH_ARB_CFG_WAITLIM (i : Nat) : Fld := ⟨0x600 + 8 * i, 15, 8⟩
def R.CH_ARB_CFG_HANG (i : Nat) : Fld := ⟨0x600 + 8 * i, 25, 16⟩
def R.CH_ARB_STAT_FORCED (i : Nat) : Fld := ⟨0x604 + 8 * i, 7, 0⟩
def R.CH_ARB_STAT_EMERG (i : Nat) : Fld := ⟨0x604 + 8 * i, 15, 8⟩
def R.CH_ARB_STAT_HANGS (i : Nat) : Fld := ⟨0x604 + 8 * i, 23, 16⟩
def R.CH_ARWS_OWN_TAG0 (i : Nat) : Fld := ⟨0x5000 + 4 * i, 4, 0⟩
def R.CH_ARWS_OWN_TAG1 (i : Nat) : Fld := ⟨0x5000 + 4 * i, 12, 8⟩
def R.CH_ARWS_OWN_TAG2 (i : Nat) : Fld := ⟨0x5000 + 4 * i, 20, 16⟩
def R.CH_ARWS_OWN_TAG3 (i : Nat) : Fld := ⟨0x5000 + 4 * i, 28, 24⟩
def R.CH_ARWS_STAT_CLEARING : Fld := ⟨0x5200, 9, 0⟩
def R.CH_ARWS_STAT_FREE : Fld := ⟨0x5200, 19, 10⟩
def R.CH_ARWS_STAT_DENIED : Fld := ⟨0x5200, 27, 20⟩
def R.CH_MX_XSPAN_XSPAN : Fld := ⟨0x708, 31, 0⟩
def R.CH_MX_STAT_BUSY : Fld := ⟨0x700, 0, 0⟩
def R.CH_MX_STAT_ARR : Fld := ⟨0x700, 1, 1⟩
def R.CH_MX_STAT_CLASS : Fld := ⟨0x700, 3, 2⟩
def R.CH_MX_STAT_JC : Fld := ⟨0x700, 7, 4⟩
def R.CH_MX_STAT_PASS : Fld := ⟨0x700, 23, 8⟩
def R.CH_MX_STAT_DRAIN : Fld := ⟨0x700, 24, 24⟩
def R.CH_MX_ACT_ACT : Fld := ⟨0x704, 31, 0⟩
def R.CH_MX_RESIDUE_ROW : Fld := ⟨0x70C, 3, 0⟩
def R.CH_MX_RESIDUE_COL : Fld := ⟨0x70C, 8, 4⟩
def R.CH_MX_RESIDUE_VALID : Fld := ⟨0x70C, 9, 9⟩
def R.CH_MX_RESIDUE_CE : Fld := ⟨0x70C, 23, 16⟩
def R.CH_MX_RESIDUE_UE : Fld := ⟨0x70C, 31, 24⟩
def R.CH_FMT_STAT_OVF : Fld := ⟨0x900, 15, 0⟩
def R.CH_FMT_STAT_NANW : Fld := ⟨0x900, 31, 16⟩
def R.CH_EP_STAT_BUSY : Fld := ⟨0xA00, 0, 0⟩
def R.CH_EP_STAT_JC : Fld := ⟨0xA00, 4, 1⟩
def R.CH_EP_STAT_DRAIN : Fld := ⟨0xA00, 5, 5⟩
def R.CH_EP_DRAINCYC_DRAINCYC : Fld := ⟨0xA04, 31, 0⟩
def R.CH_EP_ENTCYC_ENTCYC : Fld := ⟨0xA08, 31, 0⟩
def R.CH_EP_NOCAND_NOCAND : Fld := ⟨0xA0C, 15, 0⟩
def R.FT_CTL_EN : Fld := ⟨0x6000, 0, 0⟩
def R.FT_CTL_READY : Fld := ⟨0x6000, 1, 1⟩
def R.FT_CFGBLK_LO_ADDR_LO : Fld := ⟨0x6004, 31, 6⟩
def R.FT_CFGBLK_HI_ADDR_HI : Fld := ⟨0x6008, 23, 0⟩
def R.FT_HOST_RELEASE_HANDLE : Fld := ⟨0x600C, 31, 0⟩
def R.FT_CULLET_FREE : Fld := ⟨0x6010, 28, 0⟩
def R.FT_QUAR_QUAR : Fld := ⟨0x6014, 28, 0⟩
def R.FT_CULLET_LOW_LOW : Fld := ⟨0x6018, 28, 0⟩
def R.FT_OCC_ENTRIES : Fld := ⟨0x601C, 16, 0⟩
def R.FT_RECLAIM_BLOCKS : Fld := ⟨0x6020, 23, 0⟩
def R.FT_PFX_STAT_HITS : Fld := ⟨0x6024, 11, 0⟩
def R.FT_PFX_STAT_COLLIDE : Fld := ⟨0x6024, 15, 12⟩
def R.FT_PFX_STAT_DUP : Fld := ⟨0x6024, 23, 16⟩
def R.FT_PFX_STAT_EVICT : Fld := ⟨0x6024, 31, 24⟩
def R.FT_PINKEEP_PINKEEP : Fld := ⟨0x6028, 15, 0⟩
def R.FT_JC_RANGE_BASE (i : Nat) : Fld := ⟨0x6100 + 4 * i, 15, 0⟩
def R.FT_JC_RANGE_COUNT_M1 (i : Nat) : Fld := ⟨0x6100 + 4 * i, 31, 16⟩
def R.CH_AT_STAT_EMPTY : Fld := ⟨0x710, 7, 0⟩
def R.CH_AT_STAT_NANROW : Fld := ⟨0x710, 15, 8⟩
def R.CH_AT_STAT_MASKED : Fld := ⟨0x710, 23, 16⟩
def R.CH_AT_SHARED_SAVED : Fld := ⟨0x714, 31, 0⟩
def R.CH_RC_CTL_EN : Fld := ⟨0x6800, 0, 0⟩
def R.CH_RC_CTL_READY : Fld := ⟨0x6800, 1, 1⟩
def R.CH_RC_TABLE_LO_BASE_LO : Fld := ⟨0x6804, 31, 12⟩
def R.CH_RC_TABLE_HI_BASE_HI : Fld := ⟨0x6808, 23, 0⟩
def R.CH_RC_SWAP_HANDLE : Fld := ⟨0x680C, 31, 0⟩
def R.CH_RC_SWAP_ST_STATUS : Fld := ⟨0x6810, 1, 0⟩
def R.CH_RC_SWAP_DST_LO_DST_LO : Fld := ⟨0x6814, 31, 6⟩
def R.CH_RC_SWAP_DST_HI_DST_HI : Fld := ⟨0x6818, 23, 0⟩
def R.CH_RC_STAT_LIVE : Fld := ⟨0x681C, 14, 0⟩
def R.CH_RC_STAT_ANCHORS : Fld := ⟨0x681C, 23, 16⟩
def R.CH_RC_STAT_BADREC : Fld := ⟨0x681C, 31, 24⟩
def R.MEM_MMU_ROOT : Fld := ⟨0x7000, 24, 0⟩
def R.MEM_MMU_INV : Fld := ⟨0x7000, 28, 28⟩
def R.MEM_MMU_INVBUSY : Fld := ⟨0x7000, 29, 29⟩
def R.MEM_MMU_EN : Fld := ⟨0x7000, 31, 31⟩
def R.MEM_TC_CFG_BASE : Fld := ⟨0x7010, 15, 0⟩
def R.MEM_TC_CFG_SIZE : Fld := ⟨0x7010, 28, 16⟩
def R.MEM_TC_CTL_FLUSH : Fld := ⟨0x7014, 0, 0⟩
def R.MEM_TC_CTL_DIRTY : Fld := ⟨0x7014, 23, 2⟩
def R.MEM_TC_CTL_WBFAIL : Fld := ⟨0x7014, 31, 24⟩
def R.MEM_REG_CFG_RATE (i : Nat) : Fld := ⟨0x7100 + 8 * i, 15, 0⟩
def R.MEM_REG_CFG_BURST (i : Nat) : Fld := ⟨0x7100 + 8 * i, 30, 16⟩
def R.MEM_REG_CFG_EN (i : Nat) : Fld := ⟨0x7100 + 8 * i, 31, 31⟩
def R.MEM_REG_TOK_TOKENS (i : Nat) : Fld := ⟨0x7104 + 8 * i, 15, 0⟩
def R.MEM_REG_TOK_WAITS (i : Nat) : Fld := ⟨0x7104 + 8 * i, 31, 16⟩
def R.MEM_SW_CFG_SCHED (i : Nat) : Fld := ⟨0x7400 + 8 * i, 22, 0⟩
def R.MEM_SW_CFG_ENTRIES (i : Nat) : Fld := ⟨0x7400 + 8 * i, 29, 23⟩
def R.MEM_SW_CFG_CLASS (i : Nat) : Fld := ⟨0x7400 + 8 * i, 30, 30⟩
def R.MEM_SW_CFG_EN (i : Nat) : Fld := ⟨0x7400 + 8 * i, 31, 31⟩
def R.MEM_SW_STAT_CUR (i : Nat) : Fld := ⟨0x7404 + 8 * i, 6, 0⟩
def R.MEM_SW_STAT_RUNNING (i : Nat) : Fld := ⟨0x7404 + 8 * i, 7, 7⟩
def R.MEM_SW_STAT_LATE (i : Nat) : Fld := ⟨0x7404 + 8 * i, 15, 8⟩
def R.MEM_SW_STAT_SKIPPED (i : Nat) : Fld := ⟨0x7404 + 8 * i, 23, 16⟩
def R.MEM_SW_STAT_FAULTS (i : Nat) : Fld := ⟨0x7404 + 8 * i, 31, 24⟩
def R.MEM_TIER_STALL_STALL (i : Nat) : Fld := ⟨0x7300 + 4 * i, 31, 0⟩
def R.MEM_TIER_EVT_THRESH : Fld := ⟨0x7324, 15, 0⟩
def R.MEM_SUBST_EXPERT : Fld := ⟨0x7328, 15, 0⟩
def R.MEM_SUBST_KV : Fld := ⟨0x7328, 31, 16⟩
def R.MEM_T2_STAT_LINK : Fld := ⟨0x732C, 1, 0⟩
def R.MEM_T2_STAT_IDE : Fld := ⟨0x732C, 2, 2⟩
def R.MEM_T2_STAT_CAP_GIB : Fld := ⟨0x732C, 12, 3⟩
def R.MEM_T2_STAT_RETRAIN : Fld := ⟨0x732C, 20, 13⟩
def R.MEM_T2_STAT_POISON : Fld := ⟨0x732C, 28, 21⟩
def R.MEM_PROMO_PROMOTED : Fld := ⟨0x7330, 11, 0⟩
def R.MEM_PROMO_CANDIDATES : Fld := ⟨0x7330, 23, 12⟩
def R.MEM_PROMO_DEMOTED : Fld := ⟨0x7330, 31, 24⟩
def R.FAB_PORT_STAT_STATE (i : Nat) : Fld := ⟨0x8000 + 16 * i, 2, 0⟩
def R.FAB_PORT_STAT_SPARE (i : Nat) : Fld := ⟨0x8000 + 16 * i, 3, 3⟩
def R.FAB_PORT_STAT_SPARE_LANE (i : Nat) : Fld := ⟨0x8000 + 16 * i, 6, 4⟩
def R.FAB_PORT_STAT_ENC (i : Nat) : Fld := ⟨0x8000 + 16 * i, 7, 7⟩
def R.FAB_PORT_STAT_DELAY (i : Nat) : Fld := ⟨0x8000 + 16 * i, 23, 8⟩
def R.FAB_PORT_STAT_DOWNS (i : Nat) : Fld := ⟨0x8000 + 16 * i, 31, 24⟩
def R.FAB_PORT_PEER_PEER (i : Nat) : Fld := ⟨0x8004 + 16 * i, 23, 0⟩
def R.FAB_PORT_PEER_PEER_PORT (i : Nat) : Fld := ⟨0x8004 + 16 * i, 27, 24⟩
def R.FAB_PORT_ERR_CORR (i : Nat) : Fld := ⟨0x8008 + 16 * i, 11, 0⟩
def R.FAB_PORT_ERR_UNCORR (i : Nat) : Fld := ⟨0x8008 + 16 * i, 19, 12⟩
def R.FAB_PORT_ERR_REPLAY (i : Nat) : Fld := ⟨0x8008 + 16 * i, 25, 20⟩
def R.FAB_PORT_ERR_MACFAIL (i : Nat) : Fld := ⟨0x8008 + 16 * i, 31, 26⟩
def R.FAB_LANE_STAT_TXHEAT (i : Nat) : Fld := ⟨0x8200 + 8 * i, 11, 0⟩
def R.FAB_LANE_STAT_RXHEAT (i : Nat) : Fld := ⟨0x8200 + 8 * i, 23, 12⟩
def R.FAB_LANE_STAT_TXLOCK (i : Nat) : Fld := ⟨0x8200 + 8 * i, 24, 24⟩
def R.FAB_LANE_STAT_RXLOCK (i : Nat) : Fld := ⟨0x8200 + 8 * i, 25, 25⟩
def R.FAB_LANE_STAT_ACTIVE (i : Nat) : Fld := ⟨0x8200 + 8 * i, 26, 26⟩
def R.FAB_LANE_STAT_FAILED (i : Nat) : Fld := ⟨0x8200 + 8 * i, 27, 27⟩
def R.FAB_LANE_Q_BER_EXP (i : Nat) : Fld := ⟨0x8204 + 8 * i, 7, 0⟩
def R.FAB_LANE_Q_TEMP (i : Nat) : Fld := ⟨0x8204 + 8 * i, 15, 8⟩
def R.FAB_LASER_POWER (i : Nat) : Fld := ⟨0x8500 + 4 * i, 11, 0⟩
def R.FAB_LASER_LOW (i : Nat) : Fld := ⟨0x8500 + 4 * i, 12, 12⟩
def R.FAB_LASER_LOST (i : Nat) : Fld := ⟨0x8500 + 4 * i, 13, 13⟩
def R.FAB_VC_CFG_WEIGHT (i : Nat) : Fld := ⟨0x8600 + 4 * i, 7, 0⟩
def R.FAB_VC_CFG_WMIN (i : Nat) : Fld := ⟨0x8600 + 4 * i, 15, 8⟩
def R.FAB_VC_CFG_WMAX (i : Nat) : Fld := ⟨0x8600 + 4 * i, 23, 16⟩
def R.FAB_VC_CFG_CREDITS (i : Nat) : Fld := ⟨0x8600 + 4 * i, 31, 24⟩
def R.FAB_VC_STAT_DROPS (i : Nat) : Fld := ⟨0x8620 + 4 * i, 11, 0⟩
def R.FAB_VC_STAT_DUP (i : Nat) : Fld := ⟨0x8620 + 4 * i, 21, 12⟩
def R.FAB_VC_STAT_LOST (i : Nat) : Fld := ⟨0x8620 + 4 * i, 31, 22⟩
def R.FAB_RING_CTL_POLICY : Fld := ⟨0x8680, 1, 0⟩
def R.FAB_RING_CTL_LOCKLOSS : Fld := ⟨0x8680, 31, 16⟩
def R.FAB_RING_MAN_LANE : Fld := ⟨0x8684, 6, 0⟩
def R.FAB_RING_MAN_SIDE : Fld := ⟨0x8684, 7, 7⟩
def R.FAB_RING_MAN_HEATER : Fld := ⟨0x8684, 19, 8⟩
def R.FAB_RING_MAN_GO : Fld := ⟨0x8684, 31, 31⟩
def R.FAB_RING_SLEW_SLEW : Fld := ⟨0x8688, 15, 0⟩
def R.FAB_ROUTE_G_PRI (i : Nat) : Fld := ⟨0x40000 + 4 * i, 4, 0⟩
def R.FAB_ROUTE_G_ALT (i : Nat) : Fld := ⟨0x40000 + 4 * i, 9, 5⟩
def R.FAB_ROUTE_G_WIRE (i : Nat) : Fld := ⟨0x40000 + 4 * i, 10, 10⟩
def R.CH_CL_SLOT_ID_LO_ID_LO (i : Nat) : Fld := ⟨0x9000 + 32 * i, 31, 0⟩
def R.CH_CL_SLOT_ID_HI_ID_HI (i : Nat) : Fld := ⟨0x9004 + 32 * i, 31, 0⟩
def R.CH_CL_SLOT_DESC_LO_ADDR_LO (i : Nat) : Fld := ⟨0x9008 + 32 * i, 31, 6⟩
def R.CH_CL_SLOT_DESC_HI_ADDR_HI (i : Nat) : Fld := ⟨0x900C + 32 * i, 23, 0⟩
def R.CH_CL_SLOT_BUF_BASE (i : Nat) : Fld := ⟨0x9010 + 32 * i, 11, 0⟩
def R.CH_CL_SLOT_BUF_SIZE (i : Nat) : Fld := ⟨0x9010 + 32 * i, 23, 12⟩
def R.CH_CL_SLOT_BUF_PT (i : Nat) : Fld := ⟨0x9010 + 32 * i, 26, 24⟩
def R.CH_CL_SLOT_BUF_EN (i : Nat) : Fld := ⟨0x9010 + 32 * i, 31, 31⟩
def R.CH_CL_SLOT_STAT_STATE (i : Nat) : Fld := ⟨0x9014 + 32 * i, 1, 0⟩
def R.CH_CL_SLOT_STAT_RANK (i : Nat) : Fld := ⟨0x9014 + 32 * i, 15, 2⟩
def R.CH_CL_SLOT_STAT_SEQ (i : Nat) : Fld := ⟨0x9014 + 32 * i, 31, 16⟩
def R.CH_CL_ORDER_ORDER_LIM : Fld := ⟨0x9200, 15, 0⟩
def R.CH_CL_ORDER_STALL_LIM : Fld := ⟨0x9200, 31, 16⟩
def R.CH_CL_STAT_ORDER_TO : Fld := ⟨0x9204, 7, 0⟩
def R.CH_CL_STAT_STALLS : Fld := ⟨0x9204, 15, 8⟩
def R.CH_CL_STAT_ABORTS : Fld := ⟨0x9204, 23, 16⟩
def R.CH_CL_STAT_LOSTMSG : Fld := ⟨0x9204, 31, 24⟩
def R.CH_CL_INR_CTL_SLOT : Fld := ⟨0x9210, 3, 0⟩
def R.CH_CL_INR_CTL_FUNC : Fld := ⟨0x9210, 5, 4⟩
def R.CH_CL_INR_CTL_COUNT : Fld := ⟨0x9210, 29, 6⟩
def R.CH_CL_INR_CTL_BUSY : Fld := ⟨0x9210, 30, 30⟩
def R.CH_CL_INR_CTL_GO : Fld := ⟨0x9210, 31, 31⟩
def R.CH_CL_INR_SRC_LO_SRC_LO : Fld := ⟨0x9218, 31, 6⟩
def R.CH_CL_INR_SRC_HI_SRC_HI : Fld := ⟨0x921C, 23, 0⟩
def R.CH_CL_INR_DST_LO_DST_LO : Fld := ⟨0x9220, 31, 6⟩
def R.CH_CL_INR_DST_HI_DST_HI : Fld := ⟨0x9224, 23, 0⟩
def R.CH_EX_STAT_OVERFLOW : Fld := ⟨0x9300, 15, 0⟩
def R.CH_EX_STAT_FALLBACK : Fld := ⟨0x9300, 31, 16⟩
def R.CH_GT_SPLIT_MODE : Fld := ⟨0xA000, 0, 0⟩
def R.CH_GT_SPLIT_SHARE : Fld := ⟨0xA000, 5, 1⟩
def R.CH_GT_SPLIT_BUSY : Fld := ⟨0xA000, 12, 6⟩
def R.CH_GT_BUDGET_MULT : Fld := ⟨0xA004, 7, 0⟩
def R.CH_GT_BUDGET_CAP : Fld := ⟨0xA004, 27, 8⟩
def R.CH_GT_STAT_CORRUPT : Fld := ⟨0xA008, 7, 0⟩
def R.CH_GT_STAT_SLOW : Fld := ⟨0xA008, 15, 8⟩
def R.CH_GT_STAT_CLAIM : Fld := ⟨0xA008, 23, 16⟩
def R.CH_GT_STAT_STALE : Fld := ⟨0xA008, 31, 24⟩
def R.CH_GT_DONE_DONE : Fld := ⟨0xA00C, 31, 0⟩
def R.CH_GT_LANES_BUSY : Fld := ⟨0xA010, 15, 0⟩
def R.CH_GT_LANES_JC : Fld := ⟨0xA010, 19, 16⟩
def R.CH_PROT_LO_BASE_LO : Fld := ⟨0xB000, 31, 12⟩
def R.CH_PROT_HI_BASE_HI : Fld := ⟨0xB004, 23, 0⟩
def R.CH_DIG_CFG_PERIOD : Fld := ⟨0xB008, 15, 0⟩
def R.CH_DIG_CFG_EN : Fld := ⟨0xB008, 31, 31⟩
def R.CH_DIG_STAT_BUSY : Fld := ⟨0xB00C, 0, 0⟩
def R.CH_DIG_STAT_MISMATCH : Fld := ⟨0xB00C, 15, 8⟩
def R.CH_DIG_STAT_ABSENT : Fld := ⟨0xB00C, 23, 16⟩
def R.CH_DIG_STAT_SKIPPED : Fld := ⟨0xB00C, 31, 24⟩
def R.CH_DIG_PEER_NODE (i : Nat) : Fld := ⟨0xB040 + 4 * i, 23, 0⟩
def R.CH_DIG_PEER_VALID (i : Nat) : Fld := ⟨0xB040 + 4 * i, 31, 31⟩
def R.CH_PC_CFG_PERIOD : Fld := ⟨0xB010, 15, 0⟩
def R.CH_PC_CFG_EN : Fld := ⟨0xB010, 31, 31⟩
def R.CH_PC_TGT_NODE : Fld := ⟨0xB014, 23, 0⟩
def R.CH_PC_TGT_LOCAL : Fld := ⟨0xB014, 24, 24⟩
def R.CH_PC_CTL_WSEM : Fld := ⟨0xB018, 7, 0⟩
def R.CH_PC_CTL_SSEM : Fld := ⟨0xB018, 15, 8⟩
def R.CH_PC_CTL_WEN : Fld := ⟨0xB018, 16, 16⟩
def R.CH_PC_CTL_SEN : Fld := ⟨0xB018, 17, 17⟩
def R.CH_PC_CTL_MODE : Fld := ⟨0xB018, 18, 18⟩
def R.CH_PC_CTL_GO : Fld := ⟨0xB018, 31, 31⟩
def R.CH_PC_STAT_STATE : Fld := ⟨0xB01C, 1, 0⟩
def R.CH_PC_STAT_GEN : Fld := ⟨0xB01C, 2, 2⟩
def R.CH_PC_STAT_VALID : Fld := ⟨0xB01C, 3, 3⟩
def R.CH_PC_STAT_EPOCH : Fld := ⟨0xB01C, 23, 4⟩
def R.CH_PC_STAT_FAILS : Fld := ⟨0xB01C, 31, 24⟩
def R.CH_PAREA_LO_SIZE (i : Nat) : Fld := ⟨0xB020 + 8 * i, 11, 0⟩
def R.CH_PAREA_LO_BASE_LO (i : Nat) : Fld := ⟨0xB020 + 8 * i, 31, 12⟩
def R.CH_PAREA_HI_BASE_HI (i : Nat) : Fld := ⟨0xB024 + 8 * i, 23, 0⟩
def R.CH_PAREA_SRC_SRC : Fld := ⟨0xB030, 23, 0⟩
def R.HUB_FH_STAT_FILL : Fld := ⟨0x20, 6, 0⟩
def R.HUB_FH_STAT_PERMANENT : Fld := ⟨0x20, 19, 8⟩
def R.HUB_FH_STAT_SPARES : Fld := ⟨0x20, 31, 20⟩
def R.HUB_CPER_LO_BASE_LO : Fld := ⟨0x30, 31, 12⟩
def R.HUB_CPER_HI_BASE_HI : Fld := ⟨0x34, 31, 0⟩
def R.HUB_CPER_PTR_WR : Fld := ⟨0x38, 9, 0⟩
def R.HUB_CPER_PTR_RD : Fld := ⟨0x38, 19, 10⟩
def R.HUB_CPER_PTR_SIZE : Fld := ⟨0x38, 23, 20⟩
def R.HUB_CPER_PTR_EN : Fld := ⟨0x38, 24, 24⟩
def R.HUB_CPER_PTR_DROPPED : Fld := ⟨0x38, 31, 25⟩
def R.HUB_PART_MAP_MAP : Fld := ⟨0x50, 31, 0⟩
def R.VOTE_ERRS : Fld := ⟨0x40, 15, 0⟩
def R.VOTE_STUCK : Fld := ⟨0x40, 23, 16⟩
def R.VOTE_LAST_OFFSET : Fld := ⟨0x44, 18, 0⟩
def R.VOTE_LAST_BIT : Fld := ⟨0x44, 23, 19⟩
def R.VOTE_LAST_COPY : Fld := ⟨0x44, 25, 24⟩
def R.EVT_LO_BASE_LO : Fld := ⟨0x80, 31, 12⟩
def R.EVT_HI_BASE_HI : Fld := ⟨0x84, 31, 0⟩
def R.EVT_CFG_SIZE : Fld := ⟨0x88, 3, 0⟩
def R.EVT_CFG_DELAY : Fld := ⟨0x88, 15, 4⟩
def R.EVT_CFG_IRQ : Fld := ⟨0x88, 16, 16⟩
def R.EVT_CFG_DROPPED : Fld := ⟨0x88, 30, 24⟩
def R.EVT_CFG_EN : Fld := ⟨0x88, 31, 31⟩
def R.EVT_PTR_WR : Fld := ⟨0x8C, 15, 0⟩
def R.EVT_PTR_RD : Fld := ⟨0x8C, 31, 16⟩
def R.HUB_MOULD_CMD_CMD : Fld := ⟨0x300, 2, 0⟩
def R.HUB_MOULD_CMD_GO : Fld := ⟨0x300, 31, 31⟩
def R.HUB_MOULD_ADDR_LO_ADDR_LO : Fld := ⟨0x304, 31, 6⟩
def R.HUB_MOULD_ADDR_HI_ADDR_HI : Fld := ⟨0x308, 31, 0⟩
def R.HUB_MOULD_LEN_LEN : Fld := ⟨0x30C, 24, 0⟩
def R.HUB_MOULD_CFG_DRAIN_LIM : Fld := ⟨0x310, 15, 0⟩
def R.HUB_MOULD_CFG_AT_EN : Fld := ⟨0x310, 16, 16⟩
def R.HUB_MOULD_AT_AT : Fld := ⟨0x314, 31, 0⟩
def R.HUB_MOULD_STAT_STATE : Fld := ⟨0x318, 2, 0⟩
def R.HUB_MOULD_STAT_SAFE : Fld := ⟨0x318, 3, 3⟩
def R.HUB_MOULD_STAT_ERR : Fld := ⟨0x318, 7, 4⟩
def R.HUB_MOULD_STAT_SECT : Fld := ⟨0x318, 13, 8⟩
def R.HUB_MOULD_STAT_SLOT : Fld := ⟨0x318, 14, 14⟩
def R.HUB_MOULD_STAT_DELTAS : Fld := ⟨0x318, 18, 15⟩
def R.HUB_MOULD_SERIAL_LO_SERIAL_LO : Fld := ⟨0x31C, 31, 0⟩
def R.HUB_MOULD_SERIAL_HI_SERIAL_HI : Fld := ⟨0x320, 31, 0⟩
def R.CH_PWR_CFG_IDLE_T : Fld := ⟨0xC000, 13, 0⟩
def R.CH_PWR_CFG_SLEEP_T : Fld := ⟨0xC000, 29, 14⟩
def R.CH_PWR_CFG_DEEP_EN : Fld := ⟨0xC000, 30, 30⟩
def R.CH_PWR_CFG2_DEEP_T : Fld := ⟨0xC010, 15, 0⟩
def R.CH_PWR_CMD_TARGET : Fld := ⟨0xC004, 1, 0⟩
def R.CH_PWR_CMD_GO : Fld := ⟨0xC004, 31, 31⟩
def R.CH_PWR_STAT_STATE : Fld := ⟨0xC008, 1, 0⟩
def R.CH_PWR_STAT_TRANS : Fld := ⟨0xC008, 2, 2⟩
def R.CH_PWR_STAT_REUP_PENDING : Fld := ⟨0xC008, 3, 3⟩
def R.CH_PWR_STAT_LAST_WAKE : Fld := ⟨0xC008, 7, 4⟩
def R.CH_PWR_STAT_WAKES : Fld := ⟨0xC008, 23, 16⟩
def R.CH_PWR_STAT_REUPS : Fld := ⟨0xC008, 31, 24⟩
def R.CH_PWR_CAP_CAPHOLD : Fld := ⟨0xC00C, 15, 0⟩
def R.CH_PWR_CAP_INLIM : Fld := ⟨0xC00C, 31, 16⟩
def R.HUB_PWR_OFF_FORCE : Fld := ⟨0x400, 0, 0⟩
def R.HUB_PWR_OFF_KEY : Fld := ⟨0x400, 23, 8⟩
def R.HUB_PWR_OFF_GO : Fld := ⟨0x400, 31, 31⟩
def R.HUB_WAKE_START : Fld := ⟨0x404, 1, 0⟩
def R.HUB_PIN_STAT_WAKE_ACT : Fld := ⟨0x408, 0, 0⟩
def R.HUB_PIN_STAT_WAKE_STUCK : Fld := ⟨0x408, 1, 1⟩
def R.HUB_PIN_STAT_TICK_ACT : Fld := ⟨0x408, 2, 2⟩
def R.HUB_PIN_STAT_TICK_STUCK : Fld := ⟨0x408, 3, 3⟩
def R.HUB_PIN_STAT_ALERT_ACT : Fld := ⟨0x408, 4, 4⟩
def R.HUB_PIN_STAT_ALERT_STUCK : Fld := ⟨0x408, 5, 5⟩
def R.HUB_PIN_STAT_FAST : Fld := ⟨0x408, 15, 8⟩
def R.HUB_SEC_POLICY_POLICY : Fld := ⟨0x480, 1, 0⟩
def R.HUB_SEC_POLICY_MEMENC : Fld := ⟨0x480, 2, 2⟩
def R.HUB_SEC_POLICY_LOCKED : Fld := ⟨0x480, 3, 3⟩
def R.HUB_SEC_ALARM_TAMPER : Fld := ⟨0x484, 0, 0⟩
def R.HUB_SEC_ALARM_VGLITCH : Fld := ⟨0x484, 1, 1⟩
def R.HUB_SEC_ALARM_CGLITCH : Fld := ⟨0x484, 2, 2⟩
def R.HUB_SEC_ALARM_TEMP : Fld := ⟨0x484, 3, 3⟩
def R.HUB_SEC_ALARM_FIBER : Fld := ⟨0x484, 4, 4⟩
def R.HUB_SEC_ALARM_FENCED : Fld := ⟨0x484, 5, 5⟩
def R.HUB_SEC_ALARM_ERASING : Fld := ⟨0x484, 6, 6⟩
def R.HUB_SEC_ALARM_ALARMS : Fld := ⟨0x484, 15, 8⟩
def R.CH_THERM_TJ : Fld := ⟨0xC020, 7, 0⟩
def R.CH_THERM_HOLD : Fld := ⟨0xC020, 8, 8⟩
def R.CH_THERM_HOLDS : Fld := ⟨0xC020, 23, 16⟩
def R.CH_THERM_TRIPS : Fld := ⟨0xC020, 31, 24⟩

/-- The row of the map that holds the register at byte offset `off` of PF0 (`hub`) or of a channel's function. -/
def regFind (hub : Bool) (off : Nat) : Option RegDef :=
  regTable.find? fun r =>
    (if hub then r.hub else r.chan) &&
      (if r.count == 1 then off == r.base
       else off >= r.base && off < r.base + r.stride * r.count && (off - r.base) % r.stride == 0)

/-- The index of the instance at `off`. -/
def RegDef.index (r : RegDef) (off : Nat) : Nat :=
  if r.stride == 0 then 0 else (off - r.base) / r.stride

/-- Reset values that a table gives per instance: Table 3.7 for CH_ARB_CFG, 4,096 x n for BASE of FT_JC_RANGE. -/
def regResetOverride (hub : Bool) (off : Nat) : Option Nat :=
  if hub then none
  else if off == 0x600 then some (16 + 8 * 2 ^ 8 + 20 * 2 ^ 16)
  else if off == 0x608 then some (8 + 4 * 2 ^ 8 + 20 * 2 ^ 16)
  else if off == 0x610 then some (4 + 8 * 2 ^ 8 + 50 * 2 ^ 16)
  else if off == 0x618 then some (8 + 8 * 2 ^ 8 + 50 * 2 ^ 16)
  else if off >= 0x6100 && off < 0x6140 && off % 4 == 0 then
    some (4096 * ((off - 0x6100) / 4) + 0x0FFF * 2 ^ 16)
  else none

/-- The reset value of the register at `off`; 0 where no register stands (R447). -/
def regReset (hub : Bool) (off : Nat) : Word :=
  match regResetOverride hub off with
  | some v => BitVec.ofNat 32 v
  | none =>
    match regFind hub off with
    | none => 0
    | some r => BitVec.ofNat 32 (r.fields.foldl (fun a f => a + f.rst * 2 ^ f.lo) 0)

end Sys2Proof.Machine
end

