-- ==== Sys2Proof/Machine/State.lean ====
section
/-! DEFINITION. The state of the package as plain data: everything the spec gives the machine (INVENTORY.md, State). -/

namespace Sys2Proof.Machine

/-- A sparse table: pairs of a key and a value, keys strictly rising, no entry equal to what an unlisted key reads as
(the default is a parameter of the operations, Machine/Ops.lean). -/
abbrev Cells (α : Type) := List (Nat × α)

/-- Bytes of one address space; an unlisted byte reads as 0 (log entry 5). -/
abbrev Mem := Cells Byte

/-! ## Events (16, Tables 16.2 and 16.3) -/

/-- Every event the spec names; rateAdvice, rateChange, vcAdvice, vcChange, ringAdvice, ringChange and pwrChange stand for events that
it has the device post without a name (Table 0.6, log entry 88). -/
inductive Ev where
  | ariAbsent | holdAbandoned
  | semSat | jobFault | jobKilled | cqFault | cqLocked | sqFault | jcrFault
  | tickHoldover | tickSlip | tickCfgBad | lcOvercommit | resourceHang
  | arwsTagBad | wcodeBad
  | ftCfgBad | ftCtlLocked | ftRangeBad | ftHostBad | culletLow
  | rcCtlLocked | rcSwapBad | rcSwapped
  | mmuLocked | tcWbFail | hotRegion | promoChange | swFault | windowLate | regClamp | rateAdvice | rateChange
  | tierStall | tierSubst
  | fabLaserLow | ringManRefused | ringLockLost | ringAdvice | ringChange | calClip | fabMsgLost | fabVcStall | vcAdvice | vcChange | fabUnreach | fabMiswire
  | fabMacFail | fabLinkUp | fabLinkDown | fabSpare
  | clSlotLocked | clSlotBad | inrRefused | inrFail | inrDone
  | gtReplaced | gtSplitChange | gtSplitAdvice | gtSplitLocked
  | digestSkip | digestAbsent | digestMismatch | unitRetired | cperDrop | pcDone | pcFail | restoreDone | restoreFail
  | regPartial | regEpochWrite | voteErr | voteStuck
  | mouldDeltaBad | mouldFallback | mouldCommit
  | pwrAdvice | pwrChange | pwrWake | reupPending | pwrRefused | alertHold | stuckInput
  | secAlarm | secPolicyRefused | secErased
  | thermHold | thermTrip
  deriving DecidableEq, Repr

/-- One event record before it is laid out in memory (Table 16.2). `draw` is the index of the free value that stands
for TIME (log entry 3). -/
structure EvRec where
  src : Nat
  code : Ev
  seq : Nat
  tick : Nat
  draw : Nat
  arg : List Nat
  deriving DecidableEq, Repr

/-! ## The sequencer (02) -/

/-- Context states, Table 2.1. -/
inductive CtxSt where
  | free | ready | run | waitSem | waitQueue | waitFence | preempted | faulted | halted | killing
  deriving DecidableEq, Repr

/-- A semaphore: count, initial value and owner (R60, R63). -/
structure Sem where
  count : Nat
  init : Nat
  owner : Option Nat
  deriving DecidableEq, Repr

/-- What a blocked scalar thread waits for. -/
inductive WaitOn where
  | none
  /-- SEM WAIT: semaphore, count, TG. -/
  | sem (n count : Nat) (tg : Bool)
  /-- FENCE: the code imm16[3:0]. -/
  | fence (code : Nat)
  deriving DecidableEq, Repr

/-- A load the scalar thread waits for (R524). -/
inductive LoadKind where
  | ld | lw | lwu | tdld
  deriving DecidableEq, Repr

/-- A pending scalar or descriptor load. -/
structure PendLoad where
  kind : LoadKind
  dst : Nat
  va : DWord
  /-- It was issued before the last INV (R306). -/
  old : Bool
  deriving DecidableEq, Repr

/-- A store that waits in the context's store buffer (R58, R70, R524). -/
structure PendStore where
  va : DWord
  bytes : Nat
  val : Desc
  deriving DecidableEq, Repr

/-- The job of a context (Table 3.3, Table 2.4, Table 3.4). -/
structure Job where
  id : DWord
  client : Nat
  lc : Bool
  budget : Nat
  seed : DWord
  sq : Nat
  issued : Nat
  done : Nat
  preempts : Nat
  overruns : Nat
  deriving DecidableEq, Repr

/-- How the scheduler sees a context (R93 to R108, CH_JC_SCHED). -/
structure CtxSched where
  lc : Bool
  slice : Bool
  /-- LC quanta left this tick, or BE quanta left in the slice. -/
  left : Nat
  /-- The waiter whose block started the donation, while DONATED. -/
  donor : Option Nat
  /-- Quanta the donation has run (R108). -/
  donated : Nat
  demoted : Bool
  debt : Nat
  /-- The context was chargeable at some time of the quantum (R96). -/
  busy : Bool
  deriving DecidableEq, Repr

/-- One pin of a context's pin table (R242). -/
structure PinRow where
  handle : Nat
  count : Nat
  deriving DecidableEq, Repr

/-- A job context (02, Job contexts). -/
structure Ctx where
  st : CtxSt
  /-- The state a context takes again when it next holds a slice. -/
  resume : CtxSt
  g : Vector DWord 32
  pc : DWord
  td : Vector Desc 64
  waitOn : WaitOn
  load : Option PendLoad
  stores : List PendStore
  /-- The wide instruction that waits for a queue entry (R66). -/
  wide : Wide
  job : Job
  sched : CtxSched
  /-- CH_JC_FAULT: STATUS, ENG and TD. -/
  fStatus : Nat
  fEng : Nat
  fTd : Nat
  /-- The kill reason of Table 3.5, 0 while none. -/
  reason : Nat
  /-- Completion records held until their ring has room (R72). -/
  held : List Desc
  /-- R64 and the release of branches (R243) have been applied; only records are outstanding. -/
  closed : Bool
  pins : List PinRow
  deriving DecidableEq, Repr

/-- An entry of an engine queue: the snapshot of R55 and R58. -/
structure Entry where
  jc : Nat
  eng : Nat
  word : Wide
  td : Vector Desc 64
  /-- The resolved sizes SHP0 to SHP3 (R521). -/
  size : List Int
  /-- ISSUE_SEQ. -/
  seq : Nat
  /-- Place in the channel's order of issue (R67). -/
  order : Nat
  /-- ARG of a ZERO_SHAPE no-op (R57), none for a real entry. -/
  zero : Option Nat
  /-- Values the engine's chapter takes at issue (for example a collective's SEQ, R377). -/
  aux : List Nat
  /-- The next pass to run, and the passes run (R68). -/
  pass : Nat
  started : Bool
  yielded : Bool
  overrun : Bool
  /-- The overrun up to the last quantum boundary, in units of 10 ns (R102). -/
  late : Nat
  /-- The overrun began inside the quantum that runs, by YIELD. -/
  mid : Bool
  /-- Stopped at a pass boundary: it holds no engine (R68). -/
  stopped : Bool
  /-- A fault met in execution: status, ARG, descriptor. -/
  fault : Option (Nat × Nat × Nat)
  /-- Engine-private partial results carried between passes (row statistics, staged rows, member replies). -/
  part : List (Nat × Nat)
  /-- CLK_ARR cycles of the passes run so far. -/
  cyc : Nat
  /-- The next pass has started; an array pass may be held (R471, R482, R483, R510). -/
  going : Bool
  /-- Page references masked for the entry at their deadline (R269, R333). -/
  masked : List Nat
  deriving DecidableEq, Repr

/-- What the channel's order knows of an entry that has started (R69, R70): the operands it reads and writes, the entries
known to have completed before it started, the semaphores whose consumption makes its completion known, and the contexts
that know it. -/
structure Access where
  order : Nat
  jc : Nat
  eng : Nat
  /-- The entry has not completed. -/
  live : Bool
  ins : List Desc
  outs : List Desc
  pred : List Nat
  sems : List Nat
  seen : List Nat
  deriving DecidableEq, Repr

/-- One engine and its queue (R66 to R68). -/
structure EngQ where
  waiting : List Entry
  run : Option Entry
  /-- Entries that have started and hold no engine: stopped at a pass boundary, or parked (R381). -/
  parked : List Entry
  deriving DecidableEq, Repr

/-- One arbiter instance (R111 to R116). -/
structure Arb where
  cls : Nat
  inst : Nat
  grant : Option Grant
  /-- Who holds the grant, when a requester does. -/
  holder : Option ReqBy
  /-- Transfers left of the grant's burst (R113). -/
  left : Nat
  last : Nat
  wait : Cells Nat
  /-- Requesters that reached WAITLIM, oldest first. -/
  reached : List Nat
  masked : List Grant
  deriving DecidableEq, Repr

/-- The channel's scheduler (R43, R90, R93 to R99). -/
structure Sched where
  nextIssue : Nat
  nextLc : Nat
  nextBe : Nat
  be : List Nat
  /-- Quantum of the tick that runs, 0 for the first. -/
  quantum : Nat
  /-- LC quanta charged in this tick (R95). -/
  charged : Nat
  /-- Entries issued so far on the channel (the order of R67). -/
  order : Nat
  arb : List Arb
  deriving DecidableEq, Repr

/-! ## Memory (11) -/

/-- A leaf of the page table as a walk resolves it (Table 11.3). -/
structure Leaf where
  tier : Tier
  tiered : Bool
  coded : Bool
  promo : Bool
  ta : Nat
  /-- 4,096 or 2 MiB. -/
  size : Nat
  deriving DecidableEq, Repr

/-- One cached translation (R306): the virtual page and its leaf. -/
structure TlbRow where
  vpn : Nat
  leaf : Leaf
  deriving DecidableEq, Repr

/-- A granule of the tier cache (R318): its home, its way in its set, whether it is dirty, and its 4 KiB (by byte offset). -/
structure TcLine where
  tier : Tier
  gran : Nat
  way : Nat
  dirty : Bool
  bytes : Mem
  deriving DecidableEq, Repr

/-- A write-back of the write-back buffer (R319, R320): the granule, its way, and its 4 KiB as they stood when it started. -/
structure Wb where
  tier : Tier
  gran : Nat
  way : Nat
  bytes : Mem
  /-- Its home failed; it is tried again (R321). -/
  failed : Bool
  deriving DecidableEq, Repr

/-- The tier cache (R318 to R321). Lines stand most recently used first. -/
structure TCache where
  lines : List TcLine
  wb : List Wb
  /-- Granules that were dirty when FLUSH was written and are not yet written back. -/
  flush : List (Tier × Nat)
  deriving DecidableEq, Repr

/-- A region of the promotion table (R322). -/
structure Region where
  addr : Nat
  count : Nat
  promoted : Bool
  deriving DecidableEq, Repr

/-- Where a stream window stands in its run (R324). -/
inductive WinPhase where
  | idle | waiting | copying
  deriving DecidableEq, Repr

/-- One stream window (R323 to R326). -/
structure Win where
  phase : WinPhase
  cur : Nat
  late : Bool
  ending : Bool
  /-- Boundaries that found the run in progress. -/
  age : Nat
  /-- Its copy was in progress at the last INV (R306). -/
  old : Bool
  deriving DecidableEq, Repr

/-- Residency of an expert (R326). -/
inductive ExpSt where
  | filling | resident | late
  deriving DecidableEq, Repr

/-- The token bucket of one source at one instance (R327 to R329), beside its registers. -/
structure Bucket where
  /-- Transfers that wait, in request order: the channel that made them, and the tokens they still need. -/
  waiting : List (Fin 8 × Nat)
  /-- TOKENS stayed at BURST, and a wait was counted, since the last tuning. -/
  full : Bool
  waited : Bool
  deriving DecidableEq, Repr

/-- Bytes of a tier that read back unpredictably since the tier's encryption changed or its key was zeroised (R490): the
free value that stands for them, and the bytes written since. -/
structure Lost where
  draw : Nat
  kept : List Nat
  deriving DecidableEq, Repr

/-- The memories of one channel. -/
structure ChMem where
  t1 : Mem
  t2 : Mem
  lost2 : Option Lost
  ls : Mem
  arws : Mem
  /-- T1 sectors that hold poison or an uncorrectable error (R303, R436). -/
  poison : List Nat
  /-- Keys of the T1 rows whose copy to a spare row runs (R435). -/
  copying : List Nat
  /-- T2 sectors that read as poisoned (R311). -/
  poison2 : List Nat
  /-- T3 sectors whose request the access in hand has seen fail (R313, R315). -/
  bad3 : List Nat
  tlb : List TlbRow
  /-- Entries that had started at the last INV, by order of issue (R306). -/
  inv : List Nat
  tc : TCache
  promo : List Region
  win : Vector Win 4
  experts : Cells ExpSt
  bucket : Vector Bucket 18
  /-- Stalled cycles per cause below the next unit of MEM_TIER_STALL (R330). -/
  stall : Cells Nat
  deriving DecidableEq, Repr

/-! ## The matrix array's store and the futures store (04, 08) -/

/-- Owner tags of the ARWS (R128 to R130): tags by slot (0x10 FREE when unlisted), slots under or waiting for clearing in
order, and tag writes that wait for a slot. -/
structure Arws where
  tags : Cells Nat
  clearing : List Nat
  waiting : List (Nat × Nat)
  deriving DecidableEq, Repr

/-- The store configuration in force (Table 8.1). -/
structure FtCfg where
  pageBase : Nat
  scaleBase : Nat
  pages : Nat
  blocks : Nat
  blockBase : Nat
  tableBase : Nat
  pfxBase : Nat
  form : Nat
  hd : Nat
  streams : Nat
  deriving DecidableEq, Repr

/-- STATE of a block record (Table 8.3). -/
inductive BlkSt where
  | free | open_ | sealed | published
  deriving DecidableEq, Repr

/-- A block record (Table 8.3). -/
structure Blk where
  parent : Option Nat
  refs : Nat
  st : BlkSt
  fill : Nat
  noKey : Bool
  inTable : Bool
  number : Nat
  key : BitVec 128
  ns : Nat
  tokens : List Nat
  pages : List Nat
  deriving DecidableEq, Repr

/-- STATE of a futures-table entry (Table 8.4). -/
inductive BrSt where
  | free | live | released
  deriving DecidableEq, Repr

/-- A futures-table entry with its tip word (Table 8.4, R220). -/
structure Branch where
  gen : Nat
  st : BrSt
  owner : Nat
  pins : Nat
  keyless : Bool
  parent : Nat
  forkPos : Nat
  length : Nat
  commit : Nat
  refs : Nat
  punty : Nat
  group : Nat
  ns : Nat
  key : BitVec 128
  tip : Option Nat
  deriving DecidableEq, Repr

/-- A prefix-table entry that is valid (R234). -/
structure Pfx where
  key : BitVec 128
  block : Nat
  age : Nat
  deriving DecidableEq, Repr

/-- Pages in quarantine (R245) with the entries they wait for, by order of issue. -/
structure Quar where
  pages : List Nat
  wait : List Nat
  deriving DecidableEq, Repr

/-- A block of the reclaim list (R237) with the entries its quarantine waits for. -/
structure Recl where
  block : Nat
  wait : List Nat
  deriving DecidableEq, Repr

/-- The futures store of a channel (08). -/
structure FtSt where
  cfg : Option FtCfg
  ents : Cells Branch
  blks : Cells Blk
  /-- Pages freed, last freed first, and the first page never handed out. -/
  freed : List Nat
  fresh : Nat
  freedBlk : List Nat
  freshBlk : Nat
  pfx : Cells (Option Pfx)
  age : Nat
  quar : List Quar
  reclaim : List Recl
  hostReq : List Nat
  lowPosted : Bool
  /-- Cycles and bytes of the entry in hand (R253). -/
  tallyC : Nat
  tallyB : Nat
  deriving DecidableEq, Repr

/-! ## The matrix array and the recurrent engine (04, 10) -/

/-- The matrix array beside its registers (R57, R134, R136): the mode in which it was last held, the drain of the last
pass, class and index of the last pass, and the array, drain and lane cycles that stand below the next unit of their
counters. -/
structure MxSt where
  mode : Option Bool
  drain : Nat
  cls : Nat
  pass : Nat
  act : Nat
  drainCyc : Nat
  laneCyc : Nat
  deriving DecidableEq, Repr

/-- STATE of a state-table entry (Table 10.1). -/
inductive RcState where
  | free | live | pending
  deriving DecidableEq, Repr

/-- A state-table entry (Table 10.1). -/
structure RcEnt where
  gen : Nat
  st : RcState
  owner : Nat
  kind : Nat
  parts : Nat
  h : Nat
  len : Nat
  pins : Nat
  qref : Nat
  space : Nat
  home : Nat
  steps : Nat
  dst : Nat
  /-- The pending swap-out was requested by the host (R297). -/
  host : Bool
  deriving DecidableEq, Repr


/-! ## The fabric (12) -/

/-- A cell at a router output: the input it came in at (a link, or 16 for the channel's own engines), the cell, and the
order of the CL entry whose reserved credits it may use (R352). -/
structure Queued where
  inp : Nat
  cell : Cell
  order : Option Nat
  deriving DecidableEq, Repr

/-- The deficits of one input port at an output (R358): the virtual channel last served, whether its grant stopped in the
middle of a turn, and the deficits. -/
structure Dwrr where
  inp : Nat
  last : Nat
  mid : Bool
  deficit : List Nat
  deriving DecidableEq, Repr

/-- Credits of one output and virtual channel that a CL entry has reserved (R352). -/
structure Reserved where
  order : Nat
  vc : Nat
  n : Nat
  deriving DecidableEq, Repr

/-- A port or sibling link beside its registers (R350 to R372). -/
structure Link where
  /-- LSEQ of the next sequenced cell, and of the next one expected. -/
  txSeq : Nat
  rxNext : Nat
  /-- Last number received in order and past FEC and MAC: LACK. -/
  rxAck : Nat
  /-- Sequenced cells sent and not acknowledged, with their resends. -/
  replay : List (Cell × Nat)
  credits : List Nat
  reserved : List Reserved
  /-- Credits to return to the partner, per virtual channel. -/
  owed : List Nat
  /-- Cells of an earlier link-up still buffered here: their credits are void (R351, Table 12.15). -/
  stale : List Nat
  /-- The receiver discards cells after a gap; a NAK is to be sent. -/
  gap : Bool
  nak : Bool
  outq : List Queued
  dwrr : List Dwrr
  /-- Sequenced cells of the open encryption group, the number of the next group, and key agreements since training. -/
  txGroup : Nat
  groups : Nat
  keys : Nat
  /-- Cells received whose MAC is awaited. -/
  rxGroup : List Cell
  /-- Routes with this link as PRI have moved to ALT (R355, R371). -/
  moved : Bool
  /-- The transmit slots are dark for 10 µs (R371). -/
  dark : Bool
  /-- Since the last weight tuning: bytes sent, whether the virtual channel was ever empty, and whether it ever held a
  cell (R360). -/
  sent : List Nat
  empty : List Bool
  held : List Bool
  /-- Corrected codewords below the next unit of CORR. -/
  corr : Nat
  /-- Count and timestamp of the last control codeword (R348). -/
  ctl : Option (Nat × Nat)
  /-- TICK cells for the next cell boundary (R358). -/
  ticks : List Cell
  /-- The last cell sent outside the sequence, an IDLE or TICK cell (R351). -/
  plain : Option Cell
  /-- The MAC cell of the open group waits for room in the replay buffer (R350). -/
  due : Bool
  /-- The partner has wire compression, as it said at the last training (Table 12.11). -/
  peerWire : Bool
  deriving DecidableEq, Repr

/-- A message in the order of its SRC and VC (R353): the cells that arrived, the offset of the last cell once known, and
whether it has been abandoned. -/
structure FabMsg where
  src : Nat
  vc : Nat
  msg : Nat
  typ : Nat
  cells : List (Nat × List Byte)
  last : Option Nat
  gone : Bool
  deriving DecidableEq, Repr

/-- A message delivered whole to the channel's engines. -/
structure Msg where
  src : Nat
  vc : Nat
  typ : Nat
  data : List Byte
  deriving DecidableEq, Repr

/-- The link unit of a channel (12). -/
structure Fab where
  link : Vector Link 16
  /-- Next MSG per destination and virtual channel (8 DST + VC), and next to deliver per source (8 SRC + VC). -/
  txMsg : Cells Nat
  rxMsg : Cells Nat
  parts : List FabMsg
  /-- Cells held at their source for want of a route, and the DSTs posted in this ms (R355). -/
  waiting : List Queued
  unreach : List Nat
  inbox : List Msg
  /-- Spare switches in progress: fiber 0 to 4 or 5 + waveguide, and the slot that moves to W8 (R372). -/
  spare : List (Nat × Nat)
  /-- Laser slots whose FAB_LASER_LOW is not re-armed: laser and slot (R342). -/
  low : List (Nat × Nat)
  /-- User calibration that the links have in force since their training: item, index and value (R366). -/
  cal : List (Nat × Nat × Nat)
  deriving DecidableEq, Repr

/-! ## Collectives (13) -/

/-- An in-network reduction that runs (R392): FUNC, elements, addresses, and the chunks sent up and written, as
(tree, chunk). -/
structure Inr where
  func : Nat
  n : Nat
  src : Nat
  dst : Nat
  up : List (Nat × Nat)
  down : List (Nat × Nat)
  deriving DecidableEq, Repr

/-- A communicator slot beside its registers (R375 to R382). -/
structure ClSlot where
  /-- The descriptor as read when EN was written. -/
  id : DWord
  r : Nat
  g1 : Nat
  g2 : Nat
  g3 : Nat
  g4 : Nat
  rank : Nat
  nodes : List Nat
  /-- SEQ of the entry that has joined. -/
  joined : Option Nat
  /-- Messages received and not used yet, with their KIND. -/
  held : List (Nat × CMsg)
  /-- ABORTs received: SEQ and status. -/
  aborts : List (Nat × Nat)
  inr : Option Inr
  deriving DecidableEq, Repr

/-! ## Resilience (15) -/

/-- A digest of one region in the round that runs (R427): region, and the digest. -/
structure DigRow where
  region : Nat
  digest : BitVec 256
  /-- PEERS of its entry. -/
  peers : Nat
  deriving DecidableEq, Repr

/-- A digest received from a peer for the current round. -/
structure PeerDig where
  peer : Nat
  region : Nat
  digest : BitVec 256
  /-- It has been compared with the own digest (R427). -/
  seen : Bool
  deriving DecidableEq, Repr

/-- The digest engine (R426, R427): the round's tick number and the table index it has reached. -/
structure DigSt where
  round : Nat
  next : Nat
  own : List DigRow
  peers : List PeerDig
  deriving DecidableEq, Repr

/-- The region that a digest round reads (R426): where it stands, and whether a store has met it since the reading began
(R429). -/
structure DigHand where
  base : Nat
  len : Nat
  torn : Bool
  deriving DecidableEq, Repr

/-- What the copy mover does (R440 to R444). -/
inductive MoverPhase where
  | idle
  /-- Waits on WSEM (R441 step 1). -/
  | waiting
  | reading
  /-- The manifest is sent; an ACK is awaited. -/
  | manifest
  /-- RESTORE_REQ is sent; DATA and a manifest are awaited. -/
  | restoring
  deriving DecidableEq, Repr

/-- One generation of a copy area (R440): its epoch, whether its manifest marks it valid, and the manifest. -/
structure Gen where
  epoch : Nat
  valid : Bool
  man : List ManEntry
  deriving DecidableEq, Repr

/-- A copy area: two generations and the one that holds the last valid epoch. -/
structure Area where
  g0 : Gen
  g1 : Gen
  last : Nat
  deriving DecidableEq, Repr

/-- A chunk that has landed: its region, its offset in units of 512 KiB, its place in the generation (0 in a restore) and its
bytes. -/
structure Landed where
  region : Nat
  off : Nat
  place : Nat
  len : Nat
  deriving DecidableEq, Repr

/-- The copy mover of a channel. -/
structure Mover where
  phase : MoverPhase
  epoch : Nat
  area0 : Area
  area1 : Area
  /-- The epoch that arrives (its low 32 bits), and the chunks of it that have landed (R442). -/
  rx : Option Nat
  landed : List Landed
  deriving DecidableEq, Repr

/-! ## Power (17) -/

/-- Channel power states, Table 17.2. -/
inductive PwrSt where
  | run | idle | sleep | deep
  deriving DecidableEq, Repr

/-- A change of power state that runs (R475, R478). -/
inductive PwrMove where
  | none
  /-- Entering the next state on the way to a target. -/
  | entry (target : PwrSt)
  /-- Returning to RUN, and then entering a state when a command asked for one (R480). -/
  | exit (after : PwrSt)
  deriving DecidableEq, Repr

/-- The power side of a channel (R472 to R483, R510, R511). -/
structure Power where
  st : PwrSt
  move : PwrMove
  /-- A wake that arrived during an entry, with its code (R478). -/
  wake : Option Nat
  /-- The lehr holds the change because its gaffer is in reset (R479). -/
  held : Bool
  /-- The credit E of R482 in units of 1/840 mW x 10 µs, and whether E is in use. -/
  credit : Int
  capped : Bool
  /-- The channel holds pass starts under R510 / is held in reset under R511. -/
  thermHold : Bool
  thermTrip : Bool
  deriving DecidableEq, Repr

/-! ## One channel -/

/-- The state of one channel. `reg` holds every register of the channel's BAR0 that no other field is the home of, by
offset; an unlisted register reads as its reset value (Machine/RegMap.lean). -/
structure Chan where
  reg : Cells Word
  sem : Vector Sem 256
  ctx : Vector Ctx 16
  q : Vector EngQ 11
  /-- Entries that have started and whose jobs have not ended, oldest first. -/
  log : List Access
  sched : Sched
  mem : ChMem
  arws : Arws
  ft : FtSt
  mx : MxSt
  /-- The state table, by index; an unlisted entry is FREE with generation 1 (R278). -/
  rc : Cells RcEnt
  fab : Fab
  cl : Vector ClSlot 16
  /-- Decode lanes that hold a record: lane and record (R417). -/
  lanes : List (Nat × Nat)
  dig : DigSt
  digHand : Option DigHand
  mover : Mover
  power : Power
  /-- The channel holds its functions: INRESET, an FLR or a trip keeps it in reset. -/
  inReset : Bool
  /-- The hub link is lost (R38). -/
  hubLost : Bool
  /-- The channel drains for a commit and loads no job (R466). -/
  draining : Bool
  deriving DecidableEq, Repr

/-! ## The package (01, 03, 15, 16, 17, 18) -/

/-- The condition of the package (Table 1.6, Table 18.4); `lost` after a hub fault, which counts as the loss of the whole
package (R38). -/
inductive PkgCond where
  | off | unpowered | inReset | starting | running | safe | failed | lost
  deriving DecidableEq, Repr

/-- The lease gate beside its registers (R21 to R30). -/
structure Lease where
  gwSeen : Bool
  geSeen : Bool
  /-- Both gaffers were heard in the window before. -/
  bothBefore : Bool
  /-- A window of the split ended with one gaffer only. -/
  gwWaits : Bool
  geWaits : Bool
  /-- Times in ms of the split-driven resets, newest first (R30). -/
  resets : List Nat
  deriving DecidableEq, Repr

/-- OTP and fuses (R17, R458, R460). -/
structure Otp where
  serial : DWord
  stepping : Nat
  keyHash : Vector (BitVec 384) 4
  revoked : Vector Bool 4
  roll : Nat
  imageKey : BitVec 256
  /-- Factory heater codes of the rings, by 2 × lane index + side (R366). -/
  heater : List Nat
  /-- The laser-to-ring map: slot and sweep start of each ring, by the same index (R366). -/
  rings : List (Nat × Nat)
  /-- Factory trims of the ring-site temperature sensors, the ring monitors and the laser monitors (R366). -/
  trims : List Nat
  deriving DecidableEq, Repr

/-- A record of the fault history (Table 15.3); its CRC is computed. -/
structure Hist where
  seq : Nat
  firstS : Nat
  unit : Nat
  cls : Nat
  count : Nat
  key : Nat
  action : Nat
  arg : Nat
  deriving DecidableEq, Repr

/-- The fault history and what is derived from it (R430 to R437). -/
structure History where
  recs : List Hist
  next : Nat
  seconds : Nat
  /-- Milliseconds since the powered second began. -/
  frac : Nat
  /-- HBM rows remapped to spare rows: the keys of the rows, without their sector bits. -/
  remaps : List Nat
  /-- CPER records held for want of room in the ring (R439). -/
  held : List (Hist × Nat)
  deriving DecidableEq, Repr

/-- A partition record (Table 16.6). -/
structure Part where
  valid : Bool
  mode : Nat
  lcShare : Nat
  list : List Nat
  pkey : BitVec 128
  cap : Nat
  g1 : Bool
  fallback : Nat
  kvWait : Nat
  deriving DecidableEq, Repr

/-- A link's entry in section PORTS (Table 16.5, log entry 38). -/
structure PortCfg where
  use : Nat
  enc : Bool
  peer : Nat
  peerPort : Nat
  deriving DecidableEq, Repr

/-- The settings of the autonomic policies of a partition (section POLICY): 0 MANUAL, 1 ASSIST, 2 AUTO. -/
structure Policies where
  promo : Nat
  reg : Nat
  vc : Nat
  power : Nat
  deriving DecidableEq, Repr

/-- Content of section PACKAGE (Table 16.5). T3 form: 0 HOST, 1 FLASH, 2 none, 3 both named. -/
structure PkgSec where
  number : Nat
  t3Form : Nat
  t3Base : Nat
  t3Size : Nat
  stripe : Bool
  /-- Namespace sizes of the SSDs (R315). -/
  ssds : List Nat
  /-- Offsets of the queues in the T3 queue area (R314). -/
  queues : List Nat
  tickPeriod : Nat
  tickSrc : Nat
  tickMaster : Bool
  masterNode : Nat
  deriving DecidableEq, Repr

/-- Content of section PORTS for one channel (Table 16.5). -/
structure PortsSec where
  ports : List PortCfg
  tickParent : Nat
  tickAlt : Nat
  tickKids : Nat
  deriving DecidableEq, Repr

/-- Content of section TIER for one channel (Table 16.5). -/
structure TierSec where
  tc : Word
  ide : Bool
  period : Nat
  hot : Nat
  cold : Nat
  promoMax : Nat
  deriving DecidableEq, Repr

/-- Content of section REGULATOR: per channel of the scope the bucket words and their bounds, and those of T3. -/
structure RegSec where
  chans : List (List Word × List (Nat × Nat))
  t3 : Option (List Word × List (Nat × Nat))
  deriving DecidableEq, Repr

/-- Content of section SECURITY (Table 16.5). -/
structure SecSec where
  alarm : Nat
  rootHash : BitVec 384
  debug : Bool
  deriving DecidableEq, Repr

/-- Content of section POLICY (Table 16.5). -/
structure PolSec where
  policy : List Policies
  vcPolicy : Nat
  ring : List Nat
  deriving DecidableEq, Repr

/-- The part of an image that is one channel's. -/
structure ImgChan where
  /-- The CHANNEL byte: none without one, else whether it says PARKED. -/
  parked : Option Bool
  ports : List PortCfg
  tickParent : Nat
  tickAlt : Nat
  tickKids : Nat
  /-- Register words of sections ROUTE, VC, TIER and REGULATOR, by offset. -/
  words : Cells Word
  ide : Bool
  period : Nat
  hot : Nat
  cold : Nat
  promoMax : Nat
  /-- RMIN and RMAX of each bucket (9t + k). -/
  bounds : List (Nat × Nat)
  /-- User calibration: item, index and value (Table 12.10). -/
  cal : List (Nat × Nat × Nat)
  ring : Nat
  deriving DecidableEq, Repr

/-- A composed image: the FULL image with its deltas (R468). -/
structure Image where
  serial : DWord
  bump : Bool
  roll : Nat
  /-- The last image composed is a DELTA. -/
  delta : Bool
  number : Nat
  t3Form : Nat
  t3Base : Nat
  t3Size : Nat
  stripe : Bool
  ssds : List Nat
  queues : List Nat
  tickPeriod : Nat
  tickSrc : Nat
  tickMaster : Bool
  masterNode : Nat
  parts : Vector Part 8
  chans : Vector ImgChan 8
  /-- Register words of the T3 buckets and their bounds. -/
  t3Words : Cells Word
  t3Bounds : List (Nat × Nat)
  alarm : Nat
  rootHash : BitVec 384
  debug : Bool
  policy : Vector Policies 8
  vcPolicy : Nat
  /-- An image of the composition carries a CAL section (R464). -/
  hasCal : Bool
  deriving DecidableEq, Repr

/-- The mould loader (R458 to R468) beside its registers. -/
structure Mould where
  force : Option Image
  staged : Option Image
  /-- The bytes of the image in force and of the image that loads or is staged. -/
  forceBytes : List Byte
  loadBytes : List Byte
  /-- The image that is staged was signed with OTP key slot 0 (R491). -/
  key0 : Bool
  /-- Boundaries since COMMIT (R466). -/
  boundaries : Nat
  killed : Bool
  deriving DecidableEq, Repr

/-- NOR flash (Table 16.8): its bytes, the active slot, and LOCKED. -/
structure Flash where
  bytes : Mem
  active : Nat
  locked : Bool
  deriving DecidableEq, Repr

/-- A staged write of an RWT register (R83). -/
structure Staged where
  pf : Nat
  off : Nat
  val : Word
  deriving DecidableEq, Repr

/-- The tick generator (R75 to R86). -/
structure Tick where
  num : DWord
  started : Bool
  staged : List Staged
  latched : List Staged
  /-- Consecutive predicted boundaries, before the last one, that no accepted edge or message met (R77). -/
  silent : Nat
  /-- An edge or message of the last boundary, and one of the next, has been accepted. -/
  met : Bool
  early : Bool
  /-- The master's number, to be adopted at the next boundary (R80, R81). -/
  adopt : Option DWord
  /-- Error still to be corrected, ns. -/
  slew : Int
  /-- Phase acquired but LOCKED only after the boundary of R81. -/
  acquiring : Bool
  hiLatch : Word
  serialHi : Word
  deriving DecidableEq, Repr

/-- One function's event path (R456, R457). -/
structure EvtPath where
  held : List EvRec
  /-- MSI-X vector 0 has fired for the unread records. -/
  fired : Bool
  irqs : Nat
  deriving DecidableEq, Repr

/-- A voted copy that disagreed: function, offset, bit, copy. -/
structure VoteRow where
  pf : Nat
  off : Nat
  bit : Nat
  copy : Nat
  deriving DecidableEq, Repr

/-- The voter (R454, R455): copies rewritten, with the checks of their function left in the 1 ms that follows, and copies
marked stuck. -/
structure Voter where
  recent : List (VoteRow × Nat)
  stuck : List VoteRow
  deriving DecidableEq, Repr

/-- The security engine (R486 to R492). -/
structure Security where
  /-- Sensors that still detect their condition: TAMPER, VGLITCH, CGLITCH, TEMP, FIBER. -/
  persist : BitVec 5
  /-- The memory key is present in the key store. -/
  memKey : Bool
  /-- T2 and T3 under FLASH hold bytes encrypted under the memory key (R490). -/
  enc : Bool
  locked : Bool
  /-- The policy last committed, as the key store holds it (R492). -/
  stored : Nat
  /-- An alarm recorded in Off for the next start-up. -/
  recorded : Bool
  deriving DecidableEq, Repr

/-- Levels of the pins as accepted (18, Table 18.3): PERST# asserted, FL_EN high, the ADDR straps, and whether THERM_N
and FAULT_N are released (high). -/
structure Pins where
  perst : Bool
  flEn : Bool
  strap : BitVec 2
  /-- Start-up is held at step 3 by the flash recovery port (R505). -/
  held : Bool
  thermN : Bool
  faultN : Bool
  deriving DecidableEq, Repr

/-- How the last host access completed (R33, R37, R447). -/
inductive Cpl where
  | ok | unsupported | abort
  deriving DecidableEq, Repr

/-- What the package answered last on its ports: the host port, the I3C port, the flash recovery port and JTAG. -/
structure Answers where
  cpl : Cpl
  data : Word
  /-- I3C: whether the command was answered with NACK, and the bytes read. -/
  i3cNack : Bool
  i3c : List Byte
  spi : List Byte
  /-- JTAG: the levels scanned out, or BYPASS. -/
  jtag : List Bool
  deriving DecidableEq, Repr

/-- What the configuration space of a function that is present shows of it (R31, R32): its IDs, and the function number that
follows in the ARI chain. -/
structure CfgSpace where
  vendor : BitVec 16
  device : BitVec 16
  revision : BitVec 8
  next : Nat
  deriving DecidableEq, Repr

/-- Everything of the package that is no channel's. -/
structure Pkg where
  /-- Registers of PF0, by offset. -/
  reg : Cells Word
  cond : PkgCond
  vmain : Bool
  vaux : Bool
  vstby : Bool
  pins : Pins
  startFails : Nat
  /-- Functions present since the last host-port reset, and whether the port is up. -/
  functions : BitVec 8
  portUp : Bool
  ari : Bool
  /-- The configuration space of the functions present, by function number. -/
  cfg : List (Nat × CfgSpace)
  lease : Lease
  gwReset : Bool
  geReset : Bool
  heldWakes : List (Nat × Nat)
  otp : Otp
  flash : Flash
  hist : History
  mould : Mould
  tick : Tick
  evt : Vector EvtPath 9
  evtSeq : Cells Nat
  voter : Voter
  sec : Security
  /-- VMAIN current of the last 10 µs and the steps granted since, in mA (R471). -/
  current : Nat
  granted : Nat
  /-- VMAIN at the package, in mV, as last measured. -/
  vmainMv : Nat
  t3Bucket : Vector Bucket 8
  /-- NVMe commands that the hub has submitted, modulo 256: by 8 x SSD + channel (R314, log entry 87). -/
  nvTail : Cells Nat
  t3 : Mem
  lost3 : Option Lost
  host : Mem
  out : Answers
  deriving DecidableEq, Repr

/-- The machine: the package, its channels, the counter of free values drawn (the model's own, log entry 3) and the
queue of commands that wait, first in, first out. -/
structure State where
  pkg : Pkg
  chan : Vector Chan 8
  free : Nat
  pending : List Instr
  deriving DecidableEq, Repr

/-- The machine never stops with a fault: every fault of the spec is a next state (log entry 7). The one constructor
exists because the host's interface names the type; no meaning raises it. Safe. -/
inductive Fault where
  | never
  deriving DecidableEq, Repr

/-- Why a command is refused. -/
inductive Refusal where
  /-- No meaning yet, named by its mnemonic. Raised by exec's arms alone. Safe: the machine stops. -/
  | notModelled (mnemonic : String)
  /-- The debug port behind JTAG, when the image in force enables it (R504): the spec does not say what it does.
  Raised by JTAG_INSTRUCTION alone. Safe: the machine stops. -/
  | debugPort
  deriving DecidableEq, Repr
/-! ## Reset -/

/-- A link before any training: nothing sent, nothing owed. -/
def Link.new : Link :=
  ⟨0, 0, 4095, [], List.replicate 8 0, [], List.replicate 8 0, List.replicate 8 0, false, false, [], [], 0, 0, 0, [], false, false,
    List.replicate 8 0, List.replicate 8 true, List.replicate 8 false, 0, none, [], none, false, false⟩

/-- The link unit of a channel before any training. -/
def Fab.new : Fab := ⟨Vector.replicate 16 Link.new, [], [], [], [], [], [], [], [], []⟩

/-- A slot that is not enabled. -/
def ClSlot.new : ClSlot := ⟨0, 0, 0, 0, 0, 0, 0, [], none, [], [], none⟩

/-- No job (log entry 4). -/
def Job.new : Job := ⟨0, 0, false, 0, 0, 0, 0, 0, 0, 0⟩

/-- A FREE context; its registers are those the load of a job sets (R42, log entry 4). -/
def Ctx.new : Ctx :=
  ⟨.free, .run, Vector.replicate 32 0, 0, Vector.replicate 64 0, .none, none, [], 0, Job.new,
    ⟨false, false, 0, none, 0, false, 0, false⟩, 0, 0, 0, 0, [], false, []⟩

/-- A token bucket with nothing waiting. -/
def Bucket.new : Bucket := ⟨[], false, false⟩

/-- The memories of a channel: nothing listed, nothing cached. -/
def ChMem.new : ChMem :=
  ⟨[], [], none, [], [], [], [], [], [], [], [], ⟨[], [], []⟩, [], Vector.replicate 4 ⟨.idle, 0, false, false, 0, false⟩, [],
    Vector.replicate 18 Bucket.new, []⟩

/-- The futures store while it is not enabled (R211). -/
def FtSt.new : FtSt := ⟨none, [], [], [], 0, [], 0, [], 0, [], [], [], false, 0, 0⟩

/-- The copy mover at rest: no epoch, no valid generation. -/
def Mover.new : Mover :=
  let g : Gen := ⟨0, false, []⟩
  ⟨.idle, 0, ⟨g, g, 0⟩, ⟨g, g, 0⟩, none, []⟩

/-- A channel right after reset: held in reset until step 5 of start-up (HUB_CH_LIVE), every register at its reset value. -/
def Chan.new : Chan :=
  ⟨[], Vector.replicate 256 ⟨0, 0, none⟩, Vector.replicate 16 Ctx.new, Vector.replicate 11 ⟨[], none, []⟩, [],
    ⟨0, 0, 0, [], 0, 0, 0, []⟩, ChMem.new, ⟨[], [], []⟩, FtSt.new, ⟨none, 0, 0, 0, 0, 0, 0⟩, [], Fab.new,
    Vector.replicate 16 ClSlot.new, [], ⟨0, 0, [], []⟩, none, Mover.new,
    ⟨.run, .none, none, false, 0, false, false, false⟩, true, false, false⟩

/-- The package right after reset: the supplies present and PERST# released, start-up about to begin (log entries 2, 12). -/
def Pkg.new : Pkg :=
  { reg := []
    cond := .starting
    vmain := true
    vaux := true
    vstby := true
    pins := ⟨false, false, 0, false, true, true⟩
    startFails := 0
    functions := 0
    portUp := false
    ari := false
    cfg := []
    lease := ⟨false, false, false, false, false, []⟩
    gwReset := false
    geReset := false
    heldWakes := []
    otp := ⟨0, 1, Vector.replicate 4 0, Vector.replicate 4 false, 0, 0, [], [], []⟩
    flash := ⟨[], 0, false⟩
    hist := ⟨[], 0, 0, 0, [], []⟩
    mould := ⟨none, none, [], [], false, 0, false⟩
    tick := ⟨0, false, [], [], 0, true, false, none, 0, false, 0, 0⟩
    evt := Vector.replicate 9 ⟨[], false, 0⟩
    evtSeq := []
    voter := ⟨[], []⟩
    sec := ⟨0, false, false, false, 1, false⟩
    current := 0
    granted := 0
    vmainMv := 48000
    t3Bucket := Vector.replicate 8 Bucket.new
    nvTail := []
    t3 := []
    lost3 := none
    host := []
    out := ⟨.ok, 0, false, [], [], []⟩ }

/-- The machine right after reset. -/
def State.reset : State := ⟨Pkg.new, Vector.replicate 8 Chan.new, 0, []⟩

end Sys2Proof.Machine
end

