-- ==== Sys2Proof/Config.lean ====
section
/-! DEFINITION. The values the spec leaves open, as constants without a body: no proof can see what they are. -/

namespace Sys2Proof

open Sys2Proof.Machine

/-- The CODE of an event (Table 16.2): the spec names the events and numbers none (log entry 6). -/
opaque Config.eventCode : Ev → BitVec 16

/-- Free values of 32 bits, one per draw (log entry 3). -/
opaque Config.freeWord : Nat → BitVec 32

/-- Free values of 64 bits, one per draw (log entry 3). -/
opaque Config.freeDWord : Nat → BitVec 64

/-- Free bytes: draw, address (log entry 3). -/
opaque Config.freeByte : Nat → Nat → Byte

/-- Bank, row and sector of a byte of a pseudo-channel, as bits [41:10] of a key of Table 15.2: the spec gives the byte's
pseudo-channel and offset (R301) and no further placement (log entry 16). -/
opaque Config.hbmPlace : Nat → BitVec 32

/-- The fixed algorithm of a function of the epilogue, on FP32 codes (R168, R191): which of its possible values within
the bound the device gives is left open (log entry 15). The first argument names the function. -/
opaque Config.function : Nat → BitVec 32 → BitVec 32

/-- The sign of the larger of two zeros of different sign, true for −0; the argument is the sign of the first. Chapters 06
and 09 do not state it; R208 and R385 do for theirs (log entry 35). -/
opaque Config.maxZero : Bool → Bool

/-- The sign of the smaller of two zeros of different sign, true for −0; the argument is the sign of the first. No rule
states it (log entry 35). -/
opaque Config.minZero : Bool → Bool

/-- Which of the candidates EP.SAMPLE takes when a perturbed logit is NaN, from the candidates' columns and scores: R184
orders no NaN (log entry 21). -/
opaque Config.sampleNan : List (Nat × Nat) → Nat

/-- The code of a digest verdict (R428): 0 MINORITY, 1 MAJORITY, 2 NONE by name; the spec numbers none (log entry 6). -/
opaque Config.verdictCode : Nat → BitVec 32

/-- The contents of image sections whose byte layout the spec does not give (Table 16.5), read from the section's bytes;
none where they are malformed. A section that is per channel holds one record for each channel of its scope, whose number
is the argument (log entry 24). -/
opaque Config.packageSection : List Byte → Option PkgSec

/-- Section PORTS (log entry 24). -/
opaque Config.portsSection : Nat → List Byte → Option (List PortsSec)

/-- Section TIER (log entry 24). -/
opaque Config.tierSection : Nat → List Byte → Option (List TierSec)

/-- Qormel's PCI vendor ID, which the spec does not state (R31, log entry 58). -/
opaque Config.vendorId : BitVec 16

/-- Section REGULATOR (log entry 24). -/
opaque Config.regulatorSection : Nat → List Byte → Option RegSec

/-- Section CAL: per channel its items, indices and values as signed 16-bit codes (log entry 24). -/
opaque Config.calSection : Nat → List Byte → Option (List (List (Nat × Nat × Nat)))

/-- Section SECURITY (log entry 24). -/
opaque Config.securitySection : List Byte → Option SecSec

/-- Section POLICY (log entry 24). -/
opaque Config.policySection : List Byte → Option PolSec

end Sys2Proof
end

