-- ==== Sys2Proof/Machine/Ops.lean ====
section
/-! DEFINITION. The named operations over the state: sparse tables, bit fields, byte order, registers, events,
translation and memory. Everything else reads and writes the state through them. -/

namespace Sys2Proof.Machine

/-! ## Numbers, bits and bytes -/

/-- Bits `hi` down to `lo` of a number. -/
def bits (v hi lo : Nat) : Nat := v / 2 ^ lo % 2 ^ (hi + 1 - lo)

/-- One bit of a number. -/
def bit (v i : Nat) : Bool := v / 2 ^ i % 2 == 1

/-- `v` with bits `hi` down to `lo` replaced by the low bits of `x`. -/
def putBits (v hi lo x : Nat) : Nat :=
  v - bits v hi lo * 2 ^ lo + x % 2 ^ (hi + 1 - lo) * 2 ^ lo

/-- The low `n` bits of `v` as a two's-complement number. -/
def sextNat (n v : Nat) : Int :=
  if v % 2 ^ n < 2 ^ (n - 1) then (v % 2 ^ n : Nat) else ((v % 2 ^ n : Nat) : Int) - (2 ^ n : Nat)

/-- An immediate of `n` bits, sign-extended to a general register (Table 2.2). -/
def sext64 {n : Nat} (v : BitVec n) : DWord := v.signExtend 64

/-- An integer as the low bits of a two's-complement word. -/
def wrapInt (n : Nat) (i : Int) : Nat := (i % (2 ^ n : Nat)).toNat

/-- ceil(a / b), 0 when b is 0. -/
def ceilDiv (a b : Nat) : Nat := if b == 0 then 0 else (a + b - 1) / b

/-- Addition that stops at `cap`. -/
def satAdd (cap a b : Nat) : Nat := min cap (a + b)

/-- Little-endian bytes to a number (R11). -/
def leNat : List Byte → Nat
  | [] => 0
  | b :: bs => b.toNat + 256 * leNat bs

/-- The low `n` bytes of a number, little-endian (R11). -/
def leBytes : Nat → Nat → List Byte
  | 0, _ => []
  | n + 1, v => BitVec.ofNat 8 v :: leBytes n (v / 256)

/-- A number as `n` big-endian bytes. -/
def beBytes (n v : Nat) : List Byte := (leBytes n v).reverse

/-- Big-endian bytes to a number. -/
def beNat (l : List Byte) : Nat := leNat l.reverse

/-- A list padded with zero bytes, or cut, to `n` bytes. -/
def padTo (n : Nat) (l : List Byte) : List Byte := (l ++ List.replicate (n - l.length) 0).take n

/-- A slice of a list. -/
def slice {α : Type} (l : List α) (off n : Nat) : List α := (l.drop off).take n

/-- `l` with element `i` changed by `f`. -/
def modAt {α : Type} (l : List α) (i : Nat) (f : α → α) : List α :=
  l.mapIdx fun j x => if j == i then f x else x

/-- An element put before the first one whose key is not below its own. -/
def insertBy {α : Type} (key : α → Nat) (x : α) : List α → List α
  | [] => [x]
  | y :: ys => if key x ≤ key y then x :: y :: ys else y :: insertBy key x ys

/-- A list in the order of a key; equal keys keep their order. -/
def sortBy {α : Type} (key : α → Nat) (l : List α) : List α := l.foldr (insertBy key) []

/-! ## Sparse tables -/

/-- The value of key `a`, `d a` when it is not listed. -/
def Cells.get {α : Type} (d : Nat → α) : Cells α → Nat → α
  | [], a => d a
  | (b, v) :: m, a => if a = b then v else Cells.get d m a

/-- `m` without key `a`. -/
def Cells.del {α : Type} : Cells α → Nat → Cells α
  | [], _ => []
  | (b, w) :: m, a => if a = b then Cells.del m a else (b, w) :: Cells.del m a

/-- `m` with an entry for key `a` put before the first larger key. -/
def Cells.ins {α : Type} (a : Nat) (v : α) : Cells α → Cells α
  | [] => [(a, v)]
  | (b, w) :: m => if a < b then (a, v) :: (b, w) :: m else (b, w) :: Cells.ins a v m

/-- `m` with key `a` at `v`, in canonical form. -/
def Cells.set {α : Type} [DecidableEq α] (d : Nat → α) (m : Cells α) (a : Nat) (v : α) : Cells α :=
  if v = d a then Cells.del m a else Cells.ins a v (Cells.del m a)

/-- Every key of `m` is above `lo`, keys rise, and no entry equals its default. -/
def Cells.wfFrom {α : Type} [DecidableEq α] (d : Nat → α) : Option Nat → Cells α → Bool
  | _, [] => true
  | lo, (b, w) :: m =>
    (match lo with | none => true | some l => decide (l < b)) && decide (w ≠ d b) && Cells.wfFrom d (some b) m

/-- The canonical form of a sparse table. -/
def Cells.wf {α : Type} [DecidableEq α] (d : Nat → α) (m : Cells α) : Bool := Cells.wfFrom d none m

/-- What an unlisted byte of any memory reads as (log entry 5). -/
def memDefault : Nat → Byte := fun _ => 0

/-- The canonical form of a memory. -/
abbrev Memory.wf (m : Mem) : Bool := Cells.wf memDefault m

/-- One byte of a memory. -/
def Mem.byte (m : Mem) (a : Nat) : Byte := Cells.get memDefault m a

/-- One byte written. -/
def Mem.put (m : Mem) (a : Nat) (b : Byte) : Mem := Cells.set memDefault m a b

/-- `n` bytes from address `a`. -/
def Mem.read (m : Mem) (a n : Nat) : List Byte := (List.range n).map fun i => m.byte (a + i)

/-- Bytes written from address `a` upward. -/
def Mem.write (m : Mem) (a : Nat) : List Byte → Mem
  | [] => m
  | b :: bs => Mem.write (m.put a b) (a + 1) bs

/-! ## Channels and registers -/

/-- A channel of the package. -/
abbrev ChIdx := Fin 8
/-- A job context of a channel. -/
abbrev JcIdx := Fin 16

/-- Update one channel. -/
def State.modC (s : State) (ch : ChIdx) (f : Chan → Chan) : State :=
  { s with chan := s.chan.set ch (f (s.chan[ch])) }

/-- Update the memories of one channel. -/
def State.modMem (s : State) (ch : ChIdx) (f : ChMem → ChMem) : State :=
  s.modC ch fun c => { c with mem := f c.mem }

/-- Update the package. -/
def State.modP (s : State) (f : Pkg → Pkg) : State := { s with pkg := f s.pkg }

/-- Fold a change over every channel, in ascending number. -/
def State.eachC (s : State) (f : State → ChIdx → State) : State := (List.finRange 8).foldl f s

/-- The register of a channel at byte offset `off`. -/
def Chan.rd (c : Chan) (off : Nat) : Word := Cells.get (regReset false) c.reg off

/-- A register of a channel written by the device. -/
def Chan.wr (c : Chan) (off : Nat) (v : Word) : Chan := { c with reg := Cells.set (regReset false) c.reg off v }

/-- The value of a field of a word. -/
def Fld.of (f : Fld) (w : Word) : Nat := bits w.toNat f.hi f.lo

/-- A word with a field changed. -/
def Fld.put (f : Fld) (w : Word) (v : Nat) : Word := BitVec.ofNat 32 (putBits w.toNat f.hi f.lo v)

/-- The largest value of a field. -/
def Fld.max (f : Fld) : Nat := 2 ^ (f.hi + 1 - f.lo) - 1

/-- A field of a channel's registers. -/
def Chan.fld (c : Chan) (f : Fld) : Nat := f.of (c.rd f.off)

/-- A field of a channel's registers written by the device. -/
def Chan.setFld (c : Chan) (f : Fld) (v : Nat) : Chan := c.wr f.off (f.put (c.rd f.off) v)

/-- A counter field raised, saturating at its largest value. -/
def Chan.satFld (c : Chan) (f : Fld) (n : Nat) : Chan := c.setFld f (satAdd f.max (c.fld f) n)

/-- A counter field raised, wrapping. -/
def Chan.incFld (c : Chan) (f : Fld) (n : Nat) : Chan := c.setFld f (c.fld f + n)

/-- The register of PF0 at byte offset `off`. -/
def Pkg.rd (p : Pkg) (off : Nat) : Word := Cells.get (regReset true) p.reg off

/-- A register of PF0 written by the device. -/
def Pkg.wr (p : Pkg) (off : Nat) (v : Word) : Pkg := { p with reg := Cells.set (regReset true) p.reg off v }

/-- A field of PF0's registers. -/
def Pkg.fld (p : Pkg) (f : Fld) : Nat := f.of (p.rd f.off)

/-- A field of PF0's registers written by the device. -/
def Pkg.setFld (p : Pkg) (f : Fld) (v : Nat) : Pkg := p.wr f.off (f.put (p.rd f.off) v)

/-- A counter field of PF0 raised, saturating. -/
def Pkg.satFld (p : Pkg) (f : Fld) (n : Nat) : Pkg := p.setFld f (satAdd f.max (p.fld f) n)

/-- The channel of a physical function, none for PF0 (R31). -/
def pfChan (pf : Fin 9) : Option ChIdx :=
  if h : pf.val = 0 then none else some ⟨pf.val - 1, by omega⟩

/-- The register of physical function `pf` at `off`. -/
def State.fnRd (s : State) (pf : Fin 9) (off : Nat) : Word :=
  match pfChan pf with
  | none => s.pkg.rd off
  | some ch => (s.chan[ch]).rd off

/-- A register of physical function `pf` written by the device. -/
def State.fnWr (s : State) (pf : Fin 9) (off : Nat) (v : Word) : State :=
  match pfChan pf with
  | none => s.modP (·.wr off v)
  | some ch => s.modC ch (·.wr off v)

/-- A field of a register of function `pf`. -/
def State.fnFld (s : State) (pf : Fin 9) (f : Fld) : Nat := f.of (s.fnRd pf f.off)

/-- A field of a register of function `pf` written by the device. -/
def State.fnSet (s : State) (pf : Fin 9) (f : Fld) (v : Nat) : State :=
  s.fnWr pf f.off (f.put (s.fnRd pf f.off) v)

/-- A field of one channel's registers written by the device. -/
def State.setF (s : State) (ch : ChIdx) (f : Fld) (v : Nat) : State := s.modC ch (·.setFld f v)

/-- A counter field of one channel raised, saturating. -/
def State.satF (s : State) (ch : ChIdx) (f : Fld) (n : Nat) : State := s.modC ch (·.satFld f n)

/-- A counter field of one channel raised, wrapping. -/
def State.incF (s : State) (ch : ChIdx) (f : Fld) (n : Nat) : State := s.modC ch (·.incFld f n)

/-- A field of one channel's registers. -/
def State.f (s : State) (ch : ChIdx) (f : Fld) : Nat := (s.chan[ch]).fld f

/-- The outcome of a command that always goes on. -/
abbrev Out := Host.Outcome State Fault Refusal

/-! ## Free values (log entry 3) -/

/-- The index of the next free value, and the state in which it has been drawn. -/
def State.draw (s : State) : Nat × State := (s.free, { s with free := s.free + 1 })

/-! ## Events (R456, R457, R517) -/

/-- The function whose ring holds the events of a source (16, Events). -/
def srcPf (src : Nat) : Fin 9 := if h : src / 4096 < 8 then ⟨src / 4096 + 1, by omega⟩ else 0

/-- Slots of an event ring: 64 x 2^SIZE, SIZE above 9 counting as 9. -/
def evtSlots (size : Nat) : Nat := 64 * 2 ^ min size 9

/-- The 32 bytes of an event record (Table 16.2). CODE and TIME are values the spec leaves open (log entries 3 and 6). -/
def EvRec.bytes (r : EvRec) : List Byte :=
  leBytes 2 r.src ++ leBytes 2 (Config.eventCode r.code).toNat ++ leBytes 4 r.seq ++ leBytes 8 r.tick ++
    leBytes 4 (Config.freeWord r.draw).toNat ++ padTo 12 (r.arg.flatMap (leBytes 4 ·))

/-- Unread records of the ring of function `pf`. -/
def State.evtUnread (s : State) (pf : Fin 9) : Nat :=
  (s.fnFld pf R.EVT_PTR_WR + 65536 - s.fnFld pf R.EVT_PTR_RD) % 65536

/-- A function is enumerated: PF0, and a channel's function that was present at the last host-port reset (R31, R37). -/
def State.enumerated (s : State) (pf : Fin 9) : Bool :=
  match pfChan pf with
  | none => true
  | some ch => s.pkg.functions.getLsbD ch.val

/-- Vector 0 of function `pf` fires; an absent function raises no interrupt (R33). -/
def State.irq (s : State) (pf : Fin 9) : State :=
  if !s.enumerated pf then s
  else s.modP fun p => { p with evt := p.evt.set pf { p.evt[pf] with fired := true, irqs := (p.evt[pf]).irqs + 1 } }

/-- The first held record of function `pf` is written at slot WR mod entries; WR advances; the vector fires at once when
IRQ is 1 and DELAY is 0 (R457). -/
def State.evtWrite (s : State) (pf : Fin 9) (r : EvRec) (rest : List EvRec) : State :=
  let size := s.fnFld pf R.EVT_CFG_SIZE
  let wr := s.fnFld pf R.EVT_PTR_WR
  let base := s.fnFld pf R.EVT_LO_BASE_LO * 4096 + s.fnFld pf R.EVT_HI_BASE_HI * 2 ^ 32
  let s := s.modP fun p =>
    { p with host := p.host.write (base + 32 * (wr % evtSlots size)) r.bytes,
             evt := p.evt.set pf { p.evt[pf] with held := rest } }
  let s := s.fnSet pf R.EVT_PTR_WR (wr + 1)
  if s.fnFld pf R.EVT_CFG_IRQ == 1 && s.fnFld pf R.EVT_CFG_DELAY == 0 && !(s.pkg.evt[pf]).fired then s.irq pf else s

/-- Held records go to the ring while it is enabled and has room (R457). -/
def State.evtDrain (s : State) (pf : Fin 9) : Nat → State
  | 0 => s
  | fuel + 1 =>
    match (s.pkg.evt[pf]).held with
    | [] => s
    | r :: rest =>
      if s.fnFld pf R.EVT_CFG_EN == 1 && s.evtUnread pf < evtSlots (s.fnFld pf R.EVT_CFG_SIZE) then
        State.evtDrain (s.evtWrite pf r rest) pf fuel
      else s

/-- A unit posts an event: it takes the next number of its source, enters the function's path behind the records held,
and beyond 256 held records it is dropped and counted (R456, R457). `arg` holds 32-bit words of ARG. -/
def State.post (s : State) (src : Nat) (code : Ev) (arg : List Nat) : State :=
  let pf := srcPf src
  let seq := Cells.get (fun _ => 0) s.pkg.evtSeq src
  let (d, s) := s.draw
  let r : EvRec := ⟨src, code, seq, s.pkg.tick.num.toNat, d, arg⟩
  let s := s.modP fun p =>
    { p with evtSeq := Cells.set (fun _ => 0) p.evtSeq src ((seq + 1) % 2 ^ 32),
             evt := p.evt.set pf { p.evt[pf] with held := (p.evt[pf]).held ++ [r] } }
  let s := s.evtDrain pf 257
  if (s.pkg.evt[pf]).held.length > 256 then
    let s := s.modP fun p => { p with evt := p.evt.set pf { p.evt[pf] with held := (p.evt[pf]).held.take 256 } }
    s.fnSet pf R.EVT_CFG_DROPPED (min 127 (s.fnFld pf R.EVT_CFG_DROPPED + 1))
  else s

/-- Source IDs of a channel's units (Table 16.3). -/
def srcOf (ch : ChIdx) (unit : Nat) : Nat := ch.val * 4096 + unit
/-- Source IDs of the hub's units (Table 16.3). -/
def srcHub (unit : Nat) : Nat := 0x8000 + unit

/-- A refused or discarded write of a register of function `pf` (R517). -/
def State.postReg (s : State) (pf : Fin 9) (code : Ev) (arg : List Nat) : State :=
  match pfChan pf with
  | none => s.post (srcHub 0x00B) code arg
  | some ch => s.post (srcOf ch 0x071) code arg

/-! ## The image in force -/

/-- The place of a channel in HUB_PART_MAP: 0 to 7 a partition, 0xE parked, 0xF none (R87). -/
def State.place (s : State) (ch : ChIdx) : Nat := bits (s.pkg.rd 0x50).toNat (4 * ch.val + 3) (4 * ch.val)

/-- The channel's partition, when it has one. -/
def State.partIdx (s : State) (ch : ChIdx) : Option (Fin 8) :=
  if h : s.place ch < 8 then some ⟨s.place ch, h⟩ else none

/-- The channel's partition record in the image in force. -/
def State.part (s : State) (ch : ChIdx) : Option Part :=
  match s.partIdx ch, s.pkg.mould.force with
  | some p, some i => some i.parts[p]
  | _, _ => none

/-- The channel's part of the image in force. -/
def State.imgCh (s : State) (ch : ChIdx) : Option ImgChan :=
  match s.pkg.mould.force with
  | some i => some i.chans[ch]
  | none => none

/-- The channel's partition runs in DETERMINISTIC mode (R6). -/
def State.deterministic (s : State) (ch : ChIdx) : Bool :=
  match s.part ch with
  | some p => p.mode == 1
  | none => false

/-- A job is resident on a live channel of the partition that `ch` belongs to. -/
def State.resident (s : State) (ch : ChIdx) : Bool :=
  (List.finRange 8).any fun c => s.place c == s.place ch && bit (s.pkg.rd 0x14).toNat c.val && (s.chan[c]).ctx.toList.any fun x => x.st != .free

/-- The partition is DETERMINISTIC and a job of it is resident (R6). -/
def State.bound (s : State) (ch : ChIdx) : Bool := s.deterministic ch && s.resident ch

/-- A policy setting under R6: AUTO becomes ASSIST. -/
def State.underR6 (s : State) (ch : ChIdx) (setting : Nat) : Nat :=
  if setting == 2 && s.bound ch then 1 else setting

/-- The fabric node address of a channel (R17). -/
def State.node (s : State) (ch : ChIdx) : Nat :=
  match s.pkg.mould.force with
  | some i => i.number * 8 + ch.val
  | none => ch.val

/-- The channel is enabled and not retired (HUB_CH_LIVE). -/
def State.live (s : State) (ch : ChIdx) : Bool := bit (s.pkg.rd 0x14).toNat ch.val

/-- The channel is up: live, out of reset and on its hub link. -/
def State.up (s : State) (ch : ChIdx) : Bool :=
  s.live ch && !(s.chan[ch]).inReset && !(s.chan[ch]).hubLost &&
    (s.pkg.cond == .running || s.pkg.cond == .safe)

/-- The physical function of a channel (Table 1.4). -/
def pfOf (ch : ChIdx) : Fin 9 := ⟨ch.val + 1, by omega⟩

/-! ## Regulators (R327, R328) -/

/-- The function that holds the registers of an instance. -/
def instPf : BucketInst → Fin 9
  | .t1 ch => pfOf ch
  | .t2 ch => pfOf ch
  | .t3 => 0

/-- The offset of MEM_REG_CFG of source k of an instance; MEM_REG_TOK stands 4 bytes on. -/
def instOff (i : BucketInst) (k : Nat) : Nat :=
  match i with
  | .t1 _ => 0x7100 + 8 * k
  | .t2 _ => 0x7100 + 8 * (9 + k)
  | .t3 => 0x7200 + 8 * k

/-- Sources of an instance: PT0 to PT7, and HOST but for T3. -/
def instSources : BucketInst → List Nat
  | .t3 => List.range 8
  | _ => List.range 9

/-- RATE, BURST, EN and TOKENS of a bucket as fields. -/
def bktRate (i : BucketInst) (k : Nat) : Fld := ⟨instOff i k, 15, 0⟩
/-- BURST. -/
def bktBurst (i : BucketInst) (k : Nat) : Fld := ⟨instOff i k, 30, 16⟩
/-- EN. -/
def bktEn (i : BucketInst) (k : Nat) : Fld := ⟨instOff i k, 31, 31⟩
/-- TOKENS. -/
def bktTok (i : BucketInst) (k : Nat) : Fld := ⟨instOff i k + 4, 15, 0⟩
/-- WAITS. -/
def bktWaits (i : BucketInst) (k : Nat) : Fld := ⟨instOff i k + 4, 31, 16⟩

/-- A field of a bucket. -/
def State.bf (s : State) (i : BucketInst) (f : Fld) : Nat := s.fnFld (instPf i) f
/-- A field of a bucket set. -/
def State.setB (s : State) (i : BucketInst) (f : Fld) (v : Nat) : State := s.fnSet (instPf i) f v

/-- A bucket beside its registers. -/
def State.bucket (s : State) (i : BucketInst) (k : Nat) : Bucket :=
  match i with
  | .t1 ch => (s.chan[ch]).mem.bucket[Fin.ofNat 18 k]
  | .t2 ch => (s.chan[ch]).mem.bucket[Fin.ofNat 18 (9 + k)]
  | .t3 => s.pkg.t3Bucket[Fin.ofNat 8 k]

/-- A bucket changed. -/
def State.modBucket (s : State) (i : BucketInst) (k : Nat) (f : Bucket → Bucket) : State :=
  let at_ (ch : ChIdx) (n : Fin 18) : State := s.modMem ch fun m => { m with bucket := m.bucket.set n (f m.bucket[n]) }
  match i with
  | .t1 ch => at_ ch (Fin.ofNat 18 k)
  | .t2 ch => at_ ch (Fin.ofNat 18 (9 + k))
  | .t3 => s.modP fun p => { p with t3Bucket := p.t3Bucket.set (Fin.ofNat 8 k) (f p.t3Bucket[Fin.ofNat 8 k]) }

/-- BURST in force: below 4 it counts as 4. -/
def State.burst (s : State) (i : BucketInst) (k : Nat) : Nat := max 4 (s.bf i (bktBurst i k))

/-- Cycles stalled under a cause of Table 11.9, in units of 1,024 (R330). -/
def State.stalled (s : State) (ch : ChIdx) (cause cycles : Nat) : State :=
  let t := Cells.get (fun _ => 0) (s.chan[ch]).mem.stall cause + cycles
  (s.incF ch (R.MEM_TIER_STALL_STALL cause) (t / 1024)).modMem ch fun m =>
    { m with stall := Cells.set (fun _ => 0) m.stall cause (t % 1024) }

/-- What of `n` tokens is admitted while `t` stand in the bucket: transfers carry at most 256 bytes, which is 4 tokens (R328). -/
def admitted (n t : Nat) : Nat := if n ≤ t then n else t / 4 * 4

/-- Waiting transfers are admitted in order while there are tokens. -/
def State.bucketAdmit (s : State) (i : BucketInst) (k : Nat) : Nat → State
  | 0 => s
  | fuel + 1 =>
    match (s.bucket i k).waiting with
    | [] => s
    | (c, n) :: rest =>
      let t := s.bf i (bktTok i k)
      let m := admitted n t
      let s := (s.setB i (bktTok i k) (t - m)).modBucket i k fun b =>
        { b with waiting := if m == n then rest else (c, n - m) :: rest }
      if m == n then State.bucketAdmit s i k fuel else s

/-- Transfers of `bytes` bytes that channel `ch` makes at an instance for source `k`: admitted, or they wait and count
(R328). -/
def State.transfer (s : State) (i : BucketInst) (k : Nat) (ch : ChIdx) (bytes : Nat) : State :=
  if s.bf i (bktEn i k) == 0 || bytes == 0 then s
  else
    let n := ceilDiv bytes 64
    let t := s.bf i (bktTok i k)
    let m := if (s.bucket i k).waiting.isEmpty then admitted n t else 0
    let s := (s.setB i (bktTok i k) (t - m)).modBucket i k fun b => { b with full := false }
    if m == n then s
    else (s.modBucket i k fun b => { b with waiting := b.waiting ++ [(ch, n - m)], waited := true }).setB i (bktWaits i k)
        (min 65535 (s.bf i (bktWaits i k) + ceilDiv (n - m) 4))

/-- The cause under which a wait at an instance counts: T1_RATE, T2_RATE or T3_RATE (Table 11.9). -/
def rateCause : BucketInst → Nat
  | .t1 _ => 0
  | .t2 _ => 1
  | .t3 => 4

/-- The refill of one bucket. The oldest transfer that waits has waited the 100 ns since the last one: 200 cycles under the
cause of its tier. -/
def State.refillOne (s : State) (i : BucketInst) (k : Nat) : State :=
  let s := match (s.bucket i k).waiting with
    | [] => s
    | (c, _) :: _ => s.stalled c (rateCause i) 200
  let t := min (s.burst i k) (s.bf i (bktTok i k) + s.bf i (bktRate i k))
  State.bucketAdmit (s.setB i (bktTok i k) t) i k ((s.bucket i k).waiting.length)

/-! ## Translation (R304 to R306) -/

/-- An access that does not complete: PAGE_FAULT or MEM_UE, with the address, or a request that waits for the T2 link
(R311). -/
inductive MemErr where
  | page (va : Nat)
  | ue (va : Nat)
  | wait (va : Nat)
  deriving DecidableEq, Repr

/-- The access has not failed: it waits. -/
def MemErr.waits : MemErr → Bool
  | .wait _ => true
  | _ => false

/-- The status and ARG of a failed access (Table 2.12, Table 2.16); a waiting one has none. -/
def MemErr.status : MemErr → Nat × Nat
  | .page va => (0x0020, va % 2 ^ 32)
  | .ue va => (0x0021, va % 2 ^ 32)
  | .wait _ => (0, 0)

/-- Under FLASH, the SSD that holds T3 address `a` and its byte there: CONCAT, or STRIPE (R315). -/
def Image.ssdAt (i : Image) (a : Nat) : Option (Nat × Nat) :=
  let n := max 1 i.ssds.length
  let (k, b) := if i.stripe then (a / 2 ^ 21 % n, a / (2 ^ 21 * n) * 2 ^ 21 + a % 2 ^ 21) else (a / 2 ^ 45, a % 2 ^ 45)
  if b < i.ssds.getD k 0 then some (k, b) else none

/-- An address lies within the capacity of its tier: 96 GiB, CAP_GIB, and the window or namespaces in force (R305, R312). -/
def State.within (s : State) (ch : ChIdx) (t : Tier) (a : Nat) : Bool :=
  match t with
  | .t1 => a < 96 * 2 ^ 30
  | .t2 => a < s.f ch R.MEM_T2_STAT_CAP_GIB * 2 ^ 30
  | .t3 => match s.pkg.mould.force with
    | some i => if i.t3Form == 0 then a < i.t3Size else i.t3Form == 1 && (i.ssdAt a).isSome
    | none => false

/-- A page-table entry: 64 bits of T1. -/
def State.pte (s : State) (ch : ChIdx) (table idx : Nat) : Nat :=
  leNat ((s.chan[ch]).mem.t1.read (table + 8 * idx) 8)

/-- A leaf entry, checked under R305; none when it faults. -/
def leafOf (e size : Nat) : Option Leaf :=
  if !bit e 0 || !bit e 1 || bit e 2 || bits e 11 8 != 0 || bits e 63 52 != 0 || bits e 4 3 == 3 ||
      (bit e 5 && bits e 4 3 == 0) || (size != 4096 && bits e 20 12 != 0) then none
  else
    let tier := if bits e 4 3 == 0 then Tier.t1 else if bits e 4 3 == 1 then Tier.t2 else Tier.t3
    some ⟨tier, bit e 5, bit e 6, bit e 7, bits e 51 12 * 4096, size⟩

/-- A table entry that names the next table, checked under R305; none when it faults. -/
def tableOf (e : Nat) : Option Nat :=
  if !bit e 0 || bits e 7 1 != 0 || bits e 11 8 != 0 || bits e 63 52 != 0 then none else some (bits e 51 12 * 4096)

/-- The walk of Table 11.2 for a 56-bit address. -/
def State.walk (s : State) (ch : ChIdx) (va : Nat) : Option Leaf := do
  let t1 ← tableOf (s.pte ch (s.f ch R.MEM_MMU_ROOT * 4096) (bits va 55 39))
  let t2 ← tableOf (s.pte ch t1 (bits va 38 30))
  let e := s.pte ch t2 (bits va 29 21)
  if bit e 1 then leafOf e (2 ^ 21)
  else do
    let t3 ← tableOf e
    leafOf (s.pte ch t3 (bits va 20 12)) 4096

/-- The leaf for an address: a cached translation when one is held, else a walk (R306). -/
def State.leaf (s : State) (ch : ChIdx) (va : Nat) : Option Leaf :=
  match (s.chan[ch]).mem.tlb.find? (fun r => r.vpn == va / 4096) with
  | some r => some r.leaf
  | none => s.walk ch va

/-- A device virtual address translated: the leaf and the address in its tier, or PAGE_FAULT (R305). -/
def State.translate (s : State) (ch : ChIdx) (va : Nat) : Except MemErr (Leaf × Nat) :=
  if s.f ch R.MEM_MMU_EN == 0 || va / 2 ^ 56 != 0 then .error (.page va)
  else match s.leaf ch va with
    | none => .error (.page va)
    | some l =>
      let a := l.ta + va % l.size
      if s.within ch l.tier a then .ok (l, a) else .error (.page va)

/-- A translation enters the translation cache; when it is full the oldest leaves (R306, log entry 10). -/
def State.tlbFill (s : State) (ch : ChIdx) (va : Nat) : State :=
  if (s.chan[ch]).mem.tlb.any (fun r => r.vpn == va / 4096) then s
  else match s.translate ch va with
    | .error _ => s
    | .ok (l, _) => s.modC ch fun c =>
      { c with mem := { c.mem with tlb := (⟨va / 4096, l⟩ :: c.mem.tlb).take 4096 } }

/-! ## The tier cache (R318 to R321) -/

/-- The cache has SIZE / 64 KiB sets; SIZE is in units of 2 MiB (R318). -/
def State.tcSets (s : State) (ch : ChIdx) : Nat := s.f ch R.MEM_TC_CFG_SIZE * 32

/-- The virtual address lies in a promoted region (R322). -/
def State.promoted (s : State) (ch : ChIdx) (va : Nat) : Bool :=
  (s.chan[ch]).mem.promo.any fun r => r.promoted && r.addr == va / 2 ^ 21 * 2 ^ 21

/-- An access through this leaf is served by the tier cache (R319). -/
def State.cached (s : State) (ch : ChIdx) (va : Nat) (l : Leaf) : Bool :=
  s.tcSets ch != 0 && l.tier != .t1 && (l.tiered || (l.promo && s.promoted ch va))

/-- The line of a granule, when the cache holds it. -/
def State.tcLine (s : State) (ch : ChIdx) (t : Tier) (g : Nat) : Option TcLine :=
  (s.chan[ch]).mem.tc.lines.find? fun l => l.tier == t && l.gran == g

/-- The T2 link is marked failed, so that every later access completes with MEM_UE (R311). -/
def State.t2Failed (s : State) (ch : ChIdx) : Bool := s.f ch R.MEM_T2_STAT_LINK == 3

/-- The T2 link trains or fails over: requests to T2 wait (R311). -/
def State.t2Waits (s : State) (ch : ChIdx) : Bool := s.f ch R.MEM_T2_STAT_LINK == 1

/-- A byte of a tier that may have lost its bytes to a change of encryption (R490): a free value until it is written. -/
def lostByte (l : Option Lost) (m : Mem) (a : Nat) : Byte :=
  match l with
  | none => m.byte a
  | some x => if x.kept.contains a then m.byte a else Config.freeByte x.draw a

/-- A byte written is no longer lost. -/
def Lost.keep (l : Option Lost) (a : Nat) : Option Lost :=
  l.map fun x => if x.kept.contains a then x else { x with kept := a :: x.kept }

/-- The place of a T3 address in the memory of the SSDs: SSD k holds its bytes from k x 2^45 on (R315). -/
def Image.flashAt (i : Image) (a : Nat) : Nat :=
  match i.ssdAt a with
  | some (k, b) => k * 2 ^ 45 + b
  | none => a

/-- A byte of a tier's own memory. -/
def State.home (s : State) (ch : ChIdx) (t : Tier) (a : Nat) : Byte :=
  match t with
  | .t1 => (s.chan[ch]).mem.t1.byte a
  | .t2 => lostByte (s.chan[ch]).mem.lost2 (s.chan[ch]).mem.t2 a
  | .t3 =>
    match s.pkg.mould.force with
    | some i => if i.t3Form == 0 then s.pkg.host.byte (i.t3Base + a) else lostByte s.pkg.lost3 s.pkg.t3 (i.flashAt a)
    | none => 0

/-- Bytes written to a tier's own memory. -/
def State.homePut (s : State) (ch : ChIdx) (t : Tier) (a : Nat) (b : Byte) : State :=
  match t with
  | .t1 => s.modC ch fun c => { c with mem := { c.mem with t1 := c.mem.t1.put a b } }
  | .t2 => s.modC ch fun c => { c with mem := { c.mem with t2 := c.mem.t2.put a b, lost2 := Lost.keep c.mem.lost2 a } }
  | .t3 =>
    match s.pkg.mould.force with
    | some i =>
      if i.t3Form == 0 then s.modP fun p => { p with host := p.host.put (i.t3Base + a) b }
      else s.modP fun p => { p with t3 := p.t3.put (i.flashAt a) b, lost3 := Lost.keep p.lost3 (i.flashAt a) }
    | none => s

/-- A sector of a tier cannot be read: an uncorrectable error or poison in T1 (R303), poison of T2 or its failed link
(R311), a T3 request that fails (R313, R315). -/
def State.bad (s : State) (ch : ChIdx) (t : Tier) (a : Nat) : Bool :=
  match t with
  | .t1 => (s.chan[ch]).mem.poison.contains (a / 32)
  | .t2 => s.t2Failed ch || (s.chan[ch]).mem.poison2.contains (a / 32)
  | .t3 => (s.chan[ch]).mem.bad3.contains (a / 32)

/-- A granule of a tier cannot be read whole. -/
def State.granBad (s : State) (ch : ChIdx) (t : Tier) (g : Nat) : Bool :=
  match t with
  | .t1 => false
  | .t2 => s.t2Failed ch || (s.chan[ch]).mem.poison2.any (· / 128 == g)
  | .t3 => (s.chan[ch]).mem.bad3.any (· / 128 == g)

/-- A transfer of a channel is charged to its partition's bucket at a tier, or to the HOST source, which the T3 path has not
(R327). -/
def State.charge (s : State) (ch : ChIdx) (t : Tier) (n : Nat) (host : Bool := false) : State :=
  match t, host, s.partIdx ch with
  | .t1, true, _ => s.transfer (.t1 ch) 8 ch n
  | .t2, true, _ => s.transfer (.t2 ch) 8 ch n
  | .t3, true, _ | _, false, none => s
  | .t1, false, some p => s.transfer (.t1 ch) p.val ch n
  | .t2, false, some p => s.transfer (.t2 ch) p.val ch n
  | .t3, false, some p => s.transfer .t3 p.val ch n

/-- Under FLASH the hub submits NVMe commands of at most 128 KiB for `n` bytes from T3 address `a` on (R314, log entry 87). -/
def State.submit (s : State) (ch : ChIdx) (a n : Nat) : State :=
  match s.pkg.mould.force with
  | none => s
  | some i => match i.t3Form == 1, i.ssdAt a with
    | true, some (k, _) =>
      let q := 8 * k + ch.val
      let tail := (Cells.get (fun _ => 0) s.pkg.nvTail q + ceilDiv n 131072) % 256
      s.modP fun p => { p with nvTail := Cells.set (fun _ => 0) p.nvTail q tail }
    | _, _ => s

/-- `n` bytes of a tier's own memory are moved: their source is charged, and the SSDs get their commands. -/
def State.moved (s : State) (ch : ChIdx) (t : Tier) (a n : Nat) (host : Bool := false) : State :=
  let s := s.charge ch t n host
  if t == .t3 then s.submit ch a n else s

/-- Update the tier cache of a channel. -/
def State.modTc (s : State) (ch : ChIdx) (f : TCache → TCache) : State :=
  s.modC ch fun c => { c with mem := { c.mem with tc := f c.mem.tc } }

/-- A granule has a write-back whose home failed (R321). -/
def State.wbFailed (s : State) (ch : ChIdx) (t : Tier) (g : Nat) : Bool :=
  (s.chan[ch]).mem.tc.wb.any fun x => x.failed && x.tier == t && x.gran == g

/-- A granule has a write-back in the buffer. -/
def State.wbFlying (s : State) (ch : ChIdx) (t : Tier) (g : Nat) : Bool :=
  (s.chan[ch]).mem.tc.wb.any fun x => !x.failed && x.tier == t && x.gran == g

/-- Failed write-backs whose granule is no longer among the lines: each still holds its way (R321). -/
def State.wbHeld (s : State) (ch : ChIdx) : List Wb :=
  (s.chan[ch]).mem.tc.wb.filter fun x => x.failed && (s.tcLine ch x.tier x.gran).isNone

/-- A granule is dirty, or waits for its write-back. -/
def State.tcDirty (s : State) (ch : ChIdx) (t : Tier) (g : Nat) : Bool :=
  (s.tcLine ch t g).any (·.dirty) || (s.chan[ch]).mem.tc.wb.any fun x => x.tier == t && x.gran == g

/-- DIRTY and FLUSH of MEM_TC_CTL: FLUSH ends when every granule that was dirty at its write has been written back
(R320). -/
def State.tcCount (s : State) (ch : ChIdx) : State :=
  (s.setF ch R.MEM_TC_CTL_DIRTY (((s.chan[ch]).mem.tc.lines.filter (·.dirty)).length + (s.wbHeld ch).length)).setF ch
    R.MEM_TC_CTL_FLUSH (if (s.chan[ch]).mem.tc.flush.isEmpty then 0 else 1)

/-- Some byte of a tier may have been lost (R490). -/
def State.lossy (s : State) (ch : ChIdx) (t : Tier) : Bool :=
  match t with
  | .t1 => false
  | .t2 => (s.chan[ch]).mem.lost2.isSome
  | .t3 => s.pkg.lost3.isSome

/-- The memory that holds a tier, and where a granule begins in it. -/
def State.homeMem (s : State) (ch : ChIdx) (t : Tier) (g : Nat) : Mem × Nat :=
  match t with
  | .t1 => ((s.chan[ch]).mem.t1, g * 4096)
  | .t2 => ((s.chan[ch]).mem.t2, g * 4096)
  | .t3 => match s.pkg.mould.force with
    | some i => if i.t3Form == 0 then (s.pkg.host, i.t3Base + g * 4096) else (s.pkg.t3, i.flashAt (g * 4096))
    | none => ([], 0)

/-- The 4 KiB of a granule as its home holds them, by byte offset. -/
def State.granule (s : State) (ch : ChIdx) (t : Tier) (g : Nat) : Mem :=
  if s.lossy ch t then (List.range 4096).foldl (fun (m : Mem) i => m.put i (s.home ch t (g * 4096 + i))) []
  else
    let (m, lo) := s.homeMem ch t g
    (m.filter fun x => lo ≤ x.1 && x.1 < lo + 4096).map fun x => (x.1 - lo, x.2)

/-- The 4 KiB of a line go to its home, where they replace what stood there; the sectors of the granule are no longer poisoned
(R311, R320). -/
def State.toHome (s : State) (ch : ChIdx) (t : Tier) (g : Nat) (m : Mem) : State :=
  let put (s : State) (i : Nat) : State := s.homePut ch t (g * 4096 + i) (m.byte i)
  let s := if s.lossy ch t then (List.range 4096).foldl put s
    else ((s.granule ch t g).map (·.1) ++ m.map (·.1)).foldl put s
  let s := s.moved ch t (g * 4096) 4096
  if t == .t2 then s.modMem ch fun x => { x with poison2 := x.poison2.filter (· / 128 != g) } else s

/-- A write-back that fails: WBFAIL counts, TC_WB_FAIL is posted (R321). -/
def State.wbFail (s : State) (ch : ChIdx) : State :=
  (s.satF ch R.MEM_TC_CTL_WBFAIL 1).post (srcOf ch 0x021) .tcWbFail []

/-- The dirty bit of a line. -/
def State.setDirty (s : State) (ch : ChIdx) (t : Tier) (g : Nat) (d : Bool) : State :=
  let put (x : TcLine) : TcLine := if x.tier == t && x.gran == g then { x with dirty := d } else x
  s.modTc ch fun tc => { tc with lines := tc.lines.map put }

/-- A granule whose write-backs have all ended no longer holds FLUSH at 1. -/
def State.flushOut (s : State) (ch : ChIdx) (t : Tier) (g : Nat) : State :=
  if s.wbFlying ch t g || s.wbFailed ch t g then s
  else s.modTc ch fun tc => { tc with flush := tc.flush.filter (· != (t, g)) }

/-- The home of a write-back takes it: `ok` says that it answers, as a failed link and a failed T3 request do not. -/
def State.takesWb (s : State) (ch : ChIdx) (x : Wb) (ok : Bool) : Bool :=
  ok && !(x.tier == .t2 && s.t2Failed ch) && !(x.tier == .t3 && s.granBad ch .t3 x.gran)

/-- A write-back ends: its bytes stand in the home and its slot is free, or it fails: the granule is dirty still, and the
write-back waits to be tried again (R320, R321). While the T2 link trains or fails over it waits (R336, log entry 68). -/
def State.wbEnd (s : State) (ch : ChIdx) (x : Wb) (ok : Bool) : State :=
  if x.tier == .t2 && s.t2Waits ch then s
  else
    let good := s.takesWb ch x ok
    let s := s.modTc ch fun tc => { tc with wb := tc.wb.erase x }
    if good then (s.toHome ch x.tier x.gran x.bytes).flushOut ch x.tier x.gran
    else
      let s := (s.wbFail ch).setDirty ch x.tier x.gran true
      s.modTc ch fun tc => { tc with wb := tc.wb ++ [{ x with failed := true }] }

/-- A miss that finds the buffer of 64 granules full waits for its oldest write-back (R319). -/
def State.wbRoom (s : State) (ch : ChIdx) : State :=
  let flying := (s.chan[ch]).mem.tc.wb.filter (!·.failed)
  match flying with
  | [] => s
  | x :: _ => if flying.length < 64 then s else s.wbEnd ch x true

/-- A write-back of a dirty line starts: it carries the bytes as they stand, and the dirty bit clears (R320). A granule
whose last write-back failed waits for the retry. -/
def State.wbStart (s : State) (ch : ChIdx) (l : TcLine) : State :=
  if !l.dirty || s.wbFailed ch l.tier l.gran then s
  else ((s.wbRoom ch).setDirty ch l.tier l.gran false).modTc ch fun tc =>
    { tc with wb := tc.wb ++ [⟨l.tier, l.gran, l.way, l.bytes, false⟩] }

/-- Every write-back of a granule that the buffer holds ends. -/
def State.wbSettle (s : State) (ch : ChIdx) (t : Tier) (g : Nat) : State :=
  ((s.chan[ch]).mem.tc.wb.filter fun x => !x.failed && x.tier == t && x.gran == g).foldl
    (fun (s : State) x => s.wbEnd ch x true) s

/-- A granule is written back before the access goes on, and stays cached (R320, R321). -/
def State.tcClean (s : State) (ch : ChIdx) (t : Tier) (g : Nat) : State :=
  match s.tcLine ch t g with
  | none => s.wbSettle ch t g
  | some l => (s.wbStart ch l).wbSettle ch t g

/-- A failed write-back is tried again, with the bytes as they stand (R321). -/
def State.wbAgain (s : State) (ch : ChIdx) (x : Wb) (ok : Bool) : State :=
  if x.tier == .t2 && s.t2Waits ch then s
  else if s.takesWb ch x ok then
    let s := s.toHome ch x.tier x.gran x.bytes
    let s := match s.tcLine ch x.tier x.gran with
      | some l => (s.toHome ch x.tier x.gran l.bytes).setDirty ch x.tier x.gran false
      | none => s
    (s.modTc ch fun tc => { tc with wb := tc.wb.erase x }).flushOut ch x.tier x.gran
  else s.wbFail ch

/-- Room for one granule in its set: the least recently used line leaves, written back when it is dirty (R318 to R320); one
whose home has failed cannot leave (R321). -/
def State.tcEvict (s : State) (ch : ChIdx) : List TcLine → State
  | [] => s
  | v :: more =>
    if s.wbFailed ch v.tier v.gran then State.tcEvict s ch more
    else (s.wbStart ch v).modTc ch fun tc =>
      { tc with lines := tc.lines.filter (fun l => !(l.tier == v.tier && l.gran == v.gran)) }

/-- A granule that the write-back buffer holds, as its newest write-back carries it. -/
def State.wbGran (s : State) (ch : ChIdx) (t : Tier) (g : Nat) : Option Mem :=
  ((s.chan[ch]).mem.tc.wb.reverse.find? fun x => x.tier == t && x.gran == g).map (·.bytes)

/-- The T1 address of byte `off` of a granule in way `way` (R318). -/
def State.tcPlace (s : State) (ch : ChIdx) (g way off : Nat) : Nat :=
  s.f ch R.MEM_TC_CFG_BASE * 2 ^ 21 + (g % s.tcSets ch * 16 + way) * 4096 + off

/-- A granule comes into a way: from the write-back buffer, else whole from its home; the T1 sectors it fills are good (R303,
R319). -/
def State.tcFill (s : State) (ch : ChIdx) (t : Tier) (g way : Nat) : State :=
  let (m, s) := match s.wbGran ch t g with
    | some m => (m, s)
    | none => (s.granule ch t g, s.moved ch t (g * 4096) 4096)
  let lo := s.tcPlace ch g way 0 / 32
  s.modMem ch fun x => { x with
    poison := x.poison.filter fun p => !(lo ≤ p && p < lo + 128)
    tc := { x.tc with lines := ⟨t, g, way, false, m⟩ :: x.tc.lines } }

/-- A granule is used: it is filled or allocated on a miss, and becomes the most recently used of its set (R319). -/
def State.tcTouch (s : State) (ch : ChIdx) (t : Tier) (g : Nat) : State :=
  match s.tcLine ch t g with
  | some l =>
    s.modTc ch fun tc => { tc with lines := l :: tc.lines.filter (fun x => !(x.tier == t && x.gran == g)) }
  | none =>
    let set := g % s.tcSets ch
    let inSet := (s.chan[ch]).mem.tc.lines.filter fun l => l.gran % s.tcSets ch == set
    let held := (s.wbHeld ch).filter fun x => x.gran % s.tcSets ch == set
    let s := if inSet.length + held.length < 16 then s else s.tcEvict ch inSet.reverse
    let used := ((s.chan[ch]).mem.tc.lines.filter fun l => l.gran % s.tcSets ch == set).map (·.way) ++ held.map (·.way)
    s.tcFill ch t g (((List.range 16).find? fun w => !used.contains w).getD 0)

/-- A byte written through the tier cache: the line becomes dirty (R319). -/
def State.tcPut (s : State) (ch : ChIdx) (t : Tier) (a : Nat) (b : Byte) : State :=
  s.modTc ch fun tc => { tc with lines := tc.lines.map fun l =>
    if l.tier == t && l.gran == a / 4096 then
      { l with dirty := true, bytes := l.bytes.put (a % 4096) b }
    else l }

/-! ## Device virtual memory -/

/-- The T1 sector that holds byte `off` of a cached granule cannot be read (R303). -/
def State.lineBad (s : State) (ch : ChIdx) (x : TcLine) (off : Nat) : Bool :=
  (s.chan[ch]).mem.poison.contains (s.tcPlace ch x.gran x.way off / 32)

/-- A byte at a translated place: of the cached granule, else, on a miss, of a granule that must be read whole from the
write-back buffer or its home; else of the home (R303, R311, R313, R319). -/
def State.byteAt (s : State) (ch : ChIdx) (va : Nat) (l : Leaf) (a : Nat) : Except MemErr Byte :=
  let home (bad : Bool) : Except MemErr Byte :=
    if l.tier == .t2 && s.t2Waits ch then .error (.wait va)
    else if bad then .error (.ue va)
    else .ok (s.home ch l.tier a)
  if s.cached ch va l then
    match s.tcLine ch l.tier (a / 4096) with
    | some x => if s.lineBad ch x (a % 4096) then .error (.ue va) else .ok (x.bytes.byte (a % 4096))
    | none => match s.wbGran ch l.tier (a / 4096) with
      | some m => .ok (m.byte (a % 4096))
      | none => home (s.granBad ch l.tier (a / 4096))
  else home (s.bad ch l.tier a)

/-- An address lies in one of some regions of base and length. -/
def inRegions (l : List (Nat × Nat)) (a : Nat) : Bool := l.any fun r => r.1 ≤ a && a < r.1 + r.2

/-- BSTRIDE of a store (R216). -/
def FtCfg.bstride (c : FtCfg) : Nat := 64 * ceilDiv (320 + 4 * c.streams) 64

/-- The regions that belong to the futures table unit: block records, futures table and prefix table (R212). -/
def FtCfg.own (c : FtCfg) : List (Nat × Nat) :=
  [(c.blockBase, c.blocks * c.bstride), (c.tableBase, 5 * 2 ^ 20), (c.pfxBase, 128 * 2 ^ 20)]

/-- Bytes of a state's home (R279). -/
def RcEnt.bytes (e : RcEnt) : Nat := 6 * e.parts * e.h

/-- The homes of resident states in a space while the engine is enabled (R277). -/
def State.rcHomes (s : State) (ch : ChIdx) (space : Nat) : List (Nat × Nat) :=
  if s.f ch R.CH_RC_CTL_EN == 0 then []
  else ((s.chan[ch]).rc.filter fun x => x.2.st != .free && x.2.space == space).map fun x => (x.2.home, x.2.bytes)

/-- A page whose entry was changed under a translation still held: its bytes are unpredictable (R307). -/
def State.stale (s : State) (ch : ChIdx) (va : Nat) : Bool :=
  match (s.chan[ch]).mem.tlb.find? (fun r => r.vpn == va / 4096), s.walk ch va with
  | some r, some l => l.tier != r.leaf.tier || l.tiered != r.leaf.tiered || l.ta + va % l.size != r.leaf.ta + va % r.leaf.size
  | _, _ => false

/-- The T1 address lies in the region of the tier cache (R318). -/
def State.inTc (s : State) (ch : ChIdx) (a : Nat) : Bool :=
  inRegions [(s.f ch R.MEM_TC_CFG_BASE * 2 ^ 21, s.f ch R.MEM_TC_CFG_SIZE * 2 ^ 21)] a

/-- A read of this place returns no defined bytes: it belongs to the futures table unit or the recurrent engine, or to the tier
cache, or its page was changed against R307 (R212, R277, R307, R318). -/
def State.unread (s : State) (ch : ChIdx) (va : Nat) (l : Leaf) (a : Nat) : Bool :=
  (s.f ch R.FT_CTL_EN == 1 && match (s.chan[ch]).ft.cfg with
    | some c => inRegions c.own va
    | none => false) ||
  (s.f ch R.CH_RC_CTL_EN == 1 && inRegions ((s.f ch R.CH_RC_TABLE_LO_BASE_LO * 4096 +
    s.f ch R.CH_RC_TABLE_HI_BASE_HI * 2 ^ 32, 2 ^ 20) :: s.rcHomes ch 0) va) ||
  (l.tier == .t1 && s.inTc ch a) || s.stale ch va

/-- One byte at a device virtual address, as a unit reads its own. -/
def State.ownByte (s : State) (ch : ChIdx) (va : Nat) : Except MemErr Byte :=
  match s.translate ch va with
  | .error e => .error e
  | .ok (l, a) => s.byteAt ch va l a

/-- One byte at a device virtual address; a free value where the spec defines none. -/
def State.vaByte (s : State) (ch : ChIdx) (va : Nat) : Except MemErr Byte :=
  match s.translate ch va with
  | .error e => .error e
  | .ok (l, a) => if s.unread ch va l a then .ok (Config.freeByte s.free va) else s.byteAt ch va l a

/-- `n` bytes from an address upward; the first failing byte gives the fault. -/
def readRun (f : Nat → Except MemErr Byte) (va : Nat) : Nat → Except MemErr (List Byte)
  | 0 => .ok []
  | n + 1 =>
    match f va with
    | .error e => .error e
    | .ok b =>
      match readRun f (va + 1) n with
      | .error e => .error e
      | .ok bs => .ok (b :: bs)

/-- `n` bytes at a device virtual address. -/
def State.vaRead (s : State) (ch : ChIdx) (va n : Nat) : Except MemErr (List Byte) := readRun (s.vaByte ch) va n

/-- `n` bytes at a device virtual address, as a unit reads its own. -/
def State.ownRead (s : State) (ch : ChIdx) (va n : Nat) : Except MemErr (List Byte) := readRun (s.ownByte ch) va n

/-- `n` bytes of the local store; the home of a resident state is undefined to others (R277). -/
def State.lsRead (s : State) (ch : ChIdx) (a n : Nat) : List Byte :=
  match s.rcHomes ch 1 with
  | [] => (s.chan[ch]).mem.ls.read a n
  | l => (List.range n).map fun i =>
    if inRegions l (a + i) then Config.freeByte s.free (a + i) else (s.chan[ch]).mem.ls.byte (a + i)

/-- The places of `n` bytes at a device virtual address. -/
def State.vaPlaces (s : State) (ch : ChIdx) (va : Nat) : Nat → Except MemErr (List (Nat × Leaf × Nat))
  | 0 => .ok []
  | n + 1 =>
    match s.translate ch va with
    | .error e => .error e
    | .ok (l, a) =>
      match State.vaPlaces s ch (va + 1) n with
      | .error e => .error e
      | .ok ps => .ok ((va, l, a) :: ps)

/-- The T1 sector that a store at a translated place writes, when it writes one: that of the page, or of the cached granule. -/
def State.t1Sector (s : State) (ch : ChIdx) (p : Nat × Leaf × Nat) : Option Nat :=
  if p.2.1.tier == .t1 then some (p.2.2 / 32)
  else if s.cached ch p.1 p.2.1 then
    (s.tcLine ch p.2.1.tier (p.2.2 / 4096)).map fun x => s.tcPlace ch x.gran x.way (p.2.2 % 4096) / 32
  else none

/-- A T1 sector that holds poison may be written only whole (R303, R436): the first byte of a place list that breaks
this. -/
def State.partialPoison (s : State) (ch : ChIdx) (ps : List (Nat × Leaf × Nat)) : Option Nat :=
  (ps.find? fun p => match s.t1Sector ch p with
    | some k => (s.chan[ch]).mem.poison.contains k && (ps.filter fun q => s.t1Sector ch q == some k).length < 32
    | none => false).map (·.1)

/-- One byte stored at a translated place. A whole-sector write clears poison (checked before, R303). -/
def State.putAt (s : State) (ch : ChIdx) (p : Nat × Leaf × Nat) (b : Byte) : State :=
  let s := if s.cached ch p.1 p.2.1 then (s.tcTouch ch p.2.1.tier (p.2.2 / 4096)).tcPut ch p.2.1.tier p.2.2 b
    else s.homePut ch p.2.1.tier p.2.2 b
  match s.t1Sector ch p with
  | some k => s.modC ch fun c => { c with mem := { c.mem with poison := c.mem.poison.filter (· != k) } }
  | none => s

/-- One more transfer of a region: it joins the table of 4,096 regions, in place of the one with the lowest count when
the table is full, the lowest index on a tie (R322). A promoted region that so loses its place stands behind the table
with no count: it stays promoted until a period demotes it. -/
def bumpRegion (l : List Region) (a : Nat) : List Region :=
  let table := l.take 4096
  let behind := l.drop 4096
  if table.any (·.addr == a) then l.map fun r => if r.addr == a then { r with count := r.count + 1 } else r
  else
    let new : Region := ⟨a, 1, behind.any (·.addr == a)⟩
    match table with
    | [] => [new]
    | r :: rest =>
      if table.length < 4096 then table ++ [new]
      else
        let low := rest.foldl (fun m x => min m x.count) r.count
        let i := (table.findIdx? (·.count == low)).getD 0
        let old := table.getD i r
        table.set i new ++ (if old.promoted then [{ old with count := 0 }] else []) ++ behind.filter (·.addr != a)

/-- The 64-byte transfers of an access to T2 and T3 pages that carry PROMO and not TIERED are counted (R322). -/
def State.countPromo (s : State) (ch : ChIdx) (va n : Nat) : State :=
  ((List.range (ceilDiv (va % 64 + n) 64)).map fun i => va / 64 * 64 + i * 64).foldl (fun (s : State) v =>
    match s.translate ch v with
    | .error _ => s
    | .ok (l, _) =>
      if l.tier != .t1 && l.promo && !l.tiered then s.modMem ch fun m => { m with promo := bumpRegion m.promo (v / 2 ^ 21 * 2 ^ 21) }
      else s) s

/-- What keeps one byte of a store from its place: the T2 link that trains or has failed, a T3 request that fails, or a granule
that must be read from a home that cannot be read (R311, R313, R319). -/
def State.storeErr (s : State) (ch : ChIdx) (ps : List (Nat × Leaf × Nat)) (p : Nat × Leaf × Nat) : Option MemErr :=
  let t := p.2.1.tier
  let g := p.2.2 / 4096
  let err (bad : Bool) : Option MemErr :=
    if t == .t2 && s.t2Waits ch then some (.wait p.1) else if bad then some (.ue p.1) else none
  if t == .t1 then none
  else if !s.cached ch p.1 p.2.1 then err (if t == .t2 then s.t2Failed ch else s.bad ch t p.2.2)
  else if (s.tcLine ch t g).isSome || (s.wbGran ch t g).isSome ||
      4096 ≤ (ps.filter fun q => q.2.1.tier == t && q.2.2 / 4096 == g).length then none
  else err (s.granBad ch t g)

/-- The granules that `n` bytes at a device virtual address lie in: the first address of the run in each, and how many bytes of
it. -/
def granRuns (va n : Nat) : List (Nat × Nat) :=
  (List.range (ceilDiv (va % 4096 + n) 4096)).map fun i =>
    let lo := max va ((va / 4096 + i) * 4096)
    (lo, min (va + n) ((va / 4096 + i + 1) * 4096) - lo)

/-- A run within one granule has been moved: T1 is charged for a page of its own or the tier cache, else the home (R327). -/
def State.chargeRun (s : State) (ch : ChIdx) (r : Nat × Nat) (host : Bool := false) : State :=
  match s.translate ch r.1 with
  | .error _ => s
  | .ok (l, a) => if s.cached ch r.1 l then s.charge ch .t1 r.2 host else s.moved ch l.tier a r.2 host

/-- A T2 sector that a store covers whole is no longer poisoned. -/
def State.healT2 (s : State) (ch : ChIdx) (ps : List (Nat × Leaf × Nat)) : State :=
  let whole (x : Nat) : Bool := 32 ≤ (ps.filter fun q => q.2.1.tier == .t2 && q.2.2 / 32 == x).length
  s.modC ch fun c => { c with mem := { c.mem with poison2 := c.mem.poison2.filter fun x => !whole x } }

/-- A store meets the region that a digest round reads (R429). -/
def State.digTear (s : State) (ch : ChIdx) (va n : Nat) : State :=
  s.modC ch fun c => { c with digHand := c.digHand.map fun h =>
    { h with torn := h.torn || (decide (va < h.base + h.len) && decide (h.base < va + n)) } }

/-- Bytes stored at a device virtual address, for the partition or for HOST: PAGE_FAULT or MEM_UE and no change, or the state
after it (R303, R305, R306, R311, R327). -/
def State.vaWrite (s : State) (ch : ChIdx) (va : Nat) (bs : List Byte) (host : Bool := false) : Except MemErr State :=
  match s.vaPlaces ch va bs.length with
  | .error e => .error e
  | .ok ps =>
    match s.partialPoison ch ps with
    | some bad => .error (.ue bad)
    | none =>
      match ps.findSome? (s.storeErr ch ps) with
      | some e => .error e
      | none =>
        let s := ((ps.zip bs).foldl (fun s x => s.putAt ch x.1 x.2) s).healT2 ch ps
        let s := (granRuns va bs.length).foldl (fun (s : State) r => (s.tlbFill ch r.1).chargeRun ch r host) s
        .ok (((s.tcCount ch).countPromo ch va bs.length).digTear ch va bs.length)

/-- A read of device virtual memory: its translations are cached, granules of the tier cache come in, and transfers are counted
and charged (R306, R319, R322, R327). -/
def State.vaTouch (s : State) (ch : ChIdx) (va n : Nat) : State :=
  let one (s : State) (r : Nat × Nat) : State :=
    let s := match s.translate ch r.1 with
      | .error _ => s
      | .ok (l, a) => if s.cached ch r.1 l then s.tcTouch ch l.tier (a / 4096) else s
    (s.tlbFill ch r.1).chargeRun ch r
  (((granRuns va n).foldl one s).tcCount ch).countPromo ch va n

end Sys2Proof.Machine
end

