-- ==== Sys2Proof/Machine/Numbers.lean ====
section
/-! DEFINITION. Number formats, rounding, the block formats, the twin word and the counter-based generator (05). -/

namespace Sys2Proof.Machine

/-! ## Values -/

/-- A value of an element: NaN, an infinity, a signed zero, or an exact number other than zero. -/
inductive Num where
  | nan
  | inf (neg : Bool)
  | zero (neg : Bool)
  | fin (q : Rat)
  deriving DecidableEq, Repr

/-- 2 to an integer power. -/
def pow2 (e : Int) : Rat := if 0 ≤ e then ((2 ^ e.toNat : Nat) : Rat) else 1 / ((2 ^ (-e).toNat : Nat) : Rat)

/-- floor(log2 q) of a positive number. -/
def floorLog2 (q : Rat) : Int :=
  let e : Int := (Nat.log2 q.num.natAbs : Int) - (Nat.log2 q.den : Int)
  if q < pow2 e then e - 1 else if pow2 (e + 1) ≤ q then e + 1 else e

/-- ceil(log2 q) of a positive number. -/
def ceilLog2 (q : Rat) : Int :=
  let e := floorLog2 q
  if q = pow2 e then e else e + 1

/-- A number as a value, zero being +0. -/
def Num.ofRat (q : Rat) : Num := if q = 0 then .zero false else .fin q

/-- The number that a finite value stands for. -/
def Num.toRat : Num → Rat
  | .fin q => q
  | _ => 0

/-- The sign of a value. -/
def Num.isNeg : Num → Bool
  | .nan => false
  | .inf s => s
  | .zero s => s
  | .fin q => decide (q < 0)

/-- A value is NaN. -/
def Num.isNan : Num → Bool
  | .nan => true
  | _ => false

/-- A value is infinite. -/
def Num.isInf : Num → Bool
  | .inf _ => true
  | _ => false

/-- A value is zero. -/
def Num.isZero : Num → Bool
  | .zero _ => true
  | _ => false

/-- The negative of a value. -/
def Num.neg : Num → Num
  | .nan => .nan
  | .inf s => .inf !s
  | .zero s => .zero !s
  | .fin q => .fin (-q)

/-- The magnitude of a value. -/
def Num.abs : Num → Num
  | .nan => .nan
  | .inf _ => .inf false
  | .zero _ => .zero false
  | .fin q => .fin |q|

/-- The exact sum, with the signs of IEEE 754. -/
def Num.add : Num → Num → Num
  | .nan, _ => .nan
  | _, .nan => .nan
  | .inf a, .inf b => if a == b then .inf a else .nan
  | .inf a, _ => .inf a
  | _, .inf b => .inf b
  | .zero a, .zero b => .zero (a && b)
  | .zero _, y => y
  | x, .zero _ => x
  | .fin p, .fin q => .ofRat (p + q)

/-- The exact difference. -/
def Num.sub (a b : Num) : Num := a.add b.neg

/-- The exact product, with the signs of IEEE 754. -/
def Num.mul (a b : Num) : Num :=
  let s := a.isNeg != b.isNeg
  match a, b with
  | .nan, _ => .nan
  | _, .nan => .nan
  | .inf _, .zero _ => .nan
  | .zero _, .inf _ => .nan
  | .inf _, _ => .inf s
  | _, .inf _ => .inf s
  | .zero _, _ => .zero s
  | _, .zero _ => .zero s
  | .fin p, .fin q => .fin (p * q)

/-- The exact quotient, with the signs of IEEE 754. -/
def Num.div (a b : Num) : Num :=
  let s := a.isNeg != b.isNeg
  match a, b with
  | .nan, _ => .nan
  | _, .nan => .nan
  | .inf _, .inf _ => .nan
  | .zero _, .zero _ => .nan
  | .inf _, _ => .inf s
  | _, .inf _ => .zero s
  | .zero _, _ => .zero s
  | _, .zero _ => .inf s
  | .fin p, .fin q => .fin (p / q)

/-- `a` is below `b`: NaN is below nothing, and the zeros are equal. -/
def Num.lt (a b : Num) : Bool :=
  match a, b with
  | .nan, _ => false
  | _, .nan => false
  | .inf s, .inf t => s && !t
  | .inf s, _ => s
  | _, .inf t => !t
  | a, b => decide (a.toRat < b.toRat)

/-- The larger of two values; neither is NaN. Which of two zeros of different sign it is, is open (log entry 35). -/
def Num.max (a b : Num) : Num :=
  match a, b with
  | .zero x, .zero y => .zero (if x == y then x else Config.maxZero x)
  | a, b => if a.lt b then b else a

/-- The smaller of two values; neither is NaN. Which of two zeros of different sign it is, is open (log entry 35). -/
def Num.min (a b : Num) : Num :=
  match a, b with
  | .zero x, .zero y => .zero (if x == y then x else Config.minZero x)
  | a, b => if b.lt a then b else a

/-! ## Floating-point codes (Table 5.1) -/

/-- A floating-point format: exponent and mantissa bits, bias, the code of the largest finite magnitude, the code of
infinity where there is one, and the canonical NaN. -/
structure Flt where
  eb : Nat
  mb : Nat
  bias : Nat
  top : Nat
  infCode : Option Nat
  nanCode : Nat
  deriving DecidableEq, Repr

/-- E2M1. -/
def fE2M1 : Flt := ⟨2, 1, 1, 0x7, none, 0⟩
/-- E2M3. -/
def fE2M3 : Flt := ⟨2, 3, 1, 0x1F, none, 0⟩
/-- E3M2. -/
def fE3M2 : Flt := ⟨3, 2, 3, 0x1F, none, 0⟩
/-- E4M3. -/
def fE4M3 : Flt := ⟨4, 3, 7, 0x7E, none, 0x7F⟩
/-- E5M2. -/
def fE5M2 : Flt := ⟨5, 2, 15, 0x7B, some 0x7C, 0x7E⟩
/-- BF16. -/
def fBF16 : Flt := ⟨8, 7, 127, 0x7F7F, some 0x7F80, 0x7FC0⟩
/-- FP16. -/
def fFP16 : Flt := ⟨5, 10, 15, 0x7BFF, some 0x7C00, 0x7E00⟩
/-- FP32. -/
def fFP32 : Flt := ⟨8, 23, 127, 0x7F7FFFFF, some 0x7F800000, 0x7FC00000⟩

/-- The sign bit of a format. -/
def Flt.sign (f : Flt) : Nat := 2 ^ (f.eb + f.mb)

/-- The value of a magnitude code that is not special (R146). -/
def Flt.mag (f : Flt) (c : Nat) : Rat :=
  let e := c / 2 ^ f.mb
  let m := c % 2 ^ f.mb
  if e = 0 then (m : Rat) * pow2 (1 - (f.bias : Int) - f.mb)
  else ((2 ^ f.mb + m : Nat) : Rat) * pow2 ((e : Int) - f.bias - f.mb)

/-- The value of a code (R146). -/
def Flt.val (f : Flt) (code : Nat) : Num :=
  let neg := code / f.sign % 2 == 1
  let c := code % f.sign
  if f.top < c then (if f.infCode == some c then .inf neg else .nan)
  else if c = 0 then .zero neg
  else .fin (if neg then -f.mag c else f.mag c)

/-- How a conversion rounds: RND of Table 5.2 and the word drawn for stochastic rounding. -/
structure Rnd where
  mode : Nat
  u : Nat
  deriving DecidableEq, Repr

/-- Round to nearest even. -/
def rne : Rnd := ⟨0, 0⟩

/-- A fraction `r` of an ulp above an integer `n` rounds away from zero (Table 5.2). -/
def Rnd.up (rnd : Rnd) (odd : Bool) (r : Rat) : Bool :=
  match rnd.mode with
  | 0 => decide (1 / 2 < r) || (decide (r = 1 / 2) && odd)
  | 1 => false
  | _ => decide ((rnd.u : Int) < (r * (2 ^ 32 : Nat)).floor)

/-- The magnitude code of a positive number, rounded; it may pass the largest finite code. -/
def Flt.code (f : Flt) (rnd : Rnd) (q : Rat) : Nat :=
  let lo : Int := 1 - f.bias
  let e0 := floorLog2 q
  let e := if e0 < lo then lo else e0
  let y := q / pow2 (e - f.mb)
  let n := y.floor.toNat
  let c := (e + f.bias - 1).toNat * 2 ^ f.mb + n
  if rnd.up (c % 2 == 1) (y - (n : Rat)) then c + 1 else c

/-- What a conversion counts in CH_FMT_STAT (R155). -/
structure Cnt where
  ovf : Nat
  nanw : Nat
  deriving DecidableEq, Repr

/-- Counts added. -/
def Cnt.add (a b : Cnt) : Cnt := ⟨a.ovf + b.ovf, a.nanw + b.nanw⟩

/-- A value converted to a floating-point format (R154, R155, Table 5.3). -/
def Flt.conv (f : Flt) (rnd : Rnd) (x : Num) : Nat × Cnt :=
  let sgn := if x.isNeg then f.sign else 0
  match x with
  | .nan => (f.nanCode, ⟨0, 1⟩)
  | .inf _ => match f.infCode with
    | some i => (sgn + i, ⟨0, 0⟩)
    | none => (f.nanCode, ⟨0, 1⟩)
  | .zero _ => (sgn, ⟨0, 0⟩)
  | .fin q =>
    let a := |q|
    let c := f.code rnd a
    if f.mag f.top < a then
      match f.infCode with
      | none => (sgn + f.top, ⟨1, 0⟩)
      | some i =>
        if rnd.mode == 1 || (rnd.mode == 0 && c ≤ f.top) then (sgn + f.top, ⟨1, 0⟩) else (sgn + i, ⟨1, 0⟩)
    else (sgn + c, ⟨0, 0⟩)

/-- One rounding to FP32, to nearest even (R170). -/
def rne32 (x : Num) : Num := fFP32.val (fFP32.conv rne x).1

/-- The sum rounded to FP32. -/
def add32 (a b : Num) : Num := rne32 (a.add b)
/-- The difference rounded to FP32. -/
def sub32 (a b : Num) : Num := rne32 (a.sub b)
/-- The product rounded to FP32. -/
def mul32 (a b : Num) : Num := rne32 (a.mul b)
/-- The quotient rounded to FP32. -/
def div32 (a b : Num) : Num := rne32 (a.div b)

/-- The FP32 code of a value. -/
def Num.w32 (x : Num) : Nat := (fFP32.conv rne x).1

/-- 1. -/
def Num.one : Num := .fin 1

/-- A signed integer rounded from a number: Table 5.2 on its magnitude. -/
def roundInt (rnd : Rnd) (q : Rat) : Int :=
  let a := |q|
  let n := a.floor.toNat
  let m := if rnd.up (n % 2 == 1) (a - (n : Rat)) then n + 1 else n
  if q < 0 then -(m : Int) else m

/-- A value converted to INT32 (Table 5.3). -/
def convInt32 (rnd : Rnd) (x : Num) : Nat × Cnt :=
  match x with
  | .nan => (0, ⟨0, 0⟩)
  | .inf neg => (if neg then 0x80000000 else 0x7FFFFFFF, ⟨1, 0⟩)
  | .zero _ => (0, ⟨0, 0⟩)
  | .fin q =>
    let i := roundInt rnd q
    if i < -(2 ^ 31) then (0x80000000, ⟨1, 0⟩)
    else if 2 ^ 31 - 1 < i then (0x7FFFFFFF, ⟨1, 0⟩)
    else (wrapInt 32 i, ⟨0, 0⟩)

/-! ## Element formats (Table 2.9) -/

/-- Bits per element. -/
def fmtBits (d : Nat) : Nat :=
  match d with
  | 0x0 => 4 | 0x1 => 6 | 0x2 => 6 | 0x3 => 8 | 0x4 => 8 | 0x5 => 8 | 0x6 => 8 | 0x7 => 8 | 0x8 => 16 | 0x9 => 16
  | 0xA => 32 | 0xB => 4 | 0xC => 48 | 0xD => 32 | _ => 8

/-- The block along DIM0, 1 for a format without blocks. -/
def fmtBlock (d : Nat) : Nat := if d < 6 then 32 else if d == 0xB then 16 else 1

/-- A block format. -/
def isBlock (d : Nat) : Bool := 1 < fmtBlock d

/-- The scale format of a block format. -/
def scaleFmt (d : Nat) : Nat := if d == 0xB then 0xF else 0xE

/-- The floating-point element of a format, none for the integer elements and the twin word. -/
def fltOf (d : Nat) : Option Flt :=
  match d with
  | 0x0 => some fE2M1 | 0x1 => some fE2M3 | 0x2 => some fE3M2 | 0x3 => some fE4M3 | 0x4 => some fE5M2
  | 0x6 => some fE4M3 | 0x7 => some fE5M2 | 0x8 => some fBF16 | 0x9 => some fFP16 | 0xA => some fFP32
  | _ => none

/-- A twin word's value: hi + lo exactly (R150). -/
def twinVal (code : Nat) : Num :=
  match fFP32.val (code % 2 ^ 32) with
  | .nan => .nan
  | .inf s => .inf s
  | hi => hi.add (fBF16.val (code / 2 ^ 32))

/-- The value of an element before its block scale (R146, R148, R149, R150). -/
def elemVal (d code : Nat) : Num :=
  match fltOf d with
  | some f => f.val code
  | none =>
    if d == 0x5 then .ofRat ((sextNat 8 code : Rat) * pow2 (-6))
    else if d == 0xB then .ofRat (if code == 8 then -7 else (sextNat 4 code : Rat))
    else if d == 0xC then twinVal code
    else .ofRat (sextNat 32 code : Rat)

/-- The value of an E8M0 scale code (R147). -/
def scaleE8 (code : Nat) : Num := if code == 0xFF then .nan else .fin (pow2 ((code : Int) - 127))

/-- The value of a SCALE_E4M3 code (R149): the sign is ignored. -/
def scaleE4 (code : Nat) : Num := fE4M3.val (code % 128)

/-- The value of a block scale. -/
def scaleVal (d code : Nat) : Num := if d == 0xB then scaleE4 code else scaleE8 code

/-- An element of a block under its scale: a NaN scale makes every element NaN; under another scale a NaN or an infinity
stays what it is (R147, R149). -/
def scaled (scale v : Num) : Num :=
  if scale.isNan then .nan
  else if v.isNan || v.isInf then v
  else match scale.mul v with
    | .zero s => .zero (s && !scale.isZero)
    | x => x

/-! ## Writing blocks (R156, R157) -/

/-- Largest magnitude of a block; none when it holds NaN or an infinity. -/
def blockMax : List Num → Option Rat
  | [] => some 0
  | x :: xs =>
    if x.isNan || x.isInf then none
    else match blockMax xs with
      | none => none
      | some m => some (if m < |x.toRat| then |x.toRat| else m)

/-- Vmax of R156. -/
def vmax (d : Nat) : Rat :=
  match fltOf d with
  | some f => f.mag f.top
  | none => 127 / 64

/-- One scaled value written as an element of an MX format. -/
def mxElem (d : Nat) (rnd : Rnd) (y : Num) : Nat × Cnt :=
  match fltOf d with
  | some f => f.conv rnd y
  | none =>
    let i := roundInt rnd (y.toRat * 64)
    let clip := decide (vmax d < |y.toRat|)
    (wrapInt 8 (if 127 < i then 127 else if i < -127 then -127 else i), ⟨if clip then 1 else 0, 0⟩)

/-- A list of conversions with its counts. -/
def gather (l : List (Nat × Cnt)) : List Nat × Cnt :=
  (l.map (·.1), l.foldl (fun a x => a.add x.2) ⟨0, 0⟩)

/-- An MX block: scale code, element codes, counts (R156). `rnd i` rounds element i. -/
def mxBlock (d : Nat) (rnd : Nat → Rnd) (xs : List Num) : Nat × List Nat × Cnt :=
  match blockMax xs with
  | none => (0xFF, xs.map fun _ => 0, ⟨0, 1⟩)
  | some m =>
    if m = 0 then (0, xs.map fun _ => 0, ⟨0, 0⟩)
    else
      let xe := ceilLog2 (m / vmax d)
      let xe := if xe < -127 then -127 else if 127 < xe then 127 else xe
      let x := Num.fin (pow2 (-xe))
      let (cs, n) := gather (xs.mapIdx fun i v => mxElem d (rnd i) (v.mul x))
      ((xe + 127).toNat, cs, n)

/-- The smallest E4M3 code whose value is at or above a positive number, capped at 448 (R157). -/
def e4Above (v : Rat) : Nat :=
  let c := fE4M3.code ⟨1, 0⟩ v
  if fE4M3.top ≤ c then fE4M3.top else if fE4M3.mag c < v then c + 1 else c

/-- A GK4 block: scale code, element codes, counts (R157). -/
def gkBlock (rnd : Nat → Rnd) (xs : List Num) : Nat × List Nat × Cnt :=
  match blockMax xs with
  | none => (0x7F, xs.map fun _ => 0, ⟨0, 1⟩)
  | some m =>
    if m = 0 then (0, xs.map fun _ => 0, ⟨0, 0⟩)
    else
      let code := e4Above (m / 7)
      let s := fE4M3.mag code
      let (cs, n) := gather (xs.mapIdx fun i v =>
        let i' := roundInt (rnd i) (v.toRat / s)
        let clip := decide (7 * s < |v.toRat|)
        (wrapInt 4 (if 7 < i' then 7 else if i' < -7 then -7 else i'), ⟨if clip then 1 else 0, 0⟩))
      (code, cs, n)

/-- A block of any block format. -/
def writeBlock (d : Nat) (rnd : Nat → Rnd) (xs : List Num) : Nat × List Nat × Cnt :=
  if d == 0xB then gkBlock rnd xs else mxBlock d rnd xs

/-- One element of a format without blocks, from an FP32 value (R155, R176). -/
def writeElem (d : Nat) (rnd : Rnd) (x : Num) : Nat × Cnt :=
  match fltOf d with
  | some f => f.conv rnd x
  | none =>
    if d == 0xC then (match fFP32.conv rne x with | (c, n) => (c, n))
    else convInt32 rnd x

/-! ## The twin-word update (R158) -/

/-- A twin word as hi and lo. -/
structure Twin where
  hi : Num
  lo : Num
  deriving DecidableEq, Repr

/-- The twin word of a code. -/
def twinOf (code : Nat) : Twin := ⟨fFP32.val (code % 2 ^ 32), fBF16.val (code / 2 ^ 32)⟩

/-- The code of a twin word. -/
def Twin.code (t : Twin) : Nat := t.hi.w32 + (fBF16.conv rne t.lo).1 * 2 ^ 32

/-- The exact value of a twin word. -/
def Twin.val (t : Twin) : Num := if t.hi.isNan || t.hi.isInf then t.hi else t.hi.add t.lo

/-- The twin-word add of R158; `rnd` rounds lo. -/
def Twin.add (w : Twin) (d : Num) (rnd : Rnd) : Twin :=
  let t := add32 w.hi d
  if t.isNan || t.isInf then ⟨t, .zero false⟩
  else
    let e := (w.hi.add d).sub t
    let v := add32 e w.lo
    let h2 := add32 t v
    let r := (t.sub h2).add v
    let lo := fBF16.val (fBF16.conv rnd r).1
    if h2.isNan || h2.isInf then ⟨h2, .zero false⟩ else ⟨h2, lo⟩

/-! ## The counter-based generator (R159 to R161) -/

/-- One round of Philox-4x32. -/
def philoxRound (k0 k1 : Nat) (c : Nat × Nat × Nat × Nat) : Nat × Nat × Nat × Nat :=
  let p0 := 0xD2511F53 * c.1
  let p1 := 0xCD9E8D57 * c.2.2.1
  let lim := 2 ^ 32
  ((p1 / lim) ^^^ c.2.1 ^^^ k0, p1 % lim, (p0 / lim) ^^^ c.2.2.2 ^^^ k1, p0 % lim)

/-- Rounds of Philox with the key schedule. -/
def philoxRounds : Nat → Nat → Nat → (Nat × Nat × Nat × Nat) → Nat × Nat × Nat × Nat
  | 0, _, _, c => c
  | n + 1, k0, k1, c =>
    philoxRounds n ((k0 + 0x9E3779B9) % 2 ^ 32) ((k1 + 0xBB67AE85) % 2 ^ 32) (philoxRound k0 k1 c)

/-- Philox-4x32-10 (R159): the key is SEED (R160). -/
def philox (seed c0 c1 c2 c3 : Nat) : Nat × Nat × Nat × Nat :=
  philoxRounds 10 (seed % 2 ^ 32) (seed / 2 ^ 32) (c0, c1, c2, c3)

/-- The draw for linear element index `i` (R160, Table 5.5): `use` is 0 for stochastic rounding and 1 for sampling. -/
def drawWord (seed use i c2 c3 : Nat) : Nat :=
  let j := i / 4
  let w := philox seed (j % 2 ^ 32) (j / 2 ^ 32 % 2 ^ 24 + use * 2 ^ 28) c2 c3
  match i % 4 with
  | 0 => w.1
  | 1 => w.2.1
  | 2 => w.2.2.1
  | _ => w.2.2.2

/-- A draw as a uniform value in (0, 1] (R161). -/
def uniform (w : Nat) : Num := .fin (((w / 256 + 1 : Nat) : Rat) * pow2 (-24))

end Sys2Proof.Machine
end

