-- ==== Sys2Proof/Machine/Functions.lean ====
section
/-! DEFINITION. The functions of the epilogue (R168, R174, R191). The device's algorithms are fixed and not given; each
result is the opaque value of Config.function wherever that value lies within the spec's bound of the exact result, and
the rounded exact result otherwise (log entry 15). The exact results are computed in fixed point with 256 fraction bits. -/

namespace Sys2Proof.Machine

open Sys2Proof

/-! ## Exact results, in fixed point -/

/-- Fraction bits. -/
def fxBits : Nat := 256
/-- One. -/
def fxOne : Int := (2 ^ fxBits : Nat)
/-- A number in fixed point. -/
def fxOf (q : Rat) : Int := (q * ((2 ^ fxBits : Nat) : Rat)).floor
/-- A fixed-point number as a rational. -/
def fxRat (x : Int) : Rat := (x : Rat) / ((2 ^ fxBits : Nat) : Rat)
/-- Product. -/
def fxMul (x y : Int) : Int := x * y / fxOne
/-- Quotient. -/
def fxDiv (x y : Int) : Int := if y = 0 then 0 else x * fxOne / y

/-- Horner's scheme for 1 + x/k (1 + x/(k+1) (…)), n terms. -/
def expTerms (x : Int) : Nat → Nat → Int
  | 0, _ => fxOne
  | n + 1, k => fxOne + fxMul x (expTerms x n (k + 1)) / (k : Int)

/-- Squared n times. -/
def fxSquares : Nat → Int → Int
  | 0, x => x
  | n + 1, x => fxSquares n (fxMul x x)

/-- exp of a number of magnitude at most 256. -/
def expRat (q : Rat) : Rat :=
  let a := |q|
  let y := fxSquares 10 (expTerms (fxOf (a / 1024)) 40 1)
  if q < 0 then 1 / fxRat y else fxRat y

/-- Σ z^(2i+1) / (2i+1) with the sign of `alt` on odd i, n terms from i. -/
def oddSeries (alt : Bool) (z2 : Int) : Nat → Nat → Int → Int
  | 0, _, _ => 0
  | n + 1, i, p =>
    let t := p / ((2 * i + 1 : Nat) : Int)
    (if alt && i % 2 == 1 then -t else t) + oddSeries alt z2 n (i + 1) (fxMul p z2)

/-- 2 atanh z. -/
def atanh2 (z : Int) : Int := 2 * oddSeries false (fxMul z z) 100 0 z

/-- log of a positive number. -/
def logRat (q : Rat) : Rat :=
  let e := floorLog2 q
  let m := q / pow2 e
  fxRat (atanh2 (fxOf ((m - 1) / (m + 1))) + e * atanh2 (fxOf (1 / 3)))

/-- π. -/
def piFx : Int :=
  let at_ (n : Nat) : Int := let z := fxOne / (n : Int); oddSeries true (fxMul z z) 130 0 z
  16 * at_ 5 - 4 * at_ 239

/-- Square root in fixed point. -/
def fxSqrt (x : Int) : Int := (Nat.sqrt (x.toNat * 2 ^ fxBits) : Int)

/-- Σ (-1)^n x^(2n+1) / (n! (2n+1)), from term n. -/
def erfTerms (x2 : Int) : Nat → Nat → Int → Int
  | 0, _, _ => 0
  | k + 1, n, p => p / ((2 * n + 1 : Nat) : Int) + erfTerms x2 k (n + 1) (-(fxMul p x2) / ((n + 1 : Nat) : Int))

/-- erf of a number: 1 in magnitude from 7 on. -/
def erfRat (q : Rat) : Rat :=
  if 7 ≤ q then 1 else if q ≤ -7 then -1
  else
    let x := fxOf q
    fxRat (fxDiv (2 * erfTerms (fxMul x x) 250 0 x) (fxSqrt piFx))

/-- 1 / (1 + exp(-q)). -/
def sigmoidRat (q : Rat) : Rat := if q ≤ -256 then 0 else if 256 ≤ q then 1 else 1 / (1 + expRat (-q))

/-- tanh of a number. -/
def tanhRat (q : Rat) : Rat := 2 * sigmoidRat (2 * q) - 1

/-- log(1 + exp q). -/
def softplusRat (q : Rat) : Rat :=
  if q ≤ -256 then 0 else if 256 ≤ q then q else if q ≤ 0 then logRat (1 + expRat q) else q + logRat (1 + expRat (-q))

/-- 1 / √q of a positive number. -/
def rsqrtRat (q : Rat) : Rat :=
  let e := floorLog2 q / 2
  pow2 (-e) * fxRat (fxDiv fxOne (fxSqrt (fxOf (q / pow2 (2 * e)))))

/-! ## Bounds -/

/-- One BF16 ulp of an exact result (R168, R191). -/
def bfUlp (y : Rat) : Rat :=
  if y = 0 then pow2 (-133)
  else
    let e := floorLog2 |y|
    pow2 ((if e < -126 then -126 else e) - 7)

/-- A number for comparison: an infinity counts as one ulp beyond the largest finite BF16 value. -/
def Num.ext : Num → Rat
  | .inf s => if s then -pow2 128 else pow2 128
  | x => x.toRat

/-- The device's value of function `k` at `x`, whose exact result is `y`, within `n` BF16 ulp or `a` absolute. -/
def bounded (k n : Nat) (a : Rat) (x : Num) (y : Rat) : Num :=
  let v := fFP32.val (Config.function k (BitVec.ofNat 32 x.w32)).toNat
  let y' := if pow2 128 < y then pow2 128 else if y < -pow2 128 then -pow2 128 else y
  let b := (n : Rat) * bfUlp y'
  let b := if b < a then a else b
  if !v.isNan && decide (|v.ext - y'| ≤ b) then v else rne32 (.ofRat y)

/-- A value the spec states nothing of: the function's own. -/
def unstated (k : Nat) (x : Num) : Num :=
  match fFP32.val (Config.function k (BitVec.ofNat 32 x.w32)).toNat with
  | .nan => .nan
  | v => v

/-! ## The functions -/

/-- A result in the subnormal range is an FP32 subnormal (R168). -/
def subnormal (x : Num) : Num :=
  if x.toRat = 0 then .fin (pow2 (-149))
  else if pow2 (-126) ≤ |x.toRat| then .fin (pow2 (-126) - pow2 (-149))
  else x

/-- EXP (R168). -/
def fnExp (x : Num) : Num :=
  match x with
  | .nan => .nan
  | .inf s => if s then .zero false else .inf false
  | .zero _ => .one
  | .fin q =>
    if 89 ≤ q then .inf false
    else if q ≤ -104 then .zero false
    else
      let v := bounded 0x8 2 0 x (expRat q)
      if q < -8734 / 100 then subnormal v else v

/-- LOG (R168). -/
def fnLog (x : Num) : Num :=
  match x with
  | .nan => .nan
  | .inf s => if s then .nan else .inf false
  | .zero _ => .inf true
  | .fin q => if q < 0 then .nan else if q = 1 then .zero false else bounded 0x9 2 0 x (logRat q)

/-- SIGMOID (R191): +0 from -104 down, 1 from 17 up. -/
def fnSigmoid (x : Num) : Num :=
  match x with
  | .nan => .nan
  | .inf s => if s then .zero false else .one
  | _ =>
    let q := x.toRat
    if q ≤ -104 then .zero false else if 17 ≤ q then .one else bounded 0x5 2 0 x (sigmoidRat q)

/-- TANH (R191): odd, 1 in magnitude from 9.1 on. -/
def fnTanh (x : Num) : Num :=
  match x with
  | .nan => .nan
  | _ =>
    let q := |x.ext|
    let y := if 91 / 10 ≤ q then .one else bounded 0x6 2 0 x.abs (tanhRat q)
    if x.isNeg then y.neg else y

/-- A function bounded by 2 ulp or 2⁻²⁴ (R191); at an infinity only the exact result at +∞ is plain. -/
def fnLoose (k : Nat) (f : Rat → Rat) (x : Num) : Num :=
  match x with
  | .nan => .nan
  | .inf s => if s then (if k == 0x7 then bounded k 2 (pow2 (-24)) x 0 else unstated k x) else .inf false
  | _ => bounded k 2 (pow2 (-24)) x (f x.toRat)

/-- GELU_TANH. -/
def fnGeluTanh : Num → Num :=
  fnLoose 0x2 fun q => q / 2 * (1 + tanhRat (79788456 / 100000000 * (q + 44715 / 1000000 * (q * q * q))))

/-- GELU_ERF. -/
def fnGeluErf : Num → Num := fnLoose 0x3 fun q => q / 2 * (1 + erfRat (q * fxRat (fxSqrt (fxOne / 2))))

/-- SILU. -/
def fnSilu : Num → Num := fnLoose 0x4 fun q => q * sigmoidRat q

/-- SOFTPLUS. -/
def fnSoftplus : Num → Num := fnLoose 0x7 softplusRat

/-- RSQRT (Table 6.3). -/
def fnRsqrt (x : Num) : Num :=
  match x with
  | .nan => .nan
  | .inf s => if s then .nan else .zero false
  | .zero s => .inf s
  | .fin q => if q < 0 then .nan else bounded 0xB 1 0 x (rsqrtRat q)

/-- φ of Table 6.3. -/
def act (code : Nat) (x : Num) : Num :=
  match code with
  | 0x0 => x
  | 0x1 => (match x with
    | .nan => .nan
    | .zero s => .zero s
    | y => if y.isNeg then .zero false else y)
  | 0x2 => fnGeluTanh x
  | 0x3 => fnGeluErf x
  | 0x4 => fnSilu x
  | 0x5 => fnSigmoid x
  | 0x6 => fnTanh x
  | 0x7 => fnSoftplus x
  | 0x8 => fnExp x
  | 0x9 => fnLog x
  | 0xA => mul32 x x
  | _ => fnRsqrt x

end Sys2Proof.Machine
end

