-- ==== Sys2Proof/Machine/Wake.lean ====
section
/-! DEFINITION. The lehr's changes of power state and the wake events (R20, R475 to R479). -/

namespace Sys2Proof.Machine

open Sys2Proof

/-- The gaffer of a channel's half as an event source (R19). -/
def srcGaffer (ch : ChIdx) : Nat := srcHub (if ch.val < 4 then 0 else 1)

/-- The gaffer of a channel's half is in reset. -/
def State.gafferDown (s : State) (ch : ChIdx) : Bool := if ch.val < 4 then s.pkg.gwReset else s.pkg.geReset

/-- STATE of CH_PWR_STAT. -/
def PwrSt.code : PwrSt → Nat
  | .run => 0 | .idle => 1 | .sleep => 2 | .deep => 3

/-- The next deeper state (R475). -/
def PwrSt.deeper : PwrSt → PwrSt
  | .run => .idle | .idle => .sleep | .sleep => .deep | .deep => .deep

/-- The power side of a channel changed. -/
def State.modPwr (s : State) (ch : ChIdx) (f : Power → Power) : State := s.modC ch fun c => { c with power := f c.power }

/-- The power side of a channel. -/
def State.pwr (s : State) (ch : ChIdx) : Power := (s.chan[ch]).power

/-- The state that a change enters. -/
def Power.entering (p : Power) : PwrSt :=
  match p.move with
  | .none => p.st
  | .entry _ => p.st.deeper
  | .exit _ => .run

/-- CH_PWR_STAT follows the power side: STATE, or the state being entered while TRANS is 1. -/
def State.pwrShow (s : State) (ch : ChIdx) : State :=
  let p := s.pwr ch
  let runs := p.move != .none && !p.held
  (s.setF ch R.CH_PWR_STAT_STATE (if runs then p.entering else p.st).code).setF ch R.CH_PWR_STAT_TRANS (if runs then 1 else 0)

/-- Channels of the half whose change runs (R479). -/
def State.moving (s : State) (ch : ChIdx) : Nat :=
  ((List.finRange 8).filter fun c => c.val / 4 == ch.val / 4 && (s.pwr c).move != .none && !(s.pwr c).held).length

/-- A change starts, or waits for the lehr: at most two channels of a half change at once, and none while the gaffer is
in reset (R20, R479). -/
def State.pwrBegin (s : State) (ch : ChIdx) (m : PwrMove) : State :=
  let held := s.gafferDown ch || 2 ≤ s.moving ch
  (s.modPwr ch fun p => { p with move := m, held := held }).pwrShow ch

/-- The lehr takes up waiting changes of the half, in ascending channel number (R479). -/
def State.lehrNext (s : State) (ch : ChIdx) : State :=
  (List.finRange 8).foldl (fun (s : State) c =>
    if c.val / 4 == ch.val / 4 && (s.pwr c).held && !s.gafferDown c && s.moving c < 2 then
      (s.modPwr c fun p => { p with held := false }).pwrShow c
    else s) s

/-- An exit begins: LAST_WAKE and PWR_WAKE carry the code of the event that started it (R477). -/
def State.exitBegin (s : State) (ch : ChIdx) (code : Nat) : State :=
  let t := s.pkg.tick.num.toNat
  ((s.setF ch R.CH_PWR_STAT_LAST_WAKE code).post (srcGaffer ch) .pwrWake [code, t % 2 ^ 32, t / 2 ^ 32]).pwrBegin ch (.exit .run)

/-- A function enabled again before its shutdown has finished: REUP_PENDING reads 1 and one event is posted (R478). -/
def State.reup (s : State) (ch : ChIdx) : State :=
  if s.f ch R.CH_PWR_STAT_REUP_PENDING == 1 then s
  else ((s.setF ch R.CH_PWR_STAT_REUP_PENDING 1).satF ch R.CH_PWR_STAT_REUPS 1).post (srcGaffer ch) .reupPending []

/-- The fence of R489 is in force. -/
def State.fenced (s : State) : Bool := s.pkg.fld R.HUB_SEC_ALARM_FENCED == 1

/-- The key store or flash holds LOCKED (R490, R491). -/
def State.locked (s : State) : Bool := s.pkg.sec.locked || s.pkg.flash.locked

/-- The channel's fibers may be lit: they are dark in reset, without the hub link, in DEEP, under the fence, and from an
ERASE alarm until a commit unlocks the package (R38, R40, R476, R489, R490). -/
def State.mayTrain (s : State) (ch : ChIdx) : Bool :=
  s.up ch && !s.fenced && (s.pwr ch).st != .deep && s.pkg.fld R.HUB_SEC_ALARM_ERASING == 0 && !s.locked

/-- A wake event of Table 17.5 reaches a channel: nothing in RUN or during an exit; an exit from IDLE, SLEEP or DEEP;
during an entry the exit follows it (R477, R478). A PARKED channel wakes only for a commit (R476); under the fence wake
events are ignored (Table 17.9); in the half of a gaffer in reset they are held (R20). -/
def State.wake (s : State) (ch : ChIdx) (code : Nat) : State :=
  let p := s.pwr ch
  if !s.up ch || s.fenced || (s.place ch == 0xE && code != 7) then s
  else match p.move with
    | .exit _ => s
    | .entry _ => if p.wake.isSome then s else (s.modPwr ch fun p => { p with wake := some code }).reup ch
    | .none =>
      if p.st == .run then s
      else if s.gafferDown ch then s.modP fun k =>
        { k with heldWakes := if k.heldWakes.any (fun x => x.1 == ch.val) then k.heldWakes else k.heldWakes ++ [(ch.val, code)] }
      else s.exitBegin ch code

end Sys2Proof.Machine
end

