-- ==== Sys2Proof/Machine/Links.lean ====
section
/-! DEFINITION. The link unit's store: routes, router outputs, credits, messages and their delivery, and a link that goes
down (R349 to R356, R363, R371). -/

namespace Sys2Proof.Machine

open Sys2Proof

/-! ## Links -/

/-- A port or sibling link of a channel: 0 to 7 a fabric port, 8 + k the sibling link to CHk. -/
abbrev LinkIdx := Fin 16

/-- A link. -/
def State.link (s : State) (ch : ChIdx) (p : LinkIdx) : Link := (s.chan[ch]).fab.link[p]

/-- The link unit changed. -/
def State.modFab (s : State) (ch : ChIdx) (f : Fab → Fab) : State := s.modC ch fun c => { c with fab := f c.fab }

/-- A link changed. -/
def State.modLink (s : State) (ch : ChIdx) (p : LinkIdx) (f : Link → Link) : State :=
  s.modFab ch fun b => { b with link := b.link.set p (f (b.link[p])) }

/-- STATE of FAB_PORT_STAT. -/
def State.linkState (s : State) (ch : ChIdx) (p : LinkIdx) : Nat := s.f ch (R.FAB_PORT_STAT_STATE p)

/-- The link is UP. -/
def State.linkUp (s : State) (ch : ChIdx) (p : LinkIdx) : Bool := s.linkState ch p == 2

/-- Source ID of a link's events. -/
def srcLink (ch : ChIdx) (p : LinkIdx) : Nat := srcOf ch (0x030 + p.val)

/-- A link index from a number. -/
def linkOf (n : Nat) : LinkIdx := Fin.ofNat 16 n

/-- Every link. -/
def links : List LinkIdx := List.finRange 16

/-- The virtual channels. -/
def vcs : List Nat := List.range 8

/-! ## Routes (R354, R355, Table 12.8) -/

/-- Where a route leads. -/
inductive Way where
  | link (p : LinkIdx)
  | here
  | nowhere
  deriving DecidableEq, Repr

/-- The route word of a destination. -/
def State.routeWord (s : State) (ch : ChIdx) (dst : Nat) : Nat :=
  if dst / 256 == s.node ch / 256 then ((s.chan[ch]).rd (0x8800 + 4 * (dst % 256))).toNat
  else ((s.chan[ch]).rd (0x40000 + 4 * (dst / 256))).toNat

/-- An output code. -/
def wayOf (ch : ChIdx) (code : Nat) : Way :=
  if code == 8 + ch.val then .here else if code < 16 then .link (linkOf code) else .nowhere

/-- An output that takes cells. -/
def State.wayUp (s : State) (ch : ChIdx) : Way → Bool
  | .here => true
  | .link p => s.linkUp ch p
  | .nowhere => false

/-- The forwarding decision for a destination: PRI when it is up, otherwise ALT; a route that has moved to ALT stays
there until its PRI is taken back at a tick boundary. -/
def State.way (s : State) (ch : ChIdx) (dst : Nat) : Way :=
  let w := s.routeWord ch dst
  let pri := wayOf ch (bits w 4 0)
  let alt := wayOf ch (bits w 9 5)
  let moved := match pri with
    | .link p => (s.link ch p).moved
    | _ => false
  if moved && s.wayUp ch alt then alt
  else if s.wayUp ch pri then pri
  else if s.wayUp ch alt then alt
  else .nowhere

/-- Routes whose PRI is up again return to it at a tick boundary (R355). -/
def State.routesReturn (s : State) (ch : ChIdx) : State :=
  links.foldl (fun (s : State) p => if s.linkUp ch p then s.modLink ch p fun l => { l with moved := false } else s) s

/-! ## Wire compression (R167, R363) -/

/-- The 16-bit codes of BF16 bytes. -/
def bf16s : List Byte → List Nat
  | a :: b :: rest => (a.toNat + 256 * b.toNat) :: bf16s rest
  | _ => []

/-- Four blocks, each of 32 element bytes and a scale byte, from 256 bytes of BF16; and the conversions' counts. -/
def wireShrink (bs : List Byte) : List Byte × Cnt :=
  let one (i : Nat) : Nat × List Nat × Cnt := mxBlock 3 (fun _ => rne) ((slice (bf16s bs) (32 * i) 32).map fBF16.val)
  let blocks := (List.range 4).map one
  (blocks.flatMap fun x => x.2.1.map (BitVec.ofNat 8) ++ [BitVec.ofNat 8 x.1],
    blocks.foldl (fun (n : Cnt) x => n.add x.2.2) ⟨0, 0⟩)

/-- A compressed payload widened back to BF16. -/
def wireWiden (bs : List Byte) : List Byte :=
  (List.range 4).flatMap fun i =>
    let sc := scaleE8 ((bs.getD (33 * i + 32) 0).toNat)
    (slice bs (33 * i) 32).flatMap fun e => leBytes 2 (fBF16.conv rne (scaled sc (fE4M3.val e.toNat))).1

/-! ## Lanes and slots (R338, Table 12.2) -/

/-- A fiber, 0 to 4, or 5 + a sibling waveguide, and the slot of a lane index. -/
def laneAt (l : Nat) : Nat × Nat :=
  if l < 45 then (l / 9, l % 9) else (5 + (l - 45) / 5, if (l - 45) % 5 == 4 then 8 else (l - 45) % 5)

/-- The lane index of a slot of a fiber or waveguide. -/
def laneIdx (g w : Nat) : Nat := if g < 5 then 9 * g + w else 45 + 5 * (g - 5) + (if w == 8 then 4 else w)

/-- The number of a fiber or waveguide in a KEY of Table 15.2: the seven waveguides of a channel, in the order of the
channels they reach, are 5 to 11 (log entry 73). -/
def waveNo (ch : ChIdx) (g : Nat) : Nat := if g < 5 || g - 5 < ch.val then g else g - 1

/-- The fiber or waveguide of a number in a KEY. -/
def waveAt (ch : ChIdx) (n : Nat) : Nat := if n < 5 || n - 5 < ch.val then n else n + 1

/-- The port or sibling link whose lane a slot carries; none on the memory fiber and for W8. -/
def slotLink (g w : Nat) : Option LinkIdx :=
  if w == 8 || g == 4 then none else if g < 4 then some (linkOf (2 * g + w / 4)) else some (linkOf (3 + g))

/-- The fiber or waveguide of a link, and its four slots. -/
def linkSlots (p : LinkIdx) : Nat × List Nat :=
  if p.val < 8 then (p.val / 2, (List.range 4).map fun i => 4 * (p.val % 2) + i) else (p.val - 3, List.range 4)

/-- A spare switch of a link is in progress: its transmitter holds the stream (R372). -/
def State.switching (s : State) (ch : ChIdx) (p : LinkIdx) : Bool :=
  (s.chan[ch]).fab.spare.any fun x => slotLink x.1 x.2 == some p

/-- The slots of a link carry no lane any more. -/
def State.lanesOff (s : State) (ch : ChIdx) (p : LinkIdx) : State :=
  let (g, ws) := linkSlots p
  let s := ws.foldl (fun (s : State) w => s.setF ch (R.FAB_LANE_STAT_ACTIVE (laneIdx g w)) 0) s
  let s := if s.f ch (R.FAB_PORT_STAT_SPARE p) == 1 then s.setF ch (R.FAB_LANE_STAT_ACTIVE (laneIdx g 8)) 0 else s
  (s.setF ch (R.FAB_PORT_STAT_SPARE p) 0).modFab ch fun b => { b with spare := b.spare.filter fun x => slotLink x.1 x.2 != some p }

/-- A lane index names a slot of the channel: no waveguide leads to the channel itself. -/
def laneHere (ch : ChIdx) (lane : Nat) : Bool := lane < 45 || (lane < 85 && (lane - 45) / 5 != ch.val)

/-- Every ring of the channel is in lock, or none is. -/
def State.ringsLocked (s : State) (ch : ChIdx) (v : Nat) : State :=
  ((List.range 85).filter (laneHere ch)).foldl (fun (s : State) l =>
    (s.setF ch (R.FAB_LANE_STAT_TXLOCK l) v).setF ch (R.FAB_LANE_STAT_RXLOCK l) v) s

/-- Slots of the memory fiber carry no lane any more. -/
def State.memSlotsOff (s : State) (ch : ChIdx) (ws : List Nat) : State :=
  ws.foldl (fun (s : State) w => s.setF ch (R.FAB_LANE_STAT_ACTIVE (laneIdx 4 w)) 0) s

/-- The memory link goes dark with the fibers: it trains again (R40, R489, R490). -/
def State.t2Dark (s : State) (ch : ChIdx) : State :=
  let s := (s.memSlotsOff ch (List.range 9)).modFab ch fun b => { b with spare := b.spare.filter fun x => x.1 != 4 }
  if s.f ch R.MEM_T2_STAT_LINK == 2 then (s.setF ch R.MEM_T2_STAT_LINK 1).satF ch R.MEM_T2_STAT_RETRAIN 1 else s

/-! ## Credits of a cell (R351, R352) -/

/-- Credits of an output and virtual channel that an entry has reserved. -/
def Link.reservedOf (l : Link) (order vc : Nat) : Nat :=
  l.reserved.foldl (fun a r => if r.order == order && r.vc == vc then a + r.n else a) 0

/-- One credit taken for a cell: the entry's own first, else a free one. -/
def Link.take (l : Link) (order : Option Nat) (vc : Nat) : Link :=
  match order with
  | some o =>
    match l.reserved.findIdx? (fun r => r.order == o && r.vc == vc && 0 < r.n) with
    | some i => { l with reserved := (modAt l.reserved i fun r => { r with n := r.n - 1 }).filter (0 < ·.n) }
    | none => { l with credits := modAt l.credits vc (· - 1) }
  | none => { l with credits := modAt l.credits vc (· - 1) }

/-- A cell has a credit, the replay buffer has room, and no MAC cell waits for it (R350, R351). -/
def Link.ready (l : Link) (q : Queued) : Bool :=
  let vc := q.cell.vc.toNat
  l.replay.length < 1024 && !l.due && (0 < l.credits.getD vc 0 || (match q.order with
    | some o => 0 < l.reservedOf o vc
    | none => false))

/-- Cells may go out at a router output: its link is up and no spare switch runs on it. -/
def State.maySend (s : State) (ch : ChIdx) (p : LinkIdx) : Bool := s.linkUp ch p && !s.switching ch p

/-! ## Cells outside the sequence (R350, R351, R358) -/

/-- The credits that the next cell returns: a virtual channel and up to 63 of what is owed on it. -/
def Link.back (l : Link) : Nat × Nat :=
  let v := (vcs.find? fun v => 0 < l.owed.getD v 0).getD 0
  (v, min 63 (l.owed.getD v 0))

/-- A cell with the fields that belong to the link (Table 12.7). -/
def Link.stamp (l : Link) (c : Cell) : Cell :=
  { c with lack := BitVec.ofNat 12 l.rxAck, nak := l.nak, crvc := BitVec.ofNat 3 l.back.1, crcnt := BitVec.ofNat 6 l.back.2 }

/-- A TICK or IDLE cell goes out: it is neither numbered nor kept, and needs no credit. -/
def State.sendPlain (s : State) (ch : ChIdx) (p : LinkIdx) (c : Cell) : State :=
  s.modLink ch p fun l => { l with plain := some (l.stamp c), owed := modAt l.owed l.back.1 (· - l.back.2), nak := false }

/-- A cell of the channel outside the sequence: its TYPE, its virtual channel 0, and its payload. -/
def State.plainCell (s : State) (ch : ChIdx) (p : LinkIdx) (typ : Nat) (data : List Byte) : Cell :=
  ⟨BitVec.ofNat 24 (s.f ch (R.FAB_PORT_PEER_PEER p)), BitVec.ofNat 24 (s.node ch), 0, BitVec.ofNat 4 typ, true, false, false, 0, 0,
    data, 0, 0, false, 0, 0⟩

/-- IDLE cells until nothing is owed and no NAK waits. -/
def State.idles (s : State) (ch : ChIdx) (p : LinkIdx) : Nat → State
  | 0 => s
  | fuel + 1 =>
    let l := s.link ch p
    if l.back.2 == 0 && !l.nak then s
    else State.idles (s.sendPlain ch p (s.plainCell ch p 0 [])) ch p fuel

/-- With no other cell to send, IDLE cells carry what the link returns. -/
def State.idle (s : State) (ch : ChIdx) (p : LinkIdx) : State :=
  let l := s.link ch p
  if s.maySend ch p && !l.outq.any l.ready then s.idles ch p (l.owed.sum + 1) else s

/-- TICK cells go out at the next cell boundary, ahead of every other cell. -/
def State.sendTicks (s : State) (ch : ChIdx) (p : LinkIdx) : State :=
  if !s.maySend ch p then s
  else
    let l := (s.link ch p).ticks
    l.foldl (fun (s : State) c => s.sendPlain ch p c) (s.modLink ch p fun l => { l with ticks := [] })

/-- A TICK cell for each child link of a channel that is up: the number and the accumulated delay (R369). -/
def State.tickKids (s : State) (ch : ChIdx) (num delay : Nat) : State :=
  match s.imgCh ch with
  | none => s
  | some i => links.foldl (fun (s : State) p =>
      if bit i.tickKids p.val && s.linkUp ch p then
        (s.modLink ch p fun l => { l with ticks := l.ticks ++ [s.plainCell ch p 2 (leBytes 8 num ++ leBytes 4 delay)] }).sendTicks ch p
      else s) s

/-! ## Delivery (R353) -/

/-- Every cell of the message has arrived. -/
def FabMsg.whole (m : FabMsg) : Bool :=
  match m.last with
  | none => false
  | some n => m.cells.length == n + 1

/-- The payload of a message, cell by cell. -/
def FabMsg.data (m : FabMsg) : List Byte :=
  (List.range m.cells.length).flatMap fun i => match m.cells.find? (fun c => c.1 == i) with
    | some c => c.2
    | none => []

/-- The next message to deliver of a source and virtual channel. -/
def Fab.next (b : Fab) (src vc : Nat) : Nat := Cells.get (fun _ => 0) b.rxMsg (8 * src + vc)

/-- The message of one stream that comes first, at or after the next to deliver. -/
def Fab.lowest (b : Fab) (src vc : Nat) : Option FabMsg :=
  let ahead (m : FabMsg) : Nat := (m.msg + 65536 - b.next src vc) % 65536
  (b.parts.filter fun m => m.src == src && m.vc == vc).foldl (fun (x : Option FabMsg) m => match x with
    | none => some m
    | some y => if ahead m < ahead y then some m else some y) none

/-- Messages of one source and virtual channel are delivered in MSG order; an abandoned one is passed over (log entry 40). -/
def Fab.release (b : Fab) (src vc : Nat) : Nat → Fab
  | 0 => b
  | fuel + 1 =>
    match b.lowest src vc with
    | none => b
    | some m =>
      let go := m.gone || (m.msg == b.next src vc && m.whole)
      if !go then b
      else
        let rest := b.parts.filter fun x => !(x.src == src && x.vc == vc && x.msg == m.msg)
        let box := if m.gone then b.inbox else b.inbox ++ [⟨src, vc, m.typ, m.data⟩]
        let rx := Cells.set (fun _ => 0) b.rxMsg (8 * src + vc) ((m.msg + 1) % 65536)
        Fab.release { b with parts := rest, inbox := box, rxMsg := rx } src vc fuel

/-- A cell reaches its destination: it joins its message, or it is a duplicate and counts in DUP. -/
def State.deliver (s : State) (ch : ChIdx) (c : Cell) : State :=
  let s := s.wake ch 4
  let src := c.src.toNat
  let vc := c.vc.toNat
  let m := c.msg.toNat
  let b := (s.chan[ch]).fab
  let mine (x : FabMsg) : Bool := x.src == src && x.vc == vc && x.msg == m
  let old := 32768 ≤ (m + 65536 - b.next src vc) % 65536
  let off := c.offset.toNat
  let row := (b.parts.find? mine).getD ⟨src, vc, m, c.typ.toNat, [], none, false⟩
  if old || row.cells.any (fun x => x.1 == off) then s.satF ch (R.FAB_VC_STAT_DUP vc) 1
  else if row.gone then s
  else
    let d := if c.wire then wireWiden c.data else c.data
    let last := if c.last then some off else row.last
    let row := { row with cells := row.cells ++ [(off, d)], last := last }
    let join (b : Fab) : Fab := { b with parts := b.parts.filter (fun x => !mine x) ++ [row] }
    s.modFab ch fun b => Fab.release (join b) src vc (b.parts.length + 1)

/-! ## Forwarding (R355) -/

/-- A cell leaves the buffer of its input link: the credit goes back to the partner, unless the link has gone down since
the cell came, which made the credit void (R351). -/
def State.freeInput (s : State) (ch : ChIdx) (inp vc : Nat) : State :=
  if 16 ≤ inp then s
  else if 0 < (s.link ch (linkOf inp)).stale.getD vc 0 then
    s.modLink ch (linkOf inp) fun l => { l with stale := modAt l.stale vc (· - 1) }
  else (s.modLink ch (linkOf inp) fun l => { l with owed := modAt l.owed vc (· + 1) }).idle ch (linkOf inp)

/-- A cell joins an output's queue, behind or ahead of the cells there. -/
def State.enqueue (s : State) (ch : ChIdx) (p : LinkIdx) (q : Queued) (front : Bool) : State :=
  s.modLink ch p fun l =>
    let all := if front then q :: l.outq else l.outq ++ [q]
    let seen := modAt l.held q.cell.vc.toNat fun _ => true
    { l with outq := all, held := seen }

/-- A cell without a route: held at its source with FAB_UNREACH once for each DST in each ms, else dropped. -/
def State.noRoute (s : State) (ch : ChIdx) (q : Queued) : State :=
  let dst := q.cell.dst.toNat
  if q.cell.src.toNat == s.node ch then
    let s := s.modFab ch fun b => { b with waiting := b.waiting ++ [q] }
    if (s.chan[ch]).fab.unreach.contains dst then s
    else (s.modFab ch fun b => { b with unreach := b.unreach ++ [dst] }).post (srcOf ch 0x070) .fabUnreach [dst]
  else (s.satF ch (R.FAB_VC_STAT_DROPS q.cell.vc.toNat) 1).freeInput ch q.inp q.cell.vc.toNat

/-- One forwarding decision. -/
def State.forward (s : State) (ch : ChIdx) (q : Queued) (front : Bool) : State :=
  match s.way ch q.cell.dst.toNat with
  | .here => (s.deliver ch q.cell).freeInput ch q.inp q.cell.vc.toNat
  | .link p => s.enqueue ch p q front
  | .nowhere => s.noRoute ch q

/-- Cells held at their source try their routes again. -/
def State.forwardHeld (s : State) (ch : ChIdx) : State :=
  let l := (s.chan[ch]).fab.waiting
  l.foldl (fun (s : State) q => s.forward ch q false) (s.modFab ch fun b => { b with waiting := [] })

/-! ## Sending a message (R353, R363, R391) -/

/-- Payloads of 256 bytes, the last one short and padded to 4 bytes. -/
def chunks256 : Nat → List Byte → List (List Byte)
  | 0, _ => []
  | _, [] => []
  | fuel + 1, l => padTo (4 * ceilDiv (l.take 256).length 4) (l.take 256) :: chunks256 fuel (l.drop 256)

/-- A message enters the network: its opening cell, then its data in cells of 256 bytes. -/
def State.sendMsg (s : State) (ch : ChIdx) (dst vc typ : Nat) (bf16 : Bool) (order : Option Nat) (head data : List Byte) : State :=
  let key := 8 * dst + vc
  let m := Cells.get (fun _ => 0) (s.chan[ch]).fab.txMsg key
  let s := s.modFab ch fun b => { b with txMsg := Cells.set (fun _ => 0) b.txMsg key ((m + 1) % 65536) }
  let loads := head :: chunks256 data.length data
  let wire := bf16 && typ == 1 && 3 ≤ vc && vc ≤ 5 && bit (s.routeWord ch dst) 10
  (loads.mapIdx fun i d => (i, d)).foldl (fun (s : State) x =>
    let shrink := wire && x.2.length == 256
    let (d, n) := if shrink then wireShrink x.2 else (x.2, ⟨0, 0⟩)
    let s := (s.satF ch R.CH_FMT_STAT_OVF n.ovf).satF ch R.CH_FMT_STAT_NANW n.nanw
    let c : Cell := ⟨BitVec.ofNat 24 dst, BitVec.ofNat 24 (s.node ch), BitVec.ofNat 3 vc, BitVec.ofNat 4 typ,
      x.1 + 1 == loads.length, shrink, false, BitVec.ofNat 16 m, BitVec.ofNat 12 x.1, d, 0, 0, false, 0, 0⟩
    s.forward ch ⟨16, c, order⟩ false) s

/-! ## Credits (R351, R352, R109) -/

/-- Up to `n` free credits are reserved for an entry. -/
def State.reserve (s : State) (ch : ChIdx) (p : LinkIdx) (order vc n : Nat) : State :=
  s.modLink ch p fun l =>
    let k := min n (l.credits.getD vc 0)
    if k == 0 then l
    else { l with credits := modAt l.credits vc (· - k), reserved := l.reserved ++ [⟨order, vc, k⟩] }

/-- An entry returns every reservation it holds. -/
def State.unreserve (s : State) (ch : ChIdx) (order : Nat) : State :=
  links.foldl (fun (s : State) p => s.modLink ch p fun l =>
    let back := l.credits.mapIdx fun vc n => n + l.reservedOf order vc
    { l with credits := back, reserved := l.reserved.filter (·.order != order) }) s

/-! ## Sending a cell (R350, R351, R358, R362) -/

/-- The link is encrypted. -/
def State.linkEnc (s : State) (ch : ChIdx) (p : LinkIdx) : Bool := s.f ch (R.FAB_PORT_STAT_ENC p) == 1

/-- The open encryption group is closed by a MAC cell, which is sequenced too: it waits while the replay buffer is full. The
tag is a free value, because the keys are (log entry 3). -/
def State.closeGroup (s : State) (ch : ChIdx) (p : LinkIdx) : State :=
  let l := s.link ch p
  if l.txGroup == 0 then s
  else if 1024 ≤ l.replay.length then s.modLink ch p fun l => { l with due := true }
  else
    let (d, s) := s.draw
    let c : Cell := ⟨0, BitVec.ofNat 24 (s.node ch), 0, 6, true, false, false, 0, 0,
      (List.range 16).map (Config.freeByte d) ++ leBytes 8 l.groups, BitVec.ofNat 12 l.txSeq, BitVec.ofNat 12 l.rxAck, false, 0, 0⟩
    s.modLink ch p fun l =>
      { l with txGroup := 0, due := false, groups := l.groups + 1, txSeq := (l.txSeq + 1) % 4096, replay := l.replay ++ [(c, 0)] }

/-- Bytes of a cell in the stream. -/
def cellBytes (c : Cell) : Nat := 16 + c.data.length

/-- A queued cell goes out: it takes its number and a credit, carries what the link returns, and leaves its input
(log entry 39). -/
def State.emitCell (s : State) (ch : ChIdx) (p : LinkIdx) (q : Queued) : State :=
  let l := s.link ch p
  let vc := q.cell.vc.toNat
  let enc := s.linkEnc ch p
  let c : Cell := { (l.stamp q.cell) with lseq := BitVec.ofNat 12 l.txSeq, enc := enc }
  let rest := match l.outq.findIdx? (· == q) with
    | some i => l.outq.eraseIdx i
    | none => l.outq
  let owed := modAt l.owed l.back.1 (· - l.back.2)
  let sent := modAt l.sent vc (· + cellBytes c)
  let gone := rest.all fun x => x.cell.vc.toNat != vc
  let empty := modAt l.empty vc (· || gone)
  let group := if enc then l.txGroup + 1 else 0
  let s := s.modLink ch p fun l => { (l.take q.order vc) with
    txSeq := (l.txSeq + 1) % 4096, replay := l.replay ++ [(c, 0)], owed := owed, nak := false, outq := rest, sent := sent,
    empty := empty, txGroup := group }
  let s := s.freeInput ch q.inp vc
  if enc && group == 32 then s.closeGroup ch p else s

/-- The deficits of an input port at an output. -/
def Link.dwrrOf (l : Link) (inp : Nat) : Dwrr :=
  (l.dwrr.find? (·.inp == inp)).getD ⟨inp, 7, false, List.replicate 8 0⟩

/-- The deficits changed. -/
def State.setDwrr (s : State) (ch : ChIdx) (p : LinkIdx) (d : Dwrr) : State :=
  s.modLink ch p fun l => { l with dwrr := l.dwrr.filter (·.inp != d.inp) ++ [d] }

/-- The deficit-weighted round robin of one input port at one output, for `left` cells: `vc` is in hand, `fresh` at the
start of its turn, and `idle` virtual channels running had nothing to send (R358). -/
def State.serveVcs (s : State) (ch : ChIdx) (p : LinkIdx) (inp : Nat) : Nat → Nat → Nat → Bool → Nat → State
  | 0, _, _, _, _ => s
  | fuel + 1, left, vc, fresh, idle =>
    let l := s.link ch p
    let d := l.dwrrOf inp
    let head := l.outq.find? fun q => q.inp == inp && q.cell.vc.toNat == vc && l.ready q
    if 8 ≤ idle then s.setDwrr ch p { d with mid := false }
    else match head with
      | none =>
        let zero := if fresh then modAt d.deficit vc fun _ => 0 else d.deficit
        State.serveVcs (s.setDwrr ch p { d with last := vc, mid := false, deficit := zero }) ch p inp fuel left ((vc + 1) % 8) true (idle + 1)
      | some q =>
        if left == 0 then
          (if fresh then s.setDwrr ch p { d with last := (vc + 7) % 8, mid := false }
           else s.setDwrr ch p { d with last := vc, mid := true })
        else
          let have_ := d.deficit.getD vc 0 + (if fresh then 272 * max 1 (s.f ch (R.FAB_VC_CFG_WEIGHT vc)) else 0)
          let sz := cellBytes q.cell
          if sz ≤ have_ then
            let after := modAt d.deficit vc fun _ => have_ - sz
            State.serveVcs ((s.setDwrr ch p { d with deficit := after }).emitCell ch p q) ch p inp fuel (left - 1) vc false 0
          else
            let kept := modAt d.deficit vc fun _ => have_
            State.serveVcs (s.setDwrr ch p { d with last := vc, mid := false, deficit := kept }) ch p inp fuel left ((vc + 1) % 8) true 0

/-- A grant at a router output: TICK cells, then up to BURST cells of the input port that won (R112, R113, R358). What the
link returns goes in IDLE cells when nothing else can go. -/
def State.routerSend (s : State) (ch : ChIdx) (p : LinkIdx) (inp burst : Nat) : State :=
  if !s.maySend ch p then s
  else
    let s := s.sendTicks ch p
    let d := (s.link ch p).dwrrOf inp
    let (vc, fresh) := if d.mid then (d.last, false) else ((d.last + 1) % 8, true)
    (s.serveVcs ch p inp (10 * burst + 40) burst vc fresh 0).idle ch p

/-! ## A link that goes down (R371, R355, R362) -/

/-- The sequenced cells of a link that the partner has not acknowledged, MAC cells apart. -/
def Link.unacked (l : Link) : List Cell := (l.replay.map (·.1)).filter (·.typ != 6)

/-- Cells of each virtual channel that came in at a link and wait in the channel. -/
def State.buffered (s : State) (ch : ChIdx) (p : LinkIdx) : List Nat :=
  let b := (s.chan[ch]).fab
  let all := (b.link.toList.flatMap (·.outq)) ++ b.waiting
  vcs.map fun v => (all.filter fun q => q.inp == p.val && q.cell.vc.toNat == v).length

/-- A link goes down: the event, the dark transmitter, its routes to ALT, and its cells back to the router, the
unacknowledged ones in LSEQ order ahead of what is queued elsewhere. -/
def State.linkDown (s : State) (ch : ChIdx) (p : LinkIdx) : State :=
  if !s.linkUp ch p then s
  else
    let l := s.link ch p
    let s := s.post (srcLink ch p) .fabLinkDown []
    let s := ((s.setF ch (R.FAB_PORT_STAT_STATE p) 0).satF ch (R.FAB_PORT_STAT_DOWNS p) 1).setF ch (R.FAB_PORT_STAT_ENC p) 0
    let stale := s.buffered ch p
    let s := (s.lanesOff ch p).modLink ch p fun l =>
      { Link.new with moved := true, dark := true, corr := l.corr, ctl := l.ctl, stale := stale }
    let back (c : Cell) : Queued := ⟨16, c, none⟩
    let out (c : Cell) : Bool := match s.way ch c.dst.toNat with
      | .link _ => true
      | _ => false
    let s := (l.unacked.filter out).reverse.foldl (fun (s : State) c => s.forward ch (back c) true) s
    let s := (l.unacked.filter (!out ·)).foldl (fun (s : State) c => s.forward ch (back c) false) s
    l.outq.foldl (fun (s : State) q => s.forward ch q false) s

/-- Every link of the channel goes down, and training stops (R40). -/
def State.allDown (s : State) (ch : ChIdx) : State :=
  links.foldl (fun (s : State) p =>
    let s := s.linkDown ch p
    if s.linkState ch p == 1 then s.setF ch (R.FAB_PORT_STAT_STATE p) 0 else s) s

end Sys2Proof.Machine
end

