-- ==== Sys2Proof/Machine/ClStore.lean ====
section
/-! DEFINITION. Communicator slots: members, messages, aborts, and what the end of an entry does to its slot (R375 to R382,
R391, R401). -/

namespace Sys2Proof.Machine

open Sys2Proof

/-- A communicator slot. -/
abbrev SlotIdx := Fin 16

/-- A slot. -/
def State.slot (s : State) (ch : ChIdx) (k : SlotIdx) : ClSlot := (s.chan[ch]).cl[k]

/-- A slot changed. -/
def State.modSlot (s : State) (ch : ChIdx) (k : SlotIdx) (f : ClSlot → ClSlot) : State :=
  s.modC ch fun c => { c with cl := c.cl.set k (f (c.cl[k])) }

/-- STATE of CH_CL_SLOT_STAT as the slot stands: 0 OFF, 1 enabled, 3 ABORTED; BUSY is a view of its entries. -/
def State.slotState (s : State) (ch : ChIdx) (k : SlotIdx) : Nat := s.f ch (R.CH_CL_SLOT_STAT_STATE k)

/-- Every slot. -/
def slots : List SlotIdx := List.finRange 16

/-- The slot an entry names: PARAM [3:0]. -/
def Entry.slotNo (e : Entry) : SlotIdx := Fin.ofNat 16 (bits e.word.toNat 395 392)

/-- The entry is a CL or EX entry with a sequence number; a ZERO_SHAPE no-op takes none (R377). -/
def Entry.collective (e : Entry) : Bool := (e.eng == 4 || e.eng == 5) && e.zero.isNone

/-- OP of an entry's instruction. -/
def Entry.op (e : Entry) : Nat := bits e.word.toNat 19 12

/-- SEQ of a CL or EX entry. -/
def Entry.clSeq (e : Entry) : Nat := e.aux.getD 0 0

/-- The rank of a node address. -/
def ClSlot.rankOf (c : ClSlot) (node : Nat) : Option Nat := c.nodes.findIdx? (· == node)

/-- The node address of a rank. -/
def ClSlot.node (c : ClSlot) (r : Nat) : Nat := c.nodes.getD r 0

/-- The virtual channel and TYPE of a message kind (Table 13.4). -/
def kindVc (kind : Nat) : Nat × Nat :=
  match kind with
  | 0x01 | 0x05 => (0, 3)
  | 0x02 => (1, 1)
  | 0x03 => (2, 1)
  | 0x04 => (5, 1)
  | 0x10 => (3, 3)
  | 0x11 | 0x13 => (4, 3)
  | 0x12 => (3, 1)
  | 0x14 => (4, 1)
  | _ => (7, 4)

/-- The opening cell of a message of a collective (R391). -/
def clHead (id seq kind : Nat) (tree : Bool) (index : Nat) : List Byte :=
  leBytes 8 id ++ leBytes 2 seq ++ leBytes 1 kind ++ leBytes 1 (if tree then 1 else 0) ++ leBytes 4 index

/-- A message of a slot's collective to one rank. -/
def State.clSend (s : State) (ch : ChIdx) (k : SlotIdx) (rank kind seq : Nat) (tree : Bool) (index : Nat) (bf16 : Bool)
    (order : Option Nat) (data : List Byte) : State :=
  let c := s.slot ch k
  let (vc, typ) := kindVc kind
  s.sendMsg ch (c.node rank) vc typ bf16 order (clHead c.id.toNat seq kind tree index) data

/-- The bytes by which a message of a collective is found in the inbox. -/
def cmHead (m : CMsg) (kind : Nat) : List Byte := clHead m.id.toNat m.seq.toNat kind m.tree m.index.toNat

/-- A message is taken from the inbox, when it stands there. -/
def State.takeMsg (s : State) (ch : ChIdx) (m : CMsg) (kind : Nat) : State :=
  let mine (x : Msg) : Bool :=
    x.src == m.src.toNat && x.data.take 16 == cmHead m kind && x.data.length == 16 + 4 * ceilDiv m.data.length 4
  s.modFab ch fun b => match b.inbox.findIdx? mine with
    | some i => { b with inbox := b.inbox.eraseIdx i }
    | none => b

/-- The enabled slot that a message belongs to, with the rank of its sender. -/
def State.slotOf (s : State) (ch : ChIdx) (m : CMsg) : Option (SlotIdx × Nat) :=
  slots.findSome? fun k =>
    let c := s.slot ch k
    if s.slotState ch k != 0 && c.id == m.id then (c.rankOf m.src.toNat).map fun r => (k, r) else none

/-- ABORT for a SEQ goes to every other member, carrying a status; the slot is ABORTED (R380). -/
def State.clAbort (s : State) (ch : ChIdx) (k : SlotIdx) (seq status : Nat) : State :=
  let c := s.slot ch k
  let s := s.setF ch (R.CH_CL_SLOT_STAT_STATE k) 3
  ((List.range c.r).filter (· != c.rank)).foldl (fun (s : State) r => s.clSend ch k r 0x05 seq false status false none []) s

/-- A CL or EX entry has ended: its reservations return, its count rises, and with a status other than OK its slot
aborts, unless it is off or ABORTED already (R109, R352, R380, R401). -/
def State.clEntryDone (s : State) (ch : ChIdx) (e : Entry) (status : Nat) : State :=
  if !e.collective then s
  else
    let k := e.slotNo
    let s := s.unreserve ch e.order
    let s := s.modSlot ch k fun c => { c with
      joined := if c.joined == some e.clSeq then none else c.joined,
      held := c.held.filter fun x => x.2.seq.toNat != e.clSeq }
    let s :=
      if status == 0x26 then s.satF ch R.CH_CL_STAT_ORDER_TO 1
      else if status == 0x94 then s.satF ch R.CH_CL_STAT_STALLS 1
      else if status == 0x95 then s.satF ch R.CH_CL_STAT_LOSTMSG 1
      else s
    if status < 2 || s.slotState ch k == 0 || s.slotState ch k == 3 then s else s.clAbort ch k e.clSeq status

/-! ## Fields of the instruction -/

/-- OP. -/
def wOp (w : Wide) : Nat := bits w.toNat 19 12
/-- PARAM bits `hi` to `lo`. -/
def wPar (w : Wide) (hi lo : Nat) : Nat := bits w.toNat (392 + hi) (392 + lo)

/-- MODE, FUNC, CHUNK64 and ROOT of a CL instruction. -/
def clMode (w : Wide) : Nat := wPar w 5 4
/-- FUNC. -/
def clFunc (w : Wide) : Nat := wPar w 7 6
/-- Elements of a chunk. -/
def clChunk (w : Wide) : Nat := 64 * wPar w 19 8
/-- ROOT. -/
def clRoot (w : Wide) : Nat := wPar w 33 20

/-- n of R386: the product of the resolved sizes. -/
def sizeProd (l : List Int) : Nat := l.foldl (fun a x => a * x.toNat) 1

/-! ## The two trees (R383) -/

/-- The index that leads a group of g, and heap positions, of tree t. -/
def leadOf (b : Bool) (g : Nat) : Nat := if b then g - 1 else 0
/-- Heap position of an index, and the index of a heap position. -/
def heapPos (b : Bool) (i g : Nat) : Nat := if b then g - 1 - i else i

/-- A rank as its digits d1 to d4, and back. -/
def ClSlot.digits (c : ClSlot) (r : Nat) : List Nat :=
  [r % c.g1, r / c.g1 % c.g2, r / (c.g1 * c.g2) % c.g3, r / (c.g1 * c.g2 * c.g3)]
/-- A rank from its digits. -/
def ClSlot.rankAt (c : ClSlot) (d : List Nat) : Nat :=
  ((d.getD 3 0 * c.g3 + d.getD 2 0) * c.g2 + d.getD 1 0) * c.g1 + d.getD 0 0

/-- Levels 2 to 4 of R383, from level `l` on: the parent and the children. -/
def ClSlot.heap (c : ClSlot) (b : Bool) (d : List Nat) : Nat → Nat → Option Nat × List Nat
  | 0, _ => (none, [])
  | fuel + 1, l =>
    let g := [c.g1, c.g2, c.g3, c.g4].getD l 1
    let p := heapPos b (d.getD l 0) g
    let at_ (q : Nat) : Nat := c.rankAt (d.set l (heapPos b q g))
    let kids := sortBy (fun (n : Nat) => n) (([2 * p + 1, 2 * p + 2].filter (· < g)).map at_)
    if 0 < p then (some (at_ ((p - 1) / 2)), kids)
    else
      let (par, more) := c.heap b d fuel (l + 1)
      (par, kids ++ more)

/-- The parent and the children of a rank in a tree: children level by level, in ascending rank within a level. -/
def ClSlot.tree (c : ClSlot) (b : Bool) (r : Nat) : Option Nat × List Nat :=
  let d := c.digits r
  let lead := leadOf b c.g1
  if d.getD 0 0 != lead then (some (c.rankAt (d.set 0 lead)), [])
  else
    let flat := ((List.range c.g1).filter (· != lead)).map fun i => c.rankAt (d.set 0 i)
    let (par, kids) := c.heap b d 3 1
    (par, flat ++ kids)

/-- The root of a tree. -/
def ClSlot.root (c : ClSlot) (b : Bool) : Nat := if b then c.r - 1 else 0

/-! ## Chunks (R384) -/

/-- Elements of tree A: h of R384. -/
def halfOf (n : Nat) : Nat := min n (64 * ceilDiv n 128)

/-- Start and length of a tree's half. -/
def halfAt (n : Nat) (b : Bool) : Nat × Nat := if b then (halfOf n, n - halfOf n) else (0, halfOf n)

/-- Chunks of a tree's half. -/
def chunksOf (n c : Nat) (b : Bool) : Nat := ceilDiv (halfAt n b).2 c

/-- First element and length of chunk `i` of a tree. -/
def chunkAt (n c : Nat) (b : Bool) (i : Nat) : Nat × Nat :=
  let (at_, len) := halfAt n b
  (at_ + i * c, min c (len - i * c))

/-! ## An entry and its slot (R377, R378, R386, R388) -/

/-- X and D of a CL entry, n, and the extents of X that n covers. -/
def Entry.clN (e : Entry) : Nat := sizeProd e.size

/-- Bytes of a message of collective `k` from rank `r` under a KIND, and the held messages themselves. -/
def ClSlot.got (c : ClSlot) (seq kind r : Nat) (p : CMsg → Bool) : List CMsg :=
  (c.held.filter fun x => x.1 == kind && x.2.seq.toNat == seq && c.rankOf x.2.src.toNat == some r && p x.2).map (·.2)

/-- The members that a CL entry joins with. -/
def ClSlot.partners (c : ClSlot) (w : Wide) : List Nat :=
  let near := [false, true].flatMap fun b =>
    let (p, ks) := c.tree b c.rank
    p.toList ++ ks
  let roots := [c.root false, c.root true]
  let extra :=
    if wOp w == 2 && !roots.contains (clRoot w) then
      if clRoot w == c.rank then roots else if roots.contains c.rank then [clRoot w] else []
    else []
  let l := if wOp w == 4 then List.range c.r else near ++ extra
  (l.filter (· != c.rank)).eraseDups

/-- The members of the communicator of an EX entry. -/
def ClSlot.all (c : ClSlot) : List Nat := List.range c.r

/-- The kind of message that serves as an entry's JOIN. -/
def Entry.joinKind (e : Entry) : Nat := if e.eng == 4 then 0x01 else if e.op == 1 then 0x10 else 0x14

/-- An entry has joined and holds the JOIN of every member it sent to. -/
def State.joinedAll (s : State) (ch : ChIdx) (e : Entry) : Bool :=
  let c := s.slot ch e.slotNo
  c.joined == some e.clSeq &&
    (if e.eng == 4 then c.partners e.word else c.all).all fun r => !(c.got e.clSeq e.joinKind r fun _ => true).isEmpty

/-- What a start finds wrong before the entry joins: CL_ABORT or ORDER_TIMEOUT on an ABORTED slot, CL_SLOT, or an EX
communicator beyond R394 (R380, R401). -/
def State.slotErr (s : State) (ch : ChIdx) (e : Entry) : Option Nat :=
  let k := e.slotNo
  let st := s.slotState ch k
  if st == 3 then some (if (s.slot ch k).aborts.contains (e.clSeq, 0x26) then 0x26 else 0x96)
  else if st == 0 || !(s.partIdx ch).any (fun p => p.val == s.f ch (R.CH_CL_SLOT_BUF_PT k)) then some 0x91
  else
    let r := (s.slot ch k).r
    if e.eng == 5 && (256 < r || 4096 < r * wPar e.word 15 4) then some 0x97 else none

/-- A chunk of a tree that an entry has written to D. -/
def Entry.wrote (e : Entry) (b : Bool) (i : Nat) : Bool := e.part.contains (if b then 1 else 0, i)

/-- Elements of a rank's slice of REDUCE_SCATTER that lie in a chunk: first element and count. -/
def sliceIn (n r rank : Nat) (at_ : Nat × Nat) : Nat × Nat :=
  let lo := max (rank * (n / r)) at_.1
  let hi := min ((rank + 1) * (n / r)) (at_.1 + at_.2)
  (lo, hi - lo)

/-- Whether a chunk of a tree brings this member something to write. -/
def State.owes (s : State) (ch : ChIdx) (e : Entry) (b : Bool) (i : Nat) : Bool :=
  let c := s.slot ch e.slotNo
  let at_ := chunkAt e.clN (clChunk e.word) b i
  if e.op == 1 && clMode e.word == 1 then 0 < (sliceIn e.clN c.r c.rank at_).2 else true

/-- Every chunk below the next pass has finished, and none has begun above it (R388). -/
def State.clQuiet (s : State) (ch : ChIdx) (e : Entry) : Bool :=
  if e.op == 4 then true
  else [false, true].all fun b => (List.range (min e.pass (chunksOf e.clN (clChunk e.word) b))).all fun i =>
    e.wrote b i || !s.owes ch e b i

end Sys2Proof.Machine
end

