-- ==== Sys2Proof/Machine/Crypto.lean ====
section
/-! DEFINITION. The published functions the spec names: SipHash-2-4 with 128-bit output (R233), CRC-32C (R402, R432),
SHA-256 (R425) and SHA-384 (R458). The spec names them and does not restate them: their bodies are the published ones
(log entry 14). -/

namespace Sys2Proof.Machine

/-! ## SipHash-2-4-128 -/

/-- One SipHash round. -/
def sipRound (v : DWord × DWord × DWord × DWord) : DWord × DWord × DWord × DWord :=
  let (v0, v1, v2, v3) := v
  let v0 := v0 + v1
  let v1 := v1.rotateLeft 13 ^^^ v0
  let v0 := v0.rotateLeft 32
  let v2 := v2 + v3
  let v3 := v3.rotateLeft 16 ^^^ v2
  let v0 := v0 + v3
  let v3 := v3.rotateLeft 21 ^^^ v0
  let v2 := v2 + v1
  let v1 := v1.rotateLeft 17 ^^^ v2
  (v0, v1, v2.rotateLeft 32, v3)

/-- One 64-bit message word is taken in with two rounds. -/
def sipWord (v : DWord × DWord × DWord × DWord) (m : DWord) : DWord × DWord × DWord × DWord :=
  let v := (v.1, v.2.1, v.2.2.1, v.2.2.2 ^^^ m)
  let v := sipRound (sipRound v)
  (v.1 ^^^ m, v.2)

/-- The message as 64-bit little-endian words, the last one carrying the length in its top byte. -/
def sipWords (len : Nat) : Nat → List Byte → List DWord
  | 0, l => [BitVec.ofNat 64 (leNat l + len % 256 * 2 ^ 56)]
  | n + 1, l => BitVec.ofNat 64 (leNat (l.take 8)) :: sipWords len n (l.drop 8)

/-- SipHash-2-4 with a 128-bit output, as a little-endian number. -/
def sipHash (k0 k1 : DWord) (msg : List Byte) : BitVec 128 :=
  let v : DWord × DWord × DWord × DWord :=
    (k0 ^^^ 0x736f6d6570736575#64, (k1 ^^^ 0x646f72616e646f6d#64) ^^^ 0xee#64,
      k0 ^^^ 0x6c7967656e657261#64, k1 ^^^ 0x7465646279746573#64)
  let v := (sipWords msg.length (msg.length / 8) msg).foldl sipWord v
  let fin (v : DWord × DWord × DWord × DWord) := sipRound (sipRound (sipRound (sipRound v)))
  let v := fin (v.1, v.2.1, v.2.2.1 ^^^ 0xee#64, v.2.2.2)
  let lo := v.1 ^^^ v.2.1 ^^^ v.2.2.1 ^^^ v.2.2.2
  let v := fin (v.1, v.2.1 ^^^ 0xdd#64, v.2.2)
  let hi := v.1 ^^^ v.2.1 ^^^ v.2.2.1 ^^^ v.2.2.2
  BitVec.ofNat 128 (lo.toNat + hi.toNat * 2 ^ 64)

/-! ## CRC-32C -/

/-- Eight steps of the reflected CRC-32C register. -/
def crcSteps : Nat → Word → Word
  | 0, c => c
  | n + 1, c => crcSteps n (if c.getLsbD 0 then (c >>> 1) ^^^ 0x82F63B78#32 else c >>> 1)

/-- CRC-32C of bytes. -/
def crc32c (l : List Byte) : Word :=
  ~~~ (l.foldl (fun c b => crcSteps 8 (c ^^^ b.zeroExtend 32)) 0xFFFFFFFF#32)

/-! ## SHA-256 and SHA-384 -/

/-- The first primes, whose roots give the constants of both functions. -/
def shaPrimes : List Nat :=
  [2, 3, 5, 7, 11, 13, 17, 19, 23, 29, 31, 37, 41, 43, 47, 53, 59, 61, 67, 71,
   73, 79, 83, 89, 97, 101, 103, 107, 109, 113, 127, 131, 137, 139, 149, 151, 157, 163, 167, 173,
   179, 181, 191, 193, 197, 199, 211, 223, 227, 229, 233, 239, 241, 251, 257, 263, 269, 271, 277, 281,
   283, 293, 307, 311, 313, 317, 331, 337, 347, 349, 353, 359, 367, 373, 379, 383, 389, 397, 401, 409]

/-- The largest r below 2^k with r^e at most n, found bit by bit. -/
def rootBits (e n : Nat) : Nat → Nat → Nat
  | 0, r => r
  | k + 1, r => rootBits e n k (if (r + 2 ^ k) ^ e ≤ n then r + 2 ^ k else r)

/-- The first `w` fraction bits of the cube root of a prime. -/
def cubeFrac (w p : Nat) : Nat := rootBits 3 (p * 2 ^ (3 * w)) (w + 4) 0 % 2 ^ w
/-- The first `w` fraction bits of the square root of a prime. -/
def squareFrac (w p : Nat) : Nat := rootBits 2 (p * 2 ^ (2 * w)) (w + 5) 0 % 2 ^ w

/-- The round constants for a word width: 64 of 32 bits or 80 of 64 bits. -/
def shaK (w : Nat) : List (BitVec w) :=
  (shaPrimes.take (if w == 32 then 64 else 80)).map fun p => BitVec.ofNat w (cubeFrac w p)

/-- Rotation amounts: the two big sigmas and the two small ones (rotate, rotate, third). -/
structure ShaRot where
  a : Nat × Nat × Nat
  e : Nat × Nat × Nat
  s0 : Nat × Nat × Nat
  s1 : Nat × Nat × Nat

/-- SHA-256's amounts. -/
def rot256 : ShaRot := ⟨(2, 13, 22), (6, 11, 25), (7, 18, 3), (17, 19, 10)⟩
/-- SHA-384's amounts, those of SHA-512. -/
def rot512 : ShaRot := ⟨(28, 34, 39), (14, 18, 41), (1, 8, 7), (19, 61, 6)⟩

/-- A big sigma: three rotations. -/
def bigSig {w : Nat} (r : Nat × Nat × Nat) (x : BitVec w) : BitVec w :=
  x.rotateRight r.1 ^^^ x.rotateRight r.2.1 ^^^ x.rotateRight r.2.2

/-- A small sigma: two rotations and a shift. -/
def smallSig {w : Nat} (r : Nat × Nat × Nat) (x : BitVec w) : BitVec w :=
  x.rotateRight r.1 ^^^ x.rotateRight r.2.1 ^^^ (x >>> r.2.2)

/-- The message schedule, newest word first. -/
def shaSched {w : Nat} (r : ShaRot) : Nat → List (BitVec w) → List (BitVec w)
  | 0, l => l
  | n + 1, l =>
    let x := smallSig r.s1 (l.getD 1 0) + l.getD 6 0 + smallSig r.s0 (l.getD 14 0) + l.getD 15 0
    shaSched r n (x :: l)

/-- One round over the eight working words. -/
def shaRound {w : Nat} (r : ShaRot) (v : List (BitVec w)) (kw : BitVec w × BitVec w) : List (BitVec w) :=
  match v with
  | [a, b, c, d, e, f, g, h] =>
    let t1 := h + bigSig r.e e + ((e &&& f) ^^^ (~~~ e &&& g)) + kw.1 + kw.2
    let t2 := bigSig r.a a + ((a &&& b) ^^^ (a &&& c) ^^^ (b &&& c))
    [t1 + t2, a, b, c, d + t1, e, f, g]
  | _ => v

/-- One block is taken in. -/
def shaBlock {w : Nat} (r : ShaRot) (hs : List (BitVec w)) (blk : List Byte) : List (BitVec w) :=
  let words := (List.range 16).map fun i => BitVec.ofNat w (beNat (slice blk (i * (w / 8)) (w / 8)))
  let ks := shaK w
  let ws := (shaSched r (ks.length - 16) words.reverse).reverse
  let v := (ks.zip ws).foldl (shaRound r) hs
  hs.zipWith (· + ·) v

/-- The blocks of a padded message. -/
def shaBlocks {w : Nat} (r : ShaRot) (bs : Nat) : Nat → List (BitVec w) → List Byte → List (BitVec w)
  | 0, hs, _ => hs
  | n + 1, hs, l => shaBlocks r bs n (shaBlock r hs (l.take bs)) (l.drop bs)

/-- A message padded to whole blocks of `bs` bytes with a length field of `ls` bytes. -/
def shaPad (bs ls : Nat) (m : List Byte) : List Byte :=
  m ++ [0x80] ++ List.replicate ((bs - (m.length + 1 + ls) % bs) % bs) 0 ++ beBytes ls (m.length * 8)

/-- SHA-256, as the big-endian number of its 32 bytes. -/
def sha256 (m : List Byte) : BitVec 256 :=
  let p := shaPad 64 8 m
  let h0 : List (BitVec 32) := (shaPrimes.take 8).map fun x => BitVec.ofNat 32 (squareFrac 32 x)
  let hs := shaBlocks rot256 64 (p.length / 64) h0 p
  BitVec.ofNat 256 (hs.foldl (fun a x => a * 2 ^ 32 + x.toNat) 0)

/-- SHA-384, as the big-endian number of its 48 bytes. -/
def sha384 (m : List Byte) : BitVec 384 :=
  let p := shaPad 128 16 m
  let h0 : List (BitVec 64) := ((shaPrimes.drop 8).take 8).map fun x => BitVec.ofNat 64 (squareFrac 64 x)
  let hs := shaBlocks rot512 128 (p.length / 128) h0 p
  BitVec.ofNat 384 ((hs.take 6).foldl (fun a x => a * 2 ^ 64 + x.toNat) 0)

/-- The bytes of a SHA-256 digest, first byte first. -/
def digBytes (d : BitVec 256) : List Byte := beBytes 32 d.toNat

end Sys2Proof.Machine
end

