-- ==== Sys2Proof/Machine/FtStore.lean ====
section
/-! DEFINITION. The futures store's own operations: branches, blocks, pages, the prefix table and the cullet pool
(08, R210 to R247). They act on the unit's state; the FT entries and the job-end steps are built from them. -/

namespace Sys2Proof.Machine

/-- A FREE futures-table entry of generation `gen`. -/
def Branch.blank (gen : Nat) : Branch :=
  ⟨gen, .free, 0x1F, 0, false, 0, 0, 0, 0, 0, 0, 0, 0, 0, none⟩

/-- A FREE block record. -/
def Blk.blank : Blk := ⟨none, 0, .free, 0, false, false, 0, 0, 0, [], []⟩

/-- What an unlisted futures-table entry is: FREE, generation 1 (R211). -/
def entDefault : Nat → Branch := fun _ => Branch.blank 1
/-- What an unlisted block record is. -/
def blkDefault : Nat → Blk := fun _ => Blk.blank
/-- What an unlisted prefix-table way is. -/
def pfxDefault : Nat → Option Pfx := fun _ => none

/-- The futures-table entry at an index. -/
def FtSt.ent (f : FtSt) (i : Nat) : Branch := Cells.get entDefault f.ents i
/-- The entry at an index changed. -/
def FtSt.setEnt (f : FtSt) (i : Nat) (b : Branch) : FtSt := { f with ents := Cells.set entDefault f.ents i b }
/-- The entry at an index modified. -/
def FtSt.modEnt (f : FtSt) (i : Nat) (g : Branch → Branch) : FtSt := f.setEnt i (g (f.ent i))
/-- The block record at an index. -/
def FtSt.blk (f : FtSt) (i : Nat) : Blk := Cells.get blkDefault f.blks i
/-- The block record at an index changed. -/
def FtSt.setBlk (f : FtSt) (i : Nat) (b : Blk) : FtSt := { f with blks := Cells.set blkDefault f.blks i b }
/-- The block record at an index modified. -/
def FtSt.modBlk (f : FtSt) (i : Nat) (g : Blk → Blk) : FtSt := f.setBlk i (g (f.blk i))

/-- The handle of an entry (R219). -/
def FtSt.handle (f : FtSt) (i : Nat) : Nat := (f.ent i).gen * 65536 + i

/-- A handle names a LIVE or RELEASED entry of its generation (R223). -/
def FtSt.named (f : FtSt) (h : Nat) : Bool :=
  h != 0 && (f.ent (h % 65536)).st != .free && (f.ent (h % 65536)).gen == h / 65536

/-- Streams of the store in force. -/
def FtSt.streams (f : FtSt) : Nat := match f.cfg with | some c => c.streams | none => 0

/-- Row bytes, DATA, scale-row bytes and SCALE of Table 8.2 for the store in force. -/
def FtCfg.row (c : FtCfg) : Nat := (if c.form == 0 then 32 else 64) * 2 ^ c.hd
/-- Bytes of a data page. -/
def FtCfg.data (c : FtCfg) : Nat := 128 * c.row
/-- Bytes of a scale row. -/
def FtCfg.srow (c : FtCfg) : Nat := if c.form == 0 then 4 * 2 ^ c.hd else 2 * 2 ^ c.hd
/-- Bytes of a scale page. -/
def FtCfg.scale (c : FtCfg) : Nat := 128 * c.srow
/-- The head dimension. -/
def FtCfg.head (c : FtCfg) : Nat := 64 * 2 ^ c.hd
/-- The cost that the entry in hand has run up (R253). -/
def FtSt.pay (f : FtSt) (cyc bytes : Nat) : FtSt := { f with tallyC := f.tallyC + cyc, tallyB := f.tallyB + bytes }

/-- Pages in the cullet pool. -/
def FtSt.pool (f : FtSt) : Nat :=
  f.freed.length + (match f.cfg with | some c => c.pages - f.fresh | none => 0)

/-- Pages enter the pool: the last freed is the first handed out (R245). -/
def FtSt.toPool (f : FtSt) (ps : List Nat) : FtSt := { f with freed := ps.reverse ++ f.freed }

/-- Pages go to quarantine, or straight to the pool when no entry holds them back (R245). -/
def FtSt.toQuar (f : FtSt) (wait ps : List Nat) : FtSt :=
  if wait.isEmpty then f.toPool ps else { f with quar := f.quar ++ [⟨ps, wait⟩] }

/-- A reference to a block is dropped. At 0 the block is freed and its parent loses one; at 1 with INTABLE the block
joins the reclaim list (R218, R237). -/
def FtSt.decBlk (wait : List Nat) : Nat → FtSt → Nat → FtSt
  | 0, f, _ => f
  | fuel + 1, f, i =>
    let b := f.blk i
    if b.refs ≤ 1 then
      let f := (f.toQuar wait b.pages).setBlk i Blk.blank
      let f := { f with freedBlk := i :: f.freedBlk, reclaim := f.reclaim.filter (·.block != i) }
      let f := f.pay (24 + ceilDiv f.streams 16) (match f.cfg with | some c => c.bstride | none => 0)
      match b.parent with
      | none => f
      | some p => FtSt.decBlk wait fuel f p
    else
      let f := f.setBlk i { b with refs := b.refs - 1 }
      if b.refs == 2 && b.inTable then { f with reclaim := f.reclaim ++ [⟨i, wait⟩] } else f

/-- Chains are at most 4,096 blocks long (Table 8.3). -/
def chainFuel : Nat := 4097

/-- A reference to a block is taken; a block that the table alone held leaves the reclaim list (R237). -/
def FtSt.incBlk (f : FtSt) (i : Nat) : FtSt :=
  let f := f.modBlk i fun b => { b with refs := b.refs + 1 }
  { f with reclaim := f.reclaim.filter (·.block != i) }

/-- A branch gives up its tip (R221). -/
def FtSt.giveTip (wait : List Nat) (f : FtSt) (i : Nat) : FtSt :=
  match (f.ent i).tip with
  | none => f
  | some b => FtSt.decBlk wait chainFuel f b

/-- A reference to an entry is dropped; at 0 it is freed, its generation rises, and its parent loses one (R221). -/
def FtSt.decEnt : Nat → FtSt → Nat → FtSt
  | 0, f, _ => f
  | fuel + 1, f, i =>
    let e := f.ent i
    if e.refs ≤ 1 then
      let f := (f.setEnt i (Branch.blank (if e.gen == 65535 then 1 else e.gen + 1))).pay 8 0
      if e.parent == 0 then f else FtSt.decEnt fuel f (e.parent % 65536)
    else f.setEnt i { e with refs := e.refs - 1 }

/-- Lineages are at most as long as the table. -/
def lineFuel : Nat := 65537

/-- Release of a branch (Table 8.7, mode 2). -/
def FtSt.release (wait : List Nat) (f : FtSt) (i : Nat) : FtSt :=
  let f := f.modEnt i fun e => { e with st := .released, owner := 0x1F }
  let f := if (f.ent i).pins == 0 then f.giveTip wait i else f
  FtSt.decEnt lineFuel f i

/-- One pin of a branch is undone (Table 8.7, mode 1; R241). -/
def FtSt.unpin (wait : List Nat) (f : FtSt) (i : Nat) : FtSt :=
  let f := f.modEnt i fun e => { e with pins := e.pins - 1 }
  let f := if (f.ent i).st == .released && (f.ent i).pins == 0 then f.giveTip wait i else f
  FtSt.decEnt lineFuel f i

/-- The prefix-table way that holds block `i`, when one does. -/
def FtSt.wayOf (f : FtSt) (i : Nat) : Option Nat :=
  (f.pfx.find? fun x => match x.2 with | some p => p.block == i | none => false).map (·.1)

/-- The block nearest the head of the reclaim list that has passed quarantine is reclaimed: its table entry goes, its
pages enter the pool at once, its parent loses a reference (R237). -/
def FtSt.reclaimOne (wait : List Nat) (f : FtSt) : FtSt :=
  match f.reclaim.find? (·.wait.isEmpty) with
  | none => f
  | some r =>
    let b := f.blk r.block
    let f := match f.wayOf r.block with
      | some w => { f with pfx := Cells.set pfxDefault f.pfx w none }
      | none => f
    let f := { f with reclaim := f.reclaim.filter (·.block != r.block), freedBlk := r.block :: f.freedBlk }
    let f := ((f.toPool b.pages).setBlk r.block Blk.blank).pay (24 + ceilDiv f.streams 16)
      (match f.cfg with | some c => c.bstride | none => 0)
    match b.parent with
    | none => f
    | some p => FtSt.decBlk wait chainFuel f p

/-- One page from the pool; 0 when there is none (R246 has been checked, log entry 46). -/
def FtSt.takePage (wait : List Nat) (f : FtSt) : Nat × FtSt :=
  let f := if f.pool == 0 then f.reclaimOne wait else f
  match f.freed with
  | p :: rest => (p, { f with freed := rest })
  | [] => (f.fresh, { f with fresh := f.fresh + 1 })

/-- `n` pages from the pool. -/
def FtSt.takePages (wait : List Nat) : Nat → FtSt → List Nat × FtSt
  | 0, f => ([], f)
  | n + 1, f =>
    let (p, f) := f.takePage wait
    let (ps, f) := FtSt.takePages wait n f
    (p :: ps, f)

/-- A FREE block record. -/
def FtSt.takeBlk (wait : List Nat) (f : FtSt) : Nat × FtSt :=
  let short := f.freedBlk.isEmpty && (match f.cfg with | some c => c.blocks ≤ f.freshBlk | none => true)
  let f := if short then f.reclaimOne wait else f
  match f.freedBlk with
  | b :: rest => (b, { f with freedBlk := rest })
  | [] => (f.freshBlk, { f with freshBlk := f.freshBlk + 1 })

/-- Free block records. -/
def FtSt.freeBlks (f : FtSt) : Nat :=
  f.freedBlk.length + (match f.cfg with | some c => c.blocks - f.freshBlk | none => 0)

/-- Blocks that a RESERVE may reclaim now. -/
def FtSt.reclaimable (f : FtSt) : Nat := (f.reclaim.filter (·.wait.isEmpty)).length

/-- An entry of the channel has completed: quarantines that waited for it alone end (R245). -/
def FtSt.unwait (f : FtSt) (order : Nat) : FtSt :=
  let qs := f.quar.map fun q => { q with wait := q.wait.filter (· != order) }
  let rs := f.reclaim.map fun r => { r with wait := r.wait.filter (· != order) }
  let f := { f with quar := qs.filter (fun q => !q.wait.isEmpty), reclaim := rs }
  (qs.filter (·.wait.isEmpty)).foldl (fun f q => f.toPool q.pages) f

/-! ## The prefix table -/

/-- The root key of a namespace (R233). -/
def rootKey (ns : Nat) : BitVec 128 := BitVec.ofNat 128 (ns % 2 ^ 32)

/-- The key of a block: SipHash-2-4-128 of the parent key and the 64 token words under the prefix key (R233). -/
def blockKey (pkey parent : BitVec 128) (tokens : List Nat) : BitVec 128 :=
  sipHash (BitVec.ofNat 64 pkey.toNat) (BitVec.ofNat 64 (pkey.toNat / 2 ^ 64))
    (leBytes 16 parent.toNat ++ tokens.flatMap (leBytes 4 ·))

/-- The ways of a key's bucket (R234). -/
def bucketWays (key : BitVec 128) : List Nat := (List.range 8).map fun w => (key.toNat % 524288) * 8 + w

/-- The way of its bucket that holds a key. -/
def FtSt.wayFor (f : FtSt) (key : BitVec 128) : Option (Nat × Pfx) :=
  (bucketWays key).findSome? fun w =>
    match Cells.get pfxDefault f.pfx w with
    | some p => if p.key == key then some (w, p) else none
    | none => none

/-- Block `x` confirms for a branch with this tip, namespace and tokens (R235). -/
def FtSt.confirms (f : FtSt) (x : Nat) (tip : Option Nat) (ns : Nat) (tokens : List Nat) : Bool :=
  (f.blk x).st == .published && (f.blk x).parent == tip && (f.blk x).ns == ns && (f.blk x).tokens == tokens

/-- A probe: a confirmed block or none, HITS and COLLIDE counted by the caller through the second result: 0 none, 1 hit,
2 collision (R235). -/
def FtSt.probe (f : FtSt) (pkey key : BitVec 128) (tip : Option Nat) (ns : Nat) (tokens : List Nat) :
    Option Nat × Nat × FtSt :=
  let f := f.pay 48 576
  match f.wayFor (blockKey pkey key tokens) with
  | none => (none, 0, f)
  | some (w, p) =>
    if f.confirms p.block tip ns tokens then
      (some p.block, 1, { f with pfx := Cells.set pfxDefault f.pfx w (some { p with age := f.age + 1 }), age := f.age + 1 })
    else (none, 2, f)

/-- The way to displace: the largest counter - AGE modulo 2^32, lowest way first (R236). -/
def FtSt.oldest (f : FtSt) : List Nat → Nat
  | [] => 0
  | w :: ws =>
    let age (w : Nat) : Nat := match Cells.get pfxDefault f.pfx w with
      | some p => (f.age + 2 ^ 32 - p.age % 2 ^ 32) % 2 ^ 32
      | none => 0
    ws.foldl (fun b w => if age b < age w then w else b) w

/-- The entry in a way is evicted (R236). -/
def FtSt.evictWay (wait : List Nat) (f : FtSt) (w : Nat) : FtSt :=
  match Cells.get pfxDefault f.pfx w with
  | none => f
  | some p =>
    let f := { f with pfx := Cells.set pfxDefault f.pfx w none }
    let f := f.modBlk p.block fun b => { b with inTable := false }
    FtSt.decBlk wait chainFuel f p.block

/-- Insertion of block `y`: the second result is 0 inserted in a free way, 1 after an eviction, 2 DUP, 3 COLLIDE
(R236). -/
def FtSt.insert (wait : List Nat) (f : FtSt) (y : Nat) : FtSt × Nat :=
  let b := f.blk y
  let f := f.pay 32 512
  match f.wayFor b.key with
  | some (_, p) => if f.confirms p.block b.parent b.ns b.tokens then (f, 2) else (f, 3)
  | none =>
    let ways := bucketWays b.key
    let put (f : FtSt) (w : Nat) : FtSt :=
      let f := { f with pfx := Cells.set pfxDefault f.pfx w (some ⟨b.key, y, f.age + 1⟩), age := f.age + 1 }
      f.modBlk y fun b => { b with st := .published, inTable := true, refs := b.refs + 1 }
    match ways.find? (fun w => Cells.get pfxDefault f.pfx w == none) with
    | some w => (put f w, 0)
    | none =>
      let w := f.oldest ways
      (put (f.evictWay wait w) w, 1)

/-- The prefix table is emptied and its references dropped (R213). -/
def FtSt.emptyTable (wait : List Nat) (f : FtSt) : FtSt :=
  (f.pfx.map (·.1)).foldl (fun f w => f.evictWay wait w) f

/-- The store as it stands when it is enabled (R211). -/
def FtSt.init (c : Option FtCfg) : FtSt :=
  ⟨c, [], [], [], 0, [], 0, [], 0, [], [], [], false, 0, 0⟩

/-! ## The store on its channel -/

/-- FT_CULLET, FT_QUAR, FT_OCC and FT_RECLAIM follow the store, and CULLET_LOW is posted once on falling below LOW
(R247). -/
def State.ftSync (s : State) (ch : ChIdx) : State :=
  let f := (s.chan[ch]).ft
  let pool := f.pool
  let s := s.modC ch fun c =>
    (((c.setFld R.FT_CULLET_FREE pool).setFld R.FT_QUAR_QUAR (f.quar.foldl (fun n q => n + q.pages.length) 0)).setFld
      R.FT_OCC_ENTRIES (f.ents.filter (fun x => x.2.st != .free)).length).setFld R.FT_RECLAIM_BLOCKS f.reclaim.length
  let low := s.f ch R.FT_CULLET_LOW_LOW
  if low != 0 && pool < low && !f.lowPosted && f.cfg.isSome then
    (s.modC ch fun c => { c with ft := { c.ft with lowPosted := true } }).post (srcOf ch 0x012) .culletLow []
  else if low < pool && f.lowPosted then s.modC ch fun c => { c with ft := { c.ft with lowPosted := false } }
  else s

/-- Change the store of a channel and its registers with it. -/
def State.modFt (s : State) (ch : ChIdx) (g : FtSt → FtSt) : State :=
  (s.modC ch fun c => { c with ft := g c.ft }).ftSync ch

/-- The MX., AT., RC. and LS. entries of a channel that are queued or running (R245), by order of issue. -/
def State.readers (s : State) (ch : ChIdx) : List Nat :=
  ([0, 3, 6, 7, 8, 9] : List (Fin 11)).flatMap fun e =>
    let q := (s.chan[ch]).q[e]
    (q.waiting ++ q.parked ++ q.run.toList).map (·.order)

/-- The range of futures-table entries of a context (R222). -/
def State.ftRange (s : State) (ch : ChIdx) (jc : JcIdx) : Nat × Nat :=
  (s.f ch (R.FT_JC_RANGE_BASE jc), s.f ch (R.FT_JC_RANGE_COUNT_M1 jc) + 1)

/-- At load every FREE entry of the context's range takes generation 1 (R222). -/
def State.ftJobLoad (s : State) (ch : ChIdx) (jc : JcIdx) : State :=
  let (base, n) := s.ftRange ch jc
  s.modFt ch fun f =>
    { f with ents := f.ents.filter fun x => !(base ≤ x.1 && x.1 < base + n && x.2.st == .free) }

/-- At the end of a job its pins are undone in table order, then the branches it owns are released in ascending index
(R243). -/
def State.ftJobEnd (s : State) (ch : ChIdx) (jc : JcIdx) : State :=
  let wait := s.readers ch
  let pins := ((s.chan[ch]).ctx[jc]).pins
  let s := s.modFt ch fun f =>
    let f := pins.foldl (fun f p => (List.range p.count).foldl (fun f _ => f.unpin wait (p.handle % 65536)) f) f
    let owned := (f.ents.filter fun x => x.2.st == .live && x.2.owner == jc.val).map (·.1)
    owned.foldl (fun f i => f.release wait i) f
  s.modC ch fun c => { c with ctx := c.ctx.set jc { c.ctx[jc] with pins := [] } }

/-- An entry of the channel has completed: quarantines end (R245). -/
def State.ftEntryDone (s : State) (ch : ChIdx) (order : Nat) : State :=
  if (s.chan[ch]).ft.quar.any (·.wait.contains order) || (s.chan[ch]).ft.reclaim.any (·.wait.contains order) then
    s.modFt ch (·.unwait order)
  else s

end Sys2Proof.Machine
end

