-- ==== Sys2Proof/Machine/RcStore.lean ====
section
/-! DEFINITION. The state table of the recurrent engine: handles, homes, punty records, pins and swap-out (R276 to R280,
R293, R296 to R298). -/

namespace Sys2Proof.Machine

open Sys2Proof

/-- A FREE state-table entry of generation `gen`. -/
def RcEnt.blank (gen : Nat) : RcEnt := ⟨gen, .free, 0x1F, 0, 0, 0, 0, 0, 0, 0, 0, 0, 0, false⟩

/-- What an unlisted state-table entry is: FREE, generation 1 (R278). -/
def rcDefault : Nat → RcEnt := fun _ => RcEnt.blank 1

/-- The state-table entry at an index. -/
def State.rcEnt (s : State) (ch : ChIdx) (i : Nat) : RcEnt := Cells.get rcDefault (s.chan[ch]).rc i

/-- LIVE of CH_RC_STAT follows the table. -/
def State.rcCount (s : State) (ch : ChIdx) : State :=
  s.setF ch R.CH_RC_STAT_LIVE ((s.chan[ch]).rc.filter fun x => x.2.st != .free).length

/-- A state-table entry changed. -/
def State.rcMod (s : State) (ch : ChIdx) (i : Nat) (f : RcEnt → RcEnt) : State :=
  (s.modC ch fun c => { c with rc := Cells.set rcDefault c.rc i (f (Cells.get rcDefault c.rc i)) }).rcCount ch

/-- The index a handle names, when it names a LIVE or SWAP_PENDING state of its generation (R276). -/
def State.rcNamed (s : State) (ch : ChIdx) (h : Nat) : Option Nat :=
  let e := s.rcEnt ch (h % 65536)
  if h % 65536 < 16384 && e.gen == h / 65536 && e.st != .free then some (h % 65536) else none

/-- The handle of an entry. -/
def RcEnt.handle (e : RcEnt) (i : Nat) : Nat := e.gen * 65536 + i

/-- A state is freed: its generation rises by one, 65,535 wrapping to 1 (R276). -/
def State.rcFree (s : State) (ch : ChIdx) (i : Nat) : State :=
  s.rcMod ch i fun e => RcEnt.blank (if e.gen == 65535 then 1 else e.gen + 1)

/-- Bytes of device virtual memory or of the local store, as the engine reads its own (R279). -/
def State.rcRead (s : State) (ch : ChIdx) (space addr n : Nat) : Except MemErr (List Byte) :=
  if space == 1 then .ok ((s.chan[ch]).mem.ls.read addr n) else s.ownRead ch addr n

/-- Bytes of a punty record (R293). -/
def recordSize (parts h : Nat) : Nat := 128 + 64 * ceilDiv (6 * parts * h) 64

/-- The punty record of a state (R293, Table 10.4). -/
def State.rcRecord (s : State) (ch : ChIdx) (i : Nat) : Except MemErr (List Byte) :=
  let e := s.rcEnt ch i
  match s.rcRead ch e.space e.home e.bytes with
  | .error x => .error x
  | .ok home =>
    let header := padTo 64 (leBytes 4 0x59544E50 ++ leBytes 2 1 ++ leBytes 1 e.kind ++ leBytes 1 e.parts ++ leBytes 2 e.h ++
      leBytes 2 e.len ++ leBytes 4 (e.handle i) ++ leBytes 8 e.steps ++ leBytes 8 s.pkg.tick.num.toNat ++
      leBytes 3 (s.node ch))
    let body := header ++ padTo (64 * ceilDiv e.bytes 64) home
    .ok (body ++ digBytes (sha256 body) ++ List.replicate 32 0)

/-- Bytes stored in device virtual memory, the local store or the ARWS. -/
def State.rcStore (s : State) (ch : ChIdx) (space addr : Nat) (bs : List Byte) : Except MemErr State :=
  match space with
  | 1 => .ok (s.modMem ch fun m => { m with ls := m.ls.write addr bs })
  | 2 => .ok (s.modMem ch fun m => { m with arws := m.arws.write addr bs })
  | _ => s.vaWrite ch addr bs

/-- A swap-out: the record is written and the state is freed. `dst` holds the address, and the space in bits above
[55:0]. -/
def State.rcMove (s : State) (ch : ChIdx) (i dst : Nat) : Except MemErr State :=
  match s.rcRecord ch i with
  | .error x => .error x
  | .ok rec_ =>
    match s.rcStore ch (dst / 2 ^ 56) (dst % 2 ^ 56) rec_ with
    | .error x => .error x
    | .ok s => .ok (s.rcFree ch i)

/-- A deferred swap-out that has fallen due: RC_SWAPPED carries the handle, and a host request is DONE (R297). A record
that cannot be read or written leaves the swap-out pending (log entry 19). -/
def State.rcSwapOut (s : State) (ch : ChIdx) (i : Nat) : State :=
  let e := s.rcEnt ch i
  match s.rcMove ch i e.dst with
  | .error _ => s
  | .ok s =>
    let s := s.post (srcOf ch 0x013) .rcSwapped [e.handle i]
    if e.host then s.setF ch R.CH_RC_SWAP_ST_STATUS 2 else s

/-- Every SWAP_PENDING state on which no entry runs or waits is swapped out, in ascending index. -/
def State.rcServe (s : State) (ch : ChIdx) : State :=
  ((s.chan[ch]).rc.filter fun x => x.2.st == .pending && x.2.pins == 0 && x.2.qref == 0).foldl
    (fun (s : State) x => s.rcSwapOut ch x.1) s

/-- The handles of an RC.CHUNK, RC.FLUSH or RC.STEP and whether its issue raised QREF: the entry keeps 2 × handle, plus 1
when it did. -/
def rcRef (x : Nat) : Nat × Bool := (x / 2, x % 2 == 1)

/-- A state named by handle changes, when its entry still has that generation. -/
def State.rcModH (s : State) (ch : ChIdx) (h : Nat) (f : RcEnt → RcEnt) : State :=
  match s.rcNamed ch h with
  | some i => s.rcMod ch i f
  | none => s

/-- An RC.CHUNK, RC.FLUSH or RC.STEP has completed: the references its issue raised fall, and the pins its start set;
swap-outs that fall due follow (R285, R296, R297). RC.EXPORT keeps handles too, but neither pins nor references. -/
def State.rcEntryDone (s : State) (ch : ChIdx) (e : Entry) : State :=
  if e.eng != 3 || bits e.word.toNat 19 12 == 3 || e.aux.isEmpty then s
  else
    let drop (q : Bool) (r : RcEnt) : RcEnt :=
      { r with qref := r.qref - (if q then 1 else 0), pins := r.pins - (if e.part.isEmpty then 0 else 1) }
    (e.aux.foldl (fun (s : State) x => s.rcModH ch (rcRef x).1 (drop (rcRef x).2)) s).rcServe ch

/-- The end of a job frees every state its context owns, in ascending index; homes keep their bytes (R280). -/
def State.rcJobEnd (s : State) (ch : ChIdx) (jc : JcIdx) : State :=
  ((s.chan[ch]).rc.filter fun x => x.2.st != .free && x.2.owner == jc.val).foldl
    (fun (s : State) x => s.rcFree ch x.1) s

/-- At load every FREE entry of the context's range takes generation 1 (R276). -/
def State.rcJobLoad (s : State) (ch : ChIdx) (jc : JcIdx) : State :=
  let keep (x : Nat × RcEnt) : Bool := !(x.2.st == .free && x.1 / 1024 == jc.val)
  s.modC ch fun c => { c with rc := c.rc.filter keep }

end Sys2Proof.Machine
end

