-- ==== Sys2Proof/Machine/Jobs.lean ====
section
/-! DEFINITION. Contexts, semaphores, completion records and the ways a job ends: R60 to R74, R92, R100 to R110. -/

namespace Sys2Proof.Machine

/-! ## Contexts -/

/-- A job context. -/
def State.ctx (s : State) (ch : ChIdx) (jc : JcIdx) : Ctx := (s.chan[ch]).ctx[jc]

/-- A job context changed. -/
def State.modX (s : State) (ch : ChIdx) (jc : JcIdx) (f : Ctx → Ctx) : State :=
  s.modC ch fun c => { c with ctx := c.ctx.set jc (f (c.ctx[jc])) }

/-- A general register: g0 reads as zero (R42). -/
def Ctx.rg (c : Ctx) (r : Fin 32) : DWord := if r.val = 0 then 0 else c.g[r]

/-- A general register written: writes to g0 are discarded (R42). -/
def Ctx.wg (c : Ctx) (r : Fin 32) (v : DWord) : Ctx := if r.val = 0 then c else { c with g := c.g.set r v }

/-- The context's code in STATE of CH_JC_STATUS (Table 2.1). -/
def CtxSt.code : CtxSt → Nat
  | .free => 0 | .ready => 1 | .run => 2 | .waitSem => 3 | .waitQueue => 4
  | .waitFence => 5 | .preempted => 6 | .faulted => 7 | .halted => 8 | .killing => 9

/-- A context index from a number. -/
def jcOf (n : Nat) : JcIdx := Fin.ofNat 16 n

/-- The states in which a quantum is charged (R96). -/
def CtxSt.charged : CtxSt → Bool
  | .run | .waitQueue | .waitFence => true
  | _ => false

/-- A context enters a state. -/
def Ctx.enter (c : Ctx) (st : CtxSt) : Ctx :=
  { c with st := st, sched := { c.sched with busy := c.sched.busy || st.charged } }

/-- The scalar thread is unblocked: it runs, or will run when its context next holds a slice. -/
def Ctx.unblock (c : Ctx) : Ctx :=
  let c := { c with waitOn := .none }
  match c.st with
  | .waitSem | .waitQueue | .waitFence => c.enter .run
  | .ready | .preempted => { c with resume := .run }
  | _ => c

/-- The job of a context is stopping: FAULTED, HALTED or KILLING (R44). -/
def CtxSt.stopping : CtxSt → Bool
  | .faulted | .halted | .killing => true
  | _ => false

/-- The job of a context stops on a fault or is being killed: a further fault changes nothing (R73, R105). A HALTED job
whose entry faults stops on that fault. -/
def CtxSt.ending : CtxSt → Bool
  | .faulted | .killing => true
  | _ => false

/-- A context whose entries may start (R67). -/
def CtxSt.starts : CtxSt → Bool
  | .run | .waitSem | .waitQueue | .waitFence | .halted => true
  | _ => false

/-! ## Entries and queues -/

/-- Every engine (Table 2.6). -/
def engines : List (Fin 11) := List.finRange 11

/-- The queue of an engine. -/
def State.eq (s : State) (ch : ChIdx) (e : Fin 11) : EngQ := (s.chan[ch]).q[e]

/-- The queue of an engine changed. -/
def State.modQ (s : State) (ch : ChIdx) (e : Fin 11) (f : EngQ → EngQ) : State :=
  s.modC ch fun c => { c with q := c.q.set e (f (c.q[e])) }

/-- Entries of an engine: waiting, parked and running. -/
def EngQ.all (q : EngQ) : List Entry := q.waiting ++ q.parked ++ q.run.toList

/-- Entries of a context in all queues, running included (QUEUED of CH_JC_STATUS). -/
def State.entriesOf (s : State) (ch : ChIdx) (jc : JcIdx) : List Entry :=
  engines.flatMap fun e => (s.eq ch e).all.filter (·.jc == jc.val)

/-- The entries of a context that run now. -/
def State.runningOf (s : State) (ch : ChIdx) (jc : JcIdx) : List Entry :=
  engines.flatMap fun e => (s.eq ch e).run.toList.filter (·.jc == jc.val)

/-- P of an entry's instruction (Table 2.5). -/
def Entry.p (e : Entry) : Bool := e.word.getLsbD 11
/-- CREC. -/
def Entry.crec (e : Entry) : Bool := e.word.getLsbD 10
/-- TAG. -/
def Entry.tag (e : Entry) : Nat := bits e.word.toNat 47 32

/-- A semaphore field of Table 2.5 at bit `lo`: number and count when EN is 1. -/
def semField (w : Wide) (lo : Nat) : Option (Nat × Nat) :=
  if w.getLsbD (lo + 16) then some (bits w.toNat (lo + 7) lo, bits w.toNat (lo + 15) (lo + 8)) else none

/-- The enabled waits, WAIT0 first. -/
def Entry.waits (e : Entry) : List (Nat × Nat) := (semField e.word 320).toList ++ (semField e.word 338).toList
/-- The enabled signals, SIG0 first. -/
def Entry.sigs (e : Entry) : List (Nat × Nat) := (semField e.word 356).toList ++ (semField e.word 374).toList

/-! ## What is known of completed entries (R69, R70, log entry 72) -/

/-- A context learns of completed entries, and of those that were known to have completed before they started. -/
def State.learn (s : State) (ch : ChIdx) (jc : JcIdx) (p : Access → Bool) : State :=
  s.modC ch fun c =>
    let known := (c.log.filter fun a => !a.live && p a).flatMap fun a => a.order :: a.pred
    { c with log := c.log.map fun a =>
      if known.contains a.order && !a.seen.contains jc.val then { a with seen := a.seen ++ [jc.val] } else a }

/-- A scalar signal passes on what its context knows. -/
def State.tell (s : State) (ch : ChIdx) (jc : JcIdx) (n : Nat) : State :=
  let told (a : Access) : Access := if a.seen.contains jc.val && !a.sems.contains n then { a with sems := a.sems ++ [n] } else a
  s.modC ch fun c => { c with log := c.log.map told }

/-- An entry has completed: its signals make known its completion and that of the entries it rests on (R62). -/
def State.logDone (s : State) (ch : ChIdx) (e : Entry) (signals : Bool) : State :=
  let ns := if signals then e.sigs.map (·.1) else []
  s.modC ch fun c =>
    let known := (c.log.filter (·.order == e.order)).flatMap (·.pred)
    { c with log := c.log.map fun a =>
      if a.order == e.order then { a with live := false, sems := a.sems ++ ns }
      else if known.contains a.order then { a with sems := a.sems ++ ns.filter (!a.sems.contains ·) }
      else a }

/-- What is known of the entries of a job leaves with it. -/
def State.forget (s : State) (ch : ChIdx) (jc : JcIdx) : State :=
  s.modC ch fun c => { c with log := (c.log.filter (·.jc != jc.val)).map fun a => { a with seen := a.seen.filter (· != jc.val) } }

/-! ## Semaphores (R60 to R64) -/

/-- A semaphore by number. -/
def State.semAt (s : State) (ch : ChIdx) (n : Nat) : Sem := (s.chan[ch]).sem[Fin.ofNat 256 n]

/-- A semaphore changed. -/
def State.modSem (s : State) (ch : ChIdx) (n : Nat) (f : Sem → Sem) : State :=
  s.modC ch fun c => { c with sem := c.sem.set (Fin.ofNat 256 n) (f (c.sem[Fin.ofNat 256 n])) }

/-- Total that a list of waits asks of one semaphore. -/
def needOf (ws : List (Nat × Nat)) (n : Nat) : Nat := ws.foldl (fun a w => if w.1 == n then a + w.2 else a) 0

/-- Every enabled wait is satisfied at once; two waits on one semaphore need their sum (R61). -/
def State.waitsMet (s : State) (ch : ChIdx) (ws : List (Nat × Nat)) : Bool :=
  ws.all fun w => needOf ws w.1 ≤ (s.semAt ch w.1).count

/-- Waits are subtracted in one step (R61). -/
def State.takeWaits (s : State) (ch : ChIdx) (ws : List (Nat × Nat)) : State :=
  ws.foldl (fun s w => s.modSem ch w.1 fun m => { m with count := m.count - w.2 }) s

/-- The entries of an engine that are next to start for their context: the first waiting one of each (R67). -/
def EngQ.heads (q : EngQ) : List Entry :=
  q.waiting.foldl (fun hs e => if hs.any (·.jc == e.jc) then hs else hs ++ [e]) []

/-- Entries of a completion ring: 64 x 2^SIZE, SIZE above 9 counting as 9 (CH_JC_CQ_HI). -/
def State.cqSize (s : State) (ch : ChIdx) (jc : JcIdx) : Nat := 64 * 2 ^ min (s.f ch (R.CH_JC_CQ_HI_SIZE jc)) 9

/-- Unread records of a completion ring. -/
def State.cqUnread (s : State) (ch : ChIdx) (jc : JcIdx) : Nat :=
  (s.f ch (R.CH_JC_CQ_PTR_WR jc) + 65536 - s.f ch (R.CH_JC_CQ_PTR_RD jc)) % 65536

/-- The ring is enabled. -/
def State.cqOn (s : State) (ch : ChIdx) (jc : JcIdx) : Bool := s.f ch (R.CH_JC_CQ_HI_EN jc) == 1

/-- The ring holds as many unread records as it has entries (R72). -/
def State.cqFull (s : State) (ch : ChIdx) (jc : JcIdx) : Bool := s.cqSize ch jc ≤ s.cqUnread ch jc

/-! ## What may start (R67) -/

/-- The CL and EX entries of a slot, queued or started, in order of issue. -/
def State.slotEntries (s : State) (ch : ChIdx) (k : SlotIdx) : List Entry :=
  sortBy Entry.order (((s.eq ch 4).all ++ (s.eq ch 5).all).filter fun e => e.collective && e.slotNo == k)

/-- The entry that a slot serves: the one whose predecessors have all completed (R377). -/
def State.served? (s : State) (ch : ChIdx) (k : SlotIdx) : Option Entry := (s.slotEntries ch k).head?

/-- The conditions that R377 and R378 add to readiness. -/
def State.clReady (s : State) (ch : ChIdx) (e : Entry) : Bool :=
  (s.served? ch e.slotNo).any (·.order == e.order) && ((s.slotErr ch e).isSome || s.joinedAll ch e)

/-- The recurrent engine is ready for entries (R278). -/
def State.rcReady (s : State) (ch : ChIdx) : Bool := s.f ch R.CH_RC_CTL_EN == 0 || s.f ch R.CH_RC_CTL_READY == 1

/-- The futures unit is ready for entries: READY, and no host release waits (R211, R244). -/
def State.ftReady (s : State) (ch : ChIdx) : Bool :=
  (s.f ch R.FT_CTL_EN == 0 || s.f ch R.FT_CTL_READY == 1) && (s.chan[ch]).ft.hostReq.isEmpty

/-- What an engine's chapter adds to the conditions of R67 (R211, R244, R278, R377, R378). -/
def State.entryReady (s : State) (ch : ChIdx) (e : Entry) : Bool :=
  if e.eng == 2 then s.ftReady ch
  else if e.eng == 3 then s.rcReady ch
  else if e.collective then s.clReady ch e
  else true

/-- The entry holds the matrix array: an MX. or AT. entry, or an RC. entry with a hidden-side product (R290). -/
def Entry.array (e : Entry) : Bool :=
  e.eng == 0 || (e.eng == 3 && bit (bits e.word.toNat 61 55) 6 && (e.op == 1 || e.op == 2 || e.op == 5))

/-- No entry holds the array. -/
def State.arrayFree (s : State) (ch : ChIdx) : Bool :=
  !((s.eq ch 0).run.any (·.array)) && !((s.eq ch 3).run.any (·.array))

/-- An entry that is next to start for its context meets the conditions of R67 and of its chapter. -/
def State.mayStart (s : State) (ch : ChIdx) (e : Entry) : Bool :=
  (s.ctx ch (jcOf e.jc)).st.starts && s.waitsMet ch e.waits && (!s.cqOn ch (jcOf e.jc) || !s.cqFull ch (jcOf e.jc)) &&
    s.entryReady ch e

/-- The entries of an engine that could start or resume now. -/
def State.candidates (s : State) (ch : ChIdx) (eng : Fin 11) : List Entry :=
  let q := s.eq ch eng
  q.heads.filter (s.mayStart ch) ++ q.parked.filter fun e => e.stopped && (s.ctx ch (jcOf e.jc)).st.starts

/-- Entry `a` starts before entry `b`: latency-critical contexts first, then the earliest issued. -/
def State.before (s : State) (ch : ChIdx) (a b : Entry) : Bool :=
  let cls (e : Entry) : Nat := if (s.ctx ch (jcOf e.jc)).sched.lc then 0 else 1
  cls a < cls b || (cls a == cls b && a.order < b.order)

/-- The entry of a list that starts first. -/
def State.first (s : State) (ch : ChIdx) : List Entry → Option Entry
  | [] => none
  | e :: es => match s.first ch es with
    | none => some e
    | some f => if s.before ch f e then some f else some e

/-- The entry an idle engine would take. -/
def State.pick (s : State) (ch : ChIdx) (eng : Fin 11) : Option Entry := s.first ch (s.candidates ch eng)

/-- An entry that needs the array must find it free, and come before the other engine's candidate (R290). -/
def State.mayHold (s : State) (ch : ChIdx) (e : Entry) : Bool :=
  !e.array || e.zero.isSome ||
    (s.arrayFree ch &&
      let other : Fin 11 := if e.eng == 0 then 3 else 0
      match (if (s.eq ch other).run.isSome then none else s.pick ch other) with
      | some f => !f.array || f.zero.isSome || s.before ch e f
      | none => true)

/-- What the entry that an idle engine starts now asks of a semaphore: starting entries come before scalar waits (R63). -/
def State.claimed (s : State) (ch : ChIdx) (n : Nat) : Nat :=
  engines.foldl (fun a e =>
    if (s.eq ch e).run.isSome then a
    else match s.pick ch e with
      | some h => if !h.stopped && s.mayHold ch h then a + needOf h.waits n else a
      | none => a) 0

/-- A wait that a signal satisfied wakes its channel (R477). -/
def State.semWake (s : State) (ch : ChIdx) : State :=
  if (List.finRange 16).any (fun jc => (s.ctx ch jc).st == .run) then s.wake ch 3 else s

/-- The copy mover's wait on WSEM is tested: it follows the waits of starting entries and comes before scalar waits (R324,
R441). -/
def State.moverWait (s : State) (ch : ChIdx) : State :=
  let n := s.f ch R.CH_PC_CTL_WSEM
  if (s.chan[ch]).mover.phase == .waiting && 1 + s.claimed ch n ≤ (s.semAt ch n).count then
    (s.takeWaits ch [(n, 1)]).modC ch fun c => { c with mover := { c.mover with phase := .reading } }
  else s

/-- Blocked scalar waits are tested, in ascending context number (R63, Table 2.1). -/
def State.semServe (s : State) (ch : ChIdx) : State :=
  ((List.finRange 16).foldl (fun (s : State) (jc : JcIdx) =>
    match (s.ctx ch jc).st, (s.ctx ch jc).waitOn with
    | .waitSem, .sem n k tg =>
      if k + s.claimed ch n ≤ (s.semAt ch n).count then
        let s := s.modSem ch n fun m => { m with count := m.count - k, owner := if tg then some jc.val else m.owner }
        (s.learn ch jc fun a => a.sems.contains n).modX ch jc fun c => { c.unblock with pc := c.pc + 4 }
      else s
    | _, _ => s) (s.moverWait ch)).semWake ch

/-- A signal: the count rises and saturates at 65,535, with SEM_SAT from the unit that acts (R60, R517). -/
def State.semAdd (s : State) (ch : ChIdx) (unit n k : Nat) : State :=
  let c := (s.semAt ch n).count
  let s := s.modSem ch n fun m => { m with count := min 65535 (c + k) }
  if 65535 < c + k then s.post (srcOf ch unit) .semSat [n] else s

/-- A signal, and the waiters it satisfies. -/
def State.semSignal (s : State) (ch : ChIdx) (unit n k : Nat) : State := (s.semAdd ch unit n k).semServe ch

/-- The end of a job returns the semaphores its context owns to their initial value with owner none (R64). -/
def State.semReturn (s : State) (ch : ChIdx) (jc : JcIdx) : State :=
  let back (m : Sem) : Sem := if m.owner == some jc.val then { m with count := m.init, owner := none } else m
  (s.modC ch fun c => { c with sem := c.sem.map back }).semServe ch

/-! ## Completion records (R71, R72, R519) -/

/-- The 32 bytes of Table 2.11 as a number. -/
def cqRecord (tag eng jc op status flags tick seq passes cycles arg : Nat) : Desc :=
  BitVec.ofNat 256 (leNat (leBytes 2 tag ++ leBytes 1 (eng % 16 + jc % 16 * 16) ++ leBytes 1 op ++ leBytes 2 status ++
    leBytes 2 flags ++ leBytes 8 tick ++ leBytes 4 seq ++ leBytes 4 passes ++ leBytes 4 (min cycles (2 ^ 32 - 1)) ++
    leBytes 4 arg))

/-- The address of the next record (R72). -/
def State.cqAddr (s : State) (ch : ChIdx) (jc : JcIdx) : Nat :=
  s.f ch (R.CH_JC_CQ_LO_BASE_LO jc) * 4096 + s.f ch (R.CH_JC_CQ_HI_BASE_HI jc) * 2 ^ 32 +
    32 * (s.f ch (R.CH_JC_CQ_PTR_WR jc) % s.cqSize ch jc)

/-- A record is written and WR advances, or the write faults (R72). -/
def State.cqPut (s : State) (ch : ChIdx) (jc : JcIdx) (r : Desc) : Except MemErr State :=
  match s.vaWrite ch (s.cqAddr ch jc) (leBytes 32 r.toNat) with
  | .error e => .error e
  | .ok s => .ok (s.setF ch (R.CH_JC_CQ_PTR_WR jc) (s.f ch (R.CH_JC_CQ_PTR_WR jc) + 1))

/-- The context's stores go to memory, oldest first; the first failing one gives the fault (R58, R70). -/
def State.drainStores (s : State) (ch : ChIdx) (jc : JcIdx) : Except MemErr State :=
  match (s.ctx ch jc).stores.foldl (fun (r : Except MemErr State) st =>
      match r with
      | .error e => .error e
      | .ok s => s.vaWrite ch st.va.toNat (leBytes st.bytes st.val.toNat)) (.ok s) with
  | .error e => .error e
  | .ok s => .ok (s.modX ch jc fun c => { c with stores := [] })

/-- The stores that a stopping context has retired still reach memory (R524); one that fails then is lost (log entry 8). -/
def State.lastStores (s : State) (ch : ChIdx) (jc : JcIdx) : State :=
  ((s.ctx ch jc).stores.foldl (fun (s : State) st =>
    match s.vaWrite ch st.va.toNat (leBytes st.bytes st.val.toNat) with
    | .error _ => s
    | .ok s => s) s).modX ch jc fun c => { c with stores := [] }

/-- A context stops running: its thread waits for nothing more, its slice ends, and with it a donation that it holds, which
returns it to its own class (R73, R100, R104, R108). -/
def Ctx.stop (c : Ctx) (st : CtxSt) : Ctx :=
  { c with
    st := st, waitOn := .none, load := none
    sched := { c.sched with
      slice := false, donor := none
      lc := if c.sched.donor.isSome then c.job.lc && !c.sched.demoted else c.sched.lc } }

/-- A context stops on a fault: state, CH_JC_FAULT, JOB_FAULT (R73 steps 1 to 3). The slice ends (R100). ARG of JOB_FAULT
holds the status in bits [15:0] of its first word, the engine in bits [19:16], and ARG of Table 2.16 in its second word
(log entry 75). -/
def State.faultCtx (s : State) (ch : ChIdx) (jc : JcIdx) (status eng td arg : Nat) : State :=
  let s := (s.lastStores ch jc).modX ch jc fun c => { c.stop .faulted with fStatus := status, fEng := eng, fTd := td }
  let s := s.modC ch fun c => { c with sched := { c.sched with be := c.sched.be.filter (· != jc.val) } }
  s.post (srcOf ch jc.val) .jobFault [status + eng * 2 ^ 16, arg]

/-- A record that faults is lost: EN clears, CQ_FAULT is posted, and a job not already stopping stops (R519 and R73).
Its entries are swept by the caller. ENG of CH_JC_FAULT is 0xF: the spec names no engine for this stop (log entry 76). -/
def State.cqLost (s : State) (ch : ChIdx) (jc : JcIdx) (e : MemErr) : State :=
  let (st, a) := e.status
  let s := s.setF ch (R.CH_JC_CQ_HI_EN jc) 0
  let s := (s.modX ch jc fun c => { c with held := [] }).post (srcOf ch jc.val) .cqFault [jc.val, st, a]
  if (s.ctx ch jc).st.ending || (s.ctx ch jc).st == .free then s else s.faultCtx ch jc st 0xF 0 a

/-- A record is emitted: nothing while EN is 0, held while the ring is full, else written (R71, R72, R519). -/
def State.emit (s : State) (ch : ChIdx) (jc : JcIdx) (r : Desc) : State :=
  if !s.cqOn ch jc then s
  else if !(s.ctx ch jc).held.isEmpty || s.cqFull ch jc then s.modX ch jc fun c => { c with held := c.held ++ [r] }
  else match s.cqPut ch jc r with
    | .ok s => s
    | .error e => if e.waits then s.modX ch jc fun c => { c with held := [r] } else s.cqLost ch jc e

/-- The record of an entry (Table 2.11). -/
def Entry.record (e : Entry) (tick status flags arg : Nat) : Desc :=
  cqRecord e.tag e.eng e.jc e.op status flags tick e.seq e.pass e.cyc arg

/-- FLAGS: YIELDED, OVERRUN, PARTIAL. -/
def Entry.flags (e : Entry) (partly : Bool) : Nat :=
  (if e.yielded then 1 else 0) + (if e.overrun then 2 else 0) + (if partly then 4 else 0)

/-- An entry completes as CANCELLED or KILLED: no signal, DONE rises, its record only when CREC is 1 (R62, R71). -/
def State.dropEntry (s : State) (ch : ChIdx) (e : Entry) (status : Nat) (partly : Bool) : State :=
  let jc := jcOf e.jc
  let s := s.modX ch jc fun c => { c with job := { c.job with done := c.job.done + 1 } }
  let s := (((s.logDone ch e false).ftEntryDone ch e.order).rcEntryDone ch e).clEntryDone ch e status
  if e.crec then s.emit ch jc (e.record s.pkg.tick.num.toNat status (e.flags partly) 0) else s

/-- A started entry that holds no engine stands at a pass boundary: it stopped there, or it is a CL entry with nothing
begun (R68, R388). -/
def State.atBoundary (s : State) (ch : ChIdx) (e : Entry) : Bool := e.p && (e.stopped || e.eng != 4 || s.clQuiet ch e)

/-- The entries of a context that have not started complete, and those with P = 1 that stand at a pass boundary (R73
steps 4 and 5, R104 steps 2 and 3). `status` is CANCELLED or KILLED. -/
def State.sweep (s : State) (ch : ChIdx) (jc : JcIdx) (status : Nat) : State :=
  engines.foldl (fun s e =>
    let q := s.eq ch e
    let ws := q.waiting.filter (·.jc == jc.val)
    let ps := q.parked.filter (fun x => x.jc == jc.val && s.atBoundary ch x)
    let s := s.modQ ch e fun q =>
      { q with waiting := q.waiting.filter (·.jc != jc.val), parked := q.parked.filter (fun x => !ps.any (·.order == x.order)) }
    let s := ws.foldl (fun s x => s.dropEntry ch x status false) s
    ps.foldl (fun s x => s.dropEntry ch x status true) s) s

/-! ## The end of a job (R44, R64, R92, R110, R243) -/

/-- Entries of a submission queue: 64 x 2^SIZE, SIZE above 8 counting as 8. -/
def State.sqSize (s : State) (ch : ChIdx) (q : Nat) : Nat := 64 * 2 ^ min (s.f ch (R.CH_SQ_BASE_HI_SIZE q)) 8

/-- The base of a submission queue. -/
def State.sqBase (s : State) (ch : ChIdx) (q : Nat) : Nat :=
  s.f ch (R.CH_SQ_BASE_LO_BASE_LO q) * 4096 + s.f ch (R.CH_SQ_BASE_HI_BASE_HI q) * 2 ^ 32

/-- The address of the next job-completion record of a queue (Table 3.4). -/
def State.jcrAddr (s : State) (ch : ChIdx) (q : Nat) : Nat :=
  let e := s.sqSize ch q
  s.sqBase ch q + e * 64 + 32 * (s.f ch (R.CH_SQ_JPTR_WR q) % e)

/-- The job-completion ring of a queue takes no record: it holds E unread ones (R92), or its page waits for the T2 link (R311). -/
def State.jcrFull (s : State) (ch : ChIdx) (q : Nat) : Bool :=
  s.sqSize ch q ≤ (s.f ch (R.CH_SQ_JPTR_WR q) + 65536 - s.f ch (R.CH_SQ_JPTR_RD q)) % 65536 ||
    match s.vaRead ch (s.jcrAddr ch q) 32 with
    | .error e => e.waits
    | .ok _ => false

/-- A job-completion record (Table 3.4) is written at index WR mod E and WR advances; a write that faults loses it,
clears EN of the queue and posts JCR_FAULT (R92, R520). -/
def State.jcrPut (s : State) (ch : ChIdx) (q : Nat) (id : DWord) (rec : List Byte) : State :=
  match s.vaWrite ch (s.jcrAddr ch q) rec with
  | .ok t => t.setF ch (R.CH_SQ_JPTR_WR q) (s.f ch (R.CH_SQ_JPTR_WR q) + 1)
  | .error err =>
    (s.setF ch (R.CH_SQ_BASE_HI_EN q) 0).post (srcOf ch 0x070) .jcrFault
      [q + (err.status.1) * 2 ^ 16, id.toNat % 2 ^ 32, id.toNat / 2 ^ 32]

/-- The 32 bytes of Table 3.4. -/
def jcrRecord (id : DWord) (status reason jc : Nat) (lc loaded : Bool) (client sq tick done pre ovr : Nat) : List Byte :=
  leBytes 8 id.toNat ++ leBytes 2 status ++ leBytes 1 reason ++
    leBytes 1 (jc + (if lc then 16 else 0) + (if loaded then 32 else 0)) ++ leBytes 1 client ++ leBytes 1 sq ++
    leBytes 2 0 ++ leBytes 8 tick ++ leBytes 4 done ++ leBytes 2 (min pre 65535) ++ leBytes 2 (min ovr 65535)

/-- A FREE context; its registers are those a load sets (R42, R91). CH_JC_FAULT keeps its value until a load. -/
def Ctx.vacate (c : Ctx) : Ctx :=
  { c with st := .free, resume := .run, waitOn := .none, load := none, stores := [], held := [], closed := false, reason := 0,
           pins := [],
           sched := { c.sched with lc := false, slice := false, left := 0, donor := none, donated := 0, demoted := false,
                                   debt := 0, busy := false } }

/-- Slots tagged with the context of an ended job become FREE and wait for clearing, in ascending order (R130). -/
def State.arwsJobEnd (s : State) (ch : ChIdx) (jc : JcIdx) : State :=
  let mine := ((s.chan[ch]).arws.tags.filter (·.2 == jc.val)).map (·.1)
  s.modC ch fun c => { c with arws := { c.arws with
    tags := c.arws.tags.filter (·.2 != jc.val),
    clearing := c.arws.clearing ++ mine.filter (fun x => !c.arws.clearing.contains x) } }

/-- Every context of the channel is FREE. -/
def State.allFree (s : State) (ch : ChIdx) : Bool := (List.finRange 16).all fun jc => (s.ctx ch jc).st == .free

/-- Every dirty granule. -/
def State.dirtyLines (s : State) (ch : ChIdx) : List (Tier × Nat) :=
  ((s.chan[ch]).mem.tc.lines.filter (·.dirty)).map fun l => (l.tier, l.gran)

/-- The write-back of every dirty granule starts; FLUSH reads 1 until they have ended (R320). -/
def State.flushAll (s : State) (ch : ChIdx) : State :=
  let ds := (s.chan[ch]).mem.tc.lines.filter (·.dirty)
  let all := ds.map (fun l => (l.tier, l.gran)) ++ (s.wbHeld ch).map fun x => (x.tier, x.gran)
  (ds.foldl (fun (s : State) l => s.wbStart ch l) (s.modTc ch fun tc => { tc with flush := tc.flush ++ all })).tcCount ch

/-- The dirty granules of a channel that drains for a commit are written back once it holds no job (R466 step 3). -/
def State.drainEnd (s : State) (ch : ChIdx) : State :=
  if (s.chan[ch]).draining && s.allFree ch then s.flushAll ch else s

/-- Step 5 of R104, when the running entries of a killed job are gone: CH_JC_FAULT records 0x0003 and JOB_KILLED carries the
reason. -/
def State.killNote (s : State) (ch : ChIdx) (jc : JcIdx) : State :=
  let c := s.ctx ch jc
  if c.st != .killing || c.fStatus == 3 then s
  else (s.modX ch jc fun c => { c with fStatus := 3 }).post (srcOf ch jc.val) .jobKilled [c.reason]

/-- The end of a job, as far as it can go, when no entry of the context remains: step 5 of R104; when no record is held, R64
and R243 apply; when the job-completion ring has room, the job-completion record is written and the context is FREE (R72,
R92). -/
def State.tryEnd (s : State) (ch : ChIdx) (jc : JcIdx) : State :=
  if !(s.ctx ch jc).st.stopping || !(s.entriesOf ch jc).isEmpty then s
  else
    let s := s.killNote ch jc
    if !(s.ctx ch jc).held.isEmpty then s
    else
    let s := if (s.ctx ch jc).closed then s
      else (((((s.rcJobEnd ch jc).ftJobEnd ch jc).semReturn ch jc).arwsJobEnd ch jc).forget ch jc).modX ch jc fun c =>
        { c with closed := true }
    let c := s.ctx ch jc
    if s.jcrFull ch c.job.sq then s
    else
      let killed := c.st == .killing
      let status := if killed then 3 else if c.st == .faulted then c.fStatus else 0
      let s := s.jcrPut ch c.job.sq c.job.id
        (jcrRecord c.job.id status (if killed then c.reason else 0) jc.val c.job.lc true c.job.client c.job.sq
          s.pkg.tick.num.toNat c.job.done c.job.preempts c.job.overruns)
      let s := s.modC ch fun k =>
        if killed then k.incFld (R.CH_CLIENT_KILL_KILL c.job.client) 1
        else k.incFld (R.CH_CLIENT_DONE_DONE c.job.client) 1
      ((s.modX ch jc Ctx.vacate).modC ch fun k =>
        { k with sched := { k.sched with be := k.sched.be.filter (· != jc.val) } }).drainEnd ch

/-! ## Faults and kills (R73, R104, R105) -/

/-- A fault that stops the job (R73), after its own record has been emitted: entries that have not started are
CANCELLED, and the job ends when it can. -/
def State.stopJob (s : State) (ch : ChIdx) (jc : JcIdx) (status eng td arg : Nat) : State :=
  if (s.ctx ch jc).st.ending || (s.ctx ch jc).st == .free then s
  else ((s.faultCtx ch jc status eng td arg).sweep ch jc 2).tryEnd ch jc

/-- A scalar fault: one record with ENG 0xF, then R73. -/
def State.scalarFault (s : State) (ch : ChIdx) (jc : JcIdx) (status td arg : Nat) : State :=
  let r := cqRecord 0 0xF jc.val 0 status 0 s.pkg.tick.num.toNat 0xFFFFFFFF 0 0 arg
  let s := s.faultCtx ch jc status 0xF td arg
  ((s.emit ch jc r).sweep ch jc 2).tryEnd ch jc

/-- A fault at the issue of a wide instruction: one record under its own ENG, OP and TAG, with the value ISSUED holds
(Table 2.11, R58, R71); the instruction enters no queue. -/
def State.issueFault (s : State) (ch : ChIdx) (jc : JcIdx) (w : Wide) (status td arg : Nat) : State :=
  let eng := bits w.toNat 23 20
  let r := cqRecord (bits w.toNat 47 32) eng jc.val (bits w.toNat 19 12) status 0 s.pkg.tick.num.toNat
    (s.ctx ch jc).job.issued 0 0 arg
  let s := s.faultCtx ch jc status eng td arg
  ((s.emit ch jc r).sweep ch jc 2).tryEnd ch jc

/-- Entries and fences wait on what is still to complete: a FENCE is satisfied when none of the entries it covers
remains (Table 2.3, FENCE). -/
def State.fenceMet (s : State) (ch : ChIdx) (jc : JcIdx) (code : Nat) : Bool :=
  (s.entriesOf ch jc).all fun e => code != 0xF && e.eng != code

/-- A FENCE makes the completion of the entries it covers known to its context. -/
def State.fenceLearn (s : State) (ch : ChIdx) (jc : JcIdx) (code : Nat) : State :=
  s.learn ch jc fun a => a.jc == jc.val && (code == 0xF || a.eng == code)

/-- Contexts blocked in FENCE are tested (log entry 31). -/
def State.fenceServe (s : State) (ch : ChIdx) : State :=
  (List.finRange 16).foldl (fun s jc =>
    match (s.ctx ch jc).waitOn with
    | .fence code =>
      if s.fenceMet ch jc code then (s.fenceLearn ch jc code).modX ch jc fun c => { c.unblock with pc := c.pc + 4 } else s
    | _ => s) s

/-- A PREEMPTED context none of whose entries runs passes to READY (R101). -/
def State.settle (s : State) (ch : ChIdx) (jc : JcIdx) : State :=
  if (s.ctx ch jc).st == .preempted && (s.runningOf ch jc).isEmpty then s.modX ch jc fun c => { c with st := .ready } else s

/-- Statuses whose signals are performed (R57, R62, Table 2.12). -/
def signalled (status : Nat) : Bool := status == 0 || status == 1 || status == 4

/-- Statuses that stop the job (Table 2.12). -/
def stops (status : Nat) : Bool := 0x10 ≤ status

/-- Units of 10 ns of the quantum that runs: 10 µs, or what is left of the tick (R93). -/
def State.quantumLen (s : State) (ch : ChIdx) : Nat :=
  min 1000 (s.pkg.fld R.HUB_TICK_CFG_PERIOD - 1000 * (s.chan[ch]).sched.quantum)

/-- A part of the quantum that runs, in units of 10 ns. The model holds no time within a quantum: it is a free value (log
entry 77). -/
def State.quantumPart (s : State) (ch : ChIdx) : Nat := 1 + (Config.freeWord s.free).toNat % max 1 (s.quantumLen ch)

/-- The overrun of an entry that completes inside a quantum, in whole quanta, is added to its context's debt (R102). -/
def State.overDone (s : State) (ch : ChIdx) (e : Entry) : State :=
  let jc := jcOf e.jc
  if !e.overrun || (s.ctx ch jc).sched.slice then s
  else
    let n := ceilDiv (e.late + s.quantumPart ch) 1000
    s.draw.2.modX ch jc fun c => { c with sched := { c.sched with debt := c.sched.debt + n } }

/-- An entry that has left its engine completes with `status` (R62, R71, R73, R102): signals, DONE, record, and what
follows for its context. -/
def State.finish (s : State) (ch : ChIdx) (e : Entry) (status arg td : Nat) (partly : Bool) : State :=
  let jc := jcOf e.jc
  let s := s.logDone ch e (signalled status)
  let s := if signalled status then e.sigs.foldl (fun s x => s.semSignal ch (0x010 + e.eng) x.1 x.2) s else s
  let s := (s.overDone ch e).modX ch jc fun c => { c with job := { c.job with done := c.job.done + 1 } }
  let s := ((s.ftEntryDone ch e.order).rcEntryDone ch e).clEntryDone ch e status
  let r := e.record s.pkg.tick.num.toNat status (e.flags partly) arg
  let stopped := (s.ctx ch jc).st.ending
  let s := if stops status && !stopped then s.faultCtx ch jc status e.eng td arg else s
  let s := if stops status || e.crec then s.emit ch jc r else s
  let s := if (s.ctx ch jc).st == .faulted then s.sweep ch jc 2 else s
  (((s.settle ch jc).fenceServe ch).semServe ch).tryEnd ch jc

/-- A kill (R104): the context enters KILLING and its entries that have not started complete as KILLED; the rest follows when
no entry remains. A HALTED job that waits for room in a ring alone is killed too, and its record says KILLED (R105, log
entry 78). -/
def State.killJob (s : State) (ch : ChIdx) (jc : JcIdx) (reason : Nat) : State :=
  let st := (s.ctx ch jc).st
  if st == .free || st == .killing || st == .faulted then s
  else
    let s := (s.lastStores ch jc).modX ch jc fun c => { c.stop .killing with reason := reason }
    let s := s.modC ch fun c => { c with sched := { c.sched with be := c.sched.be.filter (· != jc.val) } }
    (s.sweep ch jc 3).tryEnd ch jc

/-- Every resident job of a channel is killed. -/
def State.killAll (s : State) (ch : ChIdx) (reason : Nat) : State :=
  (List.finRange 16).foldl (fun s jc => s.killJob ch jc reason) s

/-! ## Slices (R96, R99 to R102, R107) -/

/-- One quantum is charged to a context, or to the waiter that donated to it; beyond the payer's budget it is debt
(R96, R107). -/
def State.chargeOne (s : State) (ch : ChIdx) (jc : JcIdx) : State :=
  let c := s.ctx ch jc
  let payer : JcIdx := match c.sched.donor with
    | some w => jcOf w
    | none => jc
  let s := s.modX ch payer fun c => { c with sched :=
    if 0 < c.sched.left then { c.sched with left := c.sched.left - 1 } else { c.sched with debt := c.sched.debt + 1 } }
  let s := s.modX ch jc fun c => { c with sched := { c.sched with
    busy := false, donated := c.sched.donated + (if c.sched.donor.isSome then 1 else 0) } }
  if c.sched.lc then s.modC ch fun k => { k with sched := { k.sched with charged := k.sched.charged + 1 } } else s

/-- A started entry that may not stop, whether it holds its engine or, in a collective, waits between passes. -/
def Entry.atomic (e : Entry) : Bool := e.started && !e.p

/-- A change to every entry of a context that has started and holds no pass boundary. -/
def State.modAtomic (s : State) (ch : ChIdx) (jc : JcIdx) (f : Entry → Entry) : State :=
  let on (e : Entry) : Entry := if e.jc == jc.val && e.atomic then f e else e
  s.modC ch fun c => { c with q := c.q.map fun q => { q with run := q.run.map on, parked := q.parked.map on } }

/-- The started atomic entries of a context. -/
def State.atomicOf (s : State) (ch : ChIdx) (jc : JcIdx) : List Entry :=
  engines.flatMap fun e => ((s.eq ch e).run.toList ++ (s.eq ch e).parked).filter fun x => x.jc == jc.val && x.atomic

/-- At a quantum boundary the overruns of a context grow by the quantum that ends, or by the part of it that followed the
YIELD (R102). -/
def State.overGrow (s : State) (ch : ChIdx) (jc : JcIdx) : State :=
  if (s.ctx ch jc).sched.slice || !(s.atomicOf ch jc).any (·.overrun) then s
  else
    let n := s.quantumLen ch
    let part := s.quantumPart ch
    s.draw.2.modAtomic ch jc fun e => if e.overrun then { e with late := e.late + (if e.mid then part else n), mid := false } else e

/-- The overruns of a context end at a quantum boundary and join its debt, each in whole quanta (R102). -/
def State.overSettle (s : State) (ch : ChIdx) (jc : JcIdx) : State :=
  if (s.ctx ch jc).sched.slice then s
  else
    let n := (s.atomicOf ch jc).foldl (fun a e => a + (if e.overrun then ceilDiv e.late 1000 else 0)) 0
    (s.modX ch jc fun c => { c with sched := { c.sched with debt := c.sched.debt + n } }).modAtomic ch jc fun e =>
      { e with late := 0 }

/-- A CL entry with P = 1 that stands at a pass boundary when its context loses its slice yields there: it returns its
reservations (R68, R109, R388). -/
def State.clYield (s : State) (ch : ChIdx) (jc : JcIdx) : State :=
  ((s.eq ch 4).parked.filter fun x => x.jc == jc.val && !x.stopped && s.atBoundary ch x).foldl (fun (s : State) x =>
    (s.modQ ch 4 fun q => { q with parked := q.parked.map fun y =>
      if y.order == x.order then { y with stopped := true, yielded := true } else y }).unreserve ch x.order) s

/-- The context's slice ends. It is PREEMPTED while an entry of it runs, else READY; entries with P = 0 that still run
overrun (R102); a BE context joins the list, at its head under the second trigger of R101. `count` says that the end is a
pre-emption (R99, R101), `mid` that it comes inside a quantum. -/
def State.releaseSlice (s : State) (ch : ChIdx) (jc : JcIdx) (count head mid : Bool) : State :=
  let running := s.runningOf ch jc
  let atomic := (s.atomicOf ch jc).length
  let s := s.modX ch jc fun c => { c with
    resume := c.st, st := if running.isEmpty then .ready else .preempted,
    job := { c.job with preempts := c.job.preempts + (if count then 1 else 0), overruns := c.job.overruns + atomic },
    sched := { c.sched with slice := false } }
  let s := (s.modAtomic ch jc fun e => { e with overrun := true, late := 0, mid := mid }).clYield ch jc
  let s := if count then s.incF ch (R.CH_CLIENT_PRE_PRE (s.ctx ch jc).job.client) 1 else s
  if (s.ctx ch jc).sched.lc then s
  else s.modC ch fun c => { c with sched := { c.sched with
    be := if head then jc.val :: c.sched.be.filter (· != jc.val) else c.sched.be.filter (· != jc.val) ++ [jc.val] } }

/-- An index of an engine from its ENG code. -/
def engOf (n : Nat) : Fin 11 := Fin.ofNat 11 n

end Sys2Proof.Machine
end

