-- ==== Sys2Proof/Machine/Lease.lean ====
section
/-! DEFINITION. The lead lease (R21 to R30) and the gates that a host access passes (R24, R33, R35, R37, R489). -/

namespace Sys2Proof.Machine

open Sys2Proof

/-! ## Host accesses -/

/-- The answer of the host port to the last access. -/
def State.answer (s : State) (c : Cpl) (d : Word) : State :=
  s.modP fun p => { p with out := { p.out with cpl := c, data := d } }

/-- The function answers an access to its registers: PF0 while the port is up, a channel's function when it was present
at the last host-port reset; PF8 is reachable only with ARI forwarding (R31 to R33). -/
def State.present (s : State) (pf : Fin 9) : Bool :=
  s.pkg.portUp && s.enumerated pf && (pf.val != 8 || s.pkg.ari)

/-- Writes to PF0 that the fence leaves open: HUB_SEC_ALARM and the event ring registers (R489). -/
def openUnderFence (pf : Fin 9) (off : Nat) : Bool := pf.val == 0 && (off == 0x484 || (0x80 ≤ off && off < 0x90))

/-- A host write of the register at `off` of function `pf` reaches the register (R33, R35, R37, R489); otherwise it is
answered or discarded as the rule says. -/
def State.hostWr (s : State) (pf : Fin 9) (off : Nat) (f : State → State) : State :=
  if !s.present pf then s.answer .unsupported 0
  else match pfChan pf with
    | none => if s.fenced && !openUnderFence pf off then s.answer .ok 0 else f (s.answer .ok 0)
    | some ch =>
      if !s.live ch then s.answer .abort 0
      else if (s.chan[ch]).inReset || s.fenced then s.answer .ok 0
      else f (s.answer .ok 0)

/-- A host write of a channel's register. -/
def State.chanWr (s : State) (ch : ChIdx) (off : Nat) (f : State → State) : State :=
  s.hostWr ⟨ch.val + 1, by omega⟩ off f

/-! ## The lease gate -/

/-- The lease is valid. -/
def State.leaseValid (s : State) : Bool := s.pkg.fld R.GAF_LEASE_STATUS_VALID == 1
/-- SPLIT_LEASE is active. -/
def State.split (s : State) : Bool := s.pkg.fld R.GAF_LEASE_STATUS_SPLIT == 1
/-- The holder of the lease. -/
def State.holder (s : State) : Gaffer := if s.pkg.fld R.GAF_LEASE_STATUS_HOLDER == 0 then .gw else .ge

/-- The lease gate accepts a write to a shared function: from the holder or from the host through PF0 while the lease is
valid, and from nobody while SPLIT_LEASE is active (R24, R26). -/
def State.gateOpen (s : State) (w : Writer) : Bool :=
  s.leaseValid && !s.split && match w with
    | .host => true
    | .gaffer g => g == s.holder

/-- A write that the gate discards is counted (R24, R26). -/
def State.countFenced (s : State) : State := s.modP (·.satFld R.GAF_SPLIT_FENCED_WRITES 1)

/-- A write to a shared function passes the gate, or is discarded and counted (R24, R26). -/
def State.gate (s : State) (w : Writer) (f : State → State) : State := if s.gateOpen w then f s else s.countFenced

/-- HOLDER of GAF_LEASE_STATUS. -/
def gafCode : Gaffer → Nat
  | .gw => 0 | .ge => 1

/-- A gaffer is in reset. -/
def State.gafReset (s : State) : Gaffer → Bool
  | .gw => s.pkg.gwReset
  | .ge => s.pkg.geReset

/-- The higher epoch wins; at equal epochs the holder keeps the lease and GW wins (R23). -/
def State.wins (s : State) (g : Gaffer) (epoch : Nat) : Bool :=
  s.pkg.fld R.GAF_LEASE_EPOCH < epoch ||
    (epoch == s.pkg.fld R.GAF_LEASE_EPOCH && (g == s.holder || g == .gw))

/-- A gaffer waits out a split-driven reset before it claims the lead (R30). -/
def State.gafWaits (s : State) : Gaffer → Bool
  | .gw => s.pkg.lease.gwWaits
  | .ge => s.pkg.lease.geWaits

/-- A gaffer may lead: it is not in reset, does not wait out a split-driven reset, and is no passive GE (R30). -/
def State.mayLead (s : State) (g : Gaffer) : Bool :=
  !s.gafReset g && !s.gafWaits g && !(g == .ge && s.pkg.fld R.GAF_LEASE_STATUS_GE_PASSIVE == 1)

/-- A renewal or claim reaches the gate: it is noted in the window, and a winning one takes or renews the lease (R21,
R23, R25). A gaffer that may not lead sends none (log entry 74). -/
def State.leaseHear (s : State) (g : Gaffer) (epoch : Nat) : State :=
  if !s.mayLead g then s
  else
    let s := s.modP fun p => { p with lease := match g with
      | .gw => { p.lease with gwSeen := true }
      | .ge => { p.lease with geSeen := true } }
    if s.wins g epoch then
      s.modP fun p => (((p.setFld R.GAF_LEASE_EPOCH epoch).setFld R.GAF_LEASE_STATUS_HOLDER (gafCode g)).setFld
        R.GAF_LEASE_STATUS_VALID 1).setFld R.GAF_LEASE_STATUS_AGE 0
    else s

/-- A gaffer's claim: one more than the highest epoch observed; at 0xFFFF_FFFE no claim is made before a reset of the
gate (R22). -/
def State.claimNext (s : State) (g : Gaffer) : State :=
  let e := s.pkg.fld R.GAF_LEASE_EPOCH
  if 0xFFFFFFFE ≤ e then s else s.leaseHear g (e + 1)

/-- LEASE_RENEW (R21). -/
def execLeaseRenew (gaf : Gaffer) (epoch : BitVec 32) (s : State) : Out := .next (s.leaseHear gaf epoch.toNat)

/-- LEASE_EXPIRE: VALID clears, and the observing gaffer claims, when it may lead (R21, R22, R30). -/
def execLeaseExpire (observer : Gaffer) (s : State) : Out :=
  .next ((s.modP (·.setFld R.GAF_LEASE_STATUS_VALID 0)).claimNext observer)

/-- LEASE_CLAIM: epoch 0xFFFF_FFFF is never claimed (R22). -/
def execLeaseClaim (gaf : Gaffer) (epoch : BitVec 32) (s : State) : Out :=
  if epoch = 0xFFFFFFFF#32 then .next s else .next (s.leaseHear gaf epoch.toNat)

/-- A powered millisecond passes (15, Fault history; log entry 18). -/
def State.poweredMs (s : State) : State :=
  s.modP fun p =>
    if p.hist.frac + 1 < 1000 then { p with hist := { p.hist with frac := p.hist.frac + 1 } }
    else { p with hist := { p.hist with frac := 0, seconds := (p.hist.seconds + 1) % 2 ^ 32 } }

/-- LEASE_WINDOW_END: SPLIT_LEASE is raised after two consecutive windows with both gaffers, and clears after a window
with one only (R25, R26, R29). AGE counts the windows since the last accepted renewal. A window is 1 ms of powered
time. -/
def execLeaseWindowEnd (s : State) : Out :=
  let s := s.poweredMs
  let l := s.pkg.lease
  let both := l.gwSeen && l.geSeen
  let one := l.gwSeen != l.geSeen
  let s := s.modP fun p => ({ p with lease := { l with gwSeen := false, geSeen := false, bothBefore := both } }).satFld
    R.GAF_LEASE_STATUS_AGE 1
  if both && l.bothBefore && !s.split then
    .next (s.modP fun p => ((p.setFld R.GAF_LEASE_STATUS_SPLIT 1).setFld R.GAF_LEASE_STATUS_SPLIT_TICKS 0).setFld
      R.GAF_SPLIT_SPLIT_SEEN 1)
  else if one && s.split then
    .next (s.modP fun p => (p.setFld R.GAF_LEASE_STATUS_SPLIT 0).setFld R.GAF_LEASE_STATUS_SPLIT_TICKS 0)
  else .next s

/-- STATE codes of HUB_MOULD_STAT. -/
def mouldIdle : Nat := 0
/-- LOADING. -/
def mouldLoading : Nat := 1
/-- STAGED. -/
def mouldStaged : Nat := 2
/-- DRAINING. -/
def mouldDraining : Nat := 3
/-- HELD. -/
def mouldHeld : Nat := 4
/-- STORING. -/
def mouldStoring : Nat := 5

/-- A held commit is abandoned and an event records it (R28). -/
def State.abandonHeld (s : State) : State :=
  if s.pkg.fld R.HUB_MOULD_STAT_STATE == mouldHeld then
    let s := s.modP fun p => ({ p with mould := { p.mould with staged := none } }).setFld R.HUB_MOULD_STAT_STATE mouldIdle
    let idle (c : Chan) : Chan := { c with draining := false }
    let s := { s with chan := s.chan.map idle }
    s.post (srcHub 0x006) .holdAbandoned []
  else s

/-- The half of a gaffer (R19). -/
def gafHalf : Gaffer → List ChIdx
  | .gw => [0, 1, 2, 3]
  | .ge => [4, 5, 6, 7]

/-- A gaffer enters reset: the changes of power state of its half are held (R20, R479). -/
def State.gafferGone (s : State) (g : Gaffer) : State :=
  let s := match g with
    | .gw => s.modP fun p => { p with gwReset := true }
    | .ge => s.modP fun p => { p with geReset := true }
  (gafHalf g).foldl (fun (s : State) c =>
    if (s.pwr c).move == .none then s else (s.modPwr c fun p => { p with held := true }).pwrShow c) s

/-- SPLIT_GAFFER_RESET at the 9th boundary after the split was raised: both gaffers reset, a held commit is abandoned,
and a third reset within 10 s makes GE passive (R28 to R30). -/
def execSplitGafferReset (ms : Nat) (s : State) : Out :=
  if !s.split || s.pkg.fld R.GAF_LEASE_STATUS_SPLIT_TICKS < 9 then .next s
  else
    let recent := (ms :: s.pkg.lease.resets).take 3
    let third := recent.length == 3 && recent.all (fun t => ms ≤ t + 10000)
    let noted (l : Lease) : Lease :=
      { l with gwWaits := true, geWaits := true, resets := recent, gwSeen := false, geSeen := false }
    let s := s.modP fun p =>
      ({ p with lease := noted p.lease }).satFld R.GAF_SPLIT_RESETS 1
    let s := (s.gafferGone .gw).gafferGone .ge
    let s := if third then
        s.modP fun p => (p.setFld R.GAF_LEASE_STATUS_GE_PASSIVE 1).setFld R.GAF_SPLIT_PASSIVE_HOLD 1
      else s
    .next s.abandonHeld

/-- GW_CLAIM, 5 ms after its return (R30). -/
def execGwClaim (s : State) : Out :=
  if s.pkg.gwReset || !s.pkg.lease.gwWaits then .next s
  else .next ((s.modP fun p => { p with lease := { p.lease with gwWaits := false } }).claimNext .gw)

/-- GE_CLAIM: only when no renewal was heard for 10 ms, and never while GE holds itself passive (R30). -/
def execGeClaim (heard : Bool) (s : State) : Out :=
  if s.pkg.geReset || !s.pkg.lease.geWaits then .next s
  else
    let s := s.modP fun p => { p with lease := { p.lease with geWaits := false } }
    .next (if heard then s else s.claimNext .ge)

/-- SPLIT_SEEN_CLEAR: clears SPLIT_SEEN and FENCED_WRITES (GAF_SPLIT). -/
def execSplitSeenClear (s : State) : Out :=
  .next (s.hostWr 0 0x208 fun s => s.modP fun p =>
    (p.setFld R.GAF_SPLIT_SPLIT_SEEN 0).setFld R.GAF_SPLIT_FENCED_WRITES 0)

/-- PASSIVE_HOLD_RELEASE: clears PASSIVE_HOLD and releases GE; RESETS counts anew (GAF_SPLIT, R30). -/
def execPassiveHoldRelease (s : State) : Out :=
  .next (s.hostWr 0 0x208 fun s => s.modP fun p =>
    ((({ p with lease := { p.lease with resets := [] } }).setFld R.GAF_SPLIT_PASSIVE_HOLD 0).setFld
      R.GAF_LEASE_STATUS_GE_PASSIVE 0).setFld R.GAF_SPLIT_RESETS 0)

end Sys2Proof.Machine
end

