-- ==== Sys2Proof/Machine/History.lean ====
section
/-! DEFINITION. The fault history, CPER records, classing and retirement (R37, R303, R430 to R439). -/

namespace Sys2Proof.Machine

open Sys2Proof

/-! ## Units and keys (Table 15.2) -/

/-- CLASS codes of Table 15.3. -/
def clsCE : Nat := 1
/-- UE. -/
def clsUE : Nat := 2
/-- PERMANENT. -/
def clsPermanent : Nat := 3
/-- RETIRED. -/
def clsRetired : Nat := 4
/-- DIGEST. -/
def clsDigest : Nat := 5

/-- The pseudo-channel of a T1 address: 0 to 63 in stack A, 64 to 127 in stack B (R301). -/
def hbmPc (a : Nat) : Nat := (bits a 14 8) ^^^ (bits a 21 15) ^^^ (bits a 28 22)

/-- The byte of a T1 address within its pseudo-channel (R301). -/
def hbmOff (a : Nat) : Nat := a / 2 ^ 15 * 256 + a % 256

/-- KEY of a pseudo-channel. -/
def keyPc (ch : ChIdx) (pc : Nat) : Nat := ch.val + (pc / 64) * 8 + (pc % 64) * 16

/-- KEY of an HBM row with the sector of an address. -/
def keyRow (ch : ChIdx) (a : Nat) : Nat := keyPc ch (hbmPc a) + (Config.hbmPlace (hbmOff a)).toNat * 2 ^ 10

/-- KEY of a cluster. -/
def keyCluster (ch : ChIdx) (row col : Nat) : Nat := ch.val + row * 8 + col * 128

/-- KEY of a lane slot: fiber 0 to 4 or waveguide 5 to 11, slot W0 to W8. -/
def keySlot (ch : ChIdx) (fiber slot : Nat) : Nat := ch.val + fiber * 8 + slot * 128

/-- KEY without what does not name the unit: the sector of an HBM row. -/
def unitKey (unit key : Nat) : Nat := if unit == 1 then key % 2 ^ 34 else key

/-- A record concerns this unit. -/
def Hist.of (h : Hist) (unit key : Nat) : Bool := h.unit == unit && unitKey unit h.key == unitKey unit key

/-! ## CPER records (R438, R439) -/

/-- Section severity by class (Table 15.5). -/
def Hist.severity (h : Hist) : Nat :=
  if h.cls == clsCE then 2
  else if h.cls == clsUE || h.cls == clsDigest then 0
  else if h.cls == clsRetired && h.action == 3 then 1
  else 3

/-- The Qormel GUID in the byte order of UEFI. -/
def qormelGuid : List Byte := [0xA4, 0xC2, 0xF7, 0x51, 0x1D, 0x6B, 0x93, 0x4E, 0x8A, 0x0C, 0x3D, 0x72, 0x19, 0xE5, 0xB4, 0x60]

/-- The vendor section of Table 15.6. -/
def vendorSection (h : Hist) (stepping tick node : Nat) : List Byte :=
  padTo 64 (leBytes 2 1 ++ leBytes 1 h.unit ++ leBytes 1 h.cls ++ leBytes 4 h.seq ++ leBytes 8 h.key ++ leBytes 2 h.count ++
    leBytes 2 stepping ++ leBytes 4 h.firstS ++ leBytes 8 tick ++ leBytes 4 node ++ leBytes 4 h.action ++ leBytes 4 h.arg)

/-- Bytes of a field that neither the spec nor the layout of the UEFI specification fixes (log entry 17). -/
def freeBytes (draw n : Nat) : List Byte := (List.range n).map (Config.freeByte draw)

/-- The CPER record of a history record (R438, log entry 17): header, one descriptor, vendor section. A record of unit 0 stands
for no channel: FRU Text names the hub. -/
def State.cperBytes (s : State) (h : Hist) (tick draw : Nat) : List Byte :=
  let ch : ChIdx := Fin.ofNat 8 h.key
  let sev := h.severity
  let text : List Byte := [0x51, 0x47, 0x46, 0x2D, 0x32, 0x20] ++
    if h.unit == 0 then [0x48, 0x55, 0x42] else [0x43, 0x48, BitVec.ofNat 8 (0x30 + ch.val)]
  [0x43, 0x50, 0x45, 0x52] ++ leBytes 2 0x0101 ++ leBytes 4 0xFFFFFFFF ++ leBytes 2 1 ++ leBytes 4 sev ++ leBytes 4 1 ++
    leBytes 4 264 ++ leBytes 8 0 ++ padTo 16 (leBytes 8 s.pkg.otp.serial.toNat) ++ leBytes 16 0 ++ qormelGuid ++
    freeBytes draw 24 ++ leBytes 4 0 ++ leBytes 8 0 ++ leBytes 12 0 ++
    leBytes 4 200 ++ leBytes 4 64 ++ leBytes 2 0x0100 ++ leBytes 1 2 ++ leBytes 1 0 ++ leBytes 4 1 ++ qormelGuid ++
    leBytes 16 0 ++ leBytes 4 sev ++ padTo 20 text ++
    vendorSection h s.pkg.otp.stepping tick (if h.unit == 0 then 0 else s.node ch)

/-- Slots of the CPER ring: 16 x 2^SIZE, SIZE above 5 counting as 5. -/
def State.cperSlots (s : State) : Nat := 16 * 2 ^ min (s.pkg.fld R.HUB_CPER_PTR_SIZE) 5

/-- Unread CPER records. -/
def State.cperUnread (s : State) : Nat :=
  (s.pkg.fld R.HUB_CPER_PTR_WR + 1024 - s.pkg.fld R.HUB_CPER_PTR_RD) % 1024

/-- Held records go to the ring while it is enabled and has room (R439). -/
def State.cperDrain (s : State) : Nat → State
  | 0 => s
  | fuel + 1 =>
    match s.pkg.hist.held with
    | [] => s
    | (h, tick) :: rest =>
      if s.pkg.fld R.HUB_CPER_PTR_EN == 1 && s.cperUnread < s.cperSlots then
        let (d, s) := s.draw
        let wr := s.pkg.fld R.HUB_CPER_PTR_WR
        let base := s.pkg.fld R.HUB_CPER_LO_BASE_LO * 4096 + s.pkg.fld R.HUB_CPER_HI_BASE_HI * 2 ^ 32
        let rec_ := s.cperBytes h tick d
        let s := s.modP fun p => { p with
          host := p.host.write (base + 4096 * (wr % s.cperSlots)) rec_, hist := { p.hist with held := rest } }
        State.cperDrain (s.modP (·.setFld R.HUB_CPER_PTR_WR (wr + 1))) fuel
      else s

/-- A record goes to the CPER ring, is held, or is dropped and counted (R438, R439). -/
def State.cper (s : State) (h : Hist) : State :=
  let tick := s.pkg.tick.num.toNat
  let s := (s.modP fun p => { p with hist := { p.hist with held := p.hist.held ++ [(h, tick)] } }).cperDrain 66
  if s.pkg.hist.held.length ≤ 64 then s
  else
    let s := s.modP fun p => { p with hist := { p.hist with held := p.hist.held.take 64 } }
    (s.modP (·.satFld R.HUB_CPER_PTR_DROPPED 1)).post (srcHub 0x007) .cperDrop []

/-! ## Records (R432, R434) -/

/-- Records that the 16 MiB area holds. -/
def histCapacity : Nat := 524288

/-- FILL of HUB_FH_STAT follows the records. -/
def State.histFill (s : State) : State :=
  s.modP fun p => p.setFld R.HUB_FH_STAT_FILL (p.hist.recs.length * 100 / histCapacity)

/-- A record of its own, and its CPER record. -/
def State.histAdd (s : State) (unit cls key action arg : Nat) : State :=
  let h : Hist := ⟨s.pkg.hist.next, s.pkg.hist.seconds, unit, cls, 1, key, action, arg⟩
  let s := s.modP fun p => { p with hist := { p.hist with recs := p.hist.recs ++ [h], next := p.hist.next + 1 } }
  (s.histFill).cper h

/-- A correctable event joins the unit's record of the powered second, or opens one (R432). -/
def State.histCe (s : State) (unit key : Nat) : State :=
  let now := s.pkg.hist.seconds
  let same (h : Hist) : Bool := h.cls == clsCE && h.of unit key && h.firstS == now
  let join (h : Hist) : Hist := if same h then { h with count := satAdd 65535 h.count 1 } else h
  if s.pkg.hist.recs.any same then
    s.modP fun p => { p with hist := { p.hist with recs := p.hist.recs.map join } }
  else s.histAdd unit clsCE key 0 0

/-! ## Retirement (R37, R433, R435) -/

/-- A channel is retired in service: RETIRED sets, LIVE clears, it is held, and it no longer shows INRESET (R37). Its
fibers go dark. -/
def State.retireChan (s : State) (ch : ChIdx) : State :=
  let s := s.modP fun p =>
    let w := p.rd 0x14
    p.wr 0x14 ((w ||| BitVec.ofNat 32 (2 ^ (8 + ch.val))) &&&
      BitVec.ofNat 32 (2 ^ 32 - 1 - 2 ^ ch.val - 2 ^ (16 + ch.val)))
  ((s.allDown ch).t2Dark ch).modC ch fun c => { c with inReset := true }

/-- A channel is retired with a RETIRED record of its own, which holds it off at every later start-up (R435, R437, R494, log
entry 25). -/
def State.retireWhole (s : State) (unit : Nat) (ch : ChIdx) : State :=
  ((s.histAdd unit clsRetired ch.val 3 0).post (srcGaffer ch) .unitRetired []).retireChan ch

/-- ACTION of a unit (Table 15.4). -/
def actionOf (unit : Nat) : Nat := if unit == 1 then 1 else if unit == 3 then 2 else 3

/-- Spare rows in use in the pseudo-channel of a row. -/
def State.sparesOf (s : State) (key : Nat) : Nat := (s.pkg.hist.remaps.filter fun k => k % 2 ^ 10 == key % 2 ^ 10).length

/-- A PERMANENT unit is retired: its RETIRED record, UNIT_RETIRED, and the action of Table 15.4. The spare row a row
takes is the next of its pseudo-channel; with none left, the pseudo-channel retires once its last copy is done. -/
def State.retire (s : State) (unit key : Nat) : State :=
  let ch : ChIdx := Fin.ofNat 8 key
  if unit == 1 && 16 ≤ s.sparesOf key then s
  else
  let s := (s.histAdd unit clsRetired key (actionOf unit) (if unit == 1 then s.sparesOf key else 0)).post (srcGaffer ch)
    .unitRetired []
  if unit == 1 then
    let row := key % 2 ^ 34
    let s := s.modP fun p => { (p.satFld R.HUB_FH_STAT_SPARES 1) with
      hist := { p.hist with remaps := p.hist.remaps ++ [row] } }
    s.modMem ch fun m => { m with copying := m.copying ++ [row] }
  else if unit == 3 then s
  else s.retireChan ch

/-- The unit has a PERMANENT record. -/
def State.classed (s : State) (unit key : Nat) : Bool :=
  s.pkg.hist.recs.any fun h => h.cls == clsPermanent && h.of unit key

/-- A unit is classed PERMANENT, once, and retired at once (R433, R435). -/
def State.makePermanent (s : State) (unit key : Nat) : State :=
  if s.classed unit key then s
  else
    let s := s.histAdd unit clsPermanent (unitKey unit key) (actionOf unit) 0
    (s.modP (·.satFld R.HUB_FH_STAT_PERMANENT 1)).retire unit (unitKey unit key)

/-- The conditions of R433: three correctable events within 86,400 powered seconds, or two UE records with one KEY. T2
expander and DIGEST records are never classed. -/
def State.classDue (s : State) (unit key : Nat) : Bool :=
  unit < 5 &&
    (3 ≤ ((s.pkg.hist.recs.filter fun h =>
        h.cls == clsCE && h.of unit key && s.pkg.hist.seconds < h.firstS + 86400).map (·.count)).sum ||
      2 ≤ (s.pkg.hist.recs.filter fun h => h.cls == clsUE && h.unit == unit && h.key == key).length)

/-- Classing after an event. -/
def State.classify (s : State) (unit key : Nat) : State := if s.classDue unit key then s.makePermanent unit key else s

/-- A correctable event of a unit. -/
def State.faultCe (s : State) (unit key : Nat) : State := (s.histCe unit key).classify unit key

/-- An uncorrectable event of a unit, with the status it caused. -/
def State.faultUe (s : State) (unit key arg : Nat) : State := (s.histAdd unit clsUE key 0 arg).classify unit key

/-- One memory error that an access met: a correction is counted against its pseudo-channel's row, or against the
expander; an uncorrectable error leaves its sector unreadable until it is written whole, and poison from T2 counts in
POISON (R303, R311, R430). A T3 request that fails does so for the access in hand (R313, R315). -/
def State.eccOne (s : State) (ch : ChIdx) (e : Ecc) : State :=
  let key := keyRow ch (32 * e.sector)
  if e.tier == .t3 then
    if e.ue then s.modMem ch fun m => { m with bad3 := e.sector :: m.bad3 } else s
  else if e.tier == .t2 then
    if !e.ue then s.faultCe 5 ch.val
    else
      let s := (s.satF ch R.MEM_T2_STAT_POISON 1).modMem ch fun m =>
        { m with poison2 := if m.poison2.contains e.sector then m.poison2 else m.poison2 ++ [e.sector] }
      s.faultUe 5 ch.val 0x21
  else if !e.ue then s.faultCe 1 key
  else
    let s := s.modMem ch fun m =>
      { m with poison := if m.poison.contains e.sector then m.poison else m.poison ++ [e.sector] }
    s.faultUe 1 key 0x21

/-- The memory errors an access met. -/
def State.ecc (s : State) (ch : ChIdx) (l : List Ecc) : State := l.foldl (fun (s : State) e => s.eccOne ch e) s

/-- The access that met them is over. -/
def State.eccDone (s : State) (ch : ChIdx) : State :=
  if (s.chan[ch]).mem.bad3.isEmpty then s else s.modMem ch fun m => { m with bad3 := [] }

/-- An access to T1 address `a` waits while its row is copied to a spare (R435). -/
def State.rowBusy (s : State) (ch : ChIdx) (a : Nat) : Bool :=
  (s.chan[ch]).mem.copying.contains (keyRow ch a % 2 ^ 34)

/-! ## Commands -/

/-- CHANNEL_RETIRE (R37). A channel that is not enabled or is retired already stays as it is. -/
def execChannelRetire (ch : Fin 8) (s : State) : Out := if s.live ch then .next (s.retireWhole 4 ch) else .next s

/-- HBM_RETRAIN: a retraining that succeeds is a correctable event of the pseudo-channel, one that fails an
uncorrectable event; a second failure within 1 s makes it permanent (R431). -/
def execHbmRetrain (ch : Fin 8) (pc : Fin 128) (ok recent : Bool) (s : State) : Out :=
  if !s.live ch then .next s
  else if ok then .next (s.faultCe 2 (keyPc ch pc.val))
  else
    let s := s.faultUe 2 (keyPc ch pc.val) 0
    .next (if recent then s.makePermanent 2 (keyPc ch pc.val) else s)

/-- ROW_REMAP_DONE: the copy ends, the accesses that waited resume; a pseudo-channel whose 16 spare rows are then all in
use is permanent (R433, R435, Table 15.9). -/
def execRowRemapDone (ch : Fin 8) (row : Nat) (s : State) : Out :=
  if !(s.chan[ch]).mem.copying.contains row then .next s
  else
    let s := s.modMem ch fun m => { m with copying := m.copying.filter (· != row) }
    .next (if 16 ≤ s.sparesOf row then s.makePermanent 2 (row % 2 ^ 10) else s)

/-- HISTORY_COMPACTION at 90% full: every UE, PERMANENT, RETIRED and DIGEST record stays, and every correctable one
younger than 86,400 powered seconds; the rest, alarm records among it, is dropped (R434, log entry 63). -/
def execHistoryCompaction (s : State) : Out :=
  if s.pkg.fld R.HUB_FH_STAT_FILL < 90 then .next s
  else
    let keep (h : Hist) : Bool :=
      clsUE ≤ h.cls && h.cls ≤ clsDigest || h.cls == clsCE && s.pkg.hist.seconds < h.firstS + 86400
    .next ((s.modP fun p => { p with hist := { p.hist with recs := p.hist.recs.filter keep } }).histFill)

/-- CPER_RD_WRITE: RD advances, a write past WR is discarded, and held records enter the ring (R439). SIZE and EN of
HUB_CPER_PTR are written with it. -/
def execCperRdWrite (val : BitVec 32) (s : State) : Out :=
  .next (s.hostWr 0 0x38 fun s =>
    let rd := bits val.toNat 19 10
    let wr := s.pkg.fld R.HUB_CPER_PTR_WR
    let s := s.modP fun p => (p.setFld R.HUB_CPER_PTR_SIZE (bits val.toNat 23 20)).setFld R.HUB_CPER_PTR_EN (bits val.toNat 24 24)
    let s := if (wr + 1024 - rd) % 1024 ≤ s.cperUnread then s.modP (·.setFld R.HUB_CPER_PTR_RD rd) else s
    s.cperDrain 66)

end Sys2Proof.Machine
end

