-- ==== Sys2Proof/Machine/Operands.lean ====
section
/-! DEFINITION. The operands of a wide instruction: descriptors, shape fields, predicates, and the elements they name (R52
to R59, R129, R145, R165, R166). -/

namespace Sys2Proof.Machine

open Sys2Proof

/-! ## Fields of the wide instruction (Table 2.5) -/

/-- Bits of a wide instruction. -/
def wF (w : Wide) (hi lo : Nat) : Nat := bits w.toNat hi lo
/-- ENG. -/
def wEng (w : Wide) : Nat := bits w.toNat 23 20
/-- ZMASK. -/
def wZmask (w : Wide) : Bool := bit w.toNat 9
/-- ARR. -/
def wArr (w : Wide) : Bool := bit w.toNat 8
/-- TA. -/
def wTa (w : Wide) : Bool := bit w.toNat 7
/-- TB. -/
def wTb (w : Wide) : Bool := bit w.toNat 6
/-- ACC. -/
def wAcc (w : Wide) : Bool := bit w.toNat 5
/-- The descriptor of operand field `k`, when VALID is 1. -/
def wOpd (w : Wide) (k : Nat) : Option Nat :=
  let x := bits w.toNat (54 + 7 * k) (48 + 7 * k)
  if bit x 6 then some (x % 64) else none
/-- Shape field `i`. -/
def wShp (w : Wide) (i : Nat) : Nat := bits w.toNat (119 + 24 * i) (96 + 24 * i)
/-- RPRED. -/
def wRpred (w : Wide) : Nat := bits w.toNat 223 192
/-- CPRED. -/
def wCpred (w : Wide) : Nat := bits w.toNat 255 224
/-- EPI. -/
def wEpi (w : Wide) : Nat := bits w.toNat 319 256
/-- RND of EPI. -/
def wRnd (w : Wide) : Nat := bits (wEpi w) 7 6
/-- ACT of EPI. -/
def wAct (w : Wide) : Nat := bits (wEpi w) 5 2
/-- GATES of EPI. -/
def wGates (w : Wide) : Nat := bits (wEpi w) 12 10
/-- GFORM of EPI. -/
def wGform (w : Wide) : Nat := bits (wEpi w) 48 46
/-- The STAT operand of EPI. -/
def wStat (w : Wide) : Option Nat := if bit (wEpi w) 38 then some (bits (wEpi w) 37 32) else none
/-- The GIN operand of EPI. -/
def wGin (w : Wide) : Option Nat := if bit (wEpi w) 45 then some (bits (wEpi w) 44 39) else none

/-! ## Descriptors (Table 2.8) -/

/-- A tensor descriptor read field by field; `n` is its index. -/
structure Tens where
  n : Nat
  valid : Bool
  space : Nat
  fmt : Nat
  rank : Nat
  ro : Bool
  seg : Bool
  base : Nat
  /-- Extents of dimensions 0 to 3 as the descriptor holds them. -/
  ext : List Nat
  /-- Strides of dimensions 0 to 3 in units of 64 bytes; dimension 0 has none. -/
  str : List Nat
  deriving DecidableEq, Repr

/-- Descriptor `n` of a set. -/
def tensOf (td : Vector Desc 64) (n : Nat) : Tens :=
  let d := (td[Fin.ofNat 64 n]).toNat
  ⟨n, bit d 0, bits d 2 1, bits d 6 3, bits d 8 7, bit d 9, bit d 11, bits d 63 14 * 64,
    [bits d 83 64, bits d 103 84, bits d 123 104, bits d 147 128], [0, bits d 191 160, bits d 223 192, bits d 255 224]⟩

/-- The extent of dimension `d`: 1 above the rank (R52). -/
def Tens.dim (t : Tens) (d : Nat) : Nat := if d ≤ t.rank then t.ext.getD d 0 else 1

/-- The stride of dimension `d` in bytes. -/
def Tens.stride (t : Tens) (d : Nat) : Nat := 64 * t.str.getD d 0

/-- Bytes of one row: ceil(DIM0 × bits / 8). -/
def Tens.rowBytes (t : Tens) : Nat := ceilDiv (t.dim 0 * fmtBits t.fmt) 8

/-- One past the last byte of the tensor, from its base. -/
def Tens.span (t : Tens) : Nat :=
  (t.dim 1 - 1) * t.stride 1 + (t.dim 2 - 1) * t.stride 2 + (t.dim 3 - 1) * t.stride 3 + t.rowBytes

/-- Bytes of a store: the local store or the ARWS (R54). -/
def spaceBytes (space : Nat) : Nat := if space == 1 then 0x0C000000 else 0x02000000

/-- The descriptor breaks R52 or R54 where an operand names it. -/
def Tens.bad (t : Tens) (written lists : Bool) : Bool :=
  let low := (List.range 4).filter (· ≤ t.rank)
  let high := (List.range 4).filter (t.rank < ·)
  !t.valid ||
    low.any (fun d => t.ext.getD d 0 == 0) ||
    high.any (fun d => t.ext.getD d 0 != 0 || t.str.getD d 0 != 0) ||
    (if t.space == 3 then !lists || t.str.any (· != 0)
     else
      (1 < t.dim 1 && t.stride 1 < t.rowBytes) ||
        (written && low.any (fun d => 0 < d && 1 < t.dim d && t.stride d == 0)) ||
        (t.space != 0 && spaceBytes t.space < t.base + t.span))

/-- The operand needs a scale descriptor (R53). -/
def Tens.needsScale (t : Tens) : Bool := isBlock t.fmt && t.space != 3

/-- The scale descriptor of a block-format operand. -/
def Tens.scale (td : Vector Desc 64) (t : Tens) : Option Tens := if t.needsScale then some (tensOf td (t.n + 1)) else none

/-- The scale pair breaks R53: the descriptor at fault. -/
def Tens.scaleBad (td : Vector Desc 64) (t : Tens) (written : Bool) : Option Nat :=
  if !t.needsScale then none
  else if t.n == 63 || t.dim 0 % fmtBlock t.fmt != 0 then some t.n
  else
    let sc := tensOf td (t.n + 1)
    if sc.bad written false || sc.fmt != scaleFmt t.fmt || sc.dim 0 != t.dim 0 / fmtBlock t.fmt ||
        (List.range 4).any (fun d => 0 < d && sc.dim d != t.dim d) then some sc.n
    else none

/-- The tensor lies in an entropy-coded region: the page of its base is coded (R165, log entry 20). -/
def State.onCoded (s : State) (ch : ChIdx) (t : Tens) : Bool :=
  t.space == 0 && match s.translate ch t.base with
    | .ok (l, _) => l.coded
    | .error _ => false

/-- The fields of a coded operand are as R166 wants them. -/
def Tens.codable (t : Tens) : Bool := t.fmt == 0 && t.ro && t.stride 1 % 1024 == 0

/-- The tensor is read through the decoder (R166, R305). -/
def State.coded (s : State) (ch : ChIdx) (t : Tens) : Bool := t.codable && s.onCoded ch t

/-- The owner tag of an ARWS slot (R128). -/
def State.arwsTag (s : State) (ch : ChIdx) (slot : Nat) : Nat := Cells.get (fun _ => 0x10) (s.chan[ch]).arws.tags slot

/-- The owner check of R129 fails for one descriptor. -/
def State.ownerBad (s : State) (ch : ChIdx) (jc : Nat) (t : Tens) (written : Bool) : Bool :=
  t.space == 2 &&
    (List.range (ceilDiv (t.base % 65536 + t.span) 65536)).any fun i =>
      let tag := s.arwsTag ch (t.base / 65536 + i)
      !(tag == jc || (!written && tag == 0x11))

/-! ## Faults of a wide instruction -/

/-- A fault: status, ARG, descriptor, and whether WCODE_BAD is posted with it (R166). -/
structure XErr where
  status : Nat
  arg : Nat
  td : Nat
  wcode : Bool
  deriving DecidableEq, Repr

/-- A fault that names no descriptor (log entry 32). -/
def xerr (status arg : Nat) : XErr := ⟨status, arg, 0, false⟩

/-- A fault that names a descriptor (R518). -/
def xdesc (status n : Nat) : XErr := ⟨status, n, n, false⟩

/-- The access of an operand has not failed: it waits for the T2 link. No fault has status 0. -/
def XErr.waits (x : XErr) : Bool := x.status == 0

/-- A failed access as a fault. -/
def MemErr.x (e : MemErr) : XErr := xerr e.status.1 e.status.2

/-- What an operation does with a state: it goes on, or it faults. -/
abbrev Try (α : Type) := Except XErr α

/-- Fold an operation that can fault over a list. -/
def tryFold {α β : Type} (f : α → β → Try α) : α → List β → Try α
  | a, [] => .ok a
  | a, x :: xs =>
    match f a x with
    | .error e => .error e
    | .ok a => tryFold f a xs

/-- Map an operation that can fault over a list. -/
def tryMap {α β : Type} (f : α → Try β) : List α → Try (List β)
  | [] => .ok []
  | x :: xs =>
    match f x with
    | .error e => .error e
    | .ok y =>
      match tryMap f xs with
      | .error e => .error e
      | .ok ys => .ok (y :: ys)

/-! ## Bytes of a space (R54) -/

/-- `n` bytes of a space. -/
def State.spRead (s : State) (ch : ChIdx) (space addr n : Nat) : Try (List Byte) :=
  match space with
  | 1 => .ok (s.lsRead ch addr n)
  | 2 => .ok ((s.chan[ch]).mem.arws.read addr n)
  | _ =>
    match s.vaRead ch addr n with
    | .ok b => .ok b
    | .error e => .error e.x

/-- Bytes stored in a space. -/
def State.spWrite (s : State) (ch : ChIdx) (space addr : Nat) (bs : List Byte) : Try State :=
  match space with
  | 1 => .ok (s.modMem ch fun m => { m with ls := m.ls.write addr bs })
  | 2 => .ok (s.modMem ch fun m => { m with arws := m.arws.write addr bs })
  | _ =>
    match s.vaWrite ch addr bs with
    | .ok s => .ok s
    | .error e => .error e.x

/-! ## Entropy-coded regions (R165, R166) -/

/-- A read of a coded region that fails. -/
def wcodeErr (addr : Nat) : XErr := ⟨0x21, addr % 2 ^ 32, 0, true⟩

/-- The code lengths of the header break the Kraft inequality: Σ 2^-LEN > 1 over the present symbols. -/
def kraftBad (len : Nat) : Bool :=
  2 ^ 15 < ((List.range 16).map fun n =>
    let l := bits len (4 * n + 3) (4 * n)
    if l == 0 then 0 else 2 ^ (15 - l)).sum

/-- The canonical codes: symbol, length and code, in order of length and then symbol. -/
def canonCodes (len : Nat) : List (Nat × Nat × Nat) :=
  let syms := (List.range 16).flatMap fun l =>
    (List.range 16).filterMap fun n => if l != 0 && bits len (4 * n + 3) (4 * n) == l then some (n, l) else none
  let out := syms.foldl (fun (a : List (Nat × Nat × Nat) × Nat × Nat) x =>
    let code := if a.1.isEmpty then 0 else (a.2.1 + 1) * 2 ^ (x.2 - a.2.2)
    (a.1 ++ [(x.1, x.2, code)], code, x.2)) ([], 0, 0)
  out.1

/-- One symbol from a bit stream, most significant bit of its code first: the symbol and the stream's rest. -/
def codeSym (codes : List (Nat × Nat × Nat)) : Nat → Nat → Nat → List Bool → Option (Nat × List Bool)
  | 0, _, _, _ => none
  | _, _, _, [] => none
  | fuel + 1, l, v, b :: bs =>
    let v := 2 * v + (if b then 1 else 0)
    match codes.find? fun c => c.2.1 == l + 1 && c.2.2 == v with
    | some c => some (c.1, bs)
    | none => codeSym codes fuel (l + 1) v bs

/-- `n` symbols. -/
def codeSyms (codes : List (Nat × Nat × Nat)) : Nat → List Bool → Option (List Nat × List Bool)
  | 0, bs => some ([], bs)
  | n + 1, bs => do
    let (x, r) ← codeSym codes 15 0 0 bs
    let (xs, r) ← codeSyms codes n r
    some (x :: xs, r)

/-- Bits of bytes, from bit 0 of the first byte upward. -/
def bitsOf (l : List Byte) : List Bool := l.flatMap fun b => (List.range 8).map fun i => b.getLsbD i

/-- Element nibbles as bytes (R145). -/
def nibbles : List Nat → List Byte
  | a :: b :: rest => BitVec.ofNat 8 (a + 16 * b) :: nibbles rest
  | _ => []

/-- A unit's decoded 1,024 bytes, from the unit's bytes. The stream ends within SIZE, with fewer than 32 bits of zero
padding. -/
def decodeUnit (len : Nat) (unit : List Byte) : Option (List Byte) :=
  let body := unit.drop 4
  if bit (leNat (unit.take 4)) 16 then (if body.length == 1024 then some body else none)
  else
    match codeSyms (canonCodes len) 2048 (bitsOf body) with
    | none => none
    | some (xs, rest) => if rest.length < 32 && rest.all (fun b => !b) then some (nibbles xs) else none

/-- MAGIC of the header of a coded region (Table 5.6). -/
def codedMagic : Nat := 0x31435751

/-- BASE names no region header: the bytes there can be read and hold another MAGIC (R166, log entry 20). -/
def State.headless (s : State) (ch : ChIdx) (base : Nat) : Bool :=
  match s.spRead ch 0 base 4 with
  | .ok b => leNat b != codedMagic
  | .error _ => false

/-- A coded operand breaks R166. -/
def State.codedBad (s : State) (ch : ChIdx) (t : Tens) : Bool := s.onCoded ch t && (!t.codable || s.headless ch t.base)

/-- Where unit `u` of the coded region at device virtual address `base` stands: the header's LEN, its address and SIZE. -/
def State.unitPlace (s : State) (ch : ChIdx) (base u : Nat) : Try (Nat × Nat × Nat) := do
  let hdr ← s.spRead ch 0 base 16
  let len := leNat (hdr.drop 8)
  if leNat (hdr.take 4) != codedMagic || kraftBad len || leNat ((hdr.drop 4).take 4) ≤ u then .error (wcodeErr base)
  else do
    let off := leNat (← s.spRead ch 0 (base + 64 + 4 * u) 4)
    .ok (len, base + off, leNat (← s.spRead ch 0 (base + off) 2))

/-- That unit, decoded. -/
def State.codedUnit (s : State) (ch : ChIdx) (base u : Nat) : Try (List Byte) := do
  let (len, addr, size) ← s.unitPlace ch base u
  let unit ← s.spRead ch 0 addr size
  match decodeUnit len unit with
  | some b => .ok b
  | none => .error (wcodeErr addr)

/-- `n` bytes of a tensor at byte offset `off` from its base, decoded when the tensor is coded. -/
def State.tBytes (s : State) (ch : ChIdx) (t : Tens) (off n : Nat) : Try (List Byte) :=
  if s.coded ch t then
    tryMap (fun i => do
      let b ← s.codedUnit ch t.base ((off + i) / 1024)
      .ok (b.getD ((off + i) % 1024) 0)) (List.range n)
  else s.spRead ch t.space (t.base + off) n

/-! ## Elements (R52, R145, R147) -/

/-- An index of an element. -/
abbrev Idx := Nat × Nat × Nat × Nat

/-- Byte offset of a row from the base (log entry 36). -/
def Tens.rowOff (t : Tens) (x : Idx) : Nat := x.2.1 * t.stride 1 + x.2.2.1 * t.stride 2 + x.2.2.2 * t.stride 3

/-- The code of an element. -/
def State.code (s : State) (ch : ChIdx) (t : Tens) (x : Idx) : Try Nat := do
  let b := fmtBits t.fmt
  let at_ := x.1 * b
  let bs ← s.tBytes ch t (t.rowOff x + at_ / 8) (ceilDiv (at_ % 8 + b) 8)
  .ok (leNat bs / 2 ^ (at_ % 8) % 2 ^ b)

/-- The scale that applies to an element: 1 for a format without blocks. -/
def State.scaleAt (s : State) (ch : ChIdx) (t : Tens) (sc : Option Tens) (x : Idx) : Try Num :=
  match sc with
  | none => .ok .one
  | some u => do
    let c ← s.code ch u (x.1 / fmtBlock t.fmt, x.2)
    .ok (scaleVal t.fmt c)

/-- The value of an element, its block scale applied. -/
def State.elem (s : State) (ch : ChIdx) (t : Tens) (sc : Option Tens) (x : Idx) : Try Num := do
  let v := elemVal t.fmt (← s.code ch t x)
  match sc with
  | none => .ok v
  | some _ => .ok (scaled (← s.scaleAt ch t sc x) v)

/-- The value of an element as FP32: a twin word gives hi (R150). -/
def State.elem32 (s : State) (ch : ChIdx) (t : Tens) (sc : Option Tens) (x : Idx) : Try Num := do
  if t.fmt == 0xC then .ok (twinOf (← s.code ch t x)).hi else s.elem ch t sc x

/-- An element of an INT32 tensor, as a number below 2³². -/
def State.word (s : State) (ch : ChIdx) (t : Tens) (x : Idx) : Try Nat := s.code ch t x

/-! ## Writing a row -/

/-- Codes of `b` bits as one number, the first lowest (R145). -/
def packCodes (b : Nat) : List Nat → Nat
  | [] => 0
  | c :: cs => c + 2 ^ b * packCodes b cs

/-- Consecutive codes written from element `x` of a row; bits of the first and last byte that belong to neighbours keep
their value. -/
def State.putCodes (s : State) (ch : ChIdx) (t : Tens) (x : Idx) (cs : List Nat) : Try State := do
  let b := fmtBits t.fmt
  let at_ := x.1 * b
  let lo := at_ % 8
  let n := ceilDiv (lo + b * cs.length) 8
  let addr := t.base + t.rowOff x + at_ / 8
  let full := packCodes b cs * 2 ^ lo
  if lo == 0 && (b * cs.length) % 8 == 0 then s.spWrite ch t.space addr (leBytes n full)
  else do
    let old ← s.spRead ch t.space addr n
    let o := leNat old
    let hi := lo + b * cs.length
    let v := o % 2 ^ lo + full + o / 2 ^ hi * 2 ^ hi
    s.spWrite ch t.space addr (leBytes n v)

/-- Runs of present entries: start and values. -/
def runsFrom {α : Type} : Nat → List (Option α) → List (Nat × List α)
  | _, [] => []
  | i, none :: xs => runsFrom (i + 1) xs
  | i, some v :: xs =>
    match runsFrom (i + 1) xs with
    | (j, vs) :: rest => if j == i + 1 then (i, v :: vs) :: rest else (i, [v]) :: (j, vs) :: rest
    | [] => [(i, [v])]

/-- Present codes of a row, from element `i0` on, written run by run. -/
def State.putRow (s : State) (ch : ChIdx) (t : Tens) (i0 : Nat) (x : Nat × Nat × Nat) (cs : List (Option Nat)) : Try State :=
  tryFold (fun s r => s.putCodes ch t (r.1, x) r.2) s (runsFrom i0 cs)

/-- The rows of a tensor: their byte offsets. -/
def Tens.rows (t : Tens) : List Nat :=
  (List.range (t.dim 3)).flatMap fun k => (List.range (t.dim 2)).flatMap fun j => (List.range (t.dim 1)).map fun i =>
    i * t.stride 1 + j * t.stride 2 + k * t.stride 3

/-! ## Entries that are not ordered (R69, R70, R127, log entry 72) -/

/-- A descriptor on its own. -/
def tensAt (d : Desc) : Tens := tensOf (Vector.replicate 64 d) 0

/-- The bytes of a tensor: their addresses in its space. -/
def Tens.bytes (t : Tens) : List Nat := t.rows.flatMap fun o => (List.range t.rowBytes).map fun i => t.base + o + i

/-- An address is a byte of the tensor. -/
def Tens.holds (t : Tens) (a : Nat) : Bool := t.rows.any fun o => t.base + o ≤ a && a < t.base + o + t.rowBytes

/-- Two tensors may share bytes. -/
def Tens.near (t u : Tens) : Bool := t.space == u.space && t.base < u.base + u.span && u.base < t.base + t.span

/-- The bytes that one tensor shares with another. -/
def Tens.shared (t u : Tens) : List Nat := if t.near u then t.bytes.filter u.holds else []

/-- Bytes whose contents are unpredictable: each takes a free value. -/
def State.blur (s : State) (ch : ChIdx) (space : Nat) (as : List Nat) : State :=
  if as.isEmpty then s
  else
    let (d, s) := s.draw
    as.foldl (fun (s : State) a => match s.spWrite ch space a [Config.freeByte d a] with
      | .ok s => s
      | .error _ => s) s

/-- The bytes that tensors written share with others become unpredictable. -/
def State.blurShared (s : State) (ch : ChIdx) (outs others : List Tens) : State :=
  outs.foldl (fun (s : State) t => s.blur ch t.space (others.flatMap t.shared).eraseDups) s

/-- The operands of an entry that it reads, or writes, with their scales. -/
def Entry.tensors (e : Entry) (named : List (Nat × Bool)) (written : Bool) : List Desc :=
  (named.filter (·.2 == written)).flatMap fun x =>
    let t := tensOf e.td x.1
    if t.space == 3 then [] else (t.n :: (t.scale e.td).toList.map (·.n)).map fun n => e.td[Fin.ofNat 64 n]

/-- An entry that starts enters the log: it follows what its context knows, what the semaphores it consumes make known, and
what its own context started before it on its engine (R67, R69). -/
def State.logStart (s : State) (ch : ChIdx) (e : Entry) (named : List (Nat × Bool)) : State :=
  let ns := e.waits.map (·.1)
  s.modC ch fun c =>
    let first := c.log.filter fun a => !a.live && (a.seen.contains e.jc || ns.any a.sems.contains || (a.eng == e.eng && a.jc == e.jc))
    let new : Access := ⟨e.order, e.jc, e.eng, true, e.tensors named false, e.tensors named true,
      (first.flatMap fun a => a.order :: a.pred).eraseDups, [], []⟩
    { c with log := c.log ++ [new] }

/-- The entries of other engines that are not ordered with one (R69). -/
def unordered (log : List Access) (r : Access) : List Access :=
  log.filter fun a => a.eng != r.eng && !r.pred.contains a.order && !a.pred.contains r.order

/-- The bytes that an entry and entries not ordered with it touch, and one of them writes, are unpredictable (R69). -/
def State.race (s : State) (ch : ChIdx) (order : Nat) : State :=
  let log := (s.chan[ch]).log
  match log.find? (·.order == order) with
  | none => s
  | some r =>
    let others := unordered log r
    let s := s.blurShared ch (r.outs.map tensAt) ((others.flatMap fun a => a.ins ++ a.outs).map tensAt)
    s.blurShared ch ((others.flatMap (·.outs)).map tensAt) (r.ins.map tensAt)

/-- Two descriptors describe exactly the same bytes, format and layout. -/
def Tens.sameAs (t u : Tens) : Bool := { u with n := t.n, ro := t.ro } == t

/-- A tensor with its scale tensor. -/
def Entry.withScale (e : Entry) (t : Tens) : List Tens := t :: (t.scale e.td).toList

/-- The bytes of D and its scales that overlap the inputs of the same entry are unpredictable (R127); `place` is the input in
whose place D may stand. -/
def State.overlap (s : State) (ch : ChIdx) (e : Entry) (d : Tens) (place : Option Tens) (ins : List Tens) : State :=
  let beside := match place with
    | some c => if d.sameAs c then [] else e.withScale c
    | none => []
  let others := ins.flatMap e.withScale ++ beside
  (s.blurShared ch [d] (others ++ (d.scale e.td).toList)).blurShared ch (d.scale e.td).toList others

/-- A byte that a context may not read yet: it is an output of an entry whose completion no FENCE or WAIT of the context has
made known (R70). -/
def State.unseen (s : State) (ch : ChIdx) (jc : JcIdx) (va : Nat) : Bool :=
  (s.chan[ch]).log.any fun a => !a.seen.contains jc.val && a.outs.any fun d => (tensAt d).space == 0 && (tensAt d).holds va

/-! ## Counting conversions (R155, R169) -/

/-- CH_FMT_STAT counts conversions. -/
def State.countFmt (s : State) (ch : ChIdx) (n : Cnt) : State :=
  (s.satF ch R.CH_FMT_STAT_OVF n.ovf).satF ch R.CH_FMT_STAT_NANW n.nanw

/-! ## Shape fields (R521, R56, R57) -/

/-- A shape field that must be zero, or the operand dimensions it governs in listing order: (descriptor, dimension). -/
abbrev Gov := Option (List (Nat × Nat))

/-- A shape field breaks R521: non-zero where it must be zero, or SRC 0b00 with nothing to take an extent from. -/
def shapeBad (shp : Nat) : Gov → Bool
  | none => shp != 0
  | some g => bits shp 23 22 == 0 && g.isEmpty

/-- The size a shape field resolves to (R521). -/
def resolveShape (td : Vector Desc 64) (c : Ctx) (shp : Nat) : Gov → Int
  | none => 1
  | some g =>
    match bits shp 23 22 with
    | 0 => match g with
      | (n, d) :: _ => ((tensOf td n).dim d : Int)
      | [] => 0
    | 1 => (bits shp 21 0 : Int)
    | _ => (c.rg (Fin.ofNat 32 shp)).toInt

/-- The first governed operand whose extent a positive size exceeds (R56). -/
def shapeOver (td : Vector Desc 64) (size : Int) : Gov → Option Nat
  | none => none
  | some g => if size ≤ 0 then none else (g.find? fun x => ((tensOf td x.1).dim x.2 : Int) < size).map (·.1)

/-- The low 32 bits of a size. -/
def low32 (i : Int) : Nat := wrapInt 32 i

/-! ## Predicates (R59) -/

/-- A predicate field names a bitmap: its descriptor. -/
def predMap (p : Nat) : Option Nat := if bits p 31 30 == 1 then some (p % 64) else none

/-- A periodic predicate has PERIOD 1 to 32,767 and KEEP up to PERIOD; another breaks PARAM_INVALID (DESIGN CHOICE, log
entry 84). -/
def predBad (p : Nat) : Bool := bits p 31 30 == 2 && (bits p 29 15 == 0 || bits p 29 15 < bits p 14 0)

/-- A bitmap descriptor breaks R52 or R59 for `size` rows or columns; its format and rank are the model's reading (DESIGN
CHOICE, log entry 84). -/
def predDescBad (td : Vector Desc 64) (p : Nat) (size : Int) : Option Nat :=
  match predMap p with
  | none => none
  | some n =>
    let t := tensOf td n
    if t.bad false false || t.fmt != 0xD || t.rank != 0 || t.dim 0 < ceilDiv size.toNat 32 then some n else none

/-- Whether row or column `i` is active. -/
def State.active (s : State) (ch : ChIdx) (td : Vector Desc 64) (p i : Nat) : Try Bool :=
  match bits p 31 30 with
  | 0 => .ok true
  | 1 => do
    let w ← s.word ch (tensOf td (p % 64)) (i / 32, 0, 0, 0)
    .ok (bit w (i % 32))
  | _ => .ok (decide (i % bits p 29 15 < bits p 14 0))

/-- The activity of indices `lo` to `lo + n - 1`. -/
def State.activeFrom (s : State) (ch : ChIdx) (td : Vector Desc 64) (p lo n : Nat) : Try (List Bool) :=
  tryMap (fun i => s.active ch td p (lo + i)) (List.range n)

end Sys2Proof.Machine
end

