-- ==== Sys2Proof/Machine/Scalar.lean ====
section
/-! DEFINITION. The scalar instructions of the sequencer: R42 to R48, R60 to R65, R70, R73, R522 and R524. -/

namespace Sys2Proof.Machine

open Sys2Proof

/-! ## Issue of one scalar instruction -/

/-- A context whose thread has an instruction to issue: it is in RUN and waits for no load. -/
def Ctx.issues (c : Ctx) : Bool := c.st == .run && c.load.isNone

/-- The context whose turn it is to issue: the first that can, in round robin from the one after the last (R43). -/
def State.turn (s : State) (ch : ChIdx) : Option JcIdx :=
  ((List.range 16).map fun i => jcOf ((s.chan[ch]).sched.nextIssue + i)).find? fun jc => (s.ctx ch jc).issues

/-- The scalar thread of a context may issue: its channel is up and clocked, the context is in RUN and waits for no
load, and it is its turn (R43, Table 2.1, Table 17.2). -/
def State.canIssue (s : State) (ch : ChIdx) (jc : JcIdx) : Bool :=
  s.up ch && (s.chan[ch]).power.st == .run && (s.chan[ch]).power.move == .none &&
    (s.ctx ch jc).issues && s.turn ch == some jc

/-- The context that issues is the one round robin starts after (R43). -/
def State.issued (s : State) (ch : ChIdx) (jc : JcIdx) : State :=
  s.modC ch fun c => { c with sched := { c.sched with nextIssue := (jc.val + 1) % 16 } }

/-- The low 32 bits of the context's program counter: ARG of a scalar fault (Table 2.16). -/
def State.pcArg (s : State) (ch : ChIdx) (jc : JcIdx) : Nat := (s.ctx ch jc).pc.toNat % 2 ^ 32

/-- A failed access of the scalar thread faults it; one that waits for the T2 link leaves the instruction to be issued again
(R49, R311). -/
def State.memFault (s : State) (ch : ChIdx) (jc : JcIdx) (e : MemErr) : State :=
  if e.waits then s else s.scalarFault ch jc e.status.1 0 e.status.2

/-- A scalar instruction issues: its word is fetched, a failing fetch is a scalar fault (R49), and then it has its
effect. -/
def State.scalar (s : State) (ch : ChIdx) (jc : JcIdx) (effect : State → State) : State :=
  if !s.canIssue ch jc then s
  else
    let pc := (s.ctx ch jc).pc.toNat
    let s := s.issued ch jc
    match s.vaRead ch pc 4 with
    | .error e => s.memFault ch jc e
    | .ok _ => effect (s.tlbFill ch pc)

/-- The program counter moves to the next slot. -/
def Ctx.next (c : Ctx) : Ctx := { c with pc := c.pc + 4 }

/-- rd takes a value and the thread goes on. -/
def State.setRd (s : State) (ch : ChIdx) (jc : JcIdx) (rd : Fin 32) (v : DWord) : State :=
  s.modX ch jc fun c => (c.wg rd v).next

/-- A fault of the scalar thread whose ARG is the instruction's address (Table 2.16). -/
def State.trapPc (s : State) (ch : ChIdx) (jc : JcIdx) (status : Nat) : State :=
  s.scalarFault ch jc status 0 (s.pcArg ch jc)

/-- The status codes of Table 2.12 that the scalar thread raises. -/
def stIllegalOp : Nat := 0x0012
/-- SEM_INVALID. -/
def stSemInvalid : Nat := 0x0016
/-- SEM_BUSY. -/
def stSemBusy : Nat := 0x0017
/-- SEM_TIMEOUT. -/
def stSemTimeout : Nat := 0x0018
/-- MEM_ALIGN. -/
def stMemAlign : Nat := 0x0022
/-- LS_RANGE. -/
def stLsRange : Nat := 0x0023
/-- TRAP. -/
def stTrap : Nat := 0x0030

/-! ## ALU functions (R45, R522) -/

/-- DIV: toward zero; all ones for a zero divisor; -2^63 / -1 is -2^63. -/
def divS (a b : DWord) : DWord := if b = 0 then BitVec.allOnes 64 else BitVec.sdiv a b
/-- DIVU: all ones for a zero divisor. -/
def divU (a b : DWord) : DWord := if b = 0 then BitVec.allOnes 64 else a / b
/-- REM: the sign of the dividend; the dividend for a zero divisor. -/
def remS (a b : DWord) : DWord := if b = 0 then a else BitVec.srem a b
/-- REMU: the dividend for a zero divisor. -/
def remU (a b : DWord) : DWord := if b = 0 then a else a % b
/-- MULH: the high 64 bits of the signed product. -/
def mulHS (a b : DWord) : DWord := BitVec.ofInt 64 (a.toInt * b.toInt / (2 ^ 64 : Int))
/-- MULHU: the high 64 bits of the unsigned product. -/
def mulHU (a b : DWord) : DWord := BitVec.ofNat 64 (a.toNat * b.toNat / 2 ^ 64)
/-- A truth value as a register. -/
def ofBool (b : Bool) : DWord := if b then 1 else 0
/-- The shift amount of a register: its low 6 bits. -/
def shAmt (b : DWord) : Nat := b.toNat % 64

/-- rd := f ra rb. -/
def State.alu (s : State) (ch : ChIdx) (jc : JcIdx) (rd ra rb : Fin 32) (f : DWord → DWord → DWord) : Out :=
  .next (s.scalar ch jc fun s => s.setRd ch jc rd (f ((s.ctx ch jc).rg ra) ((s.ctx ch jc).rg rb)))

/-- rd := f ra imm. -/
def State.aluImm (s : State) (ch : ChIdx) (jc : JcIdx) (rd ra : Fin 32) (f : DWord → DWord) : Out :=
  .next (s.scalar ch jc fun s => s.setRd ch jc rd (f ((s.ctx ch jc).rg ra)))

/-- ADD. -/
def execAluAdd (ch : ChIdx) (jc : JcIdx) (rd ra rb : Fin 32) (s : State) : Out := s.alu ch jc rd ra rb (· + ·)
/-- SUB. -/
def execAluSub (ch : ChIdx) (jc : JcIdx) (rd ra rb : Fin 32) (s : State) : Out := s.alu ch jc rd ra rb (· - ·)
/-- AND. -/
def execAluAnd (ch : ChIdx) (jc : JcIdx) (rd ra rb : Fin 32) (s : State) : Out := s.alu ch jc rd ra rb (· &&& ·)
/-- OR. -/
def execAluOr (ch : ChIdx) (jc : JcIdx) (rd ra rb : Fin 32) (s : State) : Out := s.alu ch jc rd ra rb (· ||| ·)
/-- XOR. -/
def execAluXor (ch : ChIdx) (jc : JcIdx) (rd ra rb : Fin 32) (s : State) : Out := s.alu ch jc rd ra rb (· ^^^ ·)
/-- SLL by rb[5:0]. -/
def execAluSll (ch : ChIdx) (jc : JcIdx) (rd ra rb : Fin 32) (s : State) : Out :=
  s.alu ch jc rd ra rb fun a b => a <<< shAmt b
/-- SRL by rb[5:0]. -/
def execAluSrl (ch : ChIdx) (jc : JcIdx) (rd ra rb : Fin 32) (s : State) : Out :=
  s.alu ch jc rd ra rb fun a b => a >>> shAmt b
/-- SRA by rb[5:0]. -/
def execAluSra (ch : ChIdx) (jc : JcIdx) (rd ra rb : Fin 32) (s : State) : Out :=
  s.alu ch jc rd ra rb fun a b => a.sshiftRight (shAmt b)
/-- SLT, signed. -/
def execAluSlt (ch : ChIdx) (jc : JcIdx) (rd ra rb : Fin 32) (s : State) : Out :=
  s.alu ch jc rd ra rb fun a b => ofBool (a.slt b)
/-- SLTU, unsigned. -/
def execAluSltu (ch : ChIdx) (jc : JcIdx) (rd ra rb : Fin 32) (s : State) : Out :=
  s.alu ch jc rd ra rb fun a b => ofBool (a.ult b)
/-- MIN, signed. -/
def execAluMin (ch : ChIdx) (jc : JcIdx) (rd ra rb : Fin 32) (s : State) : Out :=
  s.alu ch jc rd ra rb fun a b => if a.slt b then a else b
/-- MAX, signed. -/
def execAluMax (ch : ChIdx) (jc : JcIdx) (rd ra rb : Fin 32) (s : State) : Out :=
  s.alu ch jc rd ra rb fun a b => if a.slt b then b else a
/-- MUL, low 64 bits. -/
def execAluMul (ch : ChIdx) (jc : JcIdx) (rd ra rb : Fin 32) (s : State) : Out := s.alu ch jc rd ra rb (· * ·)
/-- MULH, signed. -/
def execAluMulh (ch : ChIdx) (jc : JcIdx) (rd ra rb : Fin 32) (s : State) : Out := s.alu ch jc rd ra rb mulHS
/-- MULHU, unsigned. -/
def execAluMulhu (ch : ChIdx) (jc : JcIdx) (rd ra rb : Fin 32) (s : State) : Out := s.alu ch jc rd ra rb mulHU
/-- DIV. -/
def execAluDiv (ch : ChIdx) (jc : JcIdx) (rd ra rb : Fin 32) (s : State) : Out := s.alu ch jc rd ra rb divS
/-- DIVU. -/
def execAluDivu (ch : ChIdx) (jc : JcIdx) (rd ra rb : Fin 32) (s : State) : Out := s.alu ch jc rd ra rb divU
/-- REM. -/
def execAluRem (ch : ChIdx) (jc : JcIdx) (rd ra rb : Fin 32) (s : State) : Out := s.alu ch jc rd ra rb remS
/-- REMU. -/
def execAluRemu (ch : ChIdx) (jc : JcIdx) (rd ra rb : Fin 32) (s : State) : Out := s.alu ch jc rd ra rb remU

/-- ADDI: rd := ra + sext(imm16). -/
def execAddi (ch : ChIdx) (jc : JcIdx) (rd ra : Fin 32) (imm : BitVec 16) (s : State) : Out :=
  s.aluImm ch jc rd ra fun a => a + sext64 imm
/-- ANDI: rd := ra and zext(imm16). -/
def execAndi (ch : ChIdx) (jc : JcIdx) (rd ra : Fin 32) (imm : BitVec 16) (s : State) : Out :=
  s.aluImm ch jc rd ra fun a => a &&& imm.zeroExtend 64
/-- ORI: rd := ra or zext(imm16). -/
def execOri (ch : ChIdx) (jc : JcIdx) (rd ra : Fin 32) (imm : BitVec 16) (s : State) : Out :=
  s.aluImm ch jc rd ra fun a => a ||| imm.zeroExtend 64
/-- XORI: rd := ra xor zext(imm16). -/
def execXori (ch : ChIdx) (jc : JcIdx) (rd ra : Fin 32) (imm : BitVec 16) (s : State) : Out :=
  s.aluImm ch jc rd ra fun a => a ^^^ imm.zeroExtend 64
/-- SLTI: 1 when ra < sext(imm16) signed, else 0. -/
def execSlti (ch : ChIdx) (jc : JcIdx) (rd ra : Fin 32) (imm : BitVec 16) (s : State) : Out :=
  s.aluImm ch jc rd ra fun a => ofBool (a.slt (sext64 imm))

/-- The immediate shift of SHI, by the kind in imm16[7:6] (Table 2.3); none for the reserved kind (R45) and for non-zero
imm16[15:8] (R46). -/
def shiValue (imm : BitVec 16) (a : DWord) : Option DWord :=
  let n := bits imm.toNat 5 0
  if bits imm.toNat 15 8 != 0 then none
  else match bits imm.toNat 7 6 with
    | 0 => some (a <<< n)
    | 1 => some (a >>> n)
    | 2 => some (a.sshiftRight n)
    | _ => none

/-- SHI. -/
def execShi (ch : ChIdx) (jc : JcIdx) (rd ra : Fin 32) (imm : BitVec 16) (s : State) : Out :=
  .next (s.scalar ch jc fun s =>
    match shiValue imm ((s.ctx ch jc).rg ra) with
    | some v => s.setRd ch jc rd v
    | none => s.trapPc ch jc stIllegalOp)

/-- MOVZ: rd := imm16 shifted left by 16 x hw; bits [18:16] must be zero (R46). -/
def execMovz (ch : ChIdx) (jc : JcIdx) (rd : Fin 32) (hw : Fin 4) (rsv : BitVec 3) (imm : BitVec 16) (s : State) : Out :=
  .next (s.scalar ch jc fun s =>
    if rsv ≠ 0 then s.trapPc ch jc stIllegalOp
    else s.setRd ch jc rd (imm.zeroExtend 64 <<< (16 * hw.val)))

/-- The register with halfword `hw` replaced. -/
def putHalf (v : DWord) (hw : Fin 4) (imm : BitVec 16) : DWord :=
  (v &&& ~~~ (0xFFFF#64 <<< (16 * hw.val))) ||| (imm.zeroExtend 64 <<< (16 * hw.val))

/-- MOVK: halfword hw of rd := imm16, other bits kept; bits [18:16] must be zero (R46). -/
def execMovk (ch : ChIdx) (jc : JcIdx) (rd : Fin 32) (hw : Fin 4) (rsv : BitVec 3) (imm : BitVec 16) (s : State) : Out :=
  .next (s.scalar ch jc fun s =>
    if rsv ≠ 0 then s.trapPc ch jc stIllegalOp
    else s.setRd ch jc rd (putHalf ((s.ctx ch jc).rg rd) hw imm))

/-! ## Memory (R47, R70, R524) -/

/-- The address ra + sext(imm16). -/
def State.ea (s : State) (ch : ChIdx) (jc : JcIdx) (ra : Fin 32) (imm : BitVec 16) : DWord :=
  (s.ctx ch jc).rg ra + sext64 imm

/-- A load starts: alignment is checked, the context's own stores drain before it, and the thread waits for the data. -/
def State.startLoad (s : State) (ch : ChIdx) (jc : JcIdx) (kind : LoadKind) (dst align : Nat) (va : DWord) : State :=
  if va.toNat % align != 0 then s.scalarFault ch jc stMemAlign 0 (va.toNat % 2 ^ 32)
  else match s.drainStores ch jc with
    | .error e => s.memFault ch jc e
    | .ok s => s.modX ch jc fun c => { c with load := some ⟨kind, dst, va, false⟩ }

/-- LD: 8-byte aligned. -/
def execLd (ch : ChIdx) (jc : JcIdx) (rd ra : Fin 32) (imm : BitVec 16) (s : State) : Out :=
  .next (s.scalar ch jc fun s => s.startLoad ch jc .ld rd.val 8 (s.ea ch jc ra imm))
/-- LW: 4-byte aligned, sign-extended. -/
def execLw (ch : ChIdx) (jc : JcIdx) (rd ra : Fin 32) (imm : BitVec 16) (s : State) : Out :=
  .next (s.scalar ch jc fun s => s.startLoad ch jc .lw rd.val 4 (s.ea ch jc ra imm))
/-- LWU: 4-byte aligned, zero-extended. -/
def execLwu (ch : ChIdx) (jc : JcIdx) (rd ra : Fin 32) (imm : BitVec 16) (s : State) : Out :=
  .next (s.scalar ch jc fun s => s.startLoad ch jc .lwu rd.val 4 (s.ea ch jc ra imm))

/-- Bytes that a load reads. -/
def LoadKind.size : LoadKind → Nat
  | .ld => 8 | .lw => 4 | .lwu => 4 | .tdld => 32

/-- The register a load writes, and the thread going on. -/
def Ctx.loaded (c : Ctx) (l : PendLoad) (v : Nat) : Ctx :=
  let c := { c with load := none }
  match l.kind with
  | .ld => (c.wg (Fin.ofNat 32 l.dst) (BitVec.ofNat 64 v)).next
  | .lw => (c.wg (Fin.ofNat 32 l.dst) ((BitVec.ofNat 32 v).signExtend 64)).next
  | .lwu => (c.wg (Fin.ofNat 32 l.dst) ((BitVec.ofNat 32 v).zeroExtend 64)).next
  | .tdld => ({ c with td := c.td.set (Fin.ofNat 64 l.dst) (BitVec.ofNat 256 v) }).next

/-- Some byte of a range of device virtual memory lies in a T1 row that is being copied to a spare (R435). -/
def State.waitsRow (s : State) (ch : ChIdx) (va n : Nat) : Bool :=
  !(s.chan[ch]).mem.copying.isEmpty && (List.range n).any fun i =>
    match s.translate ch (va + i) with
    | .ok (l, a) => l.tier == .t1 && s.rowBusy ch a
    | .error _ => false

/-- The data of the pending load arrives and rd is written, or the load faults (R303, R305, R524). A byte of an output that
the context may not read yet is a free value (R70). `ecc` lists the memory errors the read meets. The load waits while its row
is copied (R435), and while the T2 link trains or fails over (R311). -/
def execLoadComplete (ch : ChIdx) (jc : JcIdx) (ecc : List Ecc) (s : State) : Out :=
  match (s.ctx ch jc).load with
  | none => .next s
  | some l =>
    if s.waitsRow ch l.va.toNat l.kind.size then .next s
    else
    let s0 := s
    let s := s.ecc ch ecc
    match s.vaRead ch l.va.toNat l.kind.size with
    | .error e => .next (if e.waits then s0 else (s.scalarFault ch jc e.status.1 0 e.status.2).eccDone ch)
    | .ok bs =>
      let (d, s) := s.draw
      let bs := bs.mapIdx fun i b => if s.unseen ch jc (l.va.toNat + i) then Config.freeByte d (l.va.toNat + i) else b
      .next (((s.vaTouch ch l.va.toNat l.kind.size).eccDone ch).modX ch jc fun c => c.loaded l (leNat bs))

/-- A store enters the store buffer when its address is aligned and mapped (R47, R305, R524). -/
def State.startStore (s : State) (ch : ChIdx) (jc : JcIdx) (n align : Nat) (va : DWord) (v : Desc) : State :=
  if va.toNat % align != 0 then s.scalarFault ch jc stMemAlign 0 (va.toNat % 2 ^ 32)
  else match s.vaPlaces ch va.toNat n with
    | .error e => s.scalarFault ch jc e.status.1 0 e.status.2
    | .ok _ => (s.tlbFill ch va.toNat).modX ch jc fun c => { c.next with stores := c.stores ++ [⟨va, n, v⟩] }

/-- ST: 64 bits of rd. -/
def execSt (ch : ChIdx) (jc : JcIdx) (rd ra : Fin 32) (imm : BitVec 16) (s : State) : Out :=
  .next (s.scalar ch jc fun s => s.startStore ch jc 8 8 (s.ea ch jc ra imm) (((s.ctx ch jc).rg rd).zeroExtend 256))
/-- STW: the low 32 bits of rd. -/
def execStw (ch : ChIdx) (jc : JcIdx) (rd ra : Fin 32) (imm : BitVec 16) (s : State) : Out :=
  .next (s.scalar ch jc fun s =>
    s.startStore ch jc 4 4 (s.ea ch jc ra imm) ((((s.ctx ch jc).rg rd).truncate 32).zeroExtend 256))

/-- Bytes of the local store: 192 MiB (R47). -/
def lsBytes : Nat := 0x0C000000

/-- A local-store access: 8-byte alignment first, then the range (R47). -/
def State.lsAccess (s : State) (ch : ChIdx) (jc : JcIdx) (off : DWord) (effect : State → State) : State :=
  if off.toNat % 8 != 0 then s.scalarFault ch jc stMemAlign 0 (off.toNat % 2 ^ 32)
  else if lsBytes < off.toNat + 8 then s.trapPc ch jc stLsRange
  else effect s

/-- LDL. -/
def execLdl (ch : ChIdx) (jc : JcIdx) (rd ra : Fin 32) (imm : BitVec 16) (s : State) : Out :=
  .next (s.scalar ch jc fun s => s.lsAccess ch jc (s.ea ch jc ra imm) fun s =>
    s.setRd ch jc rd (BitVec.ofNat 64 (leNat ((s.chan[ch]).mem.ls.read (s.ea ch jc ra imm).toNat 8))))
/-- STL. -/
def execStl (ch : ChIdx) (jc : JcIdx) (rd ra : Fin 32) (imm : BitVec 16) (s : State) : Out :=
  .next (s.scalar ch jc fun s => s.lsAccess ch jc (s.ea ch jc ra imm) fun s =>
    let off := (s.ea ch jc ra imm).toNat
    let bs := leBytes 8 ((s.ctx ch jc).rg rd).toNat
    (s.modMem ch fun m => { m with ls := m.ls.write off bs }).modX ch jc Ctx.next)

/-! ## Branches and jumps (Table 2.3) -/

/-- A conditional branch: pc + 4 x sext(offset16) when the comparison holds. -/
def State.branch (s : State) (ch : ChIdx) (jc : JcIdx) (ra rb : Fin 32) (off : BitVec 16) (cmp : DWord → DWord → Bool) :
    Out :=
  .next (s.scalar ch jc fun s =>
    if cmp ((s.ctx ch jc).rg ra) ((s.ctx ch jc).rg rb) then s.modX ch jc fun c => { c with pc := c.pc + (sext64 off) * 4 }
    else s.modX ch jc Ctx.next)

/-- BEQ. -/
def execBeq (ch : ChIdx) (jc : JcIdx) (ra rb : Fin 32) (off : BitVec 16) (s : State) : Out :=
  s.branch ch jc ra rb off (· == ·)
/-- BNE. -/
def execBne (ch : ChIdx) (jc : JcIdx) (ra rb : Fin 32) (off : BitVec 16) (s : State) : Out :=
  s.branch ch jc ra rb off (· != ·)
/-- BLT, signed. -/
def execBlt (ch : ChIdx) (jc : JcIdx) (ra rb : Fin 32) (off : BitVec 16) (s : State) : Out :=
  s.branch ch jc ra rb off BitVec.slt
/-- BGE, signed. -/
def execBge (ch : ChIdx) (jc : JcIdx) (ra rb : Fin 32) (off : BitVec 16) (s : State) : Out :=
  s.branch ch jc ra rb off fun a b => !a.slt b
/-- BLTU, unsigned. -/
def execBltu (ch : ChIdx) (jc : JcIdx) (ra rb : Fin 32) (off : BitVec 16) (s : State) : Out :=
  s.branch ch jc ra rb off BitVec.ult
/-- BGEU, unsigned. -/
def execBgeu (ch : ChIdx) (jc : JcIdx) (ra rb : Fin 32) (off : BitVec 16) (s : State) : Out :=
  s.branch ch jc ra rb off fun a b => !a.ult b

/-- JAL: g31 := pc + 4; pc := pc + 4 x sext(offset26). -/
def execJal (ch : ChIdx) (jc : JcIdx) (off : BitVec 26) (s : State) : Out :=
  .next (s.scalar ch jc fun s => s.modX ch jc fun c => { (c.wg 31 (c.pc + 4)) with pc := c.pc + (sext64 off) * 4 })

/-- JALR: rd := pc + 4; pc := ra + sext(imm16) with the low 2 bits cleared. ra is read before rd is written. -/
def execJalr (ch : ChIdx) (jc : JcIdx) (rd ra : Fin 32) (imm : BitVec 16) (s : State) : Out :=
  .next (s.scalar ch jc fun s => s.modX ch jc fun c =>
    { (c.wg rd (c.pc + 4)) with pc := (c.rg ra + sext64 imm) &&& ~~~ 3#64 })

/-! ## Tensor descriptors (Table 2.2, format TD) -/

/-- The address ra + 32 x sext(imm15). -/
def State.tdEa (s : State) (ch : ChIdx) (jc : JcIdx) (ra : Fin 32) (imm : BitVec 15) : DWord :=
  (s.ctx ch jc).rg ra + (sext64 imm) * 32

/-- TDLD. -/
def execTdld (ch : ChIdx) (jc : JcIdx) (td : Fin 64) (ra : Fin 32) (imm : BitVec 15) (s : State) : Out :=
  .next (s.scalar ch jc fun s => s.startLoad ch jc .tdld td.val 1 (s.tdEa ch jc ra imm))
/-- TDST. -/
def execTdst (ch : ChIdx) (jc : JcIdx) (td : Fin 64) (ra : Fin 32) (imm : BitVec 15) (s : State) : Out :=
  .next (s.scalar ch jc fun s => s.startStore ch jc 32 1 (s.tdEa ch jc ra imm) (s.ctx ch jc).td[td])

/-- A descriptor with word `w` replaced. -/
def putTdWord (d : Desc) (w : Fin 4) (v : DWord) : Desc :=
  BitVec.ofNat 256 (putBits d.toNat (64 * w.val + 63) (64 * w.val) v.toNat)

/-- Word `w` of a descriptor. -/
def tdWord (d : Desc) (w : Fin 4) : DWord := BitVec.ofNat 64 (bits d.toNat (64 * w.val + 63) (64 * w.val))

/-- TDSET: word w of TDn := ra. -/
def execTdset (ch : ChIdx) (jc : JcIdx) (td : Fin 64) (ra : Fin 32) (w : Fin 4) (s : State) : Out :=
  .next (s.scalar ch jc fun s => s.modX ch jc fun c =>
    { c with td := c.td.set td (putTdWord c.td[td] w (c.rg ra)), pc := c.pc + 4 })
/-- TDGET: g[ra field] := word w of TDn. -/
def execTdget (ch : ChIdx) (jc : JcIdx) (td : Fin 64) (ra : Fin 32) (w : Fin 4) (s : State) : Out :=
  .next (s.scalar ch jc fun s => s.setRd ch jc ra (tdWord (s.ctx ch jc).td[td] w))

/-! ## Semaphores (R60, R63, R65) -/

/-- WAIT: SEM_INVALID for a count of 0; subtracts at once when the count covers it, else blocks. -/
def execWait (ch : ChIdx) (jc : JcIdx) (sem : Fin 256) (count : BitVec 8) (tg : Bool) (s : State) : Out :=
  .next (s.scalar ch jc fun s =>
    if count = 0 then s.trapPc ch jc stSemInvalid
    else (s.modX ch jc fun c => { (c.enter .waitSem) with waitOn := .sem sem.val count.toNat tg }).semServe ch)

/-- SIG: SEM_INVALID for a count of 0; adds, saturating; with TG = 1 the owner becomes none when the context is it. -/
def execSig (ch : ChIdx) (jc : JcIdx) (sem : Fin 256) (count : BitVec 8) (tg : Bool) (s : State) : Out :=
  .next (s.scalar ch jc fun s =>
    if count = 0 then s.trapPc ch jc stSemInvalid
    else
      let s := ((s.modX ch jc Ctx.next).tell ch jc sem.val).semAdd ch jc.val sem.val count.toNat
      let s := if tg && (s.semAt ch sem.val).owner == some jc.val then s.modSem ch sem.val fun m => { m with owner := none } else s
      s.semServe ch)

/-- CLAIM: SEM_BUSY when another context owns it; else count and initial value := ra[15:0], owner the context. -/
def execClaim (ch : ChIdx) (jc : JcIdx) (ra : Fin 32) (sem : Fin 256) (s : State) : Out :=
  .next (s.scalar ch jc fun s =>
    match (s.semAt ch sem.val).owner with
    | some o =>
      if o != jc.val then s.trapPc ch jc stSemBusy
      else ((s.modSem ch sem.val fun m =>
        { m with count := ((s.ctx ch jc).rg ra).toNat % 65536, init := ((s.ctx ch jc).rg ra).toNat % 65536 }).modX ch jc
          Ctx.next).semServe ch
    | none =>
      ((s.modSem ch sem.val fun _ =>
        ⟨((s.ctx ch jc).rg ra).toNat % 65536, ((s.ctx ch jc).rg ra).toNat % 65536, some jc.val⟩).modX ch jc
          Ctx.next).semServe ch)

/-- FREE: the owner becomes none when the context is it. -/
def execFree (ch : ChIdx) (jc : JcIdx) (sem : Fin 256) (s : State) : Out :=
  .next (s.scalar ch jc fun s =>
    let s := s.modX ch jc Ctx.next
    if (s.semAt ch sem.val).owner == some jc.val then s.modSem ch sem.val fun m => { m with owner := none } else s)

/-- READ: rd := count. -/
def execRead (ch : ChIdx) (jc : JcIdx) (rd : Fin 32) (sem : Fin 256) (s : State) : Out :=
  .next (s.scalar ch jc fun s => s.setRd ch jc rd (BitVec.ofNat 64 (s.semAt ch sem.val).count))

/-- The thread of a context is blocked in a WAIT, in WAIT_SEM or while its context is READY. -/
def State.semBlocked (s : State) (ch : ChIdx) (jc : JcIdx) : Bool :=
  let c := s.ctx ch jc
  match c.waitOn with
  | .sem n k _ => c.st == .waitSem || (c.st == .ready && (s.semAt ch n).count < k)
  | _ => false

/-- A scalar wait or a queued entry that is next to start has been blocked on semaphores for longer than the limit of
CH_SEM_WAITLIM (R65): it faults SEM_TIMEOUT. Time in PREEMPTED or under the fence (R489) does not count, and a limit of 0 is
none. -/
def execSemTimeout (ch : ChIdx) (jc : JcIdx) (eng : Option (Fin 11)) (s : State) : Out :=
  if s.f ch R.CH_SEM_WAITLIM_LIMIT == 0 || s.fenced then .next s
  else match eng with
    | none => if s.semBlocked ch jc then .next (s.trapPc ch jc stSemTimeout) else .next s
    | some e =>
      match (s.eq ch e).heads.find? (·.jc == jc.val) with
      | none => .next s
      | some h =>
        if s.waitsMet ch h.waits || (s.ctx ch jc).st == .preempted then .next s
        else
          let first := match h.waits.find? (fun w => (s.semAt ch w.1).count < needOf h.waits w.1) with
            | some w => w.1
            | none => 0
          let s := s.modQ ch e fun q => { q with waiting := q.waiting.filter (·.order != h.order) }
          .next (s.finish ch h stSemTimeout first 0 false)

/-- A host write of CH_SEM sets the count, and waiters are tested (R63, R64). -/
def execChSemWrite (ch : ChIdx) (sem : Fin 256) (val : BitVec 32) (s : State) : Out :=
  .next (s.chanWr ch (0x2000 + 4 * sem.val) fun s =>
    (s.modSem ch sem.val fun m => { m with count := val.toNat % 65536 }).semServe ch)

/-! ## CSRs and control (R44, R46, R48, R73, R99) -/

/-- The value of a CSR (Table 2.4); 0 for a number that is not in the table. CYCLES is a free value (log entry 3)
(log entry 29). -/
def State.csr (s : State) (ch : ChIdx) (jc : JcIdx) (num draw : Nat) : DWord :=
  let c := s.ctx ch jc
  match num with
  | 0 => BitVec.ofNat 64 jc.val
  | 1 => BitVec.ofNat 64 c.job.client
  | 2 => s.pkg.tick.num
  | 3 => Config.freeDWord draw
  | 4 => BitVec.ofNat 64 c.job.issued
  | 5 => BitVec.ofNat 64 c.job.done
  | 6 => c.job.seed
  | 7 => BitVec.ofNat 64 (s.place ch)
  | 8 => BitVec.ofNat 64 (s.node ch)
  | _ => 0

/-- CSRR: bits [20:16] must be zero (R46). -/
def execCsrr (ch : ChIdx) (jc : JcIdx) (rd : Fin 32) (rsv : BitVec 5) (num : BitVec 16) (s : State) : Out :=
  .next (s.scalar ch jc fun s =>
    if rsv ≠ 0 then s.trapPc ch jc stIllegalOp
    else
      let (d, s) := s.draw
      s.setRd ch jc rd (s.csr ch jc num.toNat d))

/-- FENCE: waits for every earlier wide instruction (0xF) or for the context's entries of one engine (0x0 to 0xA);
other values are reserved (R46). -/
def execFence (ch : ChIdx) (jc : JcIdx) (imm : BitVec 16) (s : State) : Out :=
  .next (s.scalar ch jc fun s =>
    let code := bits imm.toNat 3 0
    if bits imm.toNat 15 4 != 0 || (code != 0xF && 0xA < code) then s.trapPc ch jc stIllegalOp
    else if s.fenceMet ch jc code then (s.fenceLearn ch jc code).modX ch jc Ctx.next
    else s.modX ch jc fun c => { (c.enter .waitFence) with waitOn := .fence code })

/-- YIELD: the slice ends at once; this is not a pre-emption, and the begun quantum is charged (R96, R99). -/
def execYield (ch : ChIdx) (jc : JcIdx) (s : State) : Out :=
  .next (s.scalar ch jc fun s =>
    let s := s.modX ch jc Ctx.next
    if (s.ctx ch jc).sched.slice then
      (if (s.ctx ch jc).sched.busy then s.chargeOne ch jc else s).releaseSlice ch jc false false true
    else s)

/-- HALT: the context's stores drain, it enters HALTED, and the job ends when its entries and records have (R44). -/
def execHalt (ch : ChIdx) (jc : JcIdx) (s : State) : Out :=
  .next (s.scalar ch jc fun s =>
    match s.drainStores ch jc with
    | .error e => s.memFault ch jc e
    | .ok s => (s.modX ch jc fun c => { c with st := .halted }).tryEnd ch jc)

/-- TRAP: the job stops with status TRAP and the immediate as argument (R73). -/
def execTrap (ch : ChIdx) (jc : JcIdx) (imm : BitVec 16) (s : State) : Out :=
  .next (s.scalar ch jc fun s => s.scalarFault ch jc stTrap 0 imm.toNat)

end Sys2Proof.Machine
end

