-- ==== Sys2Proof/Machine/Issue.lean ====
section
/-! DEFINITION. The issue of a wide instruction: the checks of R58 in their order, and the entry that joins its engine's
queue (R49 to R58, R66, R70, R129, R154, R166, R174, R518, R521). -/

namespace Sys2Proof.Machine

open Sys2Proof

/-- An issue attempt: the state, the instruction with its snapshot of descriptors, its address, and, once they are
known, its resolved sizes. -/
structure Iss where
  s : State
  ch : ChIdx
  jc : JcIdx
  w : Wide
  td : Vector Desc 64
  pc : Nat
  size : List Int

/-- What the chapters say of one operation at issue. `paramBad` is the chapter's part of R51; `gov` gives for each shape
field the dimensions it governs; `rows` and `cols` are M and N of R59; `check` is the operation's own checks in their
order; `derived` gives extents that count as resolved sizes (R198); `atIssue` runs after the scalar stores drain and
gives what the entry keeps. -/
structure OpForm where
  preempt : Bool
  arr : Bool
  epiBad : Nat → Bool
  preds : Bool
  paramBad : Iss → Bool
  gov : Wide → List Gov
  written : Wide → List Nat
  lists : Wide → List Nat
  rows : Iss → Int
  cols : Iss → Int
  check : Iss → Option XErr
  derived : Iss → List Int
  atIssue : Iss → Try (State × List Nat)

/-- The descriptor of operand field `k`, when the field is valid. -/
def Iss.t (i : Iss) (k : Nat) : Option Tens := (wOpd i.w k).map (tensOf i.td)

/-- Operand field `k` is valid. -/
def Iss.has (i : Iss) (k : Nat) : Bool := (wOpd i.w k).isSome

/-- Resolved size `k`. -/
def Iss.sz (i : Iss) (k : Nat) : Int := i.size.getD k 1

/-- A status whose ARG is the instruction's address (Table 2.16). -/
def Iss.fault (i : Iss) (status : Nat) : XErr := xerr status i.pc

/-- A check: the fault when it fails. -/
def failIf (b : Bool) (e : XErr) : Option XErr := if b then some e else none

/-- Checks in order; the first failure counts. -/
def firstErr (l : List (Option XErr)) : Option XErr := l.findSome? id

/-- The valid operand fields among some, each governing one dimension. -/
def govOf (w : Wide) (l : List (Nat × Nat)) : Gov :=
  some (l.filterMap fun x => (wOpd w x.1).map fun n => (n, x.2))

/-! ## Encodings (R58, Table 2.5 to Table 2.7) -/

/-- The operations of an engine (Table 2.7). -/
def opsOf (eng : Nat) : List Nat :=
  if eng == 0 then [1, 2, 3, 0x10, 0x11, 0x12]
  else if eng == 1 then [1, 2, 3]
  else if eng == 2 then [1, 2, 3, 4]
  else if eng == 3 then [1, 2, 3, 4, 5]
  else if eng == 4 then [1, 2, 3, 4]
  else if eng == 5 then [1, 2]
  else if eng < 0xA then [1, 2]
  else if eng == 0xA then [1]
  else []

/-- Some field of the instruction is not a legal encoding. -/
def wideIllegal (w : Wide) : Bool :=
  wF w 31 26 != 0x3F || wF w 25 24 != 1 || wF w 511 506 != 0x3E || !(opsOf (wEng w)).contains (wOp w) ||
    (List.range 4).any (fun i => bits (wShp w i) 23 22 == 3) || bits (wRpred w) 31 30 == 3 || bits (wCpred w) 31 30 == 3 ||
    wRnd w == 3 || 0xC ≤ wAct w || 5 ≤ wGates w || 5 ≤ wGform w

/-- A wait or signal with EN = 1 and a count of 0 (R60). -/
def semIllegal (w : Wide) : Bool :=
  [320, 338, 356, 374].any fun lo => match semField w lo with
    | some (_, k) => k == 0
    | none => false

/-- The PARAM_INVALID step of R58 (R51, R59, R521, CH_JC_CQ_HI, log entry 33). -/
def Iss.paramErr (i : Iss) (f : OpForm) : Bool :=
  (bit i.w.toNat 11 && !f.preempt) || (wArr i.w && !f.arr) || f.epiBad (wEpi i.w) ||
    (!f.preds && (bits (wRpred i.w) 31 30 != 0 || bits (wCpred i.w) 31 30 != 0)) ||
    predBad (wRpred i.w) || predBad (wCpred i.w) ||
    (bit i.w.toNat 10 && !i.s.cqOn i.ch i.jc) ||
    (((List.range 4).zip (f.gov i.w)).any fun x => shapeBad (wShp i.w x.1) x.2) ||
    f.paramBad i

/-! ## The descriptor step (R52 to R54, R129, R166) -/

/-- One operand's descriptor: DESC_INVALID, then WRITE_RO, then ARWS_OWNER, for the tensor and its scale pair. The load/store
engines move a coded region as it is (R305). -/
def Iss.operandErr (i : Iss) (n : Nat) (written lists : Bool) : Option XErr :=
  let t := tensOf i.td n
  firstErr [
    failIf (t.bad written lists || (!(6 ≤ wEng i.w && wEng i.w < 0xA) && i.s.codedBad i.ch t)) (xdesc 0x14 n),
    (t.scaleBad i.td written).map (xdesc 0x14),
    failIf (written && t.ro) (xdesc 0x24 n),
    match t.scale i.td with
    | none => none
    | some sc => failIf (written && sc.ro) (xdesc 0x24 sc.n),
    failIf (i.s.ownerBad i.ch i.jc.val t written) (xdesc 0x25 n),
    match t.scale i.td with
    | none => none
    | some sc => failIf (i.s.ownerBad i.ch i.jc.val sc written) (xdesc 0x25 sc.n)]

/-- The gate inputs of a wide instruction: descriptors GIN to GIN + GATES - 1 (R175). -/
def gatesOf (w : Wide) : List Nat :=
  match wGin w with
  | none => []
  | some g => ((List.range (wGates w)).filter (fun j => g + j < 64)).map (g + ·)

/-- The descriptors that the operand fields and STAT name: index, written, page list allowed. STAT is written under SMAX or
RMS. -/
def fieldsOf (w : Wide) (written lists : List Nat) : List (Nat × Bool × Bool) :=
  ((List.range 6).filterMap fun k => (wOpd w k).map fun n => (n, written.contains k, lists.contains k)) ++
    (wStat w).toList.map fun n => (n, bit (wEpi w) 8 || bit (wEpi w) 9, false)

/-- The descriptors a wide instruction names: index, written, page list allowed. -/
def namedOf (w : Wide) (written lists : List Nat) : List (Nat × Bool × Bool) :=
  fieldsOf w written lists ++ (gatesOf w).map fun n => (n, false, false)

/-- The bitmap of a predicate: a valid descriptor of INT32 and rank 1 (R59). -/
def Iss.mapErr (i : Iss) (p : Nat) : Option XErr :=
  match predMap p with
  | none => none
  | some n => firstErr [i.operandErr n false false, failIf (predDescBad i.td p 0).isSome (xdesc 0x14 n)]

/-- The descriptor of a gate input: one behind GIN whose VALID is 0 is left to EP_OPERAND (R175). -/
def Iss.gateErr (i : Iss) (n : Nat) : Option XErr :=
  if wGin i.w != some n && !(tensOf i.td n).valid then none else i.operandErr n false false

/-- The descriptor step of R58. The checks of a predicate's bitmap follow those of the operands; a bitmap that is not INT32 of
rank 1 is invalid (DESIGN CHOICE, log entry 84). -/
def Iss.descErr (i : Iss) (f : OpForm) : Option XErr :=
  firstErr (((fieldsOf i.w (f.written i.w) (f.lists i.w)).map fun x => i.operandErr x.1 x.2.1 x.2.2) ++
    (gatesOf i.w).map i.gateErr ++ [i.mapErr (wRpred i.w), i.mapErr (wCpred i.w)])

/-! ## Sizes (R56, R521) -/

/-- The four resolved sizes. -/
def Iss.resolve (i : Iss) (f : OpForm) : List Int :=
  ((List.range 4).zip (f.gov i.w)).map fun x => resolveShape i.td (i.s.ctx i.ch i.jc) (wShp i.w x.1) x.2

/-- The first size that exceeds an extent it governs (log entry 34). -/
def Iss.overErr (i : Iss) (f : OpForm) : Option XErr :=
  (i.size.zip (f.gov i.w)).findSome? fun x => (shapeOver i.td x.1 x.2).map fun n => ⟨0x10, low32 x.1, n, false⟩

/-- The first size or derived extent that is zero or negative: ARG of ZERO_SHAPE (R57, Table 2.16). -/
def Iss.zeroArg (i : Iss) (f : OpForm) : Option Nat := ((i.size ++ f.derived i).find? (· ≤ 0)).map low32

/-- Every check of R58 from the encoding step to the operation's own checks. A bitmap's length is tested after SHAPE_OVER,
since it needs the resolved sizes (DESIGN CHOICE, log entry 84). -/
def Iss.checks (i : Iss) (f : OpForm) : Except XErr Iss :=
  if i.pc % 64 != 0 then .error (i.fault 0x13)
  else if wideIllegal i.w then .error (i.fault 0x12)
  else if semIllegal i.w then .error (i.fault 0x16)
  else if i.paramErr f then .error (i.fault 0x15)
  else match i.descErr f with
    | some e => .error e
    | none =>
      let i := { i with size := i.resolve f }
      let bitmaps := [(wRpred i.w, f.rows i), (wCpred i.w, f.cols i)].findSome? fun x =>
        (predDescBad i.td x.1 x.2).map (xdesc 0x14)
      match firstErr [i.overErr f, bitmaps, f.check i] with
      | some e => .error e
      | none => .ok i

/-! ## The queue (R66, R67) -/

/-- A queue has an entry free for a context: one of its 2 reserved ones, or one of the 32 shared (R66). -/
def EngQ.room (q : EngQ) (jc : JcIdx) : Bool :=
  let n (j : Nat) := (q.all.filter (·.jc == j)).length
  n jc.val < 2 || ((List.range 16).map fun j => n j - 2).sum < 32

/-- The fault of an issue, with DENIED counted for ARWS_OWNER (CH_ARWS_STAT). -/
def State.issueErr (s : State) (ch : ChIdx) (jc : JcIdx) (w : Wide) (e : XErr) : State :=
  let s := if e.status == 0x25 then s.satF ch R.CH_ARWS_STAT_DENIED 1 else s
  s.issueFault ch jc w e.status e.td e.arg

/-- FULL_STALLS of the engine's CH_QSTAT. -/
def fullStalls (eng : Nat) : Fld := ⟨0x0400 + 4 * eng, 19, 12⟩

/-- An instruction that passed every check joins its queue, or its context waits in WAIT_QUEUE (R58, R66). -/
def State.enter (s : State) (i : Iss) (f : OpForm) : State :=
  match f.atIssue { i with s := s } with
  | .error e => if e.waits then s else s.issueErr i.ch i.jc i.w e
  | .ok (s', aux) =>
    let eng := engOf (wEng i.w)
    if !(s.eq i.ch eng).room i.jc then
      let s := if (s.ctx i.ch i.jc).st == .waitQueue then s else s.satF i.ch (fullStalls eng.val) 1
      s.modX i.ch i.jc fun c => { c with st := .waitQueue, wide := i.w }
    else
      let c := s.ctx i.ch i.jc
      let e : Entry := ⟨i.jc.val, eng.val, i.w, i.td, i.size, c.job.issued, (s.chan[i.ch]).sched.order, i.zeroArg f, aux,
        0, false, false, false, 0, false, false, none, [], 0, false, []⟩
      let s := s'.modQ i.ch eng fun q => { q with waiting := q.waiting ++ [e] }
      let s := s.modC i.ch fun c => { c with sched := { c.sched with order := c.sched.order + 1 } }
      s.modX i.ch i.jc fun c =>
        { c with st := .run, pc := c.pc + 64, job := { c.job with issued := c.job.issued + 1 } }

/-- One attempt at a wide instruction: its 64 bytes are fetched, it is checked, the context's stores drain, and it
enters its queue (R49, R58, R70). -/
def State.attempt (s : State) (ch : ChIdx) (jc : JcIdx) (w : Wide) (f : OpForm) : State :=
  let pc := (s.ctx ch jc).pc.toNat
  let s := s.issued ch jc
  match s.vaRead ch pc 64 with
  | .error e => s.memFault ch jc e
  | .ok _ =>
    let s := s.tlbFill ch pc
    match Iss.checks ⟨s, ch, jc, w, (s.ctx ch jc).td, s.pcArg ch jc, []⟩ f with
    | .error e => s.issueErr ch jc w e
    | .ok i =>
      match s.drainStores ch jc with
      | .error e => s.memFault ch jc e
      | .ok s => s.enter i f

/-- The issue of a wide instruction by the scalar thread. -/
def State.issueWide (s : State) (ch : ChIdx) (jc : JcIdx) (w : Wide) (f : OpForm) : State :=
  if s.canIssue ch jc then s.attempt ch jc w f else s

/-- A wide instruction with its ENG and OP fields set to a command's own. -/
def asOp (eng op : Nat) (w : Wide) : Wide :=
  BitVec.ofNat 512 (putBits (putBits w.toNat 23 20 eng) 19 12 op)

/-- A wide instruction with PARAM bits `hi` to `lo` set to a command's own mode. -/
def asMode (hi lo v : Nat) (w : Wide) : Wide := BitVec.ofNat 512 (putBits w.toNat (392 + hi) (392 + lo) v)

/-! ## Parts of an operation's form -/

/-- No epilogue stage: EPI must be 0 (R51). -/
def epiNone (epi : Nat) : Bool := epi != 0

/-- RND alone (Table 6.1). -/
def epiRnd (epi : Nat) : Bool := epi - bits epi 7 6 * 64 != 0

/-- Every field of EPI is allowed. -/
def epiAny (_ : Nat) : Bool := false

/-- A form without predicates, derived extents or work at issue; the operation's chapter changes what it needs. -/
def plainForm (preempt : Bool) (paramBad : Iss → Bool) (gov : Wide → List Gov) (written : List Nat)
    (check : Iss → Option XErr) : OpForm :=
  ⟨preempt, false, epiNone, false, paramBad, gov, fun _ => written, fun _ => [], fun i => i.sz 0, fun i => i.sz 1, check,
    fun _ => [], fun i => .ok (i.s, [])⟩

end Sys2Proof.Machine
end

