-- ==== Sys2Proof/Machine/Run.lean ====
section
/-! DEFINITION. How an entry starts, passes its boundaries and completes (R57, R67, R68, R73, R129, R130, R136, R142,
R290, R471, R482, R483, R510). -/

namespace Sys2Proof.Machine

open Sys2Proof

/-- What the chapters say of one operation in execution. `setup` is its start cost, told whether the entry resumes; `cls` the class of its array passes; `tile` the rows and columns of
the outputs of its next pass on the array; `start` its start checks and what it takes then;
`before` what precedes a pass and is not repeated by a rerun (R273); `pass` the work of pass `Entry.pass`, given the
reruns it needed; `done` what closes it, with its status. -/
structure OpRun where
  setup : Entry → Bool → Nat
  cls : State → ChIdx → Entry → Nat
  passes : State → ChIdx → Entry → Nat
  tile : State → ChIdx → Entry → Nat × Nat
  start : State → ChIdx → Entry → Try (State × Entry)
  before : State → ChIdx → Entry → Try (State × Entry)
  pass : State → ChIdx → Entry → Nat → State × Entry × Option XErr
  done : State → ChIdx → Entry → State × Entry × Nat

/-- A pass that faults leaves the state as it found it. -/
def ofTry (s : State) (e : Entry) (r : Try (State × Entry)) : State × Entry × Option XErr :=
  match r with
  | .ok (s, e) => (s, e, none)
  | .error x => (s, e, some x)

/-- An operation of one pass without start checks. -/
def onePass (pass : State → ChIdx → Entry → Nat → State × Entry × Option XErr) : OpRun :=
  ⟨fun _ _ => 0, fun _ _ _ => 1, fun _ _ _ => 1, fun _ _ _ => (0, 0), fun s _ e => .ok (s, e),
    fun s _ e => .ok (s, e), pass, fun s _ e => (s, e, 0)⟩

/-! ## The array -/

/-- The mode in which the entry holds the array: RC. products run in marver mode (R282). -/
def Entry.marver (e : Entry) : Bool := e.eng == 3 || wArr e.word

/-- Update the array beside its registers. -/
def State.modMx (s : State) (ch : ChIdx) (f : MxSt → MxSt) : State := s.modC ch fun c => { c with mx := f c.mx }

/-- The VMAIN step of a pass, in mA at the present voltage (Table 4.8). -/
def State.stepMa (s : State) (cls : Nat) : Nat :=
  ceilDiv ((if cls == 1 then 250 else if cls == 2 then 215 else 190) * 1000000) (max 1 s.pkg.vmainMv)

/-- A pass start would take the package past 75 A (R471). -/
def State.currentHeld (s : State) (cls : Nat) : Bool := 75000 < s.pkg.current + s.pkg.granted + s.stepMa cls

/-- Pass starts are held by the cap of an EFFICIENT partition or by ALERT_N (R482, R483). -/
def State.capHeld (s : State) (ch : ChIdx) : Bool :=
  ((s.chan[ch]).power.capped && decide ((s.chan[ch]).power.credit < 0)) ||
    (s.pkg.fld R.HUB_PIN_STAT_ALERT_ACT == 1 && s.pkg.fld R.HUB_PIN_STAT_ALERT_STUCK == 0)

/-- The next pass of an entry starts, unless an array pass start is held (R471, R482, R483, R510). CH_MX_STAT shows its class
and index from then on (R138). -/
def State.startPass (s : State) (ch : ChIdx) (e : Entry) (run : OpRun) : State × Entry :=
  if !e.array then (s, { e with going := true })
  else
    let cls := run.cls s ch e
    if (s.chan[ch]).power.thermHold || s.capHeld ch || s.currentHeld cls then (s, { e with going := false })
    else ((s.modP fun p => { p with granted := p.granted + s.stepMa cls }).modMx ch fun m => { m with cls := cls, pass := e.pass },
      { e with going := true })

/-! ## Starting (R67) -/

/-- The descriptor of an entry, or its scale, whose owner check fails (R129). -/
def State.ownerErr (s : State) (ch : ChIdx) (e : Entry) (f : OpForm) : Option XErr :=
  (namedOf e.word (f.written e.word) (f.lists e.word) ++
      ((predMap (wRpred e.word)).toList ++ (predMap (wCpred e.word)).toList).map fun n => (n, false, false)).findSome?
    fun x =>
      let t := tensOf e.td x.1
      firstErr [failIf (s.ownerBad ch e.jc t x.2.1) (xdesc 0x25 x.1),
        match t.scale e.td with
        | none => none
        | some sc => failIf (s.ownerBad ch e.jc sc x.2.1) (xdesc 0x25 sc.n)]

/-- The fill of the array (R136), and the array taken: its mode, and no drain when it was idle (R134). -/
def State.takeArray (s : State) (ch : ChIdx) (e : Entry) (b2b : Bool) : Nat × State :=
  if !e.array then (0, s)
  else
    let m := (s.chan[ch]).mx
    let fill := if b2b && !e.stopped && m.mode == some e.marver then 16 else if e.marver then 288 else 64
    (fill, s.modMx ch fun m => { m with mode := some e.marver, drain := if b2b then m.drain else 0 })

/-- A ZERO_SHAPE no-op leaves the array as it found it: untouched while an RC entry holds it, else held or idle; while the
no-op holds the MX engine the drain runs on (R57). -/
def State.noopArray (s : State) (ch : ChIdx) (e : Entry) (b2b : Bool) : State :=
  if e.eng != 0 || !s.arrayFree ch then s
  else s.modMx ch fun m => if b2b then { m with drain := m.drain - 8 } else { m with mode := none, drain := 0 }

/-! ## Ends -/

/-- The engine of an entry runs nothing. -/
def State.leave (s : State) (ch : ChIdx) (e : Entry) : State := s.modQ ch (engOf e.eng) fun q => { q with run := none }

/-- An entry ends on a fault met at start or in execution. -/
def State.entryFault (s : State) (ch : ChIdx) (e : Entry) (x : XErr) (partly : Bool) : State :=
  let s := if x.status == 0x25 then s.satF ch R.CH_ARWS_STAT_DENIED 1 else s
  let s := if x.status == 0x77 then s.satF ch R.CH_RC_STAT_BADREC 1 else s
  let s := if x.wcode then s.post (srcOf ch (0x010 + e.eng)) .wcodeBad [] else s
  (s.leave ch e).finish ch e x.status x.arg x.td partly

/-! ## Passes (R68, R73, R142) -/

/-- The cluster that holds an output of a tile (Table 4.3): cluster row and column. -/
def clusterOf (marver : Bool) (cls r c : Nat) : Nat × Nat :=
  let q := if cls == 1 then c / 32 else c / 16
  if marver then (8 * (r % 2) + q / 32, q % 32) else (r % 16, q)

/-- The sites of that cluster which hold the output: site rows and columns (Table 4.3). -/
def sitesOf (marver : Bool) (cls r c : Nat) : List (Nat × Nat) :=
  let row := if marver then r / 2 else r / 16
  let rows := if cls == 4 then [2 * row, 2 * row + 1] else [row]
  let cols := if cls == 1 then [c % 32] else [2 * (c % 16), 2 * (c % 16) + 1]
  rows.flatMap fun i => cols.map fun j => (i, j)

/-- A cluster holds an output of a tile of `t.1` rows and `t.2` columns (R123). Rows repeat after 16 cluster rows. -/
def holdsOutput (marver : Bool) (cls : Nat) (t : Nat × Nat) (k : Fin 16 × Fin 32) : Bool :=
  (List.range (min t.1 16)).any fun r => (List.range t.2).any fun c => clusterOf marver cls r c == (k.1.val, k.2.val)

/-- What the mismatching clusters of each attempt do to a pass: the reruns, and the cluster that failed twice running (R142).
An attempt without one ends the list. -/
def residues : List (List (Fin 16 × Fin 32)) → Nat × Option (Fin 16 × Fin 32)
  | [] => (0, none)
  | [a] => (if a.isEmpty then 0 else 1, none)
  | a :: b :: rest =>
    if a.isEmpty then (0, none)
    else match b.find? a.contains with
      | some c => (1, some c)
      | none => let (n, f) := residues (b :: rest); (n + 1, f)

/-- CH_MX_RESIDUE names the last mismatch. -/
def State.noteResidue (s : State) (ch : ChIdx) (c : Fin 16 × Fin 32) : State :=
  s.modC ch fun k => ((k.setFld R.CH_MX_RESIDUE_ROW c.1.val).setFld R.CH_MX_RESIDUE_COL c.2.val).setFld
    R.CH_MX_RESIDUE_VALID 1

/-- The records of the clusters that a pass recovered from (R142, R430). -/
def State.residueCe (s : State) (ch : ChIdx) (l : List (Fin 16 × Fin 32)) : State :=
  l.foldl (fun (s : State) c => s.faultCe 4 (keyCluster ch c.1.val c.2.val)) s

/-- Cycles in which a pass computed (CH_MX_ACT). -/
def State.noteAct (s : State) (ch : ChIdx) (n : Nat) : State :=
  let t := (s.chan[ch]).mx.act + n
  (s.incF ch R.CH_MX_ACT_ACT (t / 1024)).modMx ch fun m => { m with act := t % 1024 }

/-- A pass fails twice in one cluster: it has computed for `n` cycles and nothing of it is drained, the entry ends with
ARRAY_FAULT and the event is uncorrectable against the cluster (R142, Table 2.16). -/
def State.arrayFault (s : State) (ch : ChIdx) (e : Entry) (c : Fin 16 × Fin 32) (n : Nat) : State :=
  let s := ((s.noteAct ch n).modMx ch fun m => { m with drain := 0 }).satF ch R.CH_MX_RESIDUE_UE 1
  let arg := c.1.val + c.2.val * 16 + min e.pass 65535 * 2 ^ 16
  (s.entryFault ch e (xerr 0x43 arg) true).faultUe 4 (keyCluster ch c.1.val c.2.val) 0x43

/-- An entry stands at a pass boundary: it stops when its context is stopping or PREEMPTED and P is 1 (R68, R73, R104). -/
def State.passBoundary (s : State) (ch : ChIdx) (e : Entry) (run : OpRun) : State :=
  let eng := engOf e.eng
  let st := (s.ctx ch (jcOf e.jc)).st
  if e.p && (st == .faulted || st == .killing) then
    (s.leave ch e).finish ch e (if st == .killing then 3 else 2) 0 0 true
  else if e.p && st == .preempted then
    let e := { e with stopped := true, yielded := true }
    (s.modQ ch eng fun q => { q with run := none, parked := q.parked ++ [e] }).settle ch (jcOf e.jc)
  else
    let (s, e) := s.startPass ch e run
    s.modQ ch eng fun q => { q with run := some e }

/-- The reads of an operand in device virtual memory go through the translation cache, the regulators and the tier cache, and
are counted, once for an entry (R306, R319, R322, R327, log entry 22). -/
def State.touchTens (s : State) (ch : ChIdx) (t : Tens) : State :=
  if t.space != 0 then s else t.rows.foldl (fun (s : State) o => s.vaTouch ch (t.base + o) t.rowBytes) s

/-- The reads of an entry's operands. The range of WRITEBACK and PREFETCH is no operand that is read (R334), and OPD4 and OPD5 of
GT.DECODE are written. -/
def State.touchOps (s : State) (ch : ChIdx) (e : Entry) : State :=
  let range := 6 ≤ e.eng && e.eng < 0xA && e.op == 1 && wPar e.word 1 0 != 0
  let ns := if range then [] else (if e.eng == 0xA then [0, 1, 2] else [0, 1, 2, 4, 5]).filterMap (wOpd e.word)
  ns.foldl (fun (s : State) n =>
    let t := tensOf e.td n
    let s := s.touchTens ch t
    match t.scale e.td with
    | some sc => s.touchTens ch sc
    | none => s) s

/-- Bytes that an entry's outputs share with its own inputs, or that entries without order touch, become unpredictable when it
has run (R69, R127, R334). -/
def State.blurOps (s : State) (ch : ChIdx) (e : Entry) : State :=
  let t (k : Nat) : List Tens := ((wOpd e.word k).map (tensOf e.td)).toList
  let s := if e.eng == 0 && e.op < 0x10 then s.overlap ch e (tensOf e.td ((wOpd e.word 3).getD 0)) (t 2).head? (t 0 ++ t 1)
    else if 6 ≤ e.eng && e.eng ≤ 9 && e.op == 1 then s.overlap ch e (tensOf e.td ((wOpd e.word 3).getD 0)) none (t 0)
    else s
  s.race ch e.order

/-- An entry has run its last pass. -/
def State.complete (s : State) (ch : ChIdx) (e : Entry) (run : OpRun) : State :=
  let (s, e, status) := run.done ((s.touchOps ch e).blurOps ch e) ch e
  (s.leave ch e).finish ch e status 0 0 false

/-- One pass of the entry that runs on an engine, held until it may start, and while a page of it waits for the T2 link (R311);
`last` says that the pass may be the last. -/
def State.advance (s : State) (ch : ChIdx) (eng : Fin 11) (run : OpRun) (last : Bool) (stall : Nat)
    (upsets : List (List (Fin 16 × Fin 32))) : State :=
  match (s.eq ch eng).run with
  | none => s
  | some e =>
    let s0 := s
    let n := run.passes s ch e
    if !last && n ≤ e.pass + 1 then s
    else
      let (s, e) := if e.going then (s, e) else s.startPass ch e run
      if !e.going then s
      else
        let tries := if e.array then upsets.map (·.filter (holdsOutput e.marver (run.cls s ch e) (run.tile s ch e))) else []
        let (reruns, twice) := residues tries
        let hits := (tries.take (reruns + (if twice.isSome then 1 else 0))).flatten
        let s := hits.foldl (fun (s : State) c => s.noteResidue ch c) s
        match run.before s ch e with
        | .error x => if x.waits then s0 else s.entryFault ch e x true
        | .ok (s, e) =>
          let (s', e', bad) := run.pass s ch e reruns
          let spent (x : Entry) : Entry := { x with cyc := x.cyc + stall }
          match twice with
          | some c => s.arrayFault ch { (spent e) with cyc := e'.cyc + stall } c (e'.cyc - e.cyc)
          | none =>
            let s := if hits.isEmpty then s' else s'.satF ch R.CH_MX_RESIDUE_CE 1
            match bad with
            | some x => if x.waits then s0 else (s.entryFault ch (spent e') x true).residueCe ch hits
            | none =>
              let e := { (spent e') with pass := e.pass + 1 }
              let s := if e.pass < n then s.passBoundary ch e run else s.complete ch e run
              s.residueCe ch hits

/-- Passes run until the entry completes, stops at a boundary, faults or is held. -/
def State.advanceAll (s : State) (ch : ChIdx) (eng : Fin 11) (run : OpRun) (order : Nat) : Nat → State
  | 0 => s
  | fuel + 1 =>
    match (s.eq ch eng).run with
    | none => s
    | some e => if e.order != order || !e.going then s else State.advanceAll (s.advance ch eng run true 0 []) ch eng run order fuel

end Sys2Proof.Machine
end

