-- ==== Sys2Proof/Machine/Epilogue.lean ====
section
/-! DEFINITION. The epilogue pipeline: its stages behind an array pass, and the stand-alone operations EP.MAP, EP.REDUCE
and EP.SAMPLE (R160, R170 to R192). -/

namespace Sys2Proof.Machine

open Sys2Proof

/-! ## Sources and rates (R135, R187, R317) -/

/-- Bytes by source: 1 local store, 2 ARWS, 3 T1, 4 T2, 5 T3. -/
abbrev Feed := List (Nat × Nat)

/-- The source of the granule at a device virtual address (Table 11.5). -/
def State.sourceVa (s : State) (ch : ChIdx) (va : Nat) : Nat :=
  match s.translate ch va with
  | .error _ => 3
  | .ok (l, a) =>
    if s.cached ch va l && (s.tcLine ch l.tier (a / 4096)).isSome then 3
    else match l.tier with
      | .t1 => 3
      | .t2 => 4
      | .t3 => 5

/-- Bytes per CLK_ARR cycle of a source (Table 4.6, Table 11.5). -/
def State.rate (s : State) (ch : ChIdx) (src : Nat) : Nat :=
  if src ≤ 2 then 4096
  else if src == 3 then 2000
  else if src == 4 then (if (s.imgCh ch).any (·.ide) then 89 else 92)
  else 54

/-- Bytes added to a source. -/
def Feed.add (f : Feed) (src n : Nat) : Feed :=
  if n == 0 then f
  else if f.any (·.1 == src) then f.map fun x => if x.1 == src then (x.1, x.2 + n) else x
  else f ++ [(src, n)]

/-- Two feeds together. -/
def Feed.join (f g : Feed) : Feed := g.foldl (fun (f : Feed) x => f.add x.1 x.2) f

/-- Cycles of the slowest source. -/
def State.feedCycles (s : State) (ch : ChIdx) (f : Feed) : Nat :=
  (f.map fun x => ceilDiv x.2 (s.rate ch x.1)).foldl max 0

/-- Bytes of `n` elements of a tensor. -/
def Tens.bytesOf (t : Tens) (n : Nat) : Nat := ceilDiv (n * fmtBits t.fmt) 8

/-- `n` bytes at an address of a space join a feed, granule by granule in device virtual memory (R135, R317). -/
def State.feedBytes (s : State) (ch : ChIdx) (space addr n : Nat) (f : Feed) : Feed :=
  if space == 1 || space == 2 then f.add space n
  else (List.range (ceilDiv (addr % 4096 + n) 4096)).foldl (fun (f : Feed) k =>
    let lo := max addr ((addr / 4096 + k) * 4096)
    f.add (s.sourceVa ch lo) (min (addr + n) ((addr / 4096 + k + 1) * 4096) - lo)) f

/-- `n` elements of a row from element `x.1` on join a feed, as they are stored. -/
def State.feedRaw (s : State) (ch : ChIdx) (t : Tens) (x : Idx) (n : Nat) (f : Feed) : Feed :=
  let b := fmtBits t.fmt
  s.feedBytes ch t.space (t.base + t.rowOff x + x.1 * b / 8) (ceilDiv (x.1 * b % 8 + n * b) 8) f

/-- The coded units that hold `n` bytes of a coded tensor from offset `off` on join a feed (R166). -/
def State.feedUnits (s : State) (ch : ChIdx) (t : Tens) (off n : Nat) (f : Feed) : Feed :=
  (List.range (ceilDiv (off % 1024 + n) 1024)).foldl (fun (f : Feed) k =>
    match s.unitPlace ch t.base (off / 1024 + k) with
    | .ok (_, addr, size) => s.feedBytes ch 0 addr size f
    | .error _ => f) f

/-- Runs of `n` elements of an operand from element `x0` on, one for each of `places`, and their scales join a feed (R135). -/
def State.feedRows (s : State) (ch : ChIdx) (td : Vector Desc 64) (t : Tens) (x0 : Nat) (places : List (Nat × Nat × Nat))
    (n : Nat) (f : Feed) : Feed :=
  let coded := s.coded ch t
  let fb := fmtBlock t.fmt
  places.foldl (fun (f : Feed) p =>
    let f := if coded then s.feedUnits ch t (t.rowOff (x0, p) + x0 / 2) (ceilDiv (x0 % 2 + n) 2) f
      else s.feedRaw ch t (x0, p) n f
    match t.scale td with
    | none => f
    | some sc => if n == 0 then f else s.feedRaw ch sc (x0 / fb, p) ((x0 + n - 1) / fb + 1 - x0 / fb) f) f

/-- The places (m, 0, 0) of `n` rows from `m0` on. -/
def rowPlaces (m0 n : Nat) : List (Nat × Nat × Nat) := (List.range n).map fun i => (m0 + i, 0, 0)

/-! ## The issue checks of R173 to R177 and R192 -/

/-- A bias, scale or gate format. -/
def sideFmt (d : Nat) : Bool := d == 8 || d == 9 || d == 0xA

/-- Two descriptors name the same bytes, format and layout (R127, R176). -/
def Tens.same (a b : Tens) : Bool :=
  a.space == b.space && a.fmt == b.fmt && a.rank == b.rank && a.base == b.base && a.ext == b.ext && a.str == b.str

/-- Bias or per-column scale breaks R173. -/
def sideBad (on : Bool) (t : Option Tens) (n : Int) : Bool :=
  match t with
  | none => on
  | some t => !on || t.rank != 0 || ((t.dim 0 : Nat) : Int) < n || !sideFmt t.fmt

/-- The number of gate inputs is outside the range of the form (Table 6.5). -/
def gformBad (form g : Nat) : Bool :=
  if form == 0 then g == 0
  else if form == 1 || form == 4 then g != 1
  else if form == 2 then g < 2 || 3 < g
  else g < 3

/-- The gate stage breaks R175 or R176. -/
def gateBad (td : Vector Desc 64) (w : Wide) (d : Option Tens) (m n : Int) : Bool :=
  let g := wGates w
  if g == 0 then false
  else match wGin w with
    | none => true
    | some gin =>
      gformBad (wGform w) g || 63 < gin + g - 1 ||
        (List.range g).any (fun j =>
          let t := tensOf td (gin + j)
          !t.valid || !(sideFmt t.fmt || t.fmt == 0xC) || ((t.dim 0 : Nat) : Int) < n || ((t.dim 1 : Nat) : Int) < m) ||
        match d with
        | none => false
        | some d => d.fmt == 0xC &&
          !((wGform w == 2 && d.same (tensOf td (gin + 1))) || (wGform w == 3 && d.same (tensOf td (gin + 2))))

/-- A statistics tensor breaks R177. -/
def statTensBad (t : Tens) (m : Int) : Bool :=
  t.fmt != 0xA || t.rank != 1 || t.dim 0 != 4 || ((t.dim 1 : Nat) : Int) < m || !(t.space == 0 || t.space == 1)

/-- STAT breaks R177; `wanted` says whether the operation takes one. -/
def statBad (td : Vector Desc 64) (w : Wide) (wanted : Bool) (m : Int) : Bool :=
  match wStat w with
  | none => wanted
  | some n => !wanted || statTensBad (tensOf td n) m

/-- SMAX or RMS is selected. -/
def wStats (w : Wide) : Bool := bit (wEpi w) 8 || bit (wEpi w) 9

/-- The checks of R192 for an epilogue stage with `m` rows and `n` columns. -/
def Iss.epErr (i : Iss) (m n : Int) (d : Option Tens) : Option XErr :=
  firstErr [
    failIf (sideBad (bit (wEpi i.w) 0) (i.t 4) n || sideBad (bit (wEpi i.w) 1) (i.t 5) n || gateBad i.td i.w d m n ||
      statBad i.td i.w (wStats i.w) m) (i.fault 0x50),
    failIf (d.any fun t => t.fmt == 0xE || t.fmt == 0xF) (i.fault 0x51)]

/-! ## Draws (R160) -/

/-- The channel's rank in its partition, 0 when it has none (R160, R459). -/
def State.rank (s : State) (ch : ChIdx) : Nat :=
  match s.part ch with
  | some p => match p.list.findIdx? (· == s.node ch) with
    | some i => i
    | none => 0
  | none => 0

/-- SEED of an entry's job. -/
def State.seed (s : State) (ch : ChIdx) (e : Entry) : Nat := (s.ctx ch (jcOf e.jc)).job.seed.toNat

/-- The rounding of output element `i` of an entry. -/
def State.rndAt (s : State) (ch : ChIdx) (e : Entry) (i : Nat) : Rnd :=
  let mode := wRnd e.word
  ⟨mode, if mode == 2 then drawWord (s.seed ch e) 0 i e.seq (s.rank ch) else 0⟩

/-! ## Gates (Table 6.5) -/

/-- The gate stage: its result, and the increment of R176 for BLEND and CELL. -/
def gateForm (form act : Nat) (p : Num) (x : List Num) : Num × Num :=
  let y (j : Nat) : Num := x.getD j (.zero false)
  if form == 0 then (Machine.act act (x.foldl add32 p), .zero false)
  else if form == 1 then (mul32 (Machine.act act p) (y 0), .zero false)
  else if form == 2 then
    let c := Machine.act act (if x.length == 3 then add32 p (y 2) else p)
    let d := mul32 (fnSigmoid (y 0)) (sub32 c (y 1))
    (add32 (y 1) d, d)
  else if form == 3 then
    let a := Machine.act act (if x.length == 4 then add32 p (y 3) else p)
    let z := mul32 (fnSigmoid (y 1)) a
    (add32 (mul32 (fnSigmoid (y 0)) (y 2)) z, add32 (mul32 (sub32 (fnSigmoid (y 0)) .one) (y 2)) z)
  else (mul32 (fnSigmoid (y 0)) (Machine.act act p), .zero false)

/-! ## Statistics (R177 to R179) -/

/-- The statistics of a row: m, l, q and k. -/
structure RowStat where
  m : Num
  l : Num
  q : Num
  k : Nat
  deriving DecidableEq, Repr

/-- The initial values. -/
def RowStat.init : RowStat := ⟨.inf true, .zero false, .zero false, 0⟩

/-- One term of l: exp(v - m), nothing for -∞. -/
def smaxTerm (mn l v : Num) : Num := if v == .inf true then l else add32 l (fnExp (sub32 v mn))

/-- The update of R178 over the active values of a row. -/
def RowStat.smax (r : RowStat) (vs : List Num) : RowStat :=
  if vs.any (fun v => v.isNan || v == .inf false) then { r with m := .nan, l := .nan }
  else if r.m.isNan then r
  else
    let mn := vs.foldl Num.max r.m
    let l := if r.m.lt mn then mul32 r.l (fnExp (sub32 r.m mn)) else r.l
    { r with m := mn, l := vs.foldl (smaxTerm mn) l }

/-- The update of R178 and R179 for one row and one pass. -/
def RowStat.update (r : RowStat) (smax rms : Bool) (vs : List Num) : RowStat :=
  let r := if smax then r.smax vs else r
  let r := if rms then { r with q := vs.foldl (fun q v => add32 q (mul32 v v)) r.q } else r
  { r with k := satAdd (2 ^ 32 - 1) r.k vs.length }

/-- Row `m` of a statistics tensor. -/
def State.statRow (s : State) (ch : ChIdx) (t : Tens) (m : Nat) : Try RowStat := do
  let c ← tryMap (fun i => s.code ch t (i, m, 0, 0)) [0, 1, 2, 3]
  let f (i : Nat) : Num := fFP32.val (c.getD i 0)
  .ok ⟨f 0, f 1, f 2, c.getD 3 0⟩

/-- Row `m` of a statistics tensor written. -/
def State.putStat (s : State) (ch : ChIdx) (t : Tens) (m : Nat) (r : RowStat) : Try State :=
  s.putCodes ch t (0, m, 0, 0) [r.m.w32, r.l.w32, r.q.w32, r.k]

/-! ## The stages (Table 6.2) -/

/-- What a pass hands to the epilogue: the entry, its output descriptor, resolved columns, the place of row m in
D, the pass's first row and column, the stage-1 values by row, and how many columns before the first they open with: those of a
block of D that an earlier pass began (R181, R203, log entry 85). -/
structure EpiPass where
  e : Entry
  d : Tens
  cols : Nat
  row : Nat → Nat × Nat × Nat
  m0 : Nat
  n0 : Nat
  acc : List (List Num)
  pre : Nat

/-- An output of stage 6: its value, and the twin word of R176. -/
abbrev OutVal := Num × Option Twin

/-- Values of a per-column operand over the columns of a pass. -/
def State.colVals (s : State) (ch : ChIdx) (t : Option Tens) (n0 n : Nat) : Try (List Num) :=
  match t with
  | none => .ok []
  | some t => tryMap (fun j => s.elem ch t none (n0 + j, 0, 0, 0)) (List.range n)

/-- The gate inputs of an element, twin words as hi (R175). -/
def State.gateVals (s : State) (ch : ChIdx) (e : Entry) (m n : Nat) : Try (List Num) :=
  match wGin e.word with
  | none => .ok []
  | some g => tryMap (fun j => s.elem32 ch (tensOf e.td (g + j)) none (n, m, 0, 0)) (List.range (wGates e.word))

/-- Stages 2 to 5 for the output of row m and column n; `sc` and `bi` are its column's scale and bias. -/
def State.stages (s : State) (ch : ChIdx) (p : EpiPass) (m n : Nat) (sc bi : Option Num) (v : Num) : Try OutVal := do
  let w := p.e.word
  let c := bits (wEpi w) 31 16
  let v := if c == 0 then v else mul32 v (fBF16.val c)
  let v := match sc with | none => v | some x => mul32 v x
  let v := match bi with | none => v | some x => add32 v x
  if wGates w == 0 then .ok (Machine.act (wAct w) v, none)
  else do
    let xs ← s.gateVals ch p.e m n
    let (r, d) := gateForm (wGform w) (wAct w) v xs
    if p.d.fmt == 0xC then do
      let t := (twinOf (← s.code ch p.d (n, p.row m))).add d (s.rndAt ch p.e (m * p.cols + n))
      .ok (t.hi, some t)
    else .ok (r, none)

/-- Stages 2 to 5 for one row, from column `n0 - pre` on: none for a masked-off output (R59). -/
def State.stageRow (s : State) (ch : ChIdx) (p : EpiPass) (cact : List Bool) (scs bis : List Num) (m : Nat)
    (vs : List Num) : Try (List (Option OutVal)) := do
  let ract ← s.active ch p.e.td (wRpred p.e.word) m
  tryMap (fun (x : Nat × Num) =>
    if ract && cact.getD x.1 true then do
      let o ← s.stages ch p m (p.n0 - p.pre + x.1) (if scs.isEmpty then none else scs[x.1]?) (if bis.isEmpty then none else bis[x.1]?) x.2
      .ok (some o)
    else .ok none) ((List.range vs.length).zip vs)

/-- Whether an earlier pass of the entry has updated row m: it is an earlier column pass with an active column (R178). -/
def State.seenRow (s : State) (ch : ChIdx) (p : EpiPass) : Try Bool := do
  let before ← s.activeFrom ch p.e.td (wCpred p.e.word) 0 p.n0
  .ok (before.any id)

/-- Stage 6 for one row. -/
def State.statOne (s : State) (ch : ChIdx) (p : EpiPass) (t : Tens) (seen : Bool) (m : Nat) (vs : List Num) : Try State :=
  if vs.isEmpty then .ok s
  else do
    let old ← if bit (wEpi p.e.word) 49 && !seen then .ok RowStat.init else s.statRow ch t m
    s.putStat ch t m (old.update (bit (wEpi p.e.word) 8) (bit (wEpi p.e.word) 9) vs)

/-- Stage 7 for a row of a format without blocks (R181). -/
def State.outScalar (s : State) (ch : ChIdx) (p : EpiPass) (m : Nat) (vs : List (Option OutVal)) : Try State := do
  let one (x : Nat × Option OutVal) : Option (Nat × Cnt) :=
    match x.2 with
    | none => if wZmask p.e.word then some (0, ⟨0, 0⟩) else none
    | some (_, some t) => some (t.code, ⟨0, if t.hi.isNan then 1 else 0⟩)
    | some (v, none) => some (writeElem p.d.fmt (s.rndAt ch p.e (m * p.cols + p.n0 + x.1)) v)
  let os := ((List.range vs.length).zip vs).map one
  let cnt := os.foldl (fun (c : Cnt) o => match o with | some x => c.add x.2 | none => c) ⟨0, 0⟩
  let s ← s.putRow ch p.d p.n0 (p.row m) (os.map (·.map (·.1)))
  .ok (s.countFmt ch cnt)

/-- One block of a row: written whole when it has an active output, or as +0 with scale code 0 under ZMASK (R181). -/
def State.outBlock (s : State) (ch : ChIdx) (p : EpiPass) (sc : Tens) (m n : Nat) (vs : List (Option OutVal)) : Try State :=
  let b := fmtBlock p.d.fmt
  let xs : List Num := (List.range b).map fun j => match vs.getD j none with
    | some (v, _) => v
    | none => .zero false
  if vs.any (·.isSome) then do
    let (scale, codes, cnt) := writeBlock p.d.fmt (fun j => s.rndAt ch p.e (m * p.cols + n + j)) xs
    let s ← s.putCodes ch p.d (n, p.row m) codes
    let s ← s.putCodes ch sc (n / b, p.row m) [scale]
    .ok (s.countFmt ch cnt)
  else if wZmask p.e.word then do
    let s ← s.putCodes ch p.d (n, p.row m) (List.replicate b 0)
    s.putCodes ch sc (n / b, p.row m) [0]
  else .ok s

/-- Stage 7 for one row; `vs` opens at column `n0 - pre`. A block whose last columns a later pass forms is left to that pass. -/
def State.outRow (s : State) (ch : ChIdx) (p : EpiPass) (m : Nat) (vs : List (Option OutVal)) : Try State :=
  match p.d.scale p.e.td with
  | none => s.outScalar ch p m (vs.drop p.pre)
  | some sc =>
    let b := fmtBlock p.d.fmt
    let n := p.n0 - p.pre
    let k := if p.cols ≤ n + vs.length then ceilDiv vs.length b else vs.length / b
    tryFold (fun s k => s.outBlock ch p sc m (n + k * b) (slice vs (k * b) b)) s (List.range k)

/-- The epilogue of one pass: every value is formed before anything is written (R172, R190). -/
def State.epilogue (s : State) (ch : ChIdx) (p : EpiPass) : Try State := do
  let n := (p.acc.headD []).length
  let w := p.e.word
  let n0 := p.n0 - p.pre
  let cact ← s.activeFrom ch p.e.td (wCpred w) n0 n
  let scs ← s.colVals ch (if bit (wEpi w) 1 then (wOpd w 5).map (tensOf p.e.td) else none) n0 n
  let bis ← s.colVals ch (if bit (wEpi w) 0 then (wOpd w 4).map (tensOf p.e.td) else none) n0 n
  let idx := (List.range p.acc.length).map (p.m0 + ·)
  let rows ← tryMap (fun (x : Nat × List Num) => s.stageRow ch p cact scs bis x.1 x.2) (idx.zip p.acc)
  let seen ← s.seenRow ch p
  let s ← match (if wStats w then wStat w else none) with
    | none => .ok s
    | some t => tryFold (fun s (x : Nat × List (Option OutVal)) =>
        s.statOne ch p (tensOf p.e.td t) seen x.1 ((x.2.drop p.pre).filterMap (·.map (·.1)))) s (idx.zip rows)
  tryFold (fun s (x : Nat × List (Option OutVal)) => s.outRow ch p x.1 x.2) s (idx.zip rows)

/-! ## Cost (R187 to R189) -/

/-- The bytes that the epilogue of a pass moves (R187): `r` rows from `m0` on, whose places in D `row` gives, and `n` columns
from `n0` on. -/
def State.epiFeed (s : State) (ch : ChIdx) (e : Entry) (d : Tens) (row : Nat → Nat × Nat × Nat) (m0 r n0 n : Nat) : Feed :=
  let w := e.word
  let side (f : Feed) (k : Nat) (on : Bool) : Feed := match (if on then wOpd w k else none) with
    | none => f
    | some i => s.feedRows ch e.td (tensOf e.td i) n0 (rowPlaces 0 1) n f
  let f := side (side [] 4 (bit (wEpi w) 0)) 5 (bit (wEpi w) 1)
  let f := (gatesOf w).foldl (fun (f : Feed) g => s.feedRows ch e.td (tensOf e.td g) n0 (rowPlaces m0 r) n f) f
  let f := match wStat w with
    | none => f
    | some t =>
      let once (f : Feed) : Feed := s.feedRows ch e.td (tensOf e.td t) 0 (rowPlaces m0 r) 4 f
      if wStats w then once (once f) else once f
  let b := fmtBlock d.fmt
  s.feedRows ch e.td d (n0 / b * b) ((List.range r).map fun i => row (m0 + i)) (b * ceilDiv n b) f

/-- Latency of the selected stages, without the tail of the last writes (Table 6.8). -/
def stageLatency (w : Wide) (dfmt : Nat) : Nat :=
  let a := wAct w
  12 + (if bits (wEpi w) 31 16 != 0 then 2 else 0) + (if bit (wEpi w) 1 then 3 else 0) + (if bit (wEpi w) 0 then 3 else 0) +
    (if a == 0 then 0 else if a == 1 || a == 0xA then 2 else 14) +
    (if wGates w == 0 then 0 else (if wGform w ≤ 1 then 4 else 16) + (if dfmt == 0xC then 10 else 0)) +
    (if bit (wEpi w) 8 then 18 else 0) + (if bit (wEpi w) 9 then 4 else 0) +
    (if dfmt < 6 then 36 else if dfmt == 0xB then 20 else 0) + (if wRnd w == 2 then 4 else 0)

/-- l_epi (R188): `last` is what the epilogue of the last pass moves, `drain` that pass's drain. -/
def State.lEpi (s : State) (ch : ChIdx) (e : Entry) (dfmt : Nat) (last : Feed) (drain : Nat) : Nat :=
  stageLatency e.word dfmt + (s.feedCycles ch last - drain)

/-- Lane cycles charged to EP. entries (CH_EP_ENTCYC). -/
def State.chargeLanes (s : State) (ch : ChIdx) (n : Nat) : State :=
  let t := (s.chan[ch]).mx.laneCyc + n
  (s.incF ch R.CH_EP_ENTCYC_ENTCYC (t / 1024)).modMx ch fun m => { m with laneCyc := t % 1024 }

/-! ## Stand-alone operations (R182 to R185) -/

/-- Shape fields of an EP. operation: M along DIM1 and N along DIM0 (R56); `dcol` says that D has N columns. -/
def epGov (dcol : Bool) (w : Wide) : List Gov :=
  [govOf w [(0, 1), (3, 1)], govOf w (if dcol then [(0, 0), (3, 0)] else [(0, 0)]), none, none]

/-- Operand rules common to the EP. operations: X and D present, OPD2 not, X and Y in a readable format. -/
def Iss.epCommon (i : Iss) : Bool :=
  !i.has 0 || !i.has 3 || i.has 2 || (i.t 0).any (fun t => 0xD < t.fmt) || (i.t 1).any (fun t => 0xD < t.fmt)

/-- Y of EP.MAP breaks R182: it has X's shape or DIM1 = 1. Its elements stand where R52 places them, beyond DIM0 too (log
entry 86). -/
def Iss.mapYBad (i : Iss) : Bool :=
  let func := wPar i.w 3 0
  match i.t 1, i.t 0 with
  | none, _ => func == 1 || func == 2
  | some y, some x => !(func == 1 || func == 2) ||
    !((List.range 4).all (fun d => y.dim d == x.dim d) || y.dim 1 == 1)
  | some _, none => true

/-- STAT of EP.MAP: the normalising functions read one, with SMAX and RMS 0 (R182). -/
def Iss.mapStatBad (i : Iss) : Bool :=
  let norm := wPar i.w 3 0 == 3 || wPar i.w 3 0 == 4
  (norm && wStats i.w) || statBad i.td i.w (norm || wStats i.w) (i.sz 0)

/-- The checks of EP.MAP. -/
def Iss.mapErr6 (i : Iss) : Option XErr :=
  firstErr [
    failIf (i.epCommon || i.mapYBad || sideBad (bit (wEpi i.w) 0) (i.t 4) (i.sz 1) ||
      sideBad (bit (wEpi i.w) 1) (i.t 5) (i.sz 1) || gateBad i.td i.w (i.t 3) (i.sz 0) (i.sz 1) || i.mapStatBad)
      (i.fault 0x50),
    failIf ((i.t 3).any fun t => 0xD < t.fmt) (i.fault 0x51)]

/-- An FP32 code that is finite and not negative. -/
def finiteNonNeg (c : Nat) : Bool :=
  match fFP32.val c with
  | .fin q => decide (0 < q)
  | .zero _ => true
  | _ => false

/-- EP.MAP at issue. -/
def formMap : OpForm :=
  { plainForm true (fun i => 4 < wPar i.w 3 0 || (wPar i.w 3 0 == 4 && !finiteNonNeg (wPar i.w 63 32))) (epGov true) [3]
      Iss.mapErr6 with
    epiBad := epiAny, preds := true }

/-- The value of an element of X or Y as it enters the lanes: one rounding where FP32 does not hold it. -/
def State.lane (s : State) (ch : ChIdx) (td : Vector Desc 64) (t : Tens) (x : Idx) : Try Num := do
  .ok (rne32 (← s.elem32 ch t (t.scale td) x))

/-- Operand `k` of an entry. -/
def Entry.t (e : Entry) (k : Nat) : Tens := tensOf e.td ((wOpd e.word k).getD 0)

/-- Resolved size `k` of an entry. -/
def Entry.sz (e : Entry) (k : Nat) : Nat := (e.size.getD k 1).toNat

/-- The factor of a normalising function, formed once per row (Table 6.6). -/
def normFactor (func eps : Nat) (r : RowStat) : Num :=
  if func == 3 then div32 .one r.l
  else if r.k == 0 then .nan
  else fnRsqrt (add32 (div32 r.q (Num.ofRat (r.k : Rat))) (fFP32.val eps))

/-- The values of one row of EP.MAP (R182). -/
def State.mapRow (s : State) (ch : ChIdx) (e : Entry) (n m : Nat) : Try (List Num) := do
  let func := wPar e.word 3 0
  let x := e.t 0
  let xs ← tryMap (fun j => s.lane ch e.td x (j, m, 0, 0)) (List.range n)
  if func == 0 then .ok xs
  else if func ≤ 2 then do
    let y := e.t 1
    let ys ← tryMap (fun j => s.lane ch e.td y (j, if y.dim 1 == 1 then 0 else m, 0, 0)) (List.range n)
    .ok (xs.zipWith (if func == 1 then add32 else mul32) ys)
  else do
    let r ← s.statRow ch (tensOf e.td ((wStat e.word).getD 0)) m
    let f := normFactor func (wPar e.word 63 32) r
    .ok (xs.map fun v => if func == 3 then mul32 (fnExp (sub32 v r.m)) f else mul32 v f)

/-- Rows of pass `p` of a pass size `k`. -/
def passRows (m k p : Nat) : Nat := min k (m - p * k)

/-- The lane charge of one pass of an EP. entry (R189): elements and bytes. -/
def State.epCharge (s : State) (ch : ChIdx) (elems : Nat) (f : Feed) : Nat := max (ceilDiv elems 1024) (s.feedCycles ch f)

/-- A pass of an EP. entry has cost `n` lane cycles. -/
def State.epPaid (s : State) (ch : ChIdx) (e : Entry) (n : Nat) : State × Entry :=
  (s.chargeLanes ch n, { e with cyc := e.cyc + n })

/-- A pass of EP.MAP: 16 rows. -/
def State.mapPass (s : State) (ch : ChIdx) (e : Entry) : Try (State × Entry) := do
  let n := e.sz 1
  let m0 := 16 * e.pass
  let r := passRows (e.sz 0) 16 e.pass
  let acc ← tryMap (s.mapRow ch e n) ((List.range r).map (m0 + ·))
  let s' ← s.epilogue ch ⟨e, e.t 3, n, fun m => (m, 0, 0), m0, 0, acc, 0⟩
  let rows := rowPlaces m0 r
  let f := s.feedRows ch e.td (e.t 0) 0 rows n (s.epiFeed ch e (e.t 3) (fun m => (m, 0, 0)) m0 r 0 n)
  let f := if (wOpd e.word 1).isSome then
      s.feedRows ch e.td (e.t 1) 0 (if (e.t 1).dim 1 == 1 then rowPlaces 0 1 else rows) n f
    else f
  .ok (s'.epPaid ch e (s.epCharge ch (r * n) f))

/-- An EP. entry in execution: `k` rows to a pass (R185, R189). -/
def runEp (k : Nat) (pass : State → ChIdx → Entry → Try (State × Entry)) : OpRun :=
  { onePass (fun s ch e _ => ofTry s e (pass s ch e)) with
    setup := fun _ resumes => if resumes then 0 else 16
    start := fun s ch e => .ok (s.chargeLanes ch 16, e)
    passes := fun _ _ e => max 1 (ceilDiv (e.sz 0) k)
    done := fun s _ e => (s, { e with cyc := e.cyc + stageLatency e.word (e.t 3).fmt }, 0) }

/-- EP.MAP in execution. -/
def runMap : OpRun := runEp 16 State.mapPass

/-! ### EP.REDUCE (R183) -/

/-- The checks of EP.REDUCE. D has rank 2 and DIM0 = 1. -/
def Iss.reduceErr (i : Iss) : Option XErr :=
  firstErr [
    failIf (i.epCommon || i.has 4 || i.has 5 || (wStat i.w).isSome ||
      (i.t 3).any (fun t => t.rank != 1 || t.dim 0 != 1)) (i.fault 0x50),
    failIf ((i.t 3).any fun t => if wPar i.w 3 0 == 5 then t.fmt != 0xD else !sideFmt t.fmt) (i.fault 0x51)]

/-- EP.REDUCE at issue. -/
def formReduce : OpForm :=
  { plainForm true (fun i => 6 < wPar i.w 3 0) (epGov false) [3] Iss.reduceErr with epiBad := epiRnd, preds := true }

/-- The place of the largest value, the lowest on ties; NaN is never chosen. -/
def argmaxOf (xs : List (Nat × Num)) : Option Nat :=
  ((xs.filter fun x => !x.2.isNan).foldl (fun (a : Option (Nat × Num)) x => match a with
    | none => some x
    | some b => if b.2.lt x.2 then some x else a) none).map (·.1)

/-- A reduction that NaN poisons. -/
def foldNan (f : Num → Num → Num) (z : Num) (xs : List Num) : Num := if xs.any (·.isNan) then .nan else xs.foldl f z

/-- The reduced value of the active columns of a row (Table 6.7). -/
def reduceVal (func : Nat) (xs : List (Nat × Num)) : Num :=
  let vs := xs.map (·.2)
  if func == 0 then vs.foldl add32 (.zero false)
  else if func == 1 then foldNan Num.max (.inf true) vs
  else if func == 2 then foldNan Num.min (.inf false) vs
  else if func == 3 then vs.foldl (fun a v => add32 a (mul32 v v)) (.zero false)
  else if func == 4 then foldNan Num.max (.zero false) (vs.map Num.abs)
  else if func == 5 then match argmaxOf xs with
    | some c => Num.ofRat (c : Rat)
    | none => .fin (-1)
  else if vs.isEmpty then .inf true
  else
    let r := RowStat.init.smax vs
    add32 r.m (fnLog r.l)

/-- The active columns of a row of X with their values. -/
def State.rowVals (s : State) (ch : ChIdx) (e : Entry) (n m : Nat) : Try (List (Nat × Num)) := do
  let act ← s.activeFrom ch e.td (wCpred e.word) 0 n
  tryMap (fun j => do .ok (j, ← s.lane ch e.td (e.t 0) (j, m, 0, 0))) ((List.range n).filter fun j => act.getD j true)

/-- One row of EP.REDUCE; the value is converted by RND with the row as its element index. -/
def State.reduceRow (s : State) (ch : ChIdx) (e : Entry) (m : Nat) : Try State := do
  let d := e.t 3
  if ← s.active ch e.td (wRpred e.word) m then do
    let xs ← s.rowVals ch e (e.sz 1) m
    let (c, cnt) := writeElem d.fmt (s.rndAt ch e m) (reduceVal (wPar e.word 3 0) xs)
    let s ← s.putCodes ch d (0, m, 0, 0) [c]
    .ok (s.countFmt ch cnt)
  else if wZmask e.word then s.putCodes ch d (0, m, 0, 0) [0]
  else .ok s

/-- A pass of EP.REDUCE: 16 rows; LSE counts its columns twice (R189). -/
def State.reducePass (s : State) (ch : ChIdx) (e : Entry) : Try (State × Entry) := do
  let n := e.sz 1
  let m0 := 16 * e.pass
  let r := passRows (e.sz 0) 16 e.pass
  let s' ← tryFold (fun s m => s.reduceRow ch e m) s ((List.range r).map (m0 + ·))
  let f := s.feedRows ch e.td (e.t 0) 0 (rowPlaces m0 r) n (s.feedRows ch e.td (e.t 3) 0 (rowPlaces m0 r) 1 [])
  .ok (s'.epPaid ch e (s.epCharge ch ((if wPar e.word 3 0 == 6 then 2 else 1) * r * n) f))

/-- EP.REDUCE in execution. -/
def runReduce : OpRun := runEp 16 State.reducePass

/-! ### EP.SAMPLE (R161, R184) -/

/-- The checks of EP.SAMPLE. -/
def Iss.sampleErr (i : Iss) : Option XErr :=
  firstErr [
    failIf (i.epCommon || !i.has 1 || i.has 4 || i.has 5 || (i.t 3).any (fun t => t.dim 0 != 1)) (i.fault 0x50),
    failIf ((i.t 3).any (fun t => t.fmt != 0xD) || (i.t 1).any (fun t => t.fmt != 0xD || ((t.dim 0 : Nat) : Int) < i.sz 0))
      (i.fault 0x15)]

/-- The step of EP.SAMPLE: STEP, or the low 32 bits of a register read at issue. -/
def Iss.sampleStep (i : Iss) : Nat :=
  if wPar i.w 37 37 == 1 then ((i.s.ctx i.ch i.jc).rg (Fin.ofNat 32 (wPar i.w 36 32))).toNat % 2 ^ 32 else wPar i.w 31 0

/-- EP.SAMPLE at issue. -/
def formSample : OpForm :=
  { plainForm true (fun i => !finiteNonNeg (wPar i.w 95 64)) (epGov false) [3] Iss.sampleErr with
    preds := true, atIssue := fun i => .ok (i.s, [i.sampleStep]) }

/-- The candidates: active columns whose logit is not NaN, the TOPK largest with the lower column first on ties. -/
def sampleSet (topk : Nat) (xs : List (Nat × Num)) : List (Nat × Num) :=
  let c := xs.filter fun x => !x.2.isNan
  if topk == 0 then c
  else c.filter fun x => (c.filter fun y => x.2.lt y.2 || (!y.2.lt x.2 && y.1 < x.1)).length < topk

/-- The perturbed logit of a column. -/
def gumbel (seed step handle : Nat) (t : Num) (x : Nat × Num) : Nat × Num :=
  let u := uniform (drawWord seed 1 x.1 step handle)
  (x.1, add32 (mul32 x.2 t) (fnLog (fnLog u).neg).neg)

/-- The column that a row draws, -1 for want of a candidate. A NaN among the perturbed logits leaves open which candidate it is;
the same scores give the same one (R9, log entry 21). -/
def State.sampleRow (s : State) (ch : ChIdx) (e : Entry) (m : Nat) : Try (Nat × State) := do
  let xs ← s.rowVals ch e (e.sz 1) m
  let c := sampleSet (wPar e.word 53 38) xs
  let temp := fFP32.val (wPar e.word 95 64)
  let neg1 := 2 ^ 32 - 1
  if c.isEmpty then .ok (neg1, s.satF ch R.CH_EP_NOCAND_NOCAND 1)
  else if temp.isZero then .ok ((argmaxOf c).getD neg1, s)
  else do
    let handle ← s.word ch (e.t 1) (m, 0, 0, 0)
    let g := c.map (gumbel (s.seed ch e) (e.aux.headD 0) handle (div32 .one temp))
    if g.any (·.2.isNan) then
      let k := Config.sampleNan (g.map fun x => (x.1, x.2.w32))
      .ok ((g.map (·.1)).getD (k % g.length) neg1, s)
    else .ok ((argmaxOf g).getD neg1, s)

/-- A pass of EP.SAMPLE: one row. TOPK counts the columns three times (R189). -/
def State.samplePass (s : State) (ch : ChIdx) (e : Entry) : Try (State × Entry) := do
  let n := e.sz 1
  let m := e.pass
  let d := e.t 3
  let s' ←
    if ← s.active ch e.td (wRpred e.word) m then do
      let (c, s) ← s.sampleRow ch e m
      s.putCodes ch d (0, m, 0, 0) [c]
    else if wZmask e.word then s.putCodes ch d (0, m, 0, 0) [0]
    else .ok s
  let f := s.feedRows ch e.td (e.t 0) 0 (rowPlaces m 1) n
    (s.feedRows ch e.td (e.t 1) m (rowPlaces 0 1) 1 (s.feedRows ch e.td d 0 (rowPlaces m 1) 1 []))
  .ok (s'.epPaid ch e (s.epCharge ch ((if wPar e.word 53 38 == 0 then 1 else 3) * n) f))

/-- EP.SAMPLE in execution. -/
def runSample : OpRun := runEp 1 State.samplePass

/-! ## Commands -/

/-- EP.MAP PASS. -/
def execEpMapPass (ch : Fin 8) (jc : Fin 16) (w : BitVec 512) (s : State) : Out :=
  .next (s.issueWide ch jc (asMode 3 0 0 (asOp 1 1 w)) formMap)
/-- EP.MAP ADD. -/
def execEpMapAdd (ch : Fin 8) (jc : Fin 16) (w : BitVec 512) (s : State) : Out :=
  .next (s.issueWide ch jc (asMode 3 0 1 (asOp 1 1 w)) formMap)
/-- EP.MAP MUL. -/
def execEpMapMul (ch : Fin 8) (jc : Fin 16) (w : BitVec 512) (s : State) : Out :=
  .next (s.issueWide ch jc (asMode 3 0 2 (asOp 1 1 w)) formMap)
/-- EP.MAP SMAX_NORM. -/
def execSmaxNorm (ch : Fin 8) (jc : Fin 16) (w : BitVec 512) (s : State) : Out :=
  .next (s.issueWide ch jc (asMode 3 0 3 (asOp 1 1 w)) formMap)
/-- EP.MAP RMS_NORM. -/
def execRmsNorm (ch : Fin 8) (jc : Fin 16) (w : BitVec 512) (s : State) : Out :=
  .next (s.issueWide ch jc (asMode 3 0 4 (asOp 1 1 w)) formMap)
/-- EP.REDUCE SUM. -/
def execEpReduceSum (ch : Fin 8) (jc : Fin 16) (w : BitVec 512) (s : State) : Out :=
  .next (s.issueWide ch jc (asMode 3 0 0 (asOp 1 2 w)) formReduce)
/-- EP.REDUCE MAX. -/
def execEpReduceMax (ch : Fin 8) (jc : Fin 16) (w : BitVec 512) (s : State) : Out :=
  .next (s.issueWide ch jc (asMode 3 0 1 (asOp 1 2 w)) formReduce)
/-- EP.REDUCE MIN. -/
def execEpReduceMin (ch : Fin 8) (jc : Fin 16) (w : BitVec 512) (s : State) : Out :=
  .next (s.issueWide ch jc (asMode 3 0 2 (asOp 1 2 w)) formReduce)
/-- EP.REDUCE SUMSQ. -/
def execSumsq (ch : Fin 8) (jc : Fin 16) (w : BitVec 512) (s : State) : Out :=
  .next (s.issueWide ch jc (asMode 3 0 3 (asOp 1 2 w)) formReduce)
/-- EP.REDUCE AMAX. -/
def execAmax (ch : Fin 8) (jc : Fin 16) (w : BitVec 512) (s : State) : Out :=
  .next (s.issueWide ch jc (asMode 3 0 4 (asOp 1 2 w)) formReduce)
/-- EP.REDUCE ARGMAX. -/
def execArgmax (ch : Fin 8) (jc : Fin 16) (w : BitVec 512) (s : State) : Out :=
  .next (s.issueWide ch jc (asMode 3 0 5 (asOp 1 2 w)) formReduce)
/-- EP.REDUCE LSE. -/
def execLse (ch : Fin 8) (jc : Fin 16) (w : BitVec 512) (s : State) : Out :=
  .next (s.issueWide ch jc (asMode 3 0 6 (asOp 1 2 w)) formReduce)
/-- EP.SAMPLE. -/
def execEpSample (ch : Fin 8) (jc : Fin 16) (w : BitVec 512) (s : State) : Out :=
  .next (s.issueWide ch jc (asOp 1 3 w) formSample)

end Sys2Proof.Machine
end

