-- ==== Sys2Proof/Machine/Array.lean ====
section
/-! DEFINITION. The matrix array: format classes, tiles, the accumulation order, and MX.GEMM and MX.GEMV (R117 to R144,
R153). -/

namespace Sys2Proof.Machine

open Sys2Proof

/-! ## Classes and tiles (R118, R121) -/

/-- The class of an operand format of Table 4.1, 0 for a format the array does not take. -/
def fmtClass (d : Nat) : Nat := if d < 3 then 1 else if d < 8 then 2 else if d < 0xA then 4 else 0

/-- Mt_max and Nt_max (Table 4.2). -/
def tile (marver : Bool) (cls : Nat) : Nat × Nat :=
  if marver then (if cls == 1 then (64, 8192) else if cls == 2 then (64, 4096) else (32, 4096))
  else if cls == 1 then (512, 1024)
  else if cls == 2 then (512, 512)
  else (256, 512)

/-! ## Accumulation (R131, R132, R153) -/

/-- A position of the K stream: an element and its block scale; none when absent. -/
abbrev Pos := Option (Num × Num)

/-- A product: its value, and the exponent of the combined scale, floor(log2) of it (R132, R258). -/
def prodOf (a b : Num × Num) : Num × Option Int :=
  let e : Option Int := match a.2, b.2 with
    | .fin x, .fin y => some (floorLog2 (x * y))
    | _, _ => none
  ((scaled a.2 a.1).mul (scaled b.2 b.1), e)

/-- The products of a K-block whose positions are present on both sides. -/
def prods (a b : List Pos) : List (Num × Option Int) :=
  (a.zip b).filterMap fun x => match x with
    | (some p, some q) => some (prodOf p q)
    | _ => none

/-- The largest exponent of a block. -/
def maxExp (l : List (Num × Option Int)) : Option Int :=
  l.foldl (fun (m : Option Int) x => match m, x.2 with
    | none, e => e
    | some a, some b => some (max a b)
    | some a, none => some a) none

/-- The products that R132 keeps: none is dropped from a block with a NaN scale. -/
def kept (nanScale : Bool) (l : List (Num × Option Int)) : List Num :=
  match nanScale, maxExp l with
  | false, some m => (l.filter fun x => match x.2 with
    | some e => decide (m - 64 ≤ e)
    | none => true).map (·.1)
  | _, _ => l.map (·.1)

/-- The block sum of R153. -/
def blockSum (l : List Num) : Num :=
  if l.any (·.isNan) || (l.contains (.inf true) && l.contains (.inf false)) then .nan
  else match l.find? (·.isInf) with
    | some x => x
    | none => Num.ofRat (l.foldl (fun (q : Rat) x => q + x.toRat) 0)

/-- One K-block added to an accumulator: an exactly zero sum is skipped (R131). The count is of dropped products. -/
def accBlock (acc : Num × Nat) (a b : List Pos) : Num × Nat :=
  let nanScale := (a.zip b).any fun x => match x with
    | (some p, some q) => p.2.isNan || q.2.isNan
    | _ => false
  let l := prods a b
  let k := kept nanScale l
  let s := blockSum k
  (if s.isZero then acc.1 else rne32 (acc.1.add s), acc.2 + (l.length - k.length))

/-- A K stream in K-blocks of 32. -/
def blocks32 {α : Type} : Nat → List α → List (List α)
  | 0, _ => []
  | fuel + 1, l => if l.isEmpty then [] else l.take 32 :: blocks32 fuel (l.drop 32)

/-- An output over the whole K stream, from its starting value (R131). -/
def accumulate (start : Num) (a b : List Pos) : Num × Nat :=
  let n := max a.length b.length
  ((blocks32 n a).zip (blocks32 n b)).foldl (fun acc x => accBlock acc x.1 x.2) (start, 0)

/-- Elements of an operand with their scales, at the places `idx` gives. -/
def State.stream (s : State) (ch : ChIdx) (td : Vector Desc 64) (t : Tens) (idx : Nat → Option Idx) (n : Nat) : Try (List Pos) :=
  tryMap (fun k => match idx k with
    | none => .ok none
    | some x => do
      let c ← s.code ch t x
      let sc ← s.scaleAt ch t (t.scale td) x
      .ok (some (elemVal t.fmt c, sc))) (List.range n)

/-! ## Cost (R134, R135, R138) -/

/-- A drain of `n` cycles (CH_EP_DRAINCYC). -/
def State.noteDrain (s : State) (ch : ChIdx) (n : Nat) : State :=
  let t := (s.chan[ch]).mx.drainCyc + n
  (s.incF ch R.CH_EP_DRAINCYC_DRAINCYC (t / 1024)).modMx ch fun m => { m with drainCyc := t % 1024 }

/-- The term of one pass in R134 with its reruns under R142, and the drain it leaves. -/
def State.passCost (s : State) (ch : ChIdx) (e : Entry) (kpad feed reruns drain : Nat) : State × Entry :=
  let n := max kpad (max (s.chan[ch]).mx.drain feed) + 4 + reruns * (max kpad feed + 4)
  let s := ((s.noteAct ch n).noteDrain ch drain).modMx ch fun m => { m with drain := drain }
  (s, { e with cyc := e.cyc + n })

/-- An array entry closes: its last drain, then l_epi (R134, R188). -/
def State.arrayDone (s : State) (ch : ChIdx) (e : Entry) : State × Entry × Nat :=
  let drain := (s.chan[ch]).mx.drain
  (s, { e with cyc := e.cyc + drain + s.lEpi ch e (e.t 3).fmt e.part drain }, 0)

/-! ## MX.GEMM and MX.GEMV (R119, R120, R122, R124, R126) -/

/-- Shape fields: M, N and K. -/
def gemmGov (w : Wide) : List Gov :=
  let a := if wTa w then 1 else 0
  let b := if wTb w then 1 else 0
  [govOf w [(0, 1 - a), (2, 1), (3, 1)], govOf w [(1, b), (2, 0), (3, 0)], govOf w [(0, a), (1, 1 - b)], none]

/-- The pair of array operands breaks R119. -/
def pairBad (a b : Nat) : Bool := fmtClass a == 0 || fmtClass b == 0 || (a == 5) != (b == 5)

/-- C or D breaks R119. -/
def outBad (c d : Option Tens) : Bool :=
  c.any (fun t => !sideFmt t.fmt) || d.any (fun t => 0xA < t.fmt)

/-- The format of an operand, 0xF when it is absent. -/
def Iss.fmt (i : Iss) (k : Nat) : Nat := match i.t k with
  | some t => t.fmt
  | none => 0xF

/-- The checks of MX.GEMM, and of MX.GEMV when `gemv` holds. -/
def Iss.gemmErr (gemv : Bool) (i : Iss) : Option XErr :=
  firstErr [
    failIf (!i.has 0 || !i.has 1 || !i.has 3 || i.has 2 != wAcc i.w) (i.fault 0x42),
    failIf (pairBad (i.fmt 0) (i.fmt 1) || outBad (i.t 2) (i.t 3)) (i.fault 0x40),
    failIf (gemv && 64 < i.sz 0) (i.fault 0x41),
    i.epErr (i.sz 0) (i.sz 1) (i.t 3)]

/-- MX.GEMM at issue. PARAM must be zero. -/
def formGemm : OpForm :=
  { plainForm true (fun i => wPar i.w 111 0 != 0) gemmGov [3] (Iss.gemmErr false) with
    arr := true, epiBad := epiAny, preds := true }

/-- MX.GEMV at issue: it requires ARR = 1. -/
def formGemv : OpForm :=
  { plainForm true (fun i => wPar i.w 111 0 != 0 || !wArr i.w) gemmGov [3] (Iss.gemmErr true) with
    arr := true, epiBad := epiAny, preds := true }

/-- The class of an entry with operands A and B (R118). -/
def Entry.pairClass (e : Entry) : Nat := max (fmtClass (e.t 0).fmt) (fmtClass (e.t 1).fmt)

/-- The operand C of an entry that accumulates. -/
def Entry.c (e : Entry) : Option Tens := if wAcc e.word then (wOpd e.word 2).map (tensOf e.td) else none

/-- The starting value of an output: C widened to FP32, or +0. -/
def State.startVal (s : State) (ch : ChIdx) (c : Option Tens) (x : Idx) : Try Num :=
  match c with
  | none => .ok (.zero false)
  | some t => s.elem ch t none x

/-- XSPAN counts the products dropped. -/
def State.countSpan (s : State) (ch : ChIdx) (n : Nat) : State := s.satF ch R.CH_MX_XSPAN_XSPAN n

/-- The accumulators of a tile from its A rows and B columns; `start i j` is the starting value of an output. -/
def tileAcc (start : Nat → Nat → Try Num) (as bs : List (List Pos)) : Try (List (List Num) × Nat) := do
  let rows ← tryMap (fun (x : Nat × List Pos) =>
    tryMap (fun (y : Nat × List Pos) => do .ok (accumulate (← start x.1 y.1) x.2 y.2)) ((List.range bs.length).zip bs))
    ((List.range as.length).zip as)
  .ok (rows.map (·.map (·.1)), (rows.flatMap (·.map (·.2))).sum)

/-- Pass `e.pass` of an MX.GEMM or MX.GEMV: first row and column, rows, columns (R122). -/
def Entry.gemmTile (e : Entry) : Nat × Nat × Nat × Nat :=
  let (mt, nt) := tile (wArr e.word) e.pairClass
  let nn := ceilDiv (e.sz 1) nt
  let m0 := e.pass / nn * mt
  let n0 := e.pass % nn * nt
  (m0, n0, min mt (e.sz 0 - m0), min nt (e.sz 1 - n0))

/-- One pass. -/
def State.gemmPass (s : State) (ch : ChIdx) (e : Entry) (reruns : Nat) : Try (State × Entry) := do
  let (m0, n0, r, n) := e.gemmTile
  let k := e.sz 2
  let a := e.t 0
  let b := e.t 1
  let as ← tryMap (fun i => s.stream ch e.td a (fun x => some (if wTa e.word then (m0 + i, x, 0, 0) else (x, m0 + i, 0, 0))) k)
    (List.range r)
  let bs ← tryMap (fun j => s.stream ch e.td b (fun x => some (if wTb e.word then (x, n0 + j, 0, 0) else (n0 + j, x, 0, 0))) k)
    (List.range n)
  let (acc, drops) ← tileAcc (fun i j => s.startVal ch e.c (n0 + j, m0 + i, 0, 0)) as bs
  let s' ← s.epilogue ch ⟨e, e.t 3, e.sz 1, fun m => (m, 0, 0), m0, n0, acc, 0⟩
  let feed := if wTa e.word then s.feedRows ch e.td a m0 (rowPlaces 0 k) r e.part
    else s.feedRows ch e.td a 0 (rowPlaces m0 r) k e.part
  let feed := if wTb e.word then s.feedRows ch e.td b 0 (rowPlaces n0 n) k feed
    else s.feedRows ch e.td b n0 (rowPlaces 0 k) n feed
  let nt := (tile (wArr e.word) e.pairClass).2
  let (s', e') := (s'.countSpan ch drops).passCost ch e (32 * ceilDiv k 32) (s.feedCycles ch feed) reruns
    (ceilDiv (r * nt) 1024)
  .ok (s', { e' with part := s.epiFeed ch e (e.t 3) (fun m => (m, 0, 0)) m0 r n0 n })

/-- MX.GEMM and MX.GEMV in execution. -/
def runGemm : OpRun :=
  { onePass (fun s ch e n => ofTry s e (s.gemmPass ch e n)) with
    cls := fun _ _ e => e.pairClass
    passes := fun _ _ e =>
      let (mt, nt) := tile (wArr e.word) e.pairClass
      ceilDiv (e.sz 0) mt * ceilDiv (e.sz 1) nt
    tile := fun _ _ e => e.gemmTile.2.2
    done := State.arrayDone }

/-- MX.GEMM. -/
def execMxGemm (ch : Fin 8) (jc : Fin 16) (w : BitVec 512) (s : State) : Out :=
  .next (s.issueWide ch jc (asOp 0 1 w) formGemm)
/-- MX.GEMV. -/
def execMxGemv (ch : Fin 8) (jc : Fin 16) (w : BitVec 512) (s : State) : Out :=
  .next (s.issueWide ch jc (asOp 0 2 w) formGemv)

/-! ## Owner tags (R128, R130) -/

/-- The tag of a slot changes; a reserved value leaves it and posts ARWS_TAG_BAD (Table 4.5). A slot that waits for
clearing takes it when its clearing ends (R130). -/
def State.setTag (s : State) (ch : ChIdx) (slot tag : Nat) : State :=
  if 0x12 ≤ tag then s.post (srcOf ch 0x071) .arwsTagBad []
  else s.modC ch fun c =>
    if c.arws.clearing.contains slot then
      { c with arws := { c.arws with waiting := c.arws.waiting.filter (·.1 != slot) ++ [(slot, tag)] } }
    else { c with arws := { c.arws with tags := Cells.set (fun _ => 0x10) c.arws.tags slot tag } }

/-- A host write of CH_ARWS_OWN: the tags of slots 4w to 4w + 3. -/
def execArwsOwnWrite (ch : Fin 8) (idx : Fin 128) (val : BitVec 32) (s : State) : Out :=
  .next (s.chanWr ch (0x5000 + 4 * idx.val) fun s =>
    [0, 1, 2, 3].foldl (fun (s : State) k => s.setTag ch (4 * idx.val + k) (bits val.toNat (8 * k + 4) (8 * k))) s)

/-- The clearing of the slot next in order ends: it reads as zero, and a tag written meanwhile takes effect (R130). -/
def execArwsClearDone (ch : Fin 8) (slot : Fin 512) (s : State) : Out :=
  let a := (s.chan[ch]).arws
  if a.clearing.head? != some slot.val then .next s
  else
    let lo := 65536 * slot.val
    let s := s.modMem ch fun m => { m with arws := m.arws.filter fun x => x.1 < lo || lo + 65536 ≤ x.1 }
    let s := s.modC ch fun c => { c with arws :=
      { c.arws with clearing := c.arws.clearing.drop 1, waiting := c.arws.waiting.filter (·.1 != slot.val) } }
    .next (match a.waiting.find? (·.1 == slot.val) with
      | some x => s.setTag ch slot.val x.2
      | none => s)

end Sys2Proof.Machine
end

