-- ==== Sys2Proof/Machine/Attention.lean ====
section
/-! DEFINITION. Attention over the futures store: AT.PREFILL, AT.DECODE and AT.DECODE_GQ (R248, R250, R255 to R275). -/

namespace Sys2Proof.Machine

open Sys2Proof

/-! ## Page lists (R248, R250) -/

/-- L: bytes of one list of `cap` positions. -/
def listBytes (cap : Nat) : Nat := 64 * ceilDiv (64 + 4 * ceilDiv cap 64) 64

/-- The header of a page list. -/
structure ListHead where
  handle : Nat
  length : Nat
  commit : Nat
  stream : Nat
  form : Nat
  hd : Nat
  deriving DecidableEq, Repr

/-- The header at a device virtual address. -/
def State.listHead (s : State) (ch : ChIdx) (va : Nat) : Try ListHead := do
  let b ← s.spRead ch 0 va 20
  let f (o n : Nat) : Nat := leNat (slice b o n)
  .ok ⟨f 0 4, f 4 4, f 8 4, f 12 2, f 14 1, f 15 1⟩

/-- Entry `j` of the list at a device virtual address. -/
def State.listRef (s : State) (ch : ChIdx) (va j : Nat) : Try Nat := do .ok (leNat (← s.spRead ch 0 (va + 64 + 4 * j) 4))

/-- The element format of the store's pages. -/
def FtCfg.fmt (c : FtCfg) : Nat := if c.form == 0 then 0xB else if c.form == 1 then 0x3 else 0x4

/-- The address of the K row (`half` 0) or V row (`half` 1) of a position in a page. -/
def FtCfg.rowAddr (c : FtCfg) (ref half p : Nat) : Nat := c.pageBase + ref * c.data + half * (c.data / 2) + p % 64 * c.row

/-- The address of the scales of that row. -/
def FtCfg.scaleAddr (c : FtCfg) (ref half p : Nat) : Nat :=
  c.scaleBase + ref * c.scale + half * (c.scale / 2) + p % 64 * c.srow

/-- A stored row: its elements with their scales (R214). -/
def State.pageRow (s : State) (ch : ChIdx) (c : FtCfg) (ref half p : Nat) : Try (List Pos) := do
  let row ← s.spRead ch 0 (c.rowAddr ref half p) c.row
  let sc ← s.spRead ch 0 (c.scaleAddr ref half p) c.srow
  let b := fmtBits c.fmt
  let v := leNat row
  .ok ((List.range c.head).map fun d =>
    some (elemVal c.fmt (v / 2 ^ (b * d) % 2 ^ b), scaleVal c.fmt (sc.getD (d / fmtBlock c.fmt) 0).toNat))

/-- Values in blocks of `b`. -/
def chunks {α : Type} (b : Nat) : Nat → List α → List (List α)
  | 0, _ => []
  | fuel + 1, l => if l.isEmpty then [] else l.take b :: chunks b fuel (l.drop b)

/-- A row converted to the store's form, to nearest even whatever RND holds, and written to its page (R262). -/
def State.putPageRow (s : State) (ch : ChIdx) (c : FtCfg) (ref half p : Nat) (vs : List Num) : Try State := do
  let bs := (chunks (fmtBlock c.fmt) vs.length vs).map (writeBlock c.fmt fun _ => rne)
  let codes := bs.flatMap (·.2.1)
  let s ← s.spWrite ch 0 (c.rowAddr ref half p) (leBytes c.row (packCodes (fmtBits c.fmt) codes))
  let s ← s.spWrite ch 0 (c.scaleAddr ref half p) (leBytes c.srow (packCodes 8 (bs.map (·.1))))
  .ok (s.countFmt ch (bs.foldl (fun (n : Cnt) b => n.add b.2.2) ⟨0, 0⟩))

/-! ## Issue (R255 to R259, R270) -/

/-- SCALE. -/
def atScale (w : Wide) : Nat := wPar w 31 0
/-- WINDOW. -/
def atWindow (w : Wide) : Nat := wPar w 50 32
/-- CBLK. -/
def atCblk (w : Wide) : Nat := wPar w 60 51
/-- PFMT. -/
def atPfmt (w : Wide) : Nat := wPar w 62 61
/-- LSEL. -/
def atLsel (w : Wide) : Nat := wPar w 74 63
/-- LCOUNT. -/
def atLcount (w : Wide) : Nat := wPar w 86 75 + 1

/-- An FP32 code that is finite and not zero. -/
def finiteNonZero (c : Nat) : Bool :=
  match fFP32.val c with
  | .fin _ => true
  | _ => false

/-- The chapter's part of the PARAM_INVALID step (R257). -/
def atParamBad (i : Iss) : Bool :=
  !finiteNonZero (atScale i.w) || 262144 < atWindow i.w || atCblk i.w == 0 || 512 < atCblk i.w || 1 < atPfmt i.w ||
    atLcount i.w ≤ atLsel i.w

/-- SHP0 to SHP2 govern n, G and B (R255). -/
def atGov (w : Wide) : List Gov :=
  [govOf w [(0, 1), (3, 1), (2, 1), (4, 1)], govOf w [(0, 2), (3, 2)], govOf w [(0, 3), (3, 3), (2, 2), (4, 2), (5, 1)], none]

/-- A size breaks Table 9.2; a size that is not positive is no matter of it (R256). -/
def atSizeBad (op : Nat) (n g b : Int) : Bool :=
  let lim : Int × Int × Int := if op == 0x10 then (262144, 64, 64) else if op == 0x11 then (1, 64, 64) else (4, 16, 1)
  lim.1 < n || lim.2.1 < g || lim.2.2 < b ||
    (op != 0x10 && decide (0 < n) && decide (0 < g) && decide (0 < b) && decide (64 < n * g * b))

/-- A field of EPI that R259 wants zero is not. -/
def atEpiBad (w : Wide) : Bool :=
  bit (wEpi w) 0 || bit (wEpi w) 1 || wAct w != 0 || bit (wEpi w) 9 || wGates w != 0 || bit (wEpi w) 49

/-- AT_OPERAND of R255, R256, R259 and R270. -/
def Iss.atOperandBad (i : Iss) : Bool :=
  match i.t 0, i.t 1, i.t 3 with
  | some q, some kv, some o =>
    kv.space != 3 || i.has 2 != i.has 4 || 262144 < kv.dim 1 || q.dim 0 != kv.dim 0 || o.dim 0 != kv.dim 0 ||
      (i.t 2).any (fun t => t.dim 0 != kv.dim 0) || (i.t 4).any (fun t => t.dim 0 != kv.dim 0) ||
      (i.t 5).any (fun t => t.fmt != 0xD || !t.seg || t.dim 0 < kv.dim 1) ||
      atSizeBad (wOp i.w) (i.sz 0) (i.sz 1) (i.sz 2) || (wOp i.w != 0x10 && !wArr i.w) || wTa i.w || wTb i.w || wAcc i.w ||
      atEpiBad i.w
  | _, _, _ => true

/-- AT_FORMAT of Table 9.4. -/
def Iss.atFormatBad (i : Iss) : Bool :=
  !([8, 9, 3, 4].contains (i.fmt 0)) || (i.t 2).any (fun t => !sideFmt t.fmt) || (i.t 4).any (fun t => !sideFmt t.fmt) ||
    !([8, 9, 0xA, 3].contains (i.fmt 3))

/-- M: n × G × B. -/
def Iss.atRows (i : Iss) : Int := if i.sz 0 ≤ 0 || i.sz 1 ≤ 0 || i.sz 2 ≤ 0 then 0 else i.sz 0 * i.sz 1 * i.sz 2

/-- The checks of an AT entry: AT_OPERAND, AT_FORMAT, then those of R192. -/
def Iss.atErr (i : Iss) : Option XErr :=
  firstErr [
    failIf i.atOperandBad (i.fault 0x45),
    failIf i.atFormatBad (i.fault 0x46),
    failIf (statBad i.td i.w (wStats i.w) i.atRows) (i.fault 0x50)]

/-- An AT operation at issue. -/
def formAt : OpForm :=
  { plainForm true atParamBad atGov [3] Iss.atErr with
    arr := true
    epiBad := epiAny
    preds := true
    lists := fun _ => [1]
    rows := Iss.atRows
    cols := fun i => match i.t 1 with
      | some t => (t.dim 0 : Nat)
      | none => 0 }

/-! ## Start (R260, R261) -/

/-- The address of the list of the b-th listed branch. -/
def Entry.atList (e : Entry) (b : Nat) : Nat :=
  (e.t 1).base + (b * atLcount e.word + atLsel e.word) * listBytes ((e.t 1).dim 1)

/-- The entry writes new rows. -/
def Entry.atWrites (e : Entry) : Bool := (wOpd e.word 2).isSome

/-- A fault with the handle as ARG. -/
def atFault (status handle : Nat) : XErr := xerr status handle

/-- R260 for one header against the store and its branch. -/
def headBad (f : FtSt) (kv : Tens) (stream : Nat) (h : ListHead) : Bool :=
  match f.cfg with
  | none => true
  | some c =>
    let b := f.ent (h.handle % 65536)
    h.form != c.form || h.hd != c.hd || c.head != kv.dim 0 || h.stream != stream || !f.named h.handle ||
      h.length != b.length || h.commit != b.commit || kv.dim 1 < h.length

/-- The page references at the list entries of the positions `q0` to `q0 + n - 1` that the list holds. -/
def State.writtenRefs (s : State) (ch : ChIdx) (list q0 n length : Nat) : Try (List Nat) :=
  tryMap (fun j => s.listRef ch list j)
    ((List.range (ceilDiv (q0 % 64 + n) 64)).map (q0 / 64 + ·) |>.filter fun j => j * 64 < length)

/-- What the checks carry from branch to branch: the stream, the references written so far, and Q0 and kend. -/
structure AtSeen where
  stream : Option Nat
  refs : List Nat
  ends : List Nat

/-- The checks of R260 and R261 for the b-th listed branch. -/
def State.atBranch (s : State) (ch : ChIdx) (e : Entry) (a : AtSeen) (b : Nat) : Try AtSeen := do
  let list := e.atList b
  let n := e.sz 0
  let h ← s.listHead ch list
  let stream := a.stream.getD h.stream
  if headBad (s.chan[ch]).ft (e.t 1) stream h then .error (atFault 0x47 h.handle)
  else do
    let refs ← if e.atWrites then s.writtenRefs ch list h.commit n h.length else .ok []
    if refs.any a.refs.contains then .error (atFault 0x47 h.handle)
    else if (if e.atWrites then h.length < h.commit + n else h.commit < n) then .error (atFault 0x48 h.handle)
    else
      let q0 := if e.atWrites then h.commit else h.commit - n
      .ok ⟨some stream, a.refs ++ refs, a.ends ++ [q0, q0 + n]⟩

/-- The start checks; the entry keeps Q0 and kend of each branch. -/
def State.atStart (s : State) (ch : ChIdx) (e : Entry) : Try (State × Entry) := do
  let a ← tryFold (fun a b => s.atBranch ch e a b) ⟨none, [], []⟩ (List.range (e.sz 2))
  .ok (s, { e with aux := a.ends })

/-- Q0 of branch b. -/
def Entry.q0 (e : Entry) (b : Nat) : Nat := e.aux.getD (2 * b) 0
/-- kend of branch b. -/
def Entry.kend (e : Entry) (b : Nat) : Nat := e.aux.getD (2 * b + 1) 0

/-! ## The write step (R262) -/

/-- The new row of position i of branch b in one half. -/
def State.atNewRow (s : State) (ch : ChIdx) (e : Entry) (c : FtCfg) (half i b : Nat) : Try State := do
  let t := e.t (if half == 0 then 2 else 4)
  let p := e.q0 b + i
  let ref ← s.listRef ch (e.atList b) (p / 64)
  let vs ← tryMap (fun d => s.elem ch t none (d, i, b, 0)) (List.range c.head)
  s.putPageRow ch c ref half p vs

/-- Its cost (R274). -/
def State.atWriteCost (s : State) (ch : ChIdx) (e : Entry) (c : FtCfg) : Try Nat := do
  let n := e.sz 0 * e.sz 2
  let ref ← s.listRef ch (e.atList 0) (e.q0 0 / 64)
  let bytes := n * 2 * (c.row + c.srow)
  .ok (max (ceilDiv bytes (s.rate ch (s.sourceVa ch (c.rowAddr ref 0 0)))) (ceilDiv (2 * n * c.head) 1024) + 36)

/-- The write step belongs to the first pass. -/
def State.atBefore (s : State) (ch : ChIdx) (e : Entry) : Try (State × Entry) :=
  match e.pass, e.atWrites, (s.chan[ch]).ft.cfg with
  | 0, true, some c => do
    let rows := (List.range (e.sz 2)).flatMap fun b => (List.range (e.sz 0)).flatMap fun i => [(0, i, b), (1, i, b)]
    let s' ← tryFold (fun s (x : Nat × Nat × Nat) => s.atNewRow ch e c x.1 x.2.1 x.2.2) s rows
    .ok (s', { e with cyc := e.cyc + (← s.atWriteCost ch e c) })
  | _, _, _ => .ok (s, e)

/-! ## Which keys a row sees (R263, R264) -/

/-- A query row: its position within the branch, head and branch. -/
structure AtRow where
  i : Nat
  h : Nat
  b : Nat
  deriving DecidableEq, Repr

/-- Query row r. -/
def Entry.atRow (e : Entry) (r : Nat) : AtRow :=
  let n := max 1 (e.sz 0)
  let g := max 1 (e.sz 1)
  ⟨r % n, r / n % g, r / (n * g)⟩

/-- The place of a row in Q and O. -/
def AtRow.place (x : AtRow) : Nat × Nat × Nat := (x.i, x.h, x.b)

/-- The mark of a position: none where OPD5 is invalid. -/
def State.atMark (s : State) (ch : ChIdx) (e : Entry) (p b : Nat) : Try (Option Nat) :=
  if (wOpd e.word 5).isSome then do .ok (some (← s.word ch (e.t 5) (p, b, 0, 0))) else .ok none

/-- Two marks carry the same segment and neither carries PAD. -/
def marksMeet (k q : Option Nat) : Bool :=
  match k, q with
  | some a, some b => a < 2 ^ 31 && a == b
  | _, _ => true

/-- Key position p is admitted for a row at query position qp, masks apart (R263 points 1 to 3, log entry 45). -/
def keyAdmitted (w : Wide) (kend qp p : Nat) : Bool :=
  p < kend && p / atCblk w ≤ qp / atCblk w && (atWindow w == 0 || (qp : Int) - (p : Int) < (atWindow w : Int))

/-- The positions of list entry j that a row admits. -/
def State.atAdmitted (s : State) (ch : ChIdx) (e : Entry) (x : AtRow) (j : Nat) : Try (List Nat) := do
  let qp := e.q0 x.b + x.i
  let ps := ((List.range 64).map (64 * j + ·)).filter (keyAdmitted e.word (e.kend x.b) qp)
  if ps.isEmpty then .ok []
  else do
    let ref ← s.listRef ch (e.atList x.b) j
    if e.masked.contains ref then .ok []
    else do
      let q ← s.atMark ch e qp x.b
      let ms ← tryMap (fun p => do .ok (p, ← s.atMark ch e p x.b)) ps
      .ok ((ms.filter fun m => marksMeet m.2 q).map (·.1))

/-! ## The arithmetic of one row (R265) -/

/-- The running state of a row: m, l, a, the admitted count, bad, and products dropped under R132. -/
structure AtAcc where
  m : Num
  l : Num
  a : List Num
  cnt : Nat
  bad : Bool
  drops : Nat

/-- The weights of a half page in PFMT, absent where no key is admitted. -/
def atWeights (pfmt : Nat) (ws : List (Option Num)) : List Pos :=
  if pfmt == 0 then ws.map fun w => w.map fun v => (fBF16.val (fBF16.conv rne v).1, .one)
  else
    let (sc, cs, _) := mxBlock 3 (fun _ => rne) (ws.map fun w => w.getD (.zero false))
    (ws.zip cs).map fun x => x.1.map fun _ => (elemVal 3 x.2, scaleVal 3 sc)

/-- One half page: the sum of the weights and the value product (R131, R132); `vs` holds the V row of each position. -/
def atHalf (acc : AtAcc) (pq : List Pos) (vs : List (List Pos)) : AtAcc :=
  let sl := blockSum (pq.filterMap fun p => p.map fun x => scaled x.2 x.1)
  let outs := acc.a.mapIdx fun d a => accBlock (a, 0) pq (vs.map fun row => row.getD d none)
  { acc with
    l := if sl.isZero then acc.l else add32 acc.l sl
    a := outs.map (·.1)
    drops := acc.drops + (outs.map (·.2)).sum }

/-- One page for one row: `ss` holds score and V row of each of the 64 positions that is admitted. -/
def atPage (pfmt : Nat) (acc : AtAcc) (ss : List (Option (Num × List Pos))) : AtAcc :=
  let scores := ss.filterMap (·.map (·.1))
  let acc := { acc with cnt := acc.cnt + scores.length }
  if scores.any (fun v => v.isNan || v == .inf false) then { acc with bad := true }
  else
    let mn := scores.foldl Num.max acc.m
    if mn == .inf true then acc
    else
      let acc := if acc.m.lt mn then
          let c := fnExp (sub32 acc.m mn)
          { acc with l := mul32 acc.l c, a := acc.a.map (mul32 · c) }
        else acc
      let ws := ss.map fun x => x.map fun y => fnExp (sub32 y.1 mn)
      let vs := ss.map fun x => match x with
        | some y => y.2
        | none => []
      let acc := atHalf acc (atWeights pfmt (ws.take 32)) (vs.take 32)
      let acc := atHalf acc (atWeights pfmt (ws.drop 32)) (vs.drop 32)
      { acc with m := mn }

/-- Score and V row of one position. -/
def State.atScore (s : State) (ch : ChIdx) (e : Entry) (c : FtCfg) (q : List Pos) (ref p : Nat) :
    Try ((Num × List Pos) × Nat) := do
  let k ← s.pageRow ch c ref 0 p
  let v ← s.pageRow ch c ref 1 p
  let (d, n) := accumulate (.zero false) q k
  .ok ((mul32 d (fFP32.val (atScale e.word)), v), n)

/-- One list entry of a row. -/
def State.atEntry (s : State) (ch : ChIdx) (e : Entry) (c : FtCfg) (q : List Pos) (x : AtRow) (acc : AtAcc) (j : Nat) :
    Try AtAcc := do
  let adm ← s.atAdmitted ch e x j
  if adm.isEmpty || acc.bad then .ok acc
  else do
    let ref ← s.listRef ch (e.atList x.b) j
    let ss ← tryMap (fun k => if adm.contains (64 * j + k) then do .ok (some (← s.atScore ch e c q ref (64 * j + k)))
      else .ok none) (List.range 64)
    let drops := (ss.map fun (x : Option ((Num × List Pos) × Nat)) => match x with
      | some y => y.2
      | none => 0).sum
    .ok (atPage (atPfmt e.word) { acc with drops := acc.drops + drops } (ss.map (·.map (·.1))))

/-- The list entries of a branch. -/
def Entry.atEntries (e : Entry) (b : Nat) : List Nat := List.range (ceilDiv (e.kend b) 64)

/-- A whole row. -/
def State.atRowVal (s : State) (ch : ChIdx) (e : Entry) (c : FtCfg) (x : AtRow) : Try AtAcc := do
  let q ← s.stream ch e.td (e.t 0) (fun d => some (d, x.place)) c.head
  tryFold (fun acc j => s.atEntry ch e c q x acc j)
    ⟨.inf true, .zero false, List.replicate c.head (.zero false), 0, false, 0⟩ (e.atEntries x.b)

/-- The outputs of a row. -/
def AtAcc.out (r : AtAcc) : List Num :=
  if r.bad then r.a.map fun _ => .nan
  else if r.l.isZero then r.a.map fun _ => .zero false
  else r.a.map (mul32 · (div32 .one r.l))

/-- The statistics of a row (R259, R266). -/
def AtAcc.stat (r : AtAcc) : RowStat := ⟨if r.bad then .nan else r.m, if r.bad then .nan else r.l, .zero false, r.cnt⟩

/-- The row's outputs behind CONST; a row with no admitted key takes +0 whatever CONST holds (R266). -/
def AtAcc.outs (w : Wide) (r : AtAcc) : List Num :=
  let c := bits (wEpi w) 31 16
  if r.cnt == 0 || c == 0 then r.out else r.out.map (mul32 · (fBF16.val c))

/-- One row is written: outputs under the predicates, statistics, and the counters of CH_AT_STAT. R259 writes STAT for each
row, so the STAT of a row that RPRED masks is written too (DEDUCED, log entry 44). -/
def State.atPutRow (s : State) (ch : ChIdx) (e : Entry) (cact : List Bool) (hd r : Nat) (acc : AtAcc) : Try State := do
  let ract ← s.active ch e.td (wRpred e.word) r
  let p : EpiPass := ⟨e, e.t 3, hd, fun r => (e.atRow r).place, r, 0, [], 0⟩
  let vs : List (Option OutVal) := (acc.outs e.word).mapIdx fun d v => if ract && cact.getD d true then some (v, none) else none
  let s ← s.outRow ch p r vs
  let s ← match (if bit (wEpi e.word) 8 then wStat e.word else none) with
    | none => .ok s
    | some t => s.putStat ch (tensOf e.td t) r acc.stat
  .ok (if acc.bad then s.satF ch R.CH_AT_STAT_NANROW 1 else if acc.cnt == 0 then s.satF ch R.CH_AT_STAT_EMPTY 1 else s)

/-! ## Pages and cost of a tile (R268, R274) -/

/-- The class of an entry: the pages take the class of their partner or class 2 (R258). -/
def Entry.atClass (e : Entry) : Nat := max (fmtClass (e.t 0).fmt) (if atPfmt e.word == 0 then 4 else 2)

/-- Row tile `p`: its first row and its rows. -/
def Entry.atTile (e : Entry) (p : Nat) : Nat × Nat :=
  let mt := (tile (wArr e.word) e.atClass).1
  (p * mt, min mt (e.sz 0 * e.sz 1 * e.sz 2 - p * mt))

/-- The pages of branch b at list entry j that some row of a tile admits. -/
def State.atNeeds (s : State) (ch : ChIdx) (e : Entry) (rows : List AtRow) (j b : Nat) : Try (List Nat) := do
  if e.kend b ≤ 64 * j then .ok []
  else do
    let hits ← tryMap (fun x => s.atAdmitted ch e x j) (rows.filter (·.b == b))
    if hits.all (·.isEmpty) then .ok [] else do .ok [← s.listRef ch (e.atList b) j]

/-- The pages of a tile in the order of R274, one per branch that reads it. -/
def State.atPages (s : State) (ch : ChIdx) (e : Entry) (rows : List AtRow) : Try (List Nat) := do
  let last := (List.range (e.sz 2)).foldl (fun m b => max m (ceilDiv (e.kend b) 64)) 0
  let ps ← tryMap (fun j => do
    .ok (← tryMap (fun b => s.atNeeds ch e rows j b) (List.range (e.sz 2))).flatten) (List.range last)
  .ok ps.flatten

/-- A list without repeats, in order of first appearance. -/
def distinct (l : List Nat) : List Nat := l.foldl (fun (a : List Nat) x => if a.contains x then a else a ++ [x]) []

/-- Cycles of one group of pages; `first` holds what the tile's first group reads beside them. -/
def State.atGroup (s : State) (ch : ChIdx) (c : FtCfg) (nt mt : Nat) (first : Feed) (ps : List Nat) : Nat :=
  let np := ps.length
  let pv := 32 * ceilDiv (2 * np) (max 1 (nt / c.head))
  let f := ps.foldl (fun (f : Feed) r =>
    s.feedBytes ch 0 (c.scaleAddr r 0 0) c.scale (s.feedBytes ch 0 (c.rowAddr r 0 0) c.data f)) first
  max (c.head + pv) (max (ceilDiv (mt * 64 * np) 1024) (s.feedCycles ch f)) + 4

/-- Cycles of a tile: its groups, normalise and drain. -/
def State.atTileCost (s : State) (ch : ChIdx) (e : Entry) (c : FtCfg) (r0 mt : Nat) (pages : List Nat) : Nat :=
  let nt := (tile (wArr e.word) e.atClass).2
  let groups := chunks (nt / 64) pages.length pages
  let first := s.feedRows ch e.td (e.t 0) 0 ((List.range mt).map fun i => (e.atRow (r0 + i)).place) c.head e.part
  ((groups.mapIdx fun k g => s.atGroup ch c nt mt (if k == 0 then first else []) g).sum) + ceilDiv (mt * c.head) 1024 + 4

/-- The bytes of a KV page: those of its data page and of its scale page. -/
def FtCfg.pageRuns (c : FtCfg) (ref : Nat) : List (Nat × Nat) :=
  [(c.pageBase + ref * c.data, c.data), (c.scaleBase + ref * c.scale, c.scale)]

/-- The reads of a KV page go through the translation cache, the regulators and the tier cache, and are counted (R306, R319, R322,
R327). -/
def State.pageTouch (s : State) (ch : ChIdx) (c : FtCfg) (ref : Nat) : State :=
  (c.pageRuns ref).foldl (fun (s : State) r => s.vaTouch ch r.1 r.2) s

/-- One pass: a row tile. -/
def State.atPass (s : State) (ch : ChIdx) (e : Entry) (reruns : Nat) : Try (State × Entry) :=
  match (s.chan[ch]).ft.cfg with
  | none => .ok (s, e)
  | some c => do
    let (r0, n) := e.atTile e.pass
    let idx := (List.range n).map (r0 + ·)
    let rows := idx.map e.atRow
    let accs ← tryMap (s.atRowVal ch e c) rows
    let pages ← s.atPages ch e rows
    let used := distinct pages
    let cact ← s.activeFrom ch e.td (wCpred e.word) 0 c.head
    let cost := s.atTileCost ch e c r0 n used
    let drain := ceilDiv (n * c.head) 1024
    let s' ← tryFold (fun s (x : Nat × AtAcc) => s.atPutRow ch e cact c.head x.1 x.2) s (idx.zip accs)
    let s' := used.foldl (fun (s : State) ref => s.pageTouch ch c ref) s'
    let s' := (s'.countSpan ch (accs.map (·.drops)).sum).incF ch R.CH_AT_SHARED_SAVED (pages.length - used.length)
    let total := cost * (reruns + 1)
    let s' := ((s'.noteAct ch total).noteDrain ch drain).modMx ch fun m => { m with drain := 0 }
    .ok (s', { e with cyc := e.cyc + total, part := s.epiFeed ch e (e.t 3) (fun r => (e.atRow r).place) r0 n 0 c.head })

/-- An AT entry closes: O, then l_epi with the drain of the last tile (R274). -/
def State.atDone (s : State) (ch : ChIdx) (e : Entry) : State × Entry × Nat :=
  let n := (e.atTile (e.pass - 1)).2
  (s, { e with cyc := e.cyc + s.lEpi ch e (e.t 3).fmt e.part (ceilDiv (n * (e.t 3).dim 0) 1024) }, 0)

/-- The columns that a tile occupies: scores of the pages of a group, or its outputs where they are more (R265, R274). -/
def State.atCols (s : State) (ch : ChIdx) (e : Entry) : Nat :=
  let last := (List.range (e.sz 2)).foldl (fun m b => max m (ceilDiv (e.kend b) 64)) 0
  let head := match (s.chan[ch]).ft.cfg with
    | some c => c.head
    | none => 0
  min (tile (wArr e.word) e.atClass).2 (max head (64 * last))

/-- An AT operation in execution. -/
def runAt : OpRun :=
  { onePass (fun s ch e n => ofTry s e (s.atPass ch e n)) with
    cls := fun _ _ e => e.atClass
    passes := fun _ _ e => ceilDiv (e.sz 0 * e.sz 1 * e.sz 2) (tile (wArr e.word) e.atClass).1
    tile := fun s ch e => ((e.atTile e.pass).2, s.atCols ch e)
    start := State.atStart
    before := State.atBefore
    done := State.atDone }

/-! ## Commands -/

/-- AT.PREFILL. -/
def execAtPrefill (ch : Fin 8) (jc : Fin 16) (w : BitVec 512) (s : State) : Out :=
  .next (s.issueWide ch jc (asOp 0 0x10 w) formAt)
/-- AT.DECODE. -/
def execAtDecode (ch : Fin 8) (jc : Fin 16) (w : BitVec 512) (s : State) : Out :=
  .next (s.issueWide ch jc (asOp 0 0x11 w) formAt)
/-- AT.DECODE_GQ. -/
def execAtDecodeGq (ch : Fin 8) (jc : Fin 16) (w : BitVec 512) (s : State) : Out :=
  .next (s.issueWide ch jc (asOp 0 0x12 w) formAt)

end Sys2Proof.Machine
end

