-- ==== Sys2Proof/Machine/Cipher.lean ====
section
/-! DEFINITION. AES-256-GCM and the verification of ECDSA over P-384, as published (R458, R460; log entry 14). -/

namespace Sys2Proof.Machine

/-! ## AES-256 -/

/-- Multiplication by x in the field of AES. -/
def xtime (a : Nat) : Nat := if a < 128 then 2 * a else (2 * a) % 256 ^^^ 0x1B

/-- Multiplication in the field of AES: the low `fuel` bits of `b`. -/
def gfMul : Nat → Nat → Nat → Nat
  | 0, _, _ => 0
  | fuel + 1, a, b => (if b % 2 == 1 then a else 0) ^^^ gfMul fuel (xtime a) (b / 2)

/-- A power in the field of AES. -/
def gfPow (a : Nat) : Nat → Nat
  | 0 => 1
  | k + 1 => gfMul 8 a (gfPow a k)

/-- A byte rotated left. -/
def rol8 (a k : Nat) : Nat := (a * 2 ^ k) % 256 + a / 2 ^ (8 - k)

/-- The S-box: the inverse in the field, then the affine map. -/
def sbox (a : Nat) : Nat :=
  let b := gfPow a 254
  b ^^^ rol8 b 1 ^^^ rol8 b 2 ^^^ rol8 b 3 ^^^ rol8 b 4 ^^^ 0x63

/-- The S-box as a table. -/
def sboxTable : List Nat := (List.range 256).map sbox

/-- One byte substituted. -/
def subByte (a : Nat) : Nat := sboxTable.getD a 0

/-- Bytewise exclusive or. -/
def xorList (a b : List Nat) : List Nat := List.zipWith (fun (x y : Nat) => x ^^^ y) a b

/-- The words of the key schedule, newest first. -/
def keyWords : Nat → List (List Nat) → List (List Nat)
  | 0, ws => ws
  | fuel + 1, ws =>
    let i := ws.length
    let prev := ws.headD []
    let t := if i % 8 == 0 then xorList ((prev.drop 1 ++ prev.take 1).map subByte) [gfPow 2 (i / 8 - 1), 0, 0, 0]
      else if i % 8 == 4 then prev.map subByte else prev
    keyWords fuel (xorList (ws.getD 7 []) t :: ws)

/-- The fifteen round keys of a 32-byte key. -/
def roundKeys (key : List Nat) : List (List Nat) :=
  let first := (List.range 8).map fun i => slice key (4 * i) 4
  let ws := (keyWords 52 first.reverse).reverse
  (List.range 15).map fun r => (slice ws (4 * r) 4).flatten

/-- ShiftRows on sixteen bytes in column order. -/
def shiftRows (st : List Nat) : List Nat := (List.range 16).map fun i => st.getD ((i + 4 * (i % 4)) % 16) 0

/-- MixColumns. -/
def mixColumns (st : List Nat) : List Nat :=
  (List.range 16).map fun i =>
    let g (k : Nat) : Nat := st.getD (i / 4 * 4 + (i + k) % 4) 0
    xtime (g 0) ^^^ (xtime (g 1) ^^^ g 1) ^^^ g 2 ^^^ g 3

/-- One block enciphered. -/
def aesBlock (rks : List (List Nat)) (block : List Nat) : List Nat :=
  let st := xorList block (rks.getD 0 [])
  let st := (List.range 13).foldl (fun (st : List Nat) r =>
    xorList (mixColumns (shiftRows (st.map subByte))) (rks.getD (r + 1) [])) st
  xorList (shiftRows (st.map subByte)) (rks.getD 14 [])

/-! ## GCM -/

/-- A step of the multiplication of GHASH: the rest of `x` from bit `i` down, the product so far, the shifted factor. -/
def ghashMul : Nat → Nat → Nat → Nat → Nat
  | 0, _, z, _ => z
  | i + 1, x, z, v =>
    ghashMul i x (if x / 2 ^ i % 2 == 1 then z ^^^ v else z) (if v % 2 == 1 then (v / 2) ^^^ (0xE1 * 2 ^ 120) else v / 2)

/-- Sixteen bytes at a time, the last block filled with zeros. -/
def blocks16 : Nat → List Byte → List (List Byte)
  | 0, _ => []
  | fuel + 1, l => if l.isEmpty then [] else padTo 16 (l.take 16) :: blocks16 fuel (l.drop 16)

/-- GHASH of the associated data and the ciphertext. -/
def ghash (h : Nat) (aad ct : List Byte) : Nat :=
  let lens := beBytes 8 (8 * aad.length) ++ beBytes 8 (8 * ct.length)
  (blocks16 aad.length aad ++ blocks16 ct.length ct ++ [lens]).foldl (fun (y : Nat) b => ghashMul 128 (y ^^^ beNat b) 0 h) 0

/-- The block cipher on bytes. -/
def aesBytes (rks : List (List Nat)) (b : List Byte) : List Byte :=
  (aesBlock rks (b.map BitVec.toNat)).map (BitVec.ofNat 8)

/-- AES-256-GCM under a 32-byte key and a 12-byte nonce: the plaintext when the tag holds (R460). -/
def gcmOpen (key iv aad ct tag : List Byte) : Option (List Byte) :=
  let rks := roundKeys (key.map BitVec.toNat)
  let ctr (i : Nat) : List Byte := iv ++ beBytes 4 i
  let h := beNat (aesBytes rks (List.replicate 16 0))
  let t := ghash h aad ct ^^^ beNat (aesBytes rks (ctr 1))
  if beBytes 16 t != tag then none
  else
    let ks := (List.range ((ct.length + 15) / 16)).flatMap fun i => aesBytes rks (ctr (i + 2))
    some (List.zipWith (fun (a b : Byte) => a ^^^ b) ct ks)

/-! ## ECDSA over P-384 -/

/-- The prime of the field. -/
def p384 : Nat := 2 ^ 384 - 2 ^ 128 - 2 ^ 96 + 2 ^ 32 - 1
/-- The order of the base point. -/
def n384 : Nat := 0xFFFFFFFFFFFFFFFFFFFFFFFFFFFFFFFFFFFFFFFFFFFFFFFFC7634D81F4372DDF581A0DB248B0A77AECEC196ACCC52973
/-- The constant b of the curve. -/
def b384 : Nat := 0xB3312FA7E23EE7E4988E056BE3F82D19181D9C6EFE8141120314088F5013875AC656398D8A2ED19D2A85C8EDD3EC2AEF
/-- The base point. -/
def g384 : Nat × Nat :=
  (0xAA87CA22BE8B05378EB1C71EF320AD746E1D3B628BA79B9859F741E082542A385502F25DBF55296C3A545E3872760AB7,
   0x3617DE4A96262C6F5D9E98BF9292DC29F8F41DBD289A147CE9DA3113B5F0B8C00A60B1CE1D7E819D7A431D7C90EA0E5F)

/-- A power modulo `m`: the low `fuel` bits of the exponent. -/
def powMod : Nat → Nat → Nat → Nat → Nat
  | 0, _, _, _ => 1
  | fuel + 1, a, k, m =>
    let h := powMod fuel (a * a % m) (k / 2) m
    if k % 2 == 1 then a * h % m else h

/-- The inverse modulo a prime of 384 bits. -/
def invMod (a m : Nat) : Nat := powMod 384 (a % m) (m - 2) m

/-- A point of the curve; none is the point at infinity. -/
abbrev Point := Option (Nat × Nat)

/-- The sum of two points of the curve. -/
def pointAdd (a b : Point) : Point :=
  let p := p384
  match a, b with
  | none, b => b
  | a, none => a
  | some (x1, y1), some (x2, y2) =>
    if x1 == x2 && (y1 + y2) % p == 0 then none
    else
      let l := if x1 == x2 then (3 * x1 * x1 + (p - 3)) * invMod (2 * y1) p % p
        else (y2 + (p - y1)) * invMod (x2 + (p - x1)) p % p
      let x := (l * l + (p - x1) + (p - x2)) % p
      some (x, (l * (x1 + (p - x)) + (p - y1)) % p)

/-- A multiple of a point: the low `fuel` bits of `k`. -/
def pointMul : Nat → Nat → Point → Point
  | 0, _, _ => none
  | fuel + 1, k, q =>
    if k == 0 then none
    else
      let h := pointMul fuel (k / 2) (pointAdd q q)
      if k % 2 == 1 then pointAdd q h else h

/-- The signature (r, s) over a hash holds under the public key (x, y). -/
def ecdsaHolds (x y hash r s : Nat) : Bool :=
  let p := p384
  let n := n384
  if r == 0 || s == 0 || n ≤ r || n ≤ s || p ≤ x || p ≤ y || y * y % p != (x * x * x + (p - 3) * x + b384) % p then false
  else
    let w := invMod s n
    match pointAdd (pointMul 384 (hash * w % n) (some g384)) (pointMul 384 (r * w % n) (some (x, y))) with
    | none => false
    | some (px, _) => px % n == r

end Sys2Proof.Machine
end

