-- ==== Sys2Proof/Machine/Futures.lean ====
section
/-! DEFINITION. The futures table unit: its registers and the FT entries (R210 to R254). -/

namespace Sys2Proof.Machine

open Sys2Proof

/-! ## Registers (R210, R211, R222, R244) -/

/-- A field of the configuration block. -/
def cfgField (b : List Byte) (off n : Nat) : Nat := leNat (slice b off n)

/-- The configuration block of Table 8.1 read field by field. -/
def cfgOf (b : List Byte) : FtCfg :=
  ⟨cfgField b 0 8, cfgField b 8 8, cfgField b 16 4, cfgField b 20 4, cfgField b 24 8, cfgField b 32 8, cfgField b 40 8,
    cfgField b 48 1, cfgField b 49 1, cfgField b 50 2⟩

/-- The regions of a configuration: base and length. -/
def FtCfg.regions (c : FtCfg) : List (Nat × Nat) :=
  [(c.pageBase, c.pages * c.data), (c.scaleBase, c.pages * c.scale)] ++ c.own

/-- Some pair of a list of regions overlaps. -/
def overlaps : List (Nat × Nat) → Bool
  | [] => false
  | a :: rest => rest.any (fun b => decide (a.1 < b.1 + b.2) && decide (b.1 < a.1 + a.2)) || overlaps rest

/-- The configuration is refused (R210). -/
def FtCfg.bad (c : FtCfg) : Bool :=
  c.pages == 0 || 536870911 < c.pages || c.blocks == 0 || 16777216 < c.blocks || 2 < c.form || 2 < c.hd ||
    c.streams == 0 || 4096 < c.streams || c.pages < c.streams ||
    c.regions.any (fun r => r.1 % 4096 != 0 || 2 ^ 56 ≤ r.1) || overlaps c.regions

/-- The configuration block in memory, none when it cannot be read or is refused. -/
def State.readCfg (s : State) (ch : ChIdx) : Option FtCfg :=
  match s.vaRead ch (s.f ch R.FT_CFGBLK_LO_ADDR_LO * 64 + s.f ch R.FT_CFGBLK_HI_ADDR_HI * 2 ^ 32) 64 with
  | .error _ => none
  | .ok b => if (cfgOf b).bad then none else some (cfgOf b)

/-- FT_CTL_WRITE (R211, R516). -/
def execFtCtlWrite (ch : Fin 8) (val : BitVec 32) (s : State) : Out :=
  .next (s.chanWr ch 0x6000 fun s =>
    let en := s.f ch R.FT_CTL_EN
    if bits val.toNat 0 0 == en then s
    else if !s.allFree ch then s.postReg (pfOf ch) .ftCtlLocked []
    else if en == 1 then
      ((s.setF ch R.FT_CTL_EN 0).setF ch R.FT_CTL_READY 0).modFt ch fun f => { FtSt.init none with hostReq := f.hostReq }
    else match s.readCfg ch with
      | none => s.post (srcOf ch 0x012) .ftCfgBad []
      | some c => (s.setF ch R.FT_CTL_EN 1).modFt ch fun f => { FtSt.init (some c) with hostReq := f.hostReq })

/-- FT_READY: the store is initialised. -/
def execFtReady (ch : Fin 8) (s : State) : Out :=
  .next (if s.f ch R.FT_CTL_EN == 1 then s.setF ch R.FT_CTL_READY 1 else s)

/-- A range of entries meets the range of another context. -/
def State.rangeMeets (s : State) (ch : ChIdx) (jc : JcIdx) (base count : Nat) : Bool :=
  (List.finRange 16).any fun j =>
    let r := s.ftRange ch j
    j != jc && base < r.1 + r.2 && r.1 < base + count

/-- FT_JC_RANGE_WRITE (R222, R516). -/
def execFtJcRangeWrite (ch : Fin 8) (jc : Fin 16) (val : BitVec 32) (s : State) : Out :=
  let off := 0x6100 + 4 * jc.val
  .next (s.chanWr ch off fun s =>
    let base := bits val.toNat 15 0
    let m1 := bits val.toNat 31 16
    if (s.ctx ch jc).st != .free then s
    else if 65535 < base + m1 || s.rangeMeets ch jc base (m1 + 1) then s.postReg (pfOf ch) .ftRangeBad []
    else s.modC ch (·.wr off val))

/-- FT_HOST_RELEASE: at most 64 requests wait (R244). HANDLE starts an action and reads as 0. -/
def execFtHostRelease (ch : Fin 8) (val : BitVec 32) (s : State) : Out :=
  .next (s.chanWr ch 0x600C fun s =>
    if 64 ≤ (s.chan[ch]).ft.hostReq.length then s.postReg (pfOf ch) .ftHostBad []
    else s.modC ch fun c => { c with ft := { c.ft with hostReq := c.ft.hostReq ++ [val.toNat] } })

/-- HOST_RELEASE_APPLY: the oldest request takes effect between FT entries (R244). -/
def execHostReleaseApply (ch : Fin 8) (s : State) : Out :=
  .next (if (s.eq ch 2).run.isSome then s
    else match (s.chan[ch]).ft.hostReq with
      | [] => s
      | h :: rest =>
        let s := s.modC ch fun c => { c with ft := { c.ft with hostReq := rest } }
        let f := (s.chan[ch]).ft
        let b := f.ent (h % 65536)
        if f.named h && b.st == .live && b.owner == 0x10 then s.modFt ch fun f => f.release (s.readers ch) (h % 65536)
        else s.post (srcOf ch 0x012) .ftHostBad [])

/-! ## Issue (R224) -/

/-- MODE of FT.LOOKUP. -/
def ftMode (w : Wide) : Nat := wPar w 1 0
/-- FIRST stream. -/
def ftFirst (w : Wide) : Nat := wPar w 13 2
/-- COUNT of streams. -/
def ftCount (w : Wide) : Nat := wPar w 25 14 + 1
/-- START_BLOCK. -/
def ftStart (w : Wide) : Nat := wPar w 37 26
/-- LISTS. -/
def ftLists (w : Wide) : Bool := wPar w 38 38 == 1
/-- PUBLISH. -/
def ftPublish (w : Wide) : Bool := wPar w 39 39 == 1

/-- An operand is an INT32 tensor of this rank. -/
def int32Of (rank : Nat) (t : Tens) : Bool := t.fmt == 0xD && t.rank + 1 == rank && t.space != 3

/-- Operand `k` is present and passes, or is absent when it need not be present. -/
def Iss.opdOk (i : Iss) (k : Nat) (need : Bool) (ok : Tens → Bool) : Bool :=
  match i.t k with
  | none => !need
  | some t => ok t

/-- Operands that must be invalid are. -/
def Iss.absent (i : Iss) (ks : List Nat) : Bool := ks.all fun k => !i.has k

/-- FT_OPERAND. -/
def Iss.ftErr (i : Iss) (ok : Bool) : Option XErr := failIf (!ok || i.has 4 || i.has 5) (i.fault 0x60)

/-- FT.FORK at issue. -/
def formFork : OpForm :=
  plainForm false (fun _ => false) (fun w => [govOf w [(0, 0), (3, 1)], govOf w [(3, 0)], none, none]) [3] fun i =>
    i.ftErr (i.opdOk 0 true (int32Of 1) && i.absent [1, 2] && i.opdOk 3 true (int32Of 2))

/-- FT.PRUNE at issue. -/
def formPrune : OpForm :=
  plainForm false (fun i => wPar i.w 15 0 == 0) (fun w => [govOf w [(0, 0), (1, 0), (3, 0)], none, none, none]) [3] fun i =>
    i.ftErr (i.opdOk 0 true (int32Of 1) && i.opdOk 1 true (fun t => (t.fmt == 0xA || t.fmt == 8) && t.rank == 0) &&
      i.absent [2] && i.opdOk 3 true (int32Of 1))

/-- LISTS or PUBLISH in another mode. -/
def lookupBad (i : Iss) : Bool := (ftLists i.w && ftMode i.w != 1) || (ftPublish i.w && ftMode i.w != 2)

/-- A page list. -/
def isList (t : Tens) : Bool := t.space == 3

/-- FT.LOOKUP READ at issue. -/
def formRead : OpForm :=
  { plainForm false lookupBad (fun w => [govOf w [(0, 0)], none, none, none]) [3] (fun i =>
      i.ftErr (i.opdOk 0 true (int32Of 1) && i.absent [1, 2] && i.opdOk 3 true isList)) with
    lists := fun _ => [3] }

/-- FT.LOOKUP RESERVE at issue. -/
def formReserve : OpForm :=
  { plainForm false lookupBad (fun w => [govOf w [(0, 0), (2, 0), (1, 1)], govOf w [(1, 0)], none, none]) [2, 3] (fun i =>
      i.ftErr (i.opdOk 0 true (int32Of 1) && i.opdOk 1 false (int32Of 2) && i.opdOk 2 true (int32Of 1) &&
        (if ftLists i.w then i.opdOk 3 true isList else i.absent [3]))) with
    lists := fun w => if ftLists w then [3] else [] }

/-- FT.LOOKUP COMMIT at issue. -/
def formCommit : OpForm :=
  plainForm false lookupBad (fun w => [govOf w [(0, 0)], some [], none, none]) [] fun i =>
    i.ftErr (i.opdOk 0 true (int32Of 1) && i.absent [1, 2, 3])

/-- FT.LOOKUP INFO at issue. -/
def formInfo : OpForm :=
  plainForm false lookupBad (fun w => [govOf w [(0, 0), (3, 1)], none, none, none]) [3] fun i =>
    i.ftErr (i.opdOk 0 true (int32Of 1) && i.absent [1, 2] && i.opdOk 3 true fun t => int32Of 2 t && 16 ≤ t.dim 0)

/-- FT.PIN at issue. -/
def formPin : OpForm :=
  plainForm false (fun i => 5 < wPar i.w 2 0) (fun w => [govOf w [(0, 0), (1, 0)], none, none, none]) [] fun i =>
    i.ftErr (i.opdOk 0 true (int32Of 1) && i.absent [2, 3] &&
      (if wPar i.w 2 0 == 5 then i.opdOk 1 true (int32Of 1) else i.absent [1]))

/-! ## Start checks (R225) -/

/-- The operation of an FT entry: 1 FORK, 2 PRUNE, 3 LOOKUP, 4 PIN; `ftKind` tells its modes apart. -/
inductive FtKind where
  | fork | prune | read | reserve | commit | info | pin (mode : Nat)
  deriving DecidableEq, Repr

/-- The kind of an entry. -/
def ftKind (w : Wide) : FtKind :=
  match wOp w with
  | 1 => .fork
  | 2 => .prune
  | 3 => match ftMode w with
    | 0 => .read
    | 1 => .reserve
    | 2 => .commit
    | _ => .info
  | _ => .pin (wPar w 2 0)

/-- Elements 0 to n - 1 of a vector of INT32. -/
def State.vec (s : State) (ch : ChIdx) (t : Tens) (n : Nat) : Try (List Nat) :=
  tryMap (fun b => s.word ch t (b, 0, 0, 0)) (List.range n)

/-- Every page of a run of device virtual memory translates; the first address that does not is the fault. -/
def State.covered (s : State) (ch : ChIdx) (va n : Nat) : Try Unit :=
  if n == 0 then .ok ()
  else tryFold (fun (_ : Unit) k =>
    let a := if k == 0 then va else (va / 4096 + k) * 4096
    match s.translate ch a with
    | .ok _ => .ok ()
    | .error e => .error e.x) () (List.range ((va + n - 1) / 4096 - va / 4096 + 1))

/-- The pages of `rows` rows of `n` elements of an output operand. -/
def State.outCovered (s : State) (ch : ChIdx) (t : Tens) (rows n : Nat) : Try Unit :=
  if t.space != 0 then .ok ()
  else tryFold (fun (_ : Unit) r => s.covered ch (t.base + r * t.stride 1) (t.bytesOf n)) () (List.range rows)

/-- The store of a channel. -/
def State.fts (s : State) (ch : ChIdx) : FtSt := (s.chan[ch]).ft

/-- The entry writes page lists. -/
def Entry.ftListOut (e : Entry) : Bool := ftKind e.word == .read || (ftKind e.word == .reserve && ftLists e.word)

/-- Step 2: inputs can be read and outputs translate. -/
def State.ftAccess (s : State) (ch : ChIdx) (e : Entry) : Try Unit := do
  let b := e.sz 0
  let k := ftKind e.word
  let _ ← if k == .prune then tryMap (fun j => s.elem32 ch (e.t 1) none (j, 0, 0, 0)) (List.range b) else .ok []
  let _ ← if k == .pin 5 then s.vec ch (e.t 1) b else .ok []
  let _ ← if k == .reserve && (wOpd e.word 1).isSome then
      tryMap (fun x => s.word ch (e.t 1) x)
        ((List.range b).flatMap fun j => (List.range (e.sz 1)).map fun q => (q, j, 0, 0))
    else .ok []
  let _ ← if k == .fork then s.outCovered ch (e.t 3) b (e.sz 1)
    else if k == .prune then s.outCovered ch (e.t 3) 1 b
    else if k == .reserve then s.outCovered ch (e.t 2) 1 b
    else if k == .info then s.outCovered ch (e.t 3) b 16
    else .ok ()
  if e.ftListOut then s.covered ch (e.t 3).base (b * ftCount e.word * listBytes ((e.t 3).dim 1)) else .ok ()

/-- The context has a pin on a handle. -/
def State.hasPin (s : State) (ch : ChIdx) (jc : Nat) (h : Nat) : Bool := (s.ctx ch (jcOf jc)).pins.any (·.handle == h)

/-- Table 8.5: a handle that names a branch may be used. -/
def State.ftAllowed (s : State) (ch : ChIdx) (jc : Nat) (k : FtKind) (h : Nat) : Bool :=
  let b := (s.fts ch).ent (h % 65536)
  let mine := b.st == .live && b.owner == jc
  let held := b.st == .live && b.owner == 0x10
  match k with
  | .read | .pin 0 => mine || held
  | .pin 1 => s.hasPin ch jc h
  | .pin 4 => held
  | .info => true
  | _ => mine

/-- FT_STALE, then FT_OWNER, for one handle (R223). -/
def State.ftHandleErr (s : State) (ch : ChIdx) (jc : Nat) (k : FtKind) (h : Nat) : Option XErr :=
  if h == 0 && k == .fork then none
  else if !(s.fts ch).named h then some (xerr 0x62 h)
  else if !s.ftAllowed ch jc k h then some (xerr 0x63 h)
  else none

/-- The first handle that is listed twice. -/
def firstDup : List Nat → List Nat → Option Nat
  | _, [] => none
  | seen, h :: hs => if seen.contains h then some h else firstDup (h :: seen) hs

/-- FT_DUP applies to PRUNE, RESERVE, COMMIT and PIN. -/
def FtKind.dups : FtKind → Bool
  | .prune | .reserve | .commit | .pin _ => true
  | _ => false

/-- FT_UNCOMMITTED for one branch (R226, R231). -/
def State.uncommitted (s : State) (ch : ChIdx) (e : Entry) (h : Nat) : Bool :=
  let b := (s.fts ch).ent (h % 65536)
  match ftKind e.word with
  | .fork => h != 0 && b.length != b.commit
  | .commit => b.length < b.commit + e.sz 1
  | _ => false

/-- FT_LIST for one branch (R249). -/
def State.listBad (s : State) (ch : ChIdx) (e : Entry) (h : Nat) : Bool :=
  let n := if ftKind e.word == .reserve then e.sz 1 else 0
  let t := e.t 3
  e.ftListOut && ((match (s.fts ch).cfg with
    | some c => c.head != t.dim 0
    | none => true) || t.dim 1 < ((s.fts ch).ent (h % 65536)).length + n || t.str.any (· != 0))

/-- The first handle at which PIN finds the pin table or PINS full (R242): `new` counts the rows it would add. -/
def State.pinFull (s : State) (ch : ChIdx) (jc : Nat) : Nat → List Nat → Option Nat
  | _, [] => none
  | rows, h :: hs =>
    let rows' := if s.hasPin ch jc h then rows else rows + 1
    if 64 < rows' || 255 ≤ ((s.fts ch).ent (h % 65536)).pins then some h else s.pinFull ch jc rows' hs

/-- FREE entries of a context's range, lowest first. -/
def State.freeEnts (s : State) (ch : ChIdx) (jc : Nat) : List Nat :=
  let r := s.ftRange ch (jcOf jc)
  ((List.range r.2).map (r.1 + ·)).filter fun i => ((s.fts ch).ent i).st == .free

/-- Blocks that a RESERVE of `n` positions allocates or copies for one branch; `copied` holds the tips copied so far
(R246). -/
def FtSt.needBlocks (f : FtSt) (n : Nat) (a : Nat × List Nat) (h : Nat) : Nat × List Nat :=
  let b := f.ent (h % 65536)
  let fresh := ceilDiv (b.length + n) 64 - ceilDiv b.length 64
  match b.tip with
  | some t =>
    if b.length % 64 != 0 && 1 < (f.blk t).refs - (a.2.filter (· == t)).length then (a.1 + fresh + 1, t :: a.2)
    else (a.1 + fresh, a.2)
  | none => (a.1 + fresh, a.2)

/-- FT_NOSPACE (R246). -/
def State.noSpace (s : State) (ch : ChIdx) (e : Entry) (hs : List Nat) : Option XErr :=
  let f := s.fts ch
  let blocks := (hs.foldl (f.needBlocks (e.sz 1)) (0, [])).1
  let pages := blocks * f.streams
  let have_ := f.pool + f.streams * f.reclaimable
  if have_ < pages then some (xerr 0x66 (pages - have_))
  else if f.freeBlks + f.reclaimable < blocks then some (xerr 0x66 0xFFFFFFFF)
  else none

/-- Steps 4 to 11. -/
def State.ftChecks (s : State) (ch : ChIdx) (e : Entry) (hs : List Nat) : Option XErr :=
  let k := ftKind e.word
  let free := if k == .fork then (s.freeEnts ch e.jc).length else 0
  firstErr [
    hs.findSome? (s.ftHandleErr ch e.jc k),
    if k.dups then (firstDup [] hs).map (xerr 0x64) else none,
    (hs.find? (s.uncommitted ch e)).map (xerr 0x68),
    if k == .reserve then
      (hs.find? fun h => 262144 < ((s.fts ch).ent (h % 65536)).length + e.sz 1).map (xerr 0x67) else none,
    (hs.find? (s.listBad ch e)).map (xerr 0x69),
    if k == .pin 0 then (s.pinFull ch e.jc (s.ctx ch (jcOf e.jc)).pins.length hs).map (xerr 0x6A) else none,
    failIf (k == .fork && free < e.sz 0 * e.sz 1) (xerr 0x65 (e.sz 0 * e.sz 1 - free)),
    if k == .reserve then s.noSpace ch e hs else none]

/-- The start of an FT entry: its checks; it keeps its handles, and the entries that hold pages in quarantine (R245). -/
def State.ftStartEntry (s : State) (ch : ChIdx) (e : Entry) : Try (State × Entry) :=
  match (s.fts ch).cfg with
  | none => .error (xerr 0x61 0)
  | some c => do
    let hs ← s.vec ch (e.t 0) (e.sz 0)
    let _ ← s.ftAccess ch e
    if wOp e.word == 3 && c.streams < ftFirst e.word + ftCount e.word then .error (xerr 0x15 0)
    else match s.ftChecks ch e hs with
      | some x => .error x
      | none => .ok (s, { e with aux := hs, part := (s.readers ch).map fun o => (o, 0) })

/-! ## What the operations do -/

/-- A change of the store alone; the registers follow at the end of the entry. -/
def State.ftOp (s : State) (ch : ChIdx) (g : FtSt → FtSt) : State := s.modC ch fun c => { c with ft := g c.ft }

/-- The readers, queued when the entry started, that have not completed. -/
def State.ftWait (s : State) (ch : ChIdx) (e : Entry) : List Nat :=
  let now := s.readers ch
  (e.part.map (·.1)).filter now.contains

/-! ### FT.FORK (R226, R227) -/

/-- The entry of a child. -/
def FtSt.child (f : FtSt) (gen jc h ns : Nat) : Branch :=
  if h == 0 then ⟨gen, .live, jc, 0, false, 0, 0, 0, 0, 1, 0, 0, ns, rootKey ns, none⟩
  else
    let p := f.ent (h % 65536)
    ⟨gen, .live, jc, 0, p.keyless, h, p.length, p.length, p.length, 1, p.punty, h, p.ns, p.key, p.tip⟩

/-- One child of a parent at a FREE index. -/
def FtSt.forkOne (f : FtSt) (jc h ns i : Nat) : FtSt :=
  let f := (f.setEnt i (f.child (f.ent i).gen jc h ns)).pay 8 0
  if h == 0 then f
  else
    let f := f.modEnt (h % 65536) fun p => { p with refs := p.refs + 1 }
    match (f.ent i).tip with
    | some t => f.incBlk t
    | none => f

/-- FT.FORK. -/
def State.ftFork (s : State) (ch : ChIdx) (e : Entry) (hs : List Nat) : Try State := do
  let ns := wPar e.word 31 0
  let n := e.sz 1
  let kids := (s.freeEnts ch e.jc).take (hs.length * n)
  let pairs := (hs.flatMap fun h => List.replicate n h).zip kids
  let s := s.ftOp ch fun f => (pairs.foldl (fun (f : FtSt) x => f.forkOne e.jc x.1 ns x.2) f).pay (16 * hs.length) 0
  let names := kids.map (s.fts ch).handle
  tryFold (fun (s : State) p => s.putCodes ch (e.t 3) (0, p, 0, 0) (slice names (p * n) n)) s (List.range hs.length)

/-! ### FT.LOOKUP RESERVE (R228, R229) -/

/-- Published blocks are adopted while they match: the store, positions adopted, and probes that collided. -/
def FtSt.adopt (wait : List Nat) (pkey : BitVec 128) (i : Nat) : Nat → List Nat → FtSt → FtSt × Nat × Nat
  | 0, _, f => (f, 0, 0)
  | fuel + 1, ts, f =>
    let b := f.ent i
    if ts.length < 64 || b.length % 64 != 0 then (f, 0, 0)
    else match f.probe pkey b.key b.tip b.ns (ts.take 64) with
      | (some x, _, f) =>
        let f := f.incBlk x
        let f := match b.tip with
          | some t => FtSt.decBlk wait chainFuel f t
          | none => f
        let key := (f.blk x).key
        let f := f.modEnt i fun b => { b with tip := some x, key := key, length := b.length + 64, commit := b.commit + 64 }
        let (f, hit, bad) := FtSt.adopt wait pkey i fuel (ts.drop 64) f
        (f, hit + 64, bad)
      | (none, c, f) => (f, 0, if c == 2 then 1 else 0)

/-- The cost of a block allocated or copied. -/
def FtSt.payBlock (f : FtSt) : FtSt :=
  f.pay (24 + ceilDiv f.streams 16) (match f.cfg with
    | some c => c.bstride
    | none => 0)

/-- A new OPEN block at the branch's end. -/
def FtSt.newBlock (wait : List Nat) (i : Nat) (f : FtSt) : FtSt :=
  let (k, f) := f.takeBlk wait
  let (ps, f) := FtSt.takePages wait f.streams f
  let b := f.ent i
  let f := f.setBlk k ⟨b.tip, 1, .open_, 0, false, false, b.length / 64, 0, b.ns, [], ps⟩
  (f.modEnt i fun b => { b with tip := some k }).payBlock

/-- A copy of a shared tip: the store, and the page pairs to copy. -/
def FtSt.copyBlock (wait : List Nat) (i t : Nat) (f : FtSt) : FtSt × List (Nat × Nat) :=
  let (k, f) := f.takeBlk wait
  let (ps, f) := FtSt.takePages wait f.streams f
  let o := f.blk t
  let f := f.setBlk k { o with refs := 1, st := .open_, inTable := false, key := 0, pages := ps }
  let f := f.modBlk t fun b => { b with refs := b.refs - 1 }
  let f := match o.parent with
    | some p => f.modBlk p fun b => { b with refs := b.refs + 1 }
    | none => f
  let f := (f.modEnt i fun b => { b with tip := some k }).payBlock
  (f.pay 0 (match f.cfg with
    | some c => f.streams * 4 * o.fill * (c.row + c.srow)
    | none => 0), o.pages.zip ps)

/-- Rows 0 to `fill` - 1 of both halves and their scales are copied from page to page. -/
def State.copyPage (s : State) (ch : ChIdx) (c : FtCfg) (fill : Nat) (x : Nat × Nat) : Try State :=
  tryFold (fun (s : State) half => do
    let a ← s.spRead ch 0 (c.rowAddr x.1 half 0) (fill * c.row)
    let s ← s.spWrite ch 0 (c.rowAddr x.2 half 0) a
    let b ← s.spRead ch 0 (c.scaleAddr x.1 half 0) (fill * c.srow)
    s.spWrite ch 0 (c.scaleAddr x.2 half 0) b) s [0, 1]

/-- One position joins the tip; `t` is its token. -/
def FtSt.append (i : Nat) (t : Option Nat) (f : FtSt) : FtSt :=
  match (f.ent i).tip with
  | none => f
  | some k =>
    let f := f.modBlk k fun b =>
      { b with fill := b.fill + 1, tokens := b.tokens ++ [t.getD 0], noKey := b.noKey || t.isNone }
    f.modEnt i fun b => { b with length := b.length + 1 }

/-- One position of a RESERVE. -/
def State.reservePos (s : State) (ch : ChIdx) (wait : List Nat) (i : Nat) (t : Option Nat) : Try State := do
  let f := s.fts ch
  let b := f.ent i
  let s ←
    if b.length % 64 == 0 then .ok (s.ftOp ch (FtSt.newBlock wait i))
    else match b.tip, f.cfg with
      | some k, some c =>
        if 1 < (f.blk k).refs then
          let (f', pairs) := f.copyBlock wait i k
          tryFold (fun (s : State) x => s.copyPage ch c (f.blk k).fill x) (s.ftOp ch fun _ => f') pairs
        else .ok s
      | _, _ => .ok s
  .ok (s.ftOp ch (FtSt.append i t))

/-- RESERVE of one branch: the state and hits[b]. -/
def State.reserveOne (s : State) (ch : ChIdx) (e : Entry) (wait : List Nat) (b h : Nat) : Try (State × Nat) := do
  let i := h % 65536
  let n := e.sz 1
  let f := s.fts ch
  let br := f.ent i
  let tokens := (wOpd e.word 1).isSome
  let ts ← if tokens then tryMap (fun q => s.word ch (e.t 1) (q, b, 0, 0)) (List.range n) else .ok []
  let pkey := match s.part ch with
    | some p => p.pkey
    | none => 0
  let (f, hit, bad) := if tokens && !br.keyless && br.length == br.commit then f.adopt wait pkey i (n / 64 + 1) ts else (f, 0, 0)
  let s := (s.ftOp ch fun _ => f.pay 32 0).satF ch R.FT_PFX_STAT_HITS (hit / 64)
  let s := s.satF ch R.FT_PFX_STAT_COLLIDE bad
  let s ← tryFold (fun (s : State) q => s.reservePos ch wait i (if tokens then some (ts.getD q 0) else none)) s
    ((List.range (n - hit)).map (hit + ·))
  .ok (s, hit)

/-! ### Page lists (R248, R249) -/

/-- The blocks of a branch from its tip back, at most down to block `start`. -/
def FtSt.chain (f : FtSt) (start : Nat) : Nat → Option Nat → List Blk
  | 0, _ => []
  | _, none => []
  | fuel + 1, some k =>
    let b := f.blk k
    if b.number < start then [] else b :: f.chain start fuel b.parent

/-- The header of the list of a branch for a stream. -/
def FtSt.header (f : FtSt) (h stream : Nat) : List Byte :=
  let b := f.ent (h % 65536)
  let c := f.cfg.getD ⟨0, 0, 0, 0, 0, 0, 0, 0, 0, 0⟩
  padTo 64 (leBytes 4 h ++ leBytes 4 b.length ++ leBytes 4 b.commit ++ leBytes 2 stream ++ leBytes 1 c.form ++
    leBytes 1 c.hd ++ leBytes 4 (ceilDiv b.length 64))

/-- One list: its header, and its entries from START_BLOCK on. -/
def State.putList (s : State) (ch : ChIdx) (va h stream : Nat) (blocks : List Blk) : Try State := do
  let s ← s.spWrite ch 0 va ((s.fts ch).header h stream)
  tryFold (fun (s : State) b => s.spWrite ch 0 (va + 64 + 4 * b.number) (leBytes 4 (b.pages.getD stream 0))) s blocks

/-- The lists of every listed branch. -/
def State.putLists (s : State) (ch : ChIdx) (e : Entry) (hs : List Nat) : Try State := do
  let w := e.word
  let n := ftCount w
  let t := e.t 3
  let idx := ((List.range hs.length).zip hs).flatMap fun x => (List.range n).map fun k => (x.1, x.2, k)
  let walk (s : State) (h : Nat) : List Blk :=
    (s.fts ch).chain (ftStart w) chainFuel ((s.fts ch).ent (h % 65536)).tip
  let s ← tryFold (fun (s : State) (x : Nat × Nat × Nat) =>
    s.putList ch (t.base + (x.1 * n + x.2.2) * listBytes (t.dim 1)) x.2.1 (ftFirst w + x.2.2) (walk s x.2.1)) s idx
  let blocks := (hs.map fun h => (walk s h).length).sum
  .ok (s.ftOp ch (·.pay (blocks * (8 + ceilDiv n 16)) (blocks * (64 + 4 * n) + n * (64 * hs.length + 4 * blocks))))

/-- FT.LOOKUP RESERVE. -/
def State.ftReserve (s : State) (ch : ChIdx) (e : Entry) (hs : List Nat) : Try State := do
  let wait := s.ftWait ch e
  let s ← tryFold (fun (s : State) (x : Nat × Nat) => do
    let (s, hit) ← s.reserveOne ch e wait x.1 x.2
    s.putCodes ch (e.t 2) (x.1, 0, 0, 0) [hit]) s ((List.range hs.length).zip hs)
  if ftLists e.word then s.putLists ch e hs else .ok s

/-- FT.LOOKUP READ. -/
def State.ftRead (s : State) (ch : ChIdx) (e : Entry) (hs : List Nat) : Try State :=
  (s.ftOp ch (·.pay (16 * hs.length) 0)).putLists ch e hs

/-! ### FT.LOOKUP COMMIT (R231) -/

/-- One block is sealed: the store, and what its insertion came to (0 to 3 as FtSt.insert says, 4 none). -/
def FtSt.seal (wait : List Nat) (pkey : BitVec 128) (publish : Bool) (i : Nat) (f : FtSt) (k : Nat) : FtSt × Nat :=
  let y := f.blk k
  let f := (f.modBlk k fun b => { b with st := .sealed }).pay 24 0
  if y.noKey || (f.ent i).keyless then (f.modEnt i fun b => { b with keyless := true }, 4)
  else
    let parent := match y.parent with
      | some p => (f.blk p).key
      | none => rootKey (f.ent i).ns
    let key := blockKey pkey parent y.tokens
    let f := (f.modBlk k fun b => { b with key := key }).pay 48 320
    let f := f.modEnt i fun b => { b with key := key }
    if publish then f.insert wait k else (f, 4)

/-- The records of a branch's chain whose block numbers lie in a range, in ascending order. -/
def FtSt.between (f : FtSt) (lo hi : Nat) : Nat → Option Nat → List Nat
  | 0, _ => []
  | _, none => []
  | fuel + 1, some k =>
    let b := f.blk k
    if b.number < lo then [] else f.between lo hi fuel b.parent ++ (if b.number < hi then [k] else [])

/-- COMMIT of one branch. -/
def State.commitOne (s : State) (ch : ChIdx) (e : Entry) (wait : List Nat) (h : Nat) : State :=
  let i := h % 65536
  let pkey := match s.part ch with
    | some p => p.pkey
    | none => 0
  let b := (s.fts ch).ent i
  let s := s.ftOp ch fun f => (f.modEnt i fun b => { b with commit := b.commit + e.sz 1 }).pay 16 0
  ((s.fts ch).between (b.commit / 64) ((b.commit + e.sz 1) / 64) chainFuel b.tip).foldl (fun (s : State) k =>
    let (f, r) := (s.fts ch).seal wait pkey (ftPublish e.word) i k
    let s := s.ftOp ch fun _ => f
    if r == 1 then s.satF ch R.FT_PFX_STAT_EVICT 1
    else if r == 2 then s.satF ch R.FT_PFX_STAT_DUP 1
    else if r == 3 then s.satF ch R.FT_PFX_STAT_COLLIDE 1
    else s) s

/-! ### FT.LOOKUP INFO (Table 8.4) -/

/-- STATE of a branch as the table holds it. -/
def BrSt.code : BrSt → Nat
  | .free => 0
  | .live => 1
  | .released => 2

/-- The 16 words of an entry. -/
def FtSt.info (f : FtSt) (h : Nat) : List Nat :=
  let b := f.ent (h % 65536)
  let key (k : Nat) : Nat := b.key.toNat / 2 ^ (32 * k) % 2 ^ 32
  [h, b.st.code + b.owner * 2 ^ 8 + b.pins * 2 ^ 16 + (if b.keyless then 2 ^ 24 else 0), b.parent, b.forkPos, b.length,
    b.commit, b.refs, b.punty, b.group, b.ns, key 0, key 1, key 2, key 3, 0, 0]

/-- FT.LOOKUP INFO. -/
def State.ftInfo (s : State) (ch : ChIdx) (e : Entry) (hs : List Nat) : Try State :=
  tryFold (fun (s : State) (x : Nat × Nat) => s.putCodes ch (e.t 3) (0, x.1, 0, 0) ((s.fts ch).info x.2))
    (s.ftOp ch (·.pay (16 * hs.length) (64 * hs.length))) ((List.range hs.length).zip hs)

/-! ### FT.PRUNE (R239, R240) -/

/-- A listed branch with its group and score. -/
structure Ranked where
  h : Nat
  g : Nat
  v : Num
  deriving DecidableEq, Repr

/-- `a` ranks ahead of `b`: by score descending, NaN last, then by handle ascending. -/
def Ranked.ahead (a b : Ranked) : Bool :=
  if a.v.isNan || b.v.isNan then (if a.v.isNan && b.v.isNan then decide (a.h < b.h) else b.v.isNan)
  else b.v.lt a.v || (!a.v.lt b.v && decide (a.h < b.h))

/-- The branch is among the first K of its group. -/
def kept1 (l : List Ranked) (k : Nat) (a : Ranked) : Bool := (l.filter fun b => b.g == a.g && b.ahead a).length < k

/-- FT.PRUNE. -/
def State.ftPrune (s : State) (ch : ChIdx) (e : Entry) (hs : List Nat) : Try State := do
  let wait := s.ftWait ch e
  let all := wPar e.word 16 16 == 1
  let l ← tryMap (fun (x : Nat × Nat) => do
    let v ← s.elem32 ch (e.t 1) none (x.1, 0, 0, 0)
    .ok (Ranked.mk x.2 (if all then 0 else ((s.fts ch).ent (x.2 % 65536)).group) v)) ((List.range hs.length).zip hs)
  tryFold (fun (s : State) (x : Nat × Ranked) => do
    let i := x.2.h % 65536
    let keep := if kept1 l (wPar e.word 15 0) x.2 then 1 else if 0 < ((s.fts ch).ent i).pins then 2 else 0
    let s := if keep == 0 then s.ftOp ch fun f => f.release wait i else s
    let s := if keep == 2 then s.satF ch R.FT_PINKEEP_PINKEEP 1 else s
    s.putCodes ch (e.t 3) (x.1, 0, 0, 0) [keep]) (s.ftOp ch (·.pay (12 * hs.length) 0)) ((List.range l.length).zip l)

/-! ### FT.PIN (R241, Table 8.7) -/

/-- A pin enters the context's pin table. -/
def addPin (l : List PinRow) (h : Nat) : List PinRow :=
  if l.any (·.handle == h) then l.map fun p => if p.handle == h then { p with count := p.count + 1 } else p else l ++ [⟨h, 1⟩]

/-- A pin leaves it. -/
def dropPin (l : List PinRow) (h : Nat) : List PinRow :=
  (l.map fun p => if p.handle == h then { p with count := p.count - 1 } else p).filter (·.count != 0)

/-- One branch of FT.PIN; `v` is its element of OPD1. -/
def State.pinOne (s : State) (ch : ChIdx) (wait : List Nat) (jc mode h v : Nat) : State :=
  let i := h % 65536
  match mode with
  | 0 => (s.ftOp ch fun f => f.modEnt i fun b => { b with pins := b.pins + 1, refs := b.refs + 1 }).modX ch (jcOf jc)
      fun c => { c with pins := addPin c.pins h }
  | 1 => (s.ftOp ch fun f => f.unpin wait i).modX ch (jcOf jc) fun c => { c with pins := dropPin c.pins h }
  | 2 => s.ftOp ch fun f => f.release wait i
  | 3 => s.ftOp ch fun f => f.modEnt i fun b => { b with owner := 0x10 }
  | 4 => s.ftOp ch fun f => f.modEnt i fun b => { b with owner := jc }
  | _ => s.ftOp ch fun f => f.modEnt i fun b => { b with punty := v }

/-- FT.PIN. -/
def State.ftPin (s : State) (ch : ChIdx) (e : Entry) (mode : Nat) (hs : List Nat) : Try State := do
  let wait := s.ftWait ch e
  let vs ← if mode == 5 then s.vec ch (e.t 1) hs.length else .ok []
  .ok ((((List.range hs.length).zip hs).foldl (fun (s : State) x => s.pinOne ch wait e.jc mode x.2 (vs.getD x.1 0)) s).ftOp ch
    (·.pay (12 * hs.length) 0))

/-! ## Execution -/

/-- The work of an FT entry by its kind. -/
def State.ftWork (s : State) (ch : ChIdx) (e : Entry) : Try State :=
  let hs := e.aux
  match ftKind e.word with
  | .fork => s.ftFork ch e hs
  | .prune => s.ftPrune ch e hs
  | .read => s.ftRead ch e hs
  | .reserve => s.ftReserve ch e hs
  | .commit => .ok (hs.foldl (fun (s : State) h => s.commitOne ch e (s.ftWait ch e) h) s)
  | .info => s.ftInfo ch e hs
  | .pin mode => s.ftPin ch e mode hs

/-- The one pass of an FT entry: all its effects, its cost, and the registers (R225, R253). -/
def State.ftPass (s : State) (ch : ChIdx) (e : Entry) : Try (State × Entry) := do
  let s ← (s.ftOp ch fun f => { f with tallyC := 64, tallyB := 0 }).ftWork ch e
  let f := s.fts ch
  let cyc := f.tallyC + ceilDiv f.tallyB 512
  .ok ((s.ftOp ch fun f => { f with tallyC := 0, tallyB := 0 }).ftSync ch, { e with cyc := e.cyc + cyc })

/-- An FT entry in execution. While READY is 0 or a host release waits none is ready (R211, R244, State.entryReady). -/
def runFt : OpRun :=
  { onePass (fun s ch e _ => ofTry s e (s.ftPass ch e)) with
    start := State.ftStartEntry }

/-! ## Commands -/

/-- FT.FORK. -/
def execFtFork (ch : Fin 8) (jc : Fin 16) (w : BitVec 512) (s : State) : Out :=
  .next (s.issueWide ch jc (asOp 2 1 w) formFork)
/-- FT.PRUNE. -/
def execFtPrune (ch : Fin 8) (jc : Fin 16) (w : BitVec 512) (s : State) : Out :=
  .next (s.issueWide ch jc (asOp 2 2 w) formPrune)
/-- FT.LOOKUP READ. -/
def execFtLookupRead (ch : Fin 8) (jc : Fin 16) (w : BitVec 512) (s : State) : Out :=
  .next (s.issueWide ch jc (asMode 1 0 0 (asOp 2 3 w)) formRead)
/-- FT.LOOKUP RESERVE. -/
def execFtLookupReserve (ch : Fin 8) (jc : Fin 16) (w : BitVec 512) (s : State) : Out :=
  .next (s.issueWide ch jc (asMode 1 0 1 (asOp 2 3 w)) formReserve)
/-- FT.LOOKUP COMMIT. -/
def execFtLookupCommit (ch : Fin 8) (jc : Fin 16) (w : BitVec 512) (s : State) : Out :=
  .next (s.issueWide ch jc (asMode 1 0 2 (asOp 2 3 w)) formCommit)
/-- FT.LOOKUP INFO. -/
def execFtLookupInfo (ch : Fin 8) (jc : Fin 16) (w : BitVec 512) (s : State) : Out :=
  .next (s.issueWide ch jc (asMode 1 0 3 (asOp 2 3 w)) formInfo)
/-- FT.PIN PIN. -/
def execFtPinPin (ch : Fin 8) (jc : Fin 16) (w : BitVec 512) (s : State) : Out :=
  .next (s.issueWide ch jc (asMode 2 0 0 (asOp 2 4 w)) formPin)
/-- FT.PIN UNPIN. -/
def execUnpin (ch : Fin 8) (jc : Fin 16) (w : BitVec 512) (s : State) : Out :=
  .next (s.issueWide ch jc (asMode 2 0 1 (asOp 2 4 w)) formPin)
/-- FT.PIN RELEASE. -/
def execFtPinRelease (ch : Fin 8) (jc : Fin 16) (w : BitVec 512) (s : State) : Out :=
  .next (s.issueWide ch jc (asMode 2 0 2 (asOp 2 4 w)) formPin)
/-- FT.PIN DETACH. -/
def execDetach (ch : Fin 8) (jc : Fin 16) (w : BitVec 512) (s : State) : Out :=
  .next (s.issueWide ch jc (asMode 2 0 3 (asOp 2 4 w)) formPin)
/-- FT.PIN ADOPT. -/
def execAdopt (ch : Fin 8) (jc : Fin 16) (w : BitVec 512) (s : State) : Out :=
  .next (s.issueWide ch jc (asMode 2 0 4 (asOp 2 4 w)) formPin)
/-- FT.PIN SET_PUNTY. -/
def execSetPunty (ch : Fin 8) (jc : Fin 16) (w : BitVec 512) (s : State) : Out :=
  .next (s.issueWide ch jc (asMode 2 0 5 (asOp 2 4 w)) formPin)

end Sys2Proof.Machine
end

