-- ==== Sys2Proof/Machine/Recurrent.lean ====
section
/-! DEFINITION. The recurrent engine: its registers, RC.CHUNK, RC.FLUSH, RC.STEP, RC.EXPORT and RC.IMPORT (R276 to
R299). -/

namespace Sys2Proof.Machine

open Sys2Proof

/-! ## Registers (R278, R297, R298) -/

/-- RC_CTL_WRITE (R278, R516). -/
def execRcCtlWrite (ch : Fin 8) (val : BitVec 32) (s : State) : Out :=
  .next (s.chanWr ch 0x6800 fun s =>
    let en := s.f ch R.CH_RC_CTL_EN
    if bits val.toNat 0 0 == en then s
    else if !s.allFree ch then s.postReg (pfOf ch) .rcCtlLocked []
    else
      let s := (s.modC ch fun c => { c with rc := [] }).rcCount ch
      (s.setF ch R.CH_RC_CTL_EN (1 - en)).setF ch R.CH_RC_CTL_READY 0)

/-- RC_READY: the table is initialised. -/
def execRcReady (ch : Fin 8) (s : State) : Out :=
  .next (if s.f ch R.CH_RC_CTL_EN == 1 then s.setF ch R.CH_RC_CTL_READY 1 else s)

/-- A swap-out of a LIVE state is deferred: it is SWAP_PENDING. -/
def RcEnt.defer (dst : Nat) (host : Bool) (e : RcEnt) : RcEnt := { e with st := .pending, dst := dst, host := host || e.host }

/-- A host request for a LIVE state: at once when nothing runs or waits on it, else deferred. -/
def State.rcHostSwap (s : State) (ch : ChIdx) (i : Nat) : State :=
  let e := s.rcEnt ch i
  let dst := s.f ch R.CH_RC_SWAP_DST_LO_DST_LO * 64 + s.f ch R.CH_RC_SWAP_DST_HI_DST_HI * 2 ^ 32
  let later (_ : Unit) : State := (s.rcMod ch i (RcEnt.defer dst true)).setF ch R.CH_RC_SWAP_ST_STATUS 1
  if e.pins == 0 && e.qref == 0 then
    match s.rcMove ch i dst with
    | .ok s => s.setF ch R.CH_RC_SWAP_ST_STATUS 2
    | .error _ => later ()
  else later ()

/-- CH_RC_SWAP (R297, R298). -/
def execChRcSwap (ch : Fin 8) (val : BitVec 32) (s : State) : Out :=
  .next (s.chanWr ch 0x680C fun s =>
    let s := s.wake ch 6
    if s.f ch R.CH_RC_SWAP_ST_STATUS == 1 then s.postReg (pfOf ch) .rcSwapBad []
    else
      let s := s.modC ch (·.wr 0x680C val)
      match s.rcNamed ch val.toNat with
      | some i => if (s.rcEnt ch i).st == .live then s.rcHostSwap ch i
        else (s.setF ch R.CH_RC_SWAP_ST_STATUS 3).postReg (pfOf ch) .rcSwapBad []
      | none => (s.setF ch R.CH_RC_SWAP_ST_STATUS 3).postReg (pfOf ch) .rcSwapBad [])

/-- RC_SWAPPED: deferred swap-outs that have fallen due take place. -/
def execRcSwapped (ch : Fin 8) (s : State) : Out := .next (s.rcServe ch)

/-! ## Issue of the step operations (R282 to R285) -/

/-- HFMT as a DFMT. -/
def rcHfmt (w : Wide) : Nat := if wPar w 0 0 == 1 then 3 else 8

/-- APERIOD. -/
def rcPeriod (w : Wide) : Nat := wPar w 20 1

/-- Shape fields: Bs and T. -/
def rcGov (w : Wide) : List Gov :=
  [govOf w [(0, 0), (2, 1), (3, 1), (4, 2)], govOf w [(2, 2), (3, 2)], none, none]

/-- RC_OPERAND of R283. -/
def Iss.rcOperandBad (i : Iss) : Bool :=
  !i.opdOk 0 true (int32Of 1) || !i.opdOk 1 false (fun t => t.rank == 1 && !pairBad (rcHfmt i.w) t.fmt) ||
    !i.opdOk 2 true (fun t => sideFmt t.fmt) || !i.opdOk 3 false (fun t => sideFmt t.fmt || t.fmt == 3) ||
    !i.opdOk 4 false (fun t => (t.fmt == 0xA || t.fmt == 0xC) && t.dim 1 == 1) || i.has 4 != (rcPeriod i.w != 0) || i.has 5 ||
    wTa i.w || wAcc i.w || 1 < wRnd i.w || wEpi i.w != wRnd i.w * 64 || 64 < i.sz 0

/-- What the state table says of a handle; a handle that names no state is FREE. -/
def State.rcSt (s : State) (ch : ChIdx) (h : Nat) : RcState :=
  match s.rcNamed ch h with
  | some k => (s.rcEnt ch k).st
  | none => .free

/-- The handles of an entry, read at issue: RC_CLOSED when one names a SWAP_PENDING state (R285, R295). -/
def Iss.rcHandles (i : Iss) : Try (List Nat) := do
  let hs ← i.s.vec i.ch (tensOf i.td ((wOpd i.w 0).getD 0)) (i.sz 0).toNat
  match hs.find? (fun h => i.s.rcSt i.ch h == .pending) with
  | some h => .error (xerr 0x71 h)
  | none => .ok hs

/-- What a cell kind fixes: NP, gate inputs, PARTS, the fed part and l_cell. -/
structure RcCell where
  np : Nat
  gates : Nat
  parts : Nat
  fed : Nat
  lat : Nat
  deriving DecidableEq, Repr

/-- A cell kind (Table 10.2). -/
def cellOf (kind : Nat) : RcCell :=
  match kind with
  | 0 => ⟨0, 2, 1, 0, 16⟩
  | 1 => ⟨2, 2, 1, 0, 44⟩
  | 2 => ⟨3, 3, 1, 0, 64⟩
  | _ => ⟨4, 4, 2, 1, 64⟩

/-- The handles of a step operation at issue, with the references they raise. U stands exactly when the first LIVE state among
them has products (Table 10.3, log entry 47). -/
def Iss.rcRefs (i : Iss) : Try (State × List Nat) := do
  let hs ← i.s.vec i.ch (tensOf i.td ((wOpd i.w 0).getD 0)) (i.sz 0).toNat
  let live (h : Nat) : Bool := i.s.rcSt i.ch h == .live
  match hs.find? live with
  | some h => if i.has 1 != ((cellOf (i.s.rcEnt i.ch (h % 65536)).kind).np != 0) then .error (i.fault 0x70) else .ok ()
  | none => .ok ()
  let hs ← i.rcHandles
  let s := (hs.filter live).foldl (fun (s : State) h => s.rcModH i.ch h fun r => { r with qref := r.qref + 1 }) i.s
  .ok (s, hs.map fun h => 2 * h + (if live h then 1 else 0))

/-- The handles of RC.EXPORT at issue; it raises no reference (R295). -/
def Iss.exportRefs (i : Iss) : Try (State × List Nat) := do
  let hs ← i.rcHandles
  .ok (i.s, hs.map (2 * ·))

/-- RC.CHUNK, RC.FLUSH and RC.STEP at issue; RC.CHUNK alone may yield. -/
def formRc (yields : Bool) : OpForm :=
  { plainForm yields (fun i => wPar i.w 0 0 == 1 && !i.has 1) rcGov [3] (fun i => failIf i.rcOperandBad (i.fault 0x70)) with
    epiBad := epiAny
    atIssue := Iss.rcRefs }

/-! ## Start (R285, R289, R296) -/

/-- The handles of a step entry. -/
def Entry.rcHandles (e : Entry) : List Nat := e.aux.map fun x => (rcRef x).1

/-- RC_STALE, then RC_OWNER, for one handle. Neither has an argument (R518). -/
def State.rcHandleErr (s : State) (ch : ChIdx) (jc : Nat) (h : Nat) : Option XErr :=
  match s.rcNamed ch h with
  | none => some (xerr 0x73 0)
  | some i => if (s.rcEnt ch i).owner == jc then none else some (xerr 0x74 0)

/-- The checks common to the step operations and RC.EXPORT. -/
def State.rcHandleErrs (s : State) (ch : ChIdx) (jc : Nat) (hs : List Nat) : Option XErr :=
  firstErr [hs.findSome? (s.rcHandleErr ch jc), (firstDup [] hs).map fun _ => xerr 0x75 0]

/-- The state a handle names. -/
def State.rcOf (s : State) (ch : ChIdx) (h : Nat) : RcEnt := s.rcEnt ch (h % 65536)

/-- The rule of R289 for T. -/
def rcStepsBad (op t l : Nat) : Bool :=
  if op == 1 then t != l else if op == 5 then t == 0 || l ≤ t else t != 1

/-- RC_SHAPE (R285). -/
def State.rcShapeBad (s : State) (ch : ChIdx) (e : Entry) (hs : List Nat) : Bool :=
  let r := s.rcOf ch (hs.headD 0)
  let c := cellOf r.kind
  let h := r.h
  let opt (k : Nat) (f : Tens → Bool) : Bool := (wOpd e.word k).any fun n => f (tensOf e.td n)
  hs.any (fun x =>
      let q := s.rcOf ch x
      q.kind != r.kind || q.parts != r.parts || q.h != h || q.len != r.len) ||
    (wOpd e.word 1).isSome != (c.np != 0) ||
    opt 1 (fun t => if wTb e.word then t.dim 0 != h || t.dim 1 != c.np * h else t.dim 1 != h || t.dim 0 != c.np * h) ||
    (e.t 2).dim 0 != c.gates * h || opt 3 (fun t => t.dim 0 != h) || opt 4 (fun t => t.dim 0 != c.parts * h) ||
    (c.np != 0 && (tile true (max (fmtClass (rcHfmt e.word)) (fmtClass (e.t 1).fmt))).1 < e.sz 0) ||
    rcStepsBad e.op (e.sz 1) r.len

/-- The start of a step entry: its checks, and a pin on each listed state, which the entry notes in `part`. -/
def State.rcStart (s : State) (ch : ChIdx) (e : Entry) : Try (State × Entry) :=
  let hs := e.rcHandles
  if s.f ch R.CH_RC_CTL_EN == 0 then .error (xerr 0x72 0)
  else match s.rcHandleErrs ch e.jc hs with
    | some x => .error x
    | none =>
      if s.rcShapeBad ch e hs then .error (xerr 0x76 0)
      else .ok (hs.foldl (fun (s : State) h => s.rcModH ch h fun r => { r with pins := r.pins + 1 }) s,
        { e with part := [(1, 0)] })

/-! ## A step (R281, R286) -/

/-- The twin words of one part of a home. -/
def State.rcPart (s : State) (ch : ChIdx) (r : RcEnt) (j : Nat) : Try (List Twin) :=
  match s.rcRead ch r.space (r.home + 6 * j * r.h) (6 * r.h) with
  | .error x => .error x.x
  | .ok b =>
    let v := leNat b
    .ok ((List.range r.h).map fun e => twinOf (v / 2 ^ (48 * e) % 2 ^ 48))

/-- The parts of a home. -/
def State.rcHome (s : State) (ch : ChIdx) (r : RcEnt) : Try (List (List Twin)) :=
  tryMap (s.rcPart ch r) (List.range r.parts)

/-- The parts written to a home. -/
def State.rcPutHome (s : State) (ch : ChIdx) (r : RcEnt) (ps : List (List Twin)) : Try State :=
  match s.rcStore ch r.space r.home (leBytes r.bytes (packCodes 48 (ps.flatten.map Twin.code))) with
  | .ok s => .ok s
  | .error x => .error x.x

/-- The anchor row of stream b. -/
def State.rcAnchor (s : State) (ch : ChIdx) (e : Entry) (r : RcEnt) (b : Nat) : Try (List (List Twin)) :=
  let t := e.t 4
  tryMap (fun j => tryMap (fun k => do .ok (twinOf (← s.code ch t (j * r.h + k, 0, b, 0)))) (List.range r.h)) (List.range r.parts)

/-- The anchor is due: the entry's first step finds STEPS a positive multiple of APERIOD (R292). -/
def rcAnchored (e : Entry) (r : RcEnt) : Bool :=
  e.pass == 0 && rcPeriod e.word != 0 && r.steps != 0 && r.steps % max 1 (rcPeriod e.word) == 0

/-- The row of A of a stream: the fed part's exact values converted to HFMT, to nearest even (R282), with what the
conversions count. -/
def rcRowA (w : Wide) (fed : List Twin) : List Pos × Cnt :=
  if wPar w 0 0 == 0 then
    let (cs, n) := gather (fed.map fun t => fBF16.conv rne t.val)
    (cs.map fun c => some (fBF16.val c, .one), n)
  else
    let bs := (chunks 32 fed.length (fed.map Twin.val)).map (mxBlock 3 fun _ => rne)
    (bs.flatMap fun b => b.2.1.map fun c => some (elemVal 3 c, scaleVal 3 b.1),
      bs.foldl (fun (n : Cnt) b => n.add b.2.2) ⟨0, 0⟩)

/-- The hidden-side product p of a stream: NP × H values, and the products dropped. -/
def rcProduct (a : List Pos) (cols : List (List Pos)) : List Num × Nat :=
  let r := cols.map fun u => accumulate (.zero false) a u
  (r.map (·.1), (r.map (·.2)).sum)

/-- The columns of U. -/
def State.rcCols (s : State) (ch : ChIdx) (e : Entry) (h np : Nat) : Try (List (List Pos)) :=
  tryMap (fun n => s.stream ch e.td (e.t 1) (fun k => some (if wTb e.word then (k, n, 0, 0) else (n, k, 0, 0))) h)
    (List.range (np * h))

/-- One element of a cell: its parts after the step, from its parts, the products p and the gate inputs x (Table 10.2). -/
def rcCell (kind : Nat) (rnd : Rnd) (st : List Twin) (p x : Nat → Num) : List Twin :=
  let z (j : Nat) : Num := add32 (p j) (x j)
  let s0 := st.headD ⟨.zero false, .zero false⟩
  match kind with
  | 0 => [s0.add (add32 (mul32 (sub32 (x 0) .one) s0.hi) (x 1)) rnd]
  | 1 =>
    let d := mul32 (fnSigmoid (z 0)) (sub32 (fnTanh (z 1)) s0.hi)
    [s0.add d rnd]
  | 2 =>
    let c := fnTanh (add32 (x 2) (mul32 (fnSigmoid (z 1)) (p 2)))
    [s0.add (mul32 (fnSigmoid (z 0)) (sub32 c s0.hi)) rnd]
  | _ =>
    let d := add32 (mul32 (sub32 (fnSigmoid (z 1)) .one) s0.hi) (mul32 (fnSigmoid (z 0)) (fnTanh (z 3)))
    let c := s0.add d rnd
    [c, ⟨mul32 (fnSigmoid (z 2)) (fnTanh c.hi), .zero false⟩]

/-- Lists of parts from a list of elements. -/
def byPart (parts : Nat) (els : List (List Twin)) : List (List Twin) :=
  (List.range parts).map fun j => els.map fun t => t.getD j ⟨.zero false, .zero false⟩

/-- One step of stream b. -/
def State.rcStream (s : State) (ch : ChIdx) (e : Entry) (cols : List (List Pos)) (b h : Nat) : Try State := do
  let r := s.rcOf ch h
  let c := cellOf r.kind
  let due := rcAnchored e r
  let ps ← if due then s.rcAnchor ch e r b else s.rcHome ch r
  let rnd : Rnd := ⟨wRnd e.word, 0⟩
  let (a, cnt) := if c.np == 0 then ([], ⟨0, 0⟩) else rcRowA e.word (ps.getD c.fed [])
  let (p, drops) := if c.np == 0 then ([], 0) else rcProduct a cols
  let xs ← tryMap (fun k => s.elem ch (e.t 2) none (k, b, e.pass, 0)) (List.range (c.gates * r.h))
  let els := (List.range r.h).map fun k =>
    rcCell r.kind rnd (ps.map fun l => l.getD k ⟨.zero false, .zero false⟩) (fun j => p.getD (j * r.h + k) (.zero false))
      (fun j => xs.getD (j * r.h + k) (.zero false))
  let new := byPart r.parts els
  let ys : List (Option OutVal) := (new.getD c.fed []).map fun t => some (t.val, none)
  let s ← s.rcPutHome ch r new
  let s ← match wOpd e.word 3 with
    | none => .ok s
    | some n => s.outRow ch ⟨e, tensOf e.td n, r.h, fun _ => (b, e.pass, 0), b, 0, [], 0⟩ b ys
  let s := if due then s.satF ch R.CH_RC_STAT_ANCHORS 1 else s
  .ok (((s.countFmt ch cnt).countSpan ch drops).rcModH ch h fun r => { r with steps := (r.steps + 1) % 2 ^ 64 })

/-! ### Cost (R290) -/

/-- The class of an entry's products. -/
def Entry.rcClass (e : Entry) : Nat := max (fmtClass (rcHfmt e.word)) (fmtClass (e.t 1).fmt)

/-- The bytes of x, y and the states that a step moves. -/
def State.rcFeed (s : State) (ch : ChIdx) (e : Entry) (hs : List Nat) (gates h : Nat) : Feed :=
  let places := (List.range hs.length).map fun b => (b, e.pass, 0)
  let f := s.feedRows ch e.td (e.t 2) 0 places (gates * h) []
  let f := match wOpd e.word 3 with
    | none => f
    | some k => s.feedRows ch e.td (tensOf e.td k) 0 places h f
  hs.foldl (fun (f : Feed) x =>
    let r := s.rcOf ch x
    s.feedBytes ch r.space r.home r.bytes (s.feedBytes ch r.space r.home r.bytes f)) f

/-- The cycles of one step with its drain. -/
def State.rcCost (s : State) (ch : ChIdx) (e : Entry) (hs : List Nat) (reruns : Nat) : Nat × Nat :=
  let r := s.rcOf ch (hs.headD 0)
  let c := cellOf r.kind
  let f := s.rcFeed ch e hs c.gates r.h
  if c.np == 0 then (max (ceilDiv (hs.length * r.h) 1024) (max 16 (s.feedCycles ch f)), 0)
  else
    let nt := (tile true e.rcClass).2
    let drain := ceilDiv (hs.length * nt) 1024
    let kpad := 32 * ceilDiv r.h 32
    let cols (q : Nat) : Nat := min nt (c.np * r.h - q * nt)
    let eq (q : Nat) : Nat :=
      let u := if wTb e.word then s.feedRows ch e.td (e.t 1) 0 (rowPlaces (q * nt) (cols q)) r.h
        else s.feedRows ch e.td (e.t 1) (q * nt) (rowPlaces 0 r.h) (cols q)
      s.feedCycles ch (u (if q == 0 then f else []))
    let passes := (List.range (ceilDiv (c.np * r.h) nt)).map fun q => max kpad (max (if q == 0 then 0 else drain) (eq q)) + 4
    (passes.sum + reruns * (max kpad (eq 0) + 4) + drain + c.lat + (if rcHfmt e.word == 3 then 36 else 4) + 16, drain)

/-- One step of a step entry. -/
def State.rcPass (s : State) (ch : ChIdx) (e : Entry) (reruns : Nat) : Try (State × Entry) := do
  let hs := e.rcHandles
  let r := s.rcOf ch (hs.headD 0)
  let np := (cellOf r.kind).np
  let cols ← if np == 0 then .ok [] else s.rcCols ch e r.h np
  let (n, drain) := s.rcCost ch e hs reruns
  let s' ← tryFold (fun (s : State) (x : Nat × Nat) => s.rcStream ch e cols x.1 x.2) s ((List.range hs.length).zip hs)
  let s' := if np == 0 then s'
    else ((s'.noteAct ch n).noteDrain ch drain).modMx ch fun m => { m with drain := 0 }
  .ok (s', { e with cyc := e.cyc + n })

/-- The rows and columns that the widest pass of a step has on the array. -/
def State.rcTile (s : State) (ch : ChIdx) (e : Entry) : Nat × Nat :=
  let r := s.rcOf ch (e.rcHandles.headD 0)
  (e.rcHandles.length, min (tile true e.rcClass).2 ((cellOf r.kind).np * r.h))

/-- RC.CHUNK, RC.FLUSH and RC.STEP in execution. -/
def runRc : OpRun :=
  { onePass (fun s ch e n => ofTry s e (s.rcPass ch e n)) with
    setup := fun e _ => if e.array then 64 else 80
    cls := fun _ _ e => e.rcClass
    passes := fun _ _ e => e.sz 1
    tile := State.rcTile
    start := State.rcStart }

/-! ## RC.EXPORT (R294, R295, R297) -/

/-- Shape fields of RC.EXPORT. -/
def exportGov (w : Wide) : List Gov := [govOf w [(0, 0), (3, 1)], none, none, none]

/-- RC.EXPORT at issue. -/
def formExport : OpForm :=
  { plainForm false (fun i => wPar i.w 1 0 == 3) exportGov [3] fun i =>
      failIf (!i.opdOk 0 true (int32Of 1) || !i.absent [1, 2, 4, 5] ||
        (if wPar i.w 1 0 == 2 then i.has 3 else !i.opdOk 3 true (int32Of 2)) || 64 < i.sz 0) (i.fault 0x70) with
    atIssue := Iss.exportRefs }

/-- The start of RC.EXPORT: the handle checks, and a row that holds each record. -/
def State.exportStart (s : State) (ch : ChIdx) (e : Entry) : Try (State × Entry) :=
  if s.f ch R.CH_RC_CTL_EN == 0 then .error (xerr 0x72 0)
  else
    let hs := e.rcHandles
    let short (h : Nat) : Bool := 4 * (e.t 3).dim 0 < recordSize (s.rcOf ch h).parts (s.rcOf ch h).h
    match s.rcHandleErrs ch e.jc hs with
    | some x => .error x
    | none => if wPar e.word 1 0 != 2 && hs.any short then .error (xerr 0x76 0) else .ok (s, { e with part := hs.map (·, 0) })

/-- One state of RC.EXPORT: the state after it, and whether its swap-out was deferred. `b` is its row. -/
def State.exportOne (s : State) (ch : ChIdx) (e : Entry) (b h : Nat) : Try (State × Bool) :=
  let i := h % 65536
  let t := e.t 3
  let r := s.rcEnt ch i
  let addr := t.base + b * t.stride 1
  match wPar e.word 1 0 with
  | 0 => match s.rcRecord ch i with
    | .error x => .error x.x
    | .ok bytes => do .ok (← s.spWrite ch t.space addr bytes, false)
  | 1 =>
    let dst := addr + t.space * 2 ^ 56
    if r.pins == 0 && r.qref == 0 then match s.rcMove ch i dst with
      | .error x => .error x.x
      | .ok s => .ok (s, false)
    else .ok (s.rcMod ch i (RcEnt.defer dst false), true)
  | _ => .ok (s.rcFree ch i, false)

/-- The cycles of one record (R295). -/
def recordCycles (size : Nat) : Nat := 32 + max (ceilDiv (2 * size) 512) (4 * ceilDiv size 64)

/-- The pass of RC.EXPORT. -/
def State.exportPass (s : State) (ch : ChIdx) (e : Entry) : Try (State × Entry) := do
  let hs := e.part.map (·.1)
  let size (h : Nat) : Nat := recordCycles (if wPar e.word 1 0 == 2 then 0 else recordSize (s.rcOf ch h).parts (s.rcOf ch h).h)
  let cost := 64 + (hs.map size).sum
  let (s', busy) ← tryFold (fun (a : State × Bool) (x : Nat × Nat) => do
    let (s, d) ← a.1.exportOne ch e x.1 x.2
    .ok (s, a.2 || d)) (s, false) ((List.range hs.length).zip hs)
  .ok (s', { e with cyc := e.cyc + cost, part := [(if busy then 4 else 0, 0)] })

/-- RC.EXPORT in execution: BUSY when a swap-out was deferred. -/
def runExport : OpRun :=
  { onePass (fun s ch e _ => ofTry s e (s.exportPass ch e)) with
    start := State.exportStart
    done := fun s _ e => (s, e, (e.part.headD (0, 0)).1) }

/-! ## RC.IMPORT (R294, R295) -/

/-- MODE ZERO. -/
def impZero (w : Wide) : Bool := wPar w 0 0 == 1
/-- BCAST. -/
def impBcast (w : Wide) : Bool := wPar w 1 1 == 1

/-- Shape fields of RC.IMPORT: under BCAST only record row 0 is used. -/
def importGov (w : Wide) : List Gov :=
  [govOf w ((if impBcast w then [] else [(0, 1)]) ++ [(1, 0), (2, 1), (3, 0)]), none, none, none]

/-- RC.IMPORT at issue. -/
def formImport : OpForm :=
  plainForm false (fun _ => false) importGov [2, 3] fun i =>
    failIf ((if impZero i.w then i.has 0 else !i.opdOk 0 true (int32Of 2)) || !i.opdOk 1 false (int32Of 1) ||
      !i.opdOk 2 true (fun t => t.fmt == 0xC && t.rank == 1 && t.space < 2) || !i.opdOk 3 true (int32Of 1) ||
      !i.absent [4, 5] || 64 < i.sz 0) (i.fault 0x70)

/-- A new state as a record or PARAM gives it: kind, parts, H, L, STEPS and the payload. -/
structure NewState where
  kind : Nat
  parts : Nat
  h : Nat
  len : Nat
  steps : Nat
  body : List Byte

/-- KIND, PARTS, H and L are those of a state (Table 10.1). -/
def NewState.ok (n : NewState) : Bool :=
  n.kind < 4 && n.parts == (cellOf n.kind).parts && 32 ≤ n.h && n.h ≤ 8192 && n.h % 32 == 0 && 16 ≤ n.len && n.len ≤ 1024

/-- The zero state that PARAM names. -/
def impParam (w : Wide) : NewState :=
  let kind := wPar w 5 2
  ⟨kind, (cellOf kind).parts, wPar w 19 6, wPar w 30 20, 0, []⟩

/-- The header of a record read field by field; the payload follows it. -/
def recordHead (b : List Byte) : NewState :=
  let f (o n : Nat) : Nat := leNat (slice b o n)
  ⟨f 6 1, f 7 1, f 8 2, f 10 2, f 16 8, []⟩

/-- Record row `row`, checked; none when it fails (R295). -/
def State.impRecord (s : State) (ch : ChIdx) (e : Entry) (row : Nat) : Try (Option NewState) := do
  let t := e.t 0
  let addr := t.base + row * t.stride 1
  let room := 4 * t.dim 0
  if room < 64 then .ok none
  else do
    let b ← s.spRead ch t.space addr 64
    let n := recordHead b
    let size := recordSize n.parts n.h
    if leNat (b.take 4) != 0x59544E50 || leNat (slice b 4 2) != 1 || !n.ok || (b.drop 35).any (· != 0) || room < size then .ok none
    else do
      let body ← s.spRead ch t.space addr (size - 64)
      let dig ← s.spRead ch t.space (addr + (size - 64)) 32
      if dig != digBytes (sha256 body) then .ok none
      else .ok (some { n with body := slice body 64 (6 * n.parts * n.h) })

/-- The state of row b, checked against its home. -/
def State.impRow (s : State) (ch : ChIdx) (e : Entry) (b : Nat) : Try NewState := do
  let n ← if impZero e.word then .ok (if (impParam e.word).ok then some (impParam e.word) else none)
    else s.impRecord ch e (if impBcast e.word then 0 else b)
  match n with
  | none => .error (xerr 0x77 b)
  | some n => if (e.t 2).dim 0 != n.parts * n.h then .error (xerr 0x77 b) else .ok n

/-- FREE state-table entries of a context, lowest first (R276). -/
def State.rcFreeIdx (s : State) (ch : ChIdx) (jc : Nat) : List Nat :=
  ((List.range 1024).map (1024 * jc + ·)).filter fun i => (s.rcEnt ch i).st == .free

/-- The branch handles of OPD1, checked as FT.PIN SET_PUNTY checks them. -/
def State.impBranches (s : State) (ch : ChIdx) (e : Entry) : Try (List Nat) :=
  match wOpd e.word 1 with
  | none => .ok []
  | some k =>
    if (s.fts ch).cfg.isNone then .error (xerr 0x61 0)
    else do
      let hs ← s.vec ch (tensOf e.td k) (e.sz 0)
      match hs.findSome? (s.ftHandleErr ch e.jc (.pin 5)) with
      | some x => .error x
      | none => .ok hs

/-- The start of RC.IMPORT: every check precedes every effect. -/
def State.importStart (s : State) (ch : ChIdx) (e : Entry) : Try (State × Entry) :=
  if s.f ch R.CH_RC_CTL_EN == 0 then .error (xerr 0x72 0)
  else do
    let _ ← tryMap (s.impRow ch e) (List.range (e.sz 0))
    let free := (s.rcFreeIdx ch e.jc).length
    if free < e.sz 0 then .error (xerr 0x78 (e.sz 0 - free))
    else do
      let _ ← s.impBranches ch e
      .ok (s, e)

/-- One row of RC.IMPORT at a FREE index. -/
def State.importOne (s : State) (ch : ChIdx) (e : Entry) (n : NewState) (b i : Nat) (branch : Option Nat) : Try State := do
  let t := e.t 2
  let addr := t.base + b * t.stride 1
  let s ← s.spWrite ch t.space addr (padTo (6 * n.parts * n.h) n.body)
  let s := s.rcMod ch i fun r => ⟨r.gen, .live, e.jc, n.kind, n.parts, n.h, n.len, 0, 0, t.space, addr, n.steps, 0, false⟩
  let handle := (s.rcEnt ch i).handle i
  let s ← s.putCodes ch (e.t 3) (b, 0, 0, 0) [handle]
  .ok (match branch with
    | none => s
    | some h => s.ftOp ch fun f => f.modEnt (h % 65536) fun x => { x with punty := handle })

/-- The pass of RC.IMPORT. -/
def State.importPass (s : State) (ch : ChIdx) (e : Entry) : Try (State × Entry) := do
  let rows ← tryMap (s.impRow ch e) (List.range (e.sz 0))
  let free := s.rcFreeIdx ch e.jc
  let branches ← s.impBranches ch e
  let s' ← tryFold (fun (s : State) (x : Nat × NewState × Nat) => s.importOne ch e x.2.1 x.1 x.2.2 (branches[x.1]?)) s
    ((List.range rows.length).zip (rows.zip free))
  .ok (s', { e with cyc := e.cyc + 64 + (rows.map fun n => recordCycles (recordSize n.parts n.h)).sum })

/-- RC.IMPORT in execution. -/
def runImport : OpRun :=
  { onePass (fun s ch e _ => ofTry s e (s.importPass ch e)) with
    start := State.importStart }

/-! ## Commands -/

/-- RC.CHUNK. -/
def execRcChunk (ch : Fin 8) (jc : Fin 16) (w : BitVec 512) (s : State) : Out :=
  .next (s.issueWide ch jc (asOp 3 1 w) (formRc true))
/-- RC.FLUSH. -/
def execRcFlush (ch : Fin 8) (jc : Fin 16) (w : BitVec 512) (s : State) : Out :=
  .next (s.issueWide ch jc (asOp 3 5 w) (formRc false))
/-- RC.STEP. -/
def execRcStep (ch : Fin 8) (jc : Fin 16) (w : BitVec 512) (s : State) : Out :=
  .next (s.issueWide ch jc (asOp 3 2 w) (formRc false))
/-- RC.EXPORT COPY. -/
def execRcExportCopy (ch : Fin 8) (jc : Fin 16) (w : BitVec 512) (s : State) : Out :=
  .next (s.issueWide ch jc (asMode 1 0 0 (asOp 3 3 w)) formExport)
/-- RC.EXPORT MOVE. -/
def execRcExportMove (ch : Fin 8) (jc : Fin 16) (w : BitVec 512) (s : State) : Out :=
  .next (s.issueWide ch jc (asMode 1 0 1 (asOp 3 3 w)) formExport)
/-- RC.EXPORT FREE. -/
def execRcExportFree (ch : Fin 8) (jc : Fin 16) (w : BitVec 512) (s : State) : Out :=
  .next (s.issueWide ch jc (asMode 1 0 2 (asOp 3 3 w)) formExport)
/-- RC.IMPORT RECORD. -/
def execRcImportRecord (ch : Fin 8) (jc : Fin 16) (w : BitVec 512) (s : State) : Out :=
  .next (s.issueWide ch jc (asMode 0 0 0 (asOp 3 4 w)) formImport)
/-- RC.IMPORT ZERO. -/
def execRcImportZero (ch : Fin 8) (jc : Fin 16) (w : BitVec 512) (s : State) : Out :=
  .next (s.issueWide ch jc (asMode 0 0 1 (asOp 3 4 w)) formImport)

end Sys2Proof.Machine
end

