-- ==== Sys2Proof/Machine/Tick.lean ====
section
/-! DEFINITION. The tick, quanta and slices, submission queues, kills, donation and the arbiter: R75 to R116. -/

namespace Sys2Proof.Machine

open Sys2Proof

/-! ## Quanta and the LC reserve (R93 to R95) -/

/-- PERIOD in force, in units of 10 ns. -/
def State.period (s : State) : Nat := s.pkg.fld R.HUB_TICK_CFG_PERIOD
/-- Quanta of a tick, the last one perhaps short (R93). -/
def State.quanta (s : State) : Nat := ceilDiv s.period 1000
/-- The LC reserve L (R94). -/
def State.lcReserve (s : State) (ch : ChIdx) : Nat := s.period / 1000 * s.f ch R.CH_SCHED_LC_SHARE / 256
/-- BE_SLICE, 0 counting as 1. -/
def State.beSlice (s : State) (ch : ChIdx) : Nat := max 1 (s.f ch R.CH_SCHED_BE_SLICE)
/-- BE_ACTIVE, 0 counting as 1. -/
def State.beActive (s : State) (ch : ChIdx) : Nat := max 1 (s.f ch R.CH_SCHED_BE_ACTIVE)

/-- Contexts in ascending number. -/
def ctxs : List JcIdx := List.finRange 16

/-- A context holds a job that is not stopping. -/
def Ctx.resident (c : Ctx) : Bool := c.st != .free && !c.st.stopping

/-- The budgets of the resident LC jobs (R94). -/
def State.lcBudgets (s : State) (ch : ChIdx) : Nat :=
  ctxs.foldl (fun a jc => if (s.ctx ch jc).st != .free && (s.ctx ch jc).job.lc then a + (s.ctx ch jc).job.budget else a) 0

/-! ## Slice decisions at a quantum boundary (R93 to R102, R106 to R108) -/

/-- The quantum that ends is charged (R96, R107), and overruns grow (R102). -/
def State.chargeAll (s : State) (ch : ChIdx) : State :=
  ctxs.foldl (fun s jc =>
    let c := s.ctx ch jc
    (if c.sched.slice && c.sched.busy && c.st != .free then s.chargeOne ch jc else s).overGrow ch jc) s

/-- A context receives a slice: its overruns end, and it takes up the state its thread stood in (R99, R101, R102). -/
def State.grantSlice (s : State) (ch : ChIdx) (jc : JcIdx) : State :=
  let s := (s.overSettle ch jc).modX ch jc fun c =>
    { c with st := if c.st == .ready || c.st == .preempted then c.resume else c.st, sched := { c.sched with slice := true } }
  s.modC ch fun c => { c with sched := { c.sched with be := c.sched.be.filter (· != jc.val) } }

/-- The context holds a BE slice. -/
def Ctx.beHolder (c : Ctx) : Bool := c.sched.slice && !c.sched.lc && c.st != .free

/-- A READY context of BE class. -/
def Ctx.beReady (c : Ctx) : Bool := c.st == .ready && !c.sched.lc

/-- The semaphores on which a context is blocked: a scalar WAIT, or an entry that is next to start (R106). -/
def State.blockedOn (s : State) (ch : ChIdx) (jc : JcIdx) : List Nat :=
  let scalar := match (s.ctx ch jc).st, (s.ctx ch jc).waitOn with
    | .waitSem, .sem n k _ => if (s.semAt ch n).count < k then [n] else []
    | _, _ => []
  scalar ++ engines.flatMap fun e =>
    match (s.eq ch e).heads.find? (·.jc == jc.val) with
    | none => []
    | some h => if s.waitsMet ch h.waits then []
      else (h.waits.filter fun w => (s.semAt ch w.1).count < needOf h.waits w.1).map (·.1)

/-- LC contexts that may be waiters: a resident LC context without a donation (R106). -/
def Ctx.waiter (c : Ctx) : Bool := c.st != .free && !c.st.ending && c.sched.lc && c.sched.donor.isNone

/-- A holder still owns a semaphore on which an LC waiter is blocked (R108). -/
def State.needed (s : State) (ch : ChIdx) (h : JcIdx) : Bool :=
  ctxs.any fun w => (s.ctx ch w).waiter && (s.blockedOn ch w).any fun n => (s.semAt ch n).owner == some h.val

/-- Donations whose holder released every such semaphore end: the holder leaves LC class and returns to the BE list
(R108). -/
def State.endDonations (s : State) (ch : ChIdx) : State :=
  ctxs.foldl (fun s h =>
    let c := s.ctx ch h
    if c.sched.donor.isNone || s.needed ch h then s
    else
      let lc := c.job.lc && !c.sched.demoted
      let s := s.modX ch h fun c => { c with sched := { c.sched with donor := none, donated := 0, lc := lc } }
      if !lc && c.sched.slice && c.st != .halted then s.releaseSlice ch h false false false else s) s

/-- A context leaves LC class for the rest of the tick (R98); HALTED ones keep their slice (R100). -/
def State.demote (s : State) (ch : ChIdx) (jc : JcIdx) : State :=
  let c := s.ctx ch jc
  let s := s.modX ch jc fun c => { c with sched := { c.sched with lc := false, demoted := true, left := 0 } }
  if c.st == .halted then s
  else if c.sched.slice then s.releaseSlice ch jc false false false
  else s.modC ch fun k => { k with sched := { k.sched with be := k.sched.be.filter (· != jc.val) ++ [jc.val] } }

/-- Resident LC budgets sum to more than L (R95). -/
def State.overcommit (s : State) (ch : ChIdx) : Bool := s.lcReserve ch < s.lcBudgets ch

/-- LC jobs whose budget is spent are demoted; under R95 so is every LC job once L quanta have been charged. -/
def State.demoteAll (s : State) (ch : ChIdx) : State :=
  let all := s.overcommit ch && s.lcReserve ch ≤ (s.chan[ch]).sched.charged
  ctxs.foldl (fun s jc =>
    let c := s.ctx ch jc
    if c.st != .free && !(c.st == .faulted || c.st == .killing) && c.sched.lc && c.sched.donor.isNone &&
        (all || c.sched.left == 0) then s.demote ch jc
    else s) s

/-- The length of the next BE slice under R102: BE_SLICE less the debt, or no slice at this turn. -/
def State.beGrantLen (s : State) (ch : ChIdx) (jc : JcIdx) : Option Nat :=
  if (s.ctx ch jc).sched.debt < s.beSlice ch then some (s.beSlice ch - (s.ctx ch jc).sched.debt) else none

/-- A BE slice is granted with its debt taken off, or the debt falls by BE_SLICE and the turn is lost (R102). -/
def State.beTurn (s : State) (ch : ChIdx) (jc : JcIdx) : State :=
  let s := s.overSettle ch jc
  match s.beGrantLen ch jc with
  | some n => (s.grantSlice ch jc).modX ch jc fun c => { c with sched := { c.sched with left := n, debt := 0 } }
  | none =>
    let s := s.modX ch jc fun c => { c with sched := { c.sched with debt := c.sched.debt - s.beSlice ch } }
    s.modC ch fun k => { k with sched := { k.sched with be := k.sched.be.filter (· != jc.val) ++ [jc.val] } }

/-- BE slices charged in full end by pre-emption when another BE context is READY, else they are renewed at once (R99,
R101); a renewal is a grant under R102. Contexts whose slices end at one boundary join the list in ascending number (log
entry 79). -/
def State.expireSlices (s : State) (ch : ChIdx) : State :=
  let ready := ctxs.filter fun jc => (s.ctx ch jc).beReady
  ctxs.foldl (fun s jc =>
    let c := s.ctx ch jc
    if !c.beHolder || 0 < c.sched.left || c.st == .halted then s
    else if ready.any (· != jc) then s.releaseSlice ch jc true false false
    else match s.beGrantLen ch jc with
      | some n => s.modX ch jc fun c => { c with sched := { c.sched with left := n, debt := 0 } }
      | none =>
        (s.modX ch jc fun c => { c with sched := { c.sched with debt := c.sched.debt - s.beSlice ch } }).releaseSlice ch jc
          false false false) s

/-- An LC context has an entry that is next to start with its waits satisfied, on the engine of a running entry or, where that
entry holds the array, on the other engine that needs it (R101, R290). -/
def State.lcWaits (s : State) (ch : ChIdx) (r : Entry) (jc : JcIdx) : Bool :=
  let waits (h : Entry) : Bool := h.jc != jc.val && (s.ctx ch (jcOf h.jc)).sched.lc && s.waitsMet ch h.waits
  (s.eq ch (engOf r.eng)).heads.any waits ||
    (r.array && r.zero.isNone && (s.eq ch (if r.eng == 0 then 3 else 0)).heads.any fun h => h.array && h.zero.isNone && waits h)

/-- BE holders that run an entry an LC context waits behind are pre-empted, to the head of the list (R99, R101). -/
def State.yieldToLc (s : State) (ch : ChIdx) : State :=
  ctxs.foldl (fun s jc =>
    let c := s.ctx ch jc
    if c.beHolder && c.st != .halted && (s.runningOf ch jc).any (fun e => s.lcWaits ch e jc) then
      s.releaseSlice ch jc true true false
    else s) s

/-- LC contexts with budget hold slices (R98). -/
def State.grantLc (s : State) (ch : ChIdx) : State :=
  ctxs.foldl (fun s jc =>
    let c := s.ctx ch jc
    if c.sched.lc && c.sched.donor.isNone && !c.sched.slice && 0 < c.sched.left && (c.st == .ready || c.st == .preempted)
    then s.grantSlice ch jc else s) s

/-- Donations (R106): an LC context that holds a slice and is blocked on a semaphore whose owner is in READY or
PREEMPTED, or holds a BE slice, gives its owner a slice in LC class. -/
def State.donate (s : State) (ch : ChIdx) : State :=
  ctxs.foldl (fun s w =>
    if !((s.ctx ch w).waiter && (s.ctx ch w).sched.slice) then s
    else (s.blockedOn ch w).foldl (fun (s : State) n =>
      match (s.semAt ch n).owner with
      | none => s
      | some o =>
        let h := jcOf o
        let c := s.ctx ch h
        if o == w.val || c.st.ending || c.sched.donor.isSome || !(c.st == .ready || c.st == .preempted || c.beHolder) then s
        else
          let s := s.modX ch h fun c => { c with sched := { c.sched with donor := some w.val, donated := 0, lc := true } }
          if (s.ctx ch h).sched.slice then
            s.modC ch fun k => { k with sched := { k.sched with be := k.sched.be.filter (· != h.val) } }
          else s.grantSlice ch h) s) s

/-- READY BE contexts take free slots in the order of the list (R99, R102). -/
def State.fillSlots (s : State) (ch : ChIdx) : State :=
  (s.chan[ch]).sched.be.foldl (fun s n =>
    let jc := jcOf n
    if (ctxs.filter fun x => (s.ctx ch x).beHolder).length < s.beActive ch && (s.ctx ch jc).beReady then s.beTurn ch jc
    else s) s

/-- Chargeable from the start of the new quantum (R96). -/
def State.openQuantum (s : State) (ch : ChIdx) : State :=
  ctxs.foldl (fun s jc =>
    let b := (s.ctx ch jc).st.charged || !(s.runningOf ch jc).isEmpty
    s.modX ch jc fun c => { c with sched := { c.sched with busy := b } }) s

/-! ## Submission (R87 to R92, R520) -/

/-- A submission entry (Table 3.3) as 64 bytes. -/
structure SubEntry where
  id : DWord
  lc : Bool
  client : Nat
  budget : Nat
  entry : Nat
  seed : DWord
  cqBase : Nat
  cqSize : Nat
  start : Nat
  reserved : Bool
  deriving DecidableEq, Repr

/-- The fields of Table 3.3. -/
def SubEntry.ofBytes (bs : List Byte) : SubEntry :=
  let n (off len : Nat) : Nat := leNat (slice bs off len)
  ⟨BitVec.ofNat 64 (n 0 8), bit (n 8 1) 0, n 9 1, n 10 2, n 16 8 % 2 ^ 56, BitVec.ofNat 64 (n 24 8),
    bits (n 32 8) 55 12 * 4096, n 32 8 % 16, n 40 8,
    n 8 1 / 2 != 0 || n 12 4 != 0 || n 16 8 / 2 ^ 56 != 0 || n 32 8 / 2 ^ 56 != 0 || bits (n 32 8) 11 4 != 0 || n 48 16 != 0⟩

/-- The entry at the head of a queue: none when the queue is empty or disabled, or its page waits for the T2 link. -/
def State.sqHead (s : State) (ch : ChIdx) (q : Nat) : Option (Except MemErr SubEntry) :=
  let head := s.f ch (R.CH_SQ_PTR_HEAD q)
  if s.f ch (R.CH_SQ_BASE_HI_EN q) == 0 || head == s.f ch (R.CH_SQ_PTR_TAIL q) then none
  else match s.vaRead ch (s.sqBase ch q + 64 * (head % s.sqSize ch q)) 64 with
    | .ok bs => some (.ok (SubEntry.ofBytes bs))
    | .error e => if e.waits then none else some (.error e)

/-- A head is consumed: HEAD advances and SUB counts (R89, R110). -/
def State.sqConsume (s : State) (ch : ChIdx) (q client : Nat) : State :=
  (s.incF ch (R.CH_SQ_PTR_HEAD q) 1).incF ch (R.CH_CLIENT_SUB_SUB client) 1

/-- A head ends as a killed job without a context (R87, R91): JOB_KILLED from 0x070 and a job-completion record. -/
def State.sqReject (s : State) (ch : ChIdx) (q : Nat) (e : SubEntry) (reason : Nat) : State :=
  let s := s.sqConsume ch q e.client
  let s := s.post (srcOf ch 0x070) .jobKilled [reason, e.id.toNat % 2 ^ 32, e.id.toNat / 2 ^ 32]
  let s := s.jcrPut ch q e.id (jcrRecord e.id 3 reason 0 e.lc false e.client q s.pkg.tick.num.toNat 0 0 0)
  s.incF ch (R.CH_CLIENT_KILL_KILL e.client) 1

/-- The checks of R91 at load, in order: the kill reason of the first that fails. -/
def State.admission (s : State) (ch : ChIdx) (e : SubEntry) : Option Nat :=
  if e.reserved || e.entry % 4 != 0 || 9 < e.cqSize then some 6
  else if (e.lc && e.budget == 0) || (!e.lc && e.budget != 0) then some 6
  else if e.lc && s.lcReserve ch < s.lcBudgets ch + e.budget then some 5
  else none

/-- A job is loaded into a context (R42, R91). -/
def State.loadJob (s : State) (ch : ChIdx) (jc : JcIdx) (q : Nat) (e : SubEntry) : State :=
  let s := s.sqConsume ch q e.client
  let left := if e.lc then ceilDiv (e.budget * (s.quanta - (s.chan[ch]).sched.quantum)) s.quanta else 0
  let s := s.modC ch fun c =>
    (((((c.setFld (R.CH_JC_CQ_LO_BASE_LO jc) (e.cqBase / 4096)).setFld (R.CH_JC_CQ_HI_BASE_HI jc)
      (e.cqBase / 2 ^ 32)).setFld (R.CH_JC_CQ_HI_SIZE jc) e.cqSize).setFld (R.CH_JC_CQ_HI_EN jc)
      (if e.cqBase == 0 then 0 else 1)).setFld (R.CH_JC_CQ_PTR_WR jc) 0).setFld (R.CH_JC_CQ_PTR_RD jc) 0
  let s := s.modX ch jc fun c => { c.vacate with
    st := .ready, g := Vector.replicate 32 0, pc := BitVec.ofNat 64 e.entry, td := Vector.replicate 64 0,
    job := ⟨e.id, e.client, e.lc, e.budget, e.seed, q, 0, 0, 0, 0⟩,
    sched := { c.vacate.sched with lc := e.lc, left := left }, fStatus := 0, fEng := 0, fTd := 0 }
  let s := (s.ftJobLoad ch jc).rcJobLoad ch jc
  if e.lc then s else s.modC ch fun c => { c with sched := { c.sched with be := c.sched.be ++ [jc.val] } }

/-- A submission entry that cannot be read: EN of the queue clears and SQ_FAULT is posted (R520). -/
def State.sqFault (s : State) (ch : ChIdx) (q : Nat) (err : MemErr) : State :=
  (s.setF ch (R.CH_SQ_BASE_HI_EN q) 0).post (srcOf ch 0x070) .sqFault [q, err.status.1, err.status.2]

/-- The queues in the order of a round robin that starts at `first` (R90). -/
def rrQueues (first : Nat) : List Nat := (List.range 8).map fun i => (first + i) % 8

/-- The first queue, in round robin, whose head of this class may load now (R90, R92). -/
def State.nextHead (s : State) (ch : ChIdx) (lc : Bool) : Option (Nat × SubEntry) :=
  (rrQueues (if lc then (s.chan[ch]).sched.nextLc else (s.chan[ch]).sched.nextBe)).findSome? fun q =>
    match s.sqHead ch q with
    | some (.ok e) => if e.lc == lc && e.start ≤ s.pkg.tick.num.toNat && !s.jcrFull ch q then some (q, e) else none
    | _ => none

/-- The queue counts as served by its class (R90). -/
def State.served (s : State) (ch : ChIdx) (lc : Bool) (q : Nat) : State :=
  s.modC ch fun c => { c with sched := if lc then { c.sched with nextLc := (q + 1) % 8 } else { c.sched with nextBe := (q + 1) % 8 } }

/-- The first queue whose head cannot be read (R520). -/
def State.unreadable (s : State) (ch : ChIdx) : Option (Nat × MemErr) :=
  (List.range 8).findSome? fun q => match s.sqHead ch q with
    | some (.error e) => some (q, e)
    | _ => none

/-- BE jobs load only while fewer than 16 - LC_CTX contexts hold BE jobs (R90). -/
def State.beRoom (s : State) (ch : ChIdx) : Bool :=
  (ctxs.filter fun jc => (s.ctx ch jc).st != .free && !(s.ctx ch jc).job.lc).length < 16 - s.f ch R.CH_SCHED_LC_CTX

/-- Loads while a context is available: LC heads first, then BE heads (R90, R91). -/
def State.loadPass (s : State) (ch : ChIdx) : Nat → State
  | 0 => s
  | fuel + 1 =>
    match s.unreadable ch with
    | some (q, e) => State.loadPass (s.sqFault ch q e) ch fuel
    | none =>
      match ctxs.find? (fun jc => (s.ctx ch jc).st == .free) with
      | none => s
      | some jc =>
        let head := match s.nextHead ch true with
          | some h => some h
          | none => if s.beRoom ch then s.nextHead ch false else none
        match head with
        | none => s
        | some (q, e) =>
          let s := s.served ch e.lc q
          match s.admission ch e with
          | some reason => State.loadPass (s.sqReject ch q e reason) ch fuel
          | none => State.loadPass (s.loadJob ch jc q e) ch fuel

/-- On a channel in no partition every entry is consumed and ends as a killed job, NO_PARTITION (R87). The queues are taken
lowest number first, each to its end (log entry 80). -/
def State.noPartition (s : State) (ch : ChIdx) : Nat → State
  | 0 => s
  | fuel + 1 =>
    match s.unreadable ch with
    | some (q, e) => State.noPartition (s.sqFault ch q e) ch fuel
    | none =>
      match (List.range 8).findSome? (fun q => match s.sqHead ch q with
          | some (.ok e) => if s.jcrFull ch q then none else some (q, e)
          | _ => none) with
      | none => s
      | some (q, e) => State.noPartition (s.sqReject ch q e 7) ch fuel

/-- Entries that eight full queues can hold. -/
def loadFuel : Nat := 8 * 16384 + 8

/-- Loads at a quantum boundary (R87, R90, R466, R489). -/
def State.loads (s : State) (ch : ChIdx) : State :=
  if (s.chan[ch]).draining || s.fenced then s
  else if s.place ch < 8 then s.loadPass ch loadFuel
  else if s.place ch == 0xE then s
  else s.noPartition ch loadFuel

/-- All decisions of a quantum boundary after its charges (R93). -/
def State.decide (s : State) (ch : ChIdx) : State :=
  let s := s.loads ch
  if s.fenced then s
  else ((((((((s.endDonations ch).demoteAll ch).expireSlices ch).yieldToLc ch).grantLc ch).donate ch).fillSlots
    ch).openQuantum ch).semServe ch |>.fenceServe ch

/-- The channel's sequencer is clocked. -/
def State.clocked (s : State) (ch : ChIdx) : Bool :=
  s.up ch && (s.chan[ch]).power.st == .run && (s.chan[ch]).power.move == .none

/-- QUANTUM_BOUNDARY of one channel: quanta stay aligned to the tick whatever the channel does (R93); a channel that is
clocked charges and decides. -/
def execQuantumBoundary (ch : ChIdx) (s : State) : Out :=
  if s.quanta ≤ (s.chan[ch]).sched.quantum + 1 then .next s
  else
    let s := if s.clocked ch then s.chargeAll ch else s
    let s := s.modC ch fun c => { c with sched := { c.sched with quantum := c.sched.quantum + 1 } }
    .next (if s.clocked ch then s.decide ch else s)

/-! ## The tick boundary (R75 to R86) -/

/-- Step 4 of Table 3.2: an LC job's budget is refilled less its debt, and demoted jobs return to LC class. -/
def State.refill (s : State) (ch : ChIdx) : State :=
  let s := s.modC ch fun c => { c with sched := { c.sched with charged := 0 } }
  let s := ctxs.foldl (fun s jc =>
    let c := s.ctx ch jc
    if c.st == .free || !c.job.lc || c.st == .faulted || c.st == .killing then s
    else
      let s := s.overSettle ch jc
      let s := s.modX ch jc fun c => { c with sched := { c.sched with
        lc := true, demoted := false, left := c.job.budget - c.sched.debt, debt := c.sched.debt - c.job.budget } }
      s.modC ch fun k => { k with sched := { k.sched with be := k.sched.be.filter (· != jc.val) } }) s
  if s.overcommit ch then s.post (srcOf ch 0x070) .lcOvercommit [s.lcReserve ch] else s

/-- Step 5: the tick semaphore is signalled when enabled; a COUNT of 0 counts as 1 (R86, R517). -/
def State.tickSem (s : State) (ch : ChIdx) : State :=
  if s.f ch R.CH_TICK_SEM_EN == 1 then
    s.semSignal ch 0x070 (s.f ch R.CH_TICK_SEM_SEM) (max 1 (s.f ch R.CH_TICK_SEM_COUNT))
  else s

/-- Runs of the stream windows begin, or a boundary that finds one in progress, ending or not, counts in SKIPPED (R324). -/
def State.windowsBegin (s : State) (ch : ChIdx) : State :=
  (List.finRange 4).foldl (fun (s : State) (w : Fin 4) =>
    let v := (s.chan[ch]).mem.win[w]
    if v.phase != .idle then
      (s.satF ch (R.MEM_SW_STAT_SKIPPED w) 1).modMem ch fun m => { m with win := m.win.set w { v with age := v.age + 1 } }
    else if s.f ch (R.MEM_SW_CFG_EN w) == 0 || s.f ch (R.MEM_SW_CFG_ENTRIES w) == 0 then s
    else
      let s := s.modMem ch fun m => { m with win := m.win.set w ⟨.waiting, 0, false, false, 0, false⟩ }
      (s.setF ch (R.MEM_SW_STAT_CUR w) 0).setF ch (R.MEM_SW_STAT_RUNNING w) 1) s

/-- An enabled submission queue holds an unconsumed entry whose START_TICK has come (R473, Table 17.5). -/
def State.sqDue (s : State) (ch : ChIdx) : Bool :=
  (List.range 8).any fun q =>
    let head := s.f ch (R.CH_SQ_PTR_HEAD q)
    let n := (s.f ch (R.CH_SQ_PTR_TAIL q) + 65536 - head) % 65536
    s.f ch (R.CH_SQ_BASE_HI_EN q) == 1 && (List.range (min n (s.sqSize ch q))).any fun i =>
      match s.vaRead ch (s.sqBase ch q + 64 * ((head + i) % s.sqSize ch q)) 64 with
      | .ok bs => (SubEntry.ofBytes bs).start ≤ s.pkg.tick.num.toNat
      | .error _ => true

/-- A stream window of the channel is in a run. -/
def State.windowRuns (s : State) (ch : ChIdx) : Bool := (s.chan[ch]).mem.win.toList.any fun w => w.phase != .idle

/-- What falls due at a boundary wakes a sleeping channel: a submitted entry (START) or a stream window (TIMER). -/
def State.tickWake (s : State) (ch : ChIdx) : State :=
  if s.clocked ch then s
  else
    let s := if s.sqDue ch then s.wake ch 2 else s
    if s.windowRuns ch then s.wake ch 5 else s

/-- Steps 3 to 6 of Table 3.2 on one channel: the first quantum of the tick begins (R93). -/
def State.tickChannel (s : State) (ch : ChIdx) : State :=
  let first (c : Chan) : Chan := { c with sched := { c.sched with quantum := 0 } }
  if !s.up ch then s.modC ch first
  else
    let s := (if s.clocked ch then s.chargeAll ch else s).modC ch first
    let s := (s.refill ch).tickSem ch
    let s := ((s.windowsBegin ch).routesReturn ch).tickWake ch
    if s.clocked ch then s.decide ch else s

/-- A new SRC comes into force, and under FABRIC the master's phase is acquired first (R81). -/
def State.tickSource (s : State) : State :=
  let src := s.pkg.fld R.HUB_TICK_CFG_SRC
  if src == s.pkg.fld R.HUB_TICK_STAT_SRC_NOW then s
  else s.modP fun p =>
    ((({ p with tick := { p.tick with silent := 0, met := true, early := false, acquiring := src == 2, adopt := none } }).setFld
      R.HUB_TICK_STAT_SRC_NOW src).setFld R.HUB_TICK_STAT_LOCKED 0).setFld R.HUB_TICK_STAT_HOLDOVER 0

/-- The bits of a class in the register at `off`. -/
def classMask (hub : Bool) (off : Nat) (c : FldClass) : Word :=
  match regFind hub off with
  | none => 0
  | some r => BitVec.ofNat 32 ((r.fields.filter fun f => f.cls == c).foldl (fun (a : Nat) f => a + (2 ^ (f.hi + 1 - f.lo) - 1) * 2 ^ f.lo) 0)

/-- One latched value: the RWT fields of its register change. -/
def State.applyOne (s : State) (r : Staged) : State :=
  let pf : Fin 9 := Fin.ofNat 9 r.pf
  let m := classMask (pf == 0) r.off .rwt
  s.fnWr pf r.off ((s.fnRd pf r.off &&& ~~~m) ||| (r.val &&& m))

/-- Latched RWT values take effect (R81, R83). During SPLIT_LEASE the tick keeps its source and period: a value latched for
HUB_TICK_CFG waits for the end of the split (R27). -/
def State.applyLatched (s : State) : State :=
  let waits (r : Staged) : Bool := s.split && r.pf == 0 && r.off == 0x100
  let s := (s.pkg.tick.latched.filter (!waits ·)).foldl State.applyOne s
  let s := (s.modP fun p => { p with tick := { p.tick with latched := p.tick.latched.filter waits } }).tickSource
  s.modP (·.setFld R.HUB_TICK_STAT_PENDING (if s.pkg.tick.staged.isEmpty && s.pkg.tick.latched.isEmpty then 0 else 1))

/-- The number rises by one, or jumps to the master's number with TICK_SLIP, after which LOCKED sets (R75, R80, R81). The
signed difference is the master's number less the own number that would have come next (log entry 81). -/
def State.tickNumber (s : State) : State :=
  let next := s.pkg.tick.num + 1
  match s.pkg.tick.adopt with
  | none => s.modP fun p => { p with tick := { p.tick with num := next } }
  | some m =>
    let s := s.modP fun p => ({ p with tick := { p.tick with num := m, adopt := none, acquiring := false } }).setFld
      R.HUB_TICK_STAT_LOCKED 1
    if m == next then s
    else
      let diff := (m - next).toNat
      s.post (srcHub 0x003) .tickSlip [diff % 2 ^ 32, diff / 2 ^ 32]

/-- Under PIN or FABRIC the boundary before this one is judged: one that no accepted edge or message met, early or late,
counts in MISSED (R77). An edge accepted ahead of this boundary meets it. -/
def State.tickMissed (s : State) : State :=
  if s.pkg.fld R.HUB_TICK_STAT_SRC_NOW == 0 then s
  else
    let s := if s.pkg.tick.met then s else s.modP (·.satFld R.HUB_TICK_STAT_MISSED 1)
    s.modP fun p => { p with tick := { p.tick with
      silent := if p.tick.met then 0 else p.tick.silent + 1, met := p.tick.early, early := false } }

/-- A tick boundary: steps 2 to 6 of Table 3.2, with the mould commit that is due in step 2 (R75, R84, R85). SPLIT_TICKS and
the drain count with it. -/
def State.boundary (s : State) (commit : State → State) : State :=
  let s := s.tickNumber.tickMissed
  let s := if s.split then s.modP (·.satFld R.GAF_LEASE_STATUS_SPLIT_TICKS 1) else s
  let s := commit (s.modP fun p => { p with mould := { p.mould with boundaries := p.mould.boundaries + 1 } })
  s.applyLatched.eachC State.tickChannel

/-- RWT_LATCH: the staged values are latched 50 ns before a boundary (R83). -/
def execRwtLatch (s : State) : Out :=
  .next (s.modP fun p => { p with tick := { p.tick with
    latched := p.tick.latched.filter (fun l => !p.tick.staged.any (fun r => r.pf == l.pf && r.off == l.off)) ++ p.tick.staged,
    staged := [] } })

/-- A value is staged for an RWT register: the last write before a latch applies (R83). -/
def State.stage (s : State) (pf : Fin 9) (off : Nat) (v : Word) : State :=
  let others := s.pkg.tick.staged.filter fun r => !(r.pf == pf.val && r.off == off)
  let noted (t : Tick) : Tick := { t with staged := others ++ [⟨pf.val, off, v⟩] }
  s.modP fun p => ({ p with tick := noted p.tick }).setFld R.HUB_TICK_STAT_PENDING 1

/-- An edge or message within 10% of PERIOD is accepted: the phase is corrected, HOLDOVER clears; one outside counts in
STRAY (R77). PERIOD counts 10 ns and `err` is in ns. The second result says that it was accepted. -/
def State.tickAccept (s : State) (err : Int) : State × Bool :=
  if err.natAbs ≤ s.period then
    let was := s.pkg.fld R.HUB_TICK_STAT_HOLDOVER == 1
    let s := s.modP fun p => ({ p with tick := { p.tick with
      silent := 0, met := p.tick.met || 0 < err, early := p.tick.early || err ≤ 0, slew := err, acquiring := p.tick.acquiring || (was && p.fld R.HUB_TICK_STAT_SRC_NOW == 2) } }).setFld
        R.HUB_TICK_STAT_HOLDOVER 0
    (s.modP (·.setFld R.HUB_TICK_STAT_LOCKED (if err.natAbs ≤ 100 && !s.pkg.tick.acquiring then 1 else 0)), true)
  else (s.modP (·.satFld R.HUB_TICK_STAT_STRAY 1), false)

/-- TICK_IN_EDGE: an accepted edge of TICK_IN; a masked pin gives none (R77, R484, R485, log entry 53). -/
def execTickInEdge (err : Int) (s : State) : Out :=
  if s.pkg.fld R.HUB_PIN_STAT_TICK_STUCK == 1 then .next s
  else
    let s := s.modP (·.setFld R.HUB_PIN_STAT_TICK_ACT 1)
    if s.pkg.fld R.HUB_TICK_STAT_SRC_NOW == 1 then .next (s.tickAccept err).1 else .next s

/-- TICK_HOLDOVER: two consecutive predicted boundaries have passed without an accepted edge or message, the last one with
its window (R77). -/
def execTickHoldover (s : State) : Out :=
  if s.pkg.fld R.HUB_TICK_STAT_SRC_NOW == 0 || s.pkg.tick.met || s.pkg.tick.silent == 0 || s.pkg.fld R.HUB_TICK_STAT_HOLDOVER == 1 then .next s
  else .next ((s.modP fun p => (p.setFld R.HUB_TICK_STAT_HOLDOVER 1).setFld R.HUB_TICK_STAT_LOCKED 0).post (srcHub 0x003)
    .tickHoldover [])

/-- A legal HUB_TICK_CFG (R82). -/
def tickCfgOk (v : Nat) : Bool := 5000 ≤ bits v 23 0 && bits v 23 0 ≤ 10000000 && bits v 25 24 != 3

/-- A write of HUB_TICK_CFG that has passed the gate (R82): staged, or TICK_CFG_BAD. MASTER is read-only. -/
def State.tickCfg (s : State) (val : BitVec 32) : State :=
  if tickCfgOk val.toNat then
    s.stage 0 0x100 (BitVec.ofNat 32 (putBits (s.pkg.rd 0x100).toNat 25 0 (bits val.toNat 25 0)))
  else s.post (srcHub 0x00B) .tickCfgBad [val.toNat]

/-- TICK_CFG_WRITE, subject to the lease gate (R82). -/
def execTickCfgWrite (by_ : Writer) (val : BitVec 32) (s : State) : Out :=
  match by_ with
  | .host => .next (s.hostWr 0 0x100 fun s => s.gate .host (·.tickCfg val))
  | .gaffer g => .next (s.gate (.gaffer g) (·.tickCfg val))

/-- TICK_NUM_READ: NUM_LO is returned and NUM_HI latched (R453). -/
def execTickNumRead (s : State) : Out :=
  if !s.pkg.portUp then .next s
  else .next ((s.modP fun p => { p with tick := { p.tick with
    hiLatch := BitVec.ofNat 32 (p.tick.num.toNat / 2 ^ 32) } }).answer .ok (BitVec.ofNat 32 s.pkg.tick.num.toNat))

/-! ## Host writes of the queues (R89, R92, R105) -/

/-- SQ_DOORBELL: TAIL is written, a wake event; HEAD is read-only. -/
def execSqDoorbell (ch : ChIdx) (q : Fin 8) (val : BitVec 32) (s : State) : Out :=
  .next (s.chanWr ch (0x808 + 0x10 * q.val) fun s =>
    (s.setF ch (R.CH_SQ_PTR_TAIL q) (bits val.toNat 31 16)).wake ch 1)

/-- A write of CH_SQ_BASE_LO or CH_SQ_BASE_HI: while EN is 1 a change of the address or of SIZE discards it whole (R89,
R516). -/
def State.sqBaseWrite (s : State) (ch : ChIdx) (q : Nat) (hi : Bool) (v : Nat) : State :=
  let en := s.f ch (R.CH_SQ_BASE_HI_EN q) == 1
  if hi then
    if en && (bits v 23 0 != s.f ch (R.CH_SQ_BASE_HI_BASE_HI q) || bits v 27 24 != s.f ch (R.CH_SQ_BASE_HI_SIZE q)) then s
    else ((s.setF ch (R.CH_SQ_BASE_HI_BASE_HI q) (bits v 23 0)).setF ch (R.CH_SQ_BASE_HI_SIZE q) (bits v 27 24)).setF ch
      (R.CH_SQ_BASE_HI_EN q) (bits v 31 31)
  else if en && bits v 31 12 != s.f ch (R.CH_SQ_BASE_LO_BASE_LO q) then s
  else s.setF ch (R.CH_SQ_BASE_LO_BASE_LO q) (bits v 31 12)

/-- SQ_BASE_WRITE. -/
def execSqBaseWrite (ch : ChIdx) (q : Fin 8) (hi : Bool) (val : BitVec 32) (s : State) : Out :=
  .next (s.chanWr ch (0x800 + 0x10 * q.val + if hi then 4 else 0) (·.sqBaseWrite ch q.val hi val.toNat))

/-- A read pointer of a ring may move only up to WR: what is consumed is at most what is unread (log entry 51). -/
def rdOk (wr old new modulus : Nat) : Bool := (wr + modulus - new) % modulus ≤ (wr + modulus - old) % modulus

/-- Every context of the channel goes on towards its end. -/
def State.tryEndAll (s : State) (ch : ChIdx) : State := ctxs.foldl (fun s jc => s.tryEnd ch jc) s

/-- JCR_RD_WRITE: RD of a job-completion ring advances, and ending jobs write their records (R92). -/
def execJcrRdWrite (ch : ChIdx) (q : Fin 8) (val : BitVec 32) (s : State) : Out :=
  .next (s.chanWr ch (0x80C + 0x10 * q.val) fun s =>
    let new := bits val.toNat 31 16
    if rdOk (s.f ch (R.CH_SQ_JPTR_WR q)) (s.f ch (R.CH_SQ_JPTR_RD q)) new 65536 then
      (s.setF ch (R.CH_SQ_JPTR_RD q) new).tryEndAll ch
    else s)

/-- JOB_KILL: with GO = 1 the job of JC is killed, reason HOST; GO reads as 0 (R105). -/
def execJobKill (ch : ChIdx) (val : BitVec 32) (s : State) : Out :=
  .next (s.chanWr ch 0x508 fun s =>
    let s := s.setF ch R.CH_JOB_KILL_JC (bits val.toNat 3 0)
    if val.getLsbD 31 then (s.wake ch 6).killJob ch (jcOf (bits val.toNat 3 0)) 1 else s)

/-! ## Limits (R103, R108, R116) -/

/-- An entry that has started is aborted: it completes as KILLED with PARTIAL, and its job is killed (R103, R116, log
entry 37). -/
def State.abortEntry (s : State) (ch : ChIdx) (x : Entry) (reason : Nat) : State :=
  let jc := jcOf x.jc
  let other (y : Entry) : Bool := y.order != x.order
  let s := (s.killJob ch jc reason).modQ ch (engOf x.eng) fun q =>
    { q with run := q.run.filter other, parked := q.parked.filter other }
  ((((s.dropEntry ch x 3 true).settle ch jc).fenceServe ch).semServe ch).tryEnd ch jc

/-- The atomic entry of an engine that has run longest: the one that holds the engine, or the first that a collective has
started (R103, R381, R388). -/
def State.atomicOn (s : State) (ch : ChIdx) (eng : Fin 11) : Option Entry :=
  ((s.eq ch eng).parked ++ (s.eq ch eng).run.toList).find? (·.atomic)

/-- ATOMIC_LIMIT: an entry with P = 0 has run for 200 µs (R103); time under the fence does not count (R489). -/
def execAtomicLimit (ch : ChIdx) (eng : Fin 11) (s : State) : Out :=
  match s.atomicOn ch eng with
  | some x => if s.fenced then .next s else .next (s.abortEntry ch x 3)
  | none => .next s

/-- DONATION_LIMIT: the holder has not released what an LC waiter needs (R108). -/
def execDonationLimit (ch : ChIdx) (jc : JcIdx) (s : State) : Out :=
  if (s.ctx ch jc).sched.donor.isNone || !s.needed ch jc || s.fenced then .next s else .next (s.killJob ch jc 2)

/-! ## The arbiter (R111 to R116) -/

/-- A new instance: nothing granted, nothing waited. Index 0 counts as the last winner, so that round robin starts behind it
(log entry 82). -/
def Arb.new (cls inst : Nat) : Arb := ⟨cls, inst, none, none, 0, 0, [], [], []⟩

/-- The arbiter instance of a resource class. -/
def State.arb (s : State) (ch : ChIdx) (cls inst : Nat) : Arb :=
  match (s.chan[ch]).sched.arb.find? (fun a => a.cls == cls && a.inst == inst) with
  | some a => a
  | none => Arb.new cls inst

/-- An instance changed. -/
def State.setArb (s : State) (ch : ChIdx) (a : Arb) : State :=
  s.modC ch fun c => { c with sched := { c.sched with
    arb := c.sched.arb.filter (fun x => !(x.cls == a.cls && x.inst == a.inst)) ++ [a] } }

/-- The wait counter of a requester. -/
def Arb.waits (a : Arb) (i : Nat) : Nat := Cells.get (fun _ => 0) a.wait i

/-- The class of a request: the current class of its context; BE for the host port, write-back and promotion (R97, R111). -/
def State.reqLc (s : State) (ch : ChIdx) (r : Req) : Bool :=
  match r.who with
  | .ctx jc => (s.ctx ch jc).sched.lc
  | .port lc => lc
  | .host | .writeBack | .promotion => false

/-- The request with the lowest index. -/
def lowReq (l : List Req) : Option Req := l.foldl (fun (b : Option Req) r =>
  match b with
  | none => some r
  | some x => if r.idx < x.idx then some r else some x) none

/-- The first requester after the last winner, in round robin over ascending indices. -/
def rrPick (last : Nat) (rs : List Req) : Option Req :=
  match lowReq (rs.filter fun r => last < r.idx) with
  | some r => some r
  | none => lowReq rs

/-- One grant decision among requesters (R112): the winner, and whether it was forced. A requester that meets a lowered
WAITLIM stands behind those that reached it before, lowest index first. -/
def Arb.pick (a : Arb) (waitlim : Nat) (lc : Req → Bool) (rs : List Req) : Option (Req × Bool) :=
  let due := rs.filter fun r => waitlim ≤ a.waits r.idx
  match a.reached.findSome? (fun i => due.find? (·.idx == i)) with
  | some r => some (r, true)
  | none => match lowReq due with
    | some r => some (r, true)
    | none =>
      match rrPick a.last (rs.filter lc) with
      | some r => some (r, false)
      | none => (rrPick a.last (rs.filter (!lc ·))).map fun r => (r, false)

/-- A requester that lost a decision waits one more; it takes its place among those that reached WAITLIM. -/
def Arb.lose (waitlim : Nat) (a : Arb) (i : Nat) : Arb :=
  let old := a.waits i
  let w := min (old + 1) 255
  let back := a.reached.filter (· != i) ++ [i]
  { a with wait := Cells.set (fun _ => 0) a.wait i w,
           reached := if w < waitlim then a.reached.filter (· != i) else if waitlim ≤ old && a.reached.contains i then a.reached else back }

/-- The wait counters after a decision: every other requester that asserts waits one more, the winner starts anew. -/
def Arb.charge (a : Arb) (waitlim : Nat) (rs : List Req) (winner : Nat) : Arb :=
  let a := ((rs.map (·.idx)).filter (· != winner)).foldl (Arb.lose waitlim) a
  { a with wait := Cells.set (fun _ => 0) a.wait winner 0, reached := a.reached.filter (· != winner), last := winner }

/-- Requests in ascending index, so that ties go to the lowest (R112). -/
def sortReqs (rs : List Req) : List Req := sortBy Req.idx rs

/-- The emergency requester that is granted: zeroise, else refresh, which HBM ports alone have, else debug (R112,
Table 3.7). -/
def firstEmerg (cls : Nat) (ems : List Emerg) : Option Emerg :=
  [Emerg.zeroise, .refresh, .debug].find? fun e => ems.contains e && (cls == 0 || e != .refresh)

/-- The grant has ended: its owner dropped its request, or its burst is spent (R113). -/
def Arb.ended (a : Arb) (reqs : List Req) (ems : List Emerg) (made : Nat) : Bool :=
  match a.grant with
  | none => true
  | some (.req i) => a.left ≤ made || !reqs.any (·.idx == i)
  | some (.emerg e) => a.left ≤ made || !ems.contains e

/-- The transfers of a grant. -/
def State.arbBurst (s : State) (ch : ChIdx) (cls : Fin 4) : Nat := max 1 (s.f ch (R.CH_ARB_CFG_BURST cls))

/-- The decision of R112 when no grant is held. At a router output the cells of the grant go out with it (R358). -/
def State.arbDecide (s : State) (ch : ChIdx) (cls : Fin 4) (a : Arb) (reqs : List Req) (em : Option Emerg) : State :=
  let lim := max 1 (s.f ch (R.CH_ARB_CFG_WAITLIM cls))
  let n := s.arbBurst ch cls
  match em with
  | some e => s.setArb ch { a with grant := some (.emerg e), holder := none, left := n }
  | none =>
    match a.pick lim (s.reqLc ch) reqs with
    | none => s.setArb ch { a with grant := none, holder := none, left := 0 }
    | some (r, forced) =>
      let s := if forced then s.satF ch (R.CH_ARB_STAT_FORCED cls) 1 else s
      let sends := cls.val == 2 && s.maySend ch (linkOf a.inst)
      let won := { (a.charge lim reqs r.idx) with grant := some (.req r.idx), holder := some r.who, left := if sends then 0 else n }
      let s := s.setArb ch won
      if sends then s.routerSend ch (linkOf a.inst) r.idx n else s

/-- ARB_GRANT, an arbitration point of an instance: its requesters `reqs` and the emergency requesters of `pt` assert, and the
owner of the grant has made the transfers of `pt` since the point before. A grant that has not ended stays, unless an emergency
requester takes it away from a requester, which counts in EMERG; an emergency grant is not taken away (R112 to R115, log
entry 83). At a router output the requesters are the input ports, 16 for the channel's own engines. -/
def execArbGrant (ch : ChIdx) (cls : Fin 4) (inst : Nat) (reqs : List Req) (pt : ArbPoint) (s : State) : Out :=
  let a := s.arb ch cls inst
  let rs := (sortReqs reqs).filter fun r => !a.masked.contains (.req r.idx)
  let em := firstEmerg cls (pt.ems.filter fun e => !a.masked.contains (.emerg e))
  if a.ended rs pt.ems pt.made then .next (s.arbDecide ch cls a rs em)
  else
    match a.grant, em with
    | some (.req _), some _ => .next ((s.satF ch (R.CH_ARB_STAT_EMERG cls) 1).arbDecide ch cls a rs em)
    | _, _ => .next (s.setArb ch { a with left := a.left - pt.made })

/-- What the event RESOURCE_HANG names as the requester: its index. The spec numbers no emergency requester: a free value
(log entry 83). -/
def State.hungArg (s : State) : Grant → Nat
  | .req i => i
  | .emerg _ => (Config.freeWord s.free).toNat

/-- RESOURCE_HANG: the watchdog posts the event, revokes the grant and masks the requester; an entry that it served, which
`unit` holds, is aborted and its job killed, and a pending host request completes with Completer Abort (R116). -/
def execResourceHang (ch : ChIdx) (cls : Fin 4) (inst : Nat) (unit : Option (Fin 11)) (s : State) : Out :=
  let a := s.arb ch cls inst
  match a.grant with
  | none => .next s
  | some g =>
    let arg := s.hungArg g
    let s := (s.draw.2.satF ch (R.CH_ARB_STAT_HANGS cls) 1).post (srcOf ch 0x070) .resourceHang [cls.val, inst, arg]
    let s := s.setArb ch { a with grant := none, holder := none, left := 0, masked := a.masked ++ [g] }
    match a.holder with
    | some .host => .next (s.answer .abort 0)
    | some (.ctx jc) =>
      match unit.bind fun e => ((s.eq ch e).run.toList ++ (s.eq ch e).parked).find? fun x => x.jc == jc.val && x.started with
      | some x => .next (s.abortEntry ch x 4)
      | none => .next s
    | _ => .next s

/-- REQUESTER_UNMASKED: the unit's reset has finished (R116). -/
def execRequesterUnmasked (ch : ChIdx) (cls : Fin 4) (inst : Nat) (req : Grant) (s : State) : Out :=
  let a := s.arb ch cls inst
  .next (s.setArb ch { a with masked := a.masked.filter (· != req) })

end Sys2Proof.Machine
end

