-- ==== Sys2Proof/Machine/Tiers.lean ====
section
/-! DEFINITION. The memory tiers: the MMU and tier-cache registers, hot-page promotion, stream windows, regulators, stalls
and failures, and the load/store engines (R306 to R336). -/

namespace Sys2Proof.Machine

open Sys2Proof

/-! ## MEM_MMU and MEM_TC_CTL (R306, R320, R321) -/

/-- A page that was changed while dirty granules of it stood in the tier cache: its bytes are unpredictable (R307). -/
def State.brokenPage (s : State) (ch : ChIdx) (r : TlbRow) : State :=
  let a := r.vpn * 4096
  let t := r.leaf.ta + a % r.leaf.size
  if !s.stale ch a || !s.tcDirty ch r.leaf.tier (t / 4096) then s
  else
    let s := s.modMem ch fun m => { m with tlb := m.tlb.filter fun x => x.vpn != r.vpn }
    s.blur ch 0 ((List.range 4096).map (a + ·))

/-- INV: the translation cache is empty, and what was issued before is noted until it has completed (R306). -/
def State.invalidate (s : State) (ch : ChIdx) : State :=
  let s := ((s.chan[ch]).mem.tlb).foldl (fun (s : State) r => s.brokenPage ch r) s
  let live := (s.chan[ch]).q.toList.flatMap fun q => (q.run.toList ++ q.parked).filter (·.started)
  let s := s.modMem ch fun m => { m with
    tlb := []
    inv := live.map (·.order)
    win := m.win.map fun v => { v with old := v.phase == .copying } }
  s.modC ch fun c => { c with ctx := c.ctx.map fun x => { x with load := x.load.map fun l => { l with old := true } } }

/-- INVBUSY: an access issued before the last INV has not completed (R306). -/
def State.invBusy (s : State) (ch : ChIdx) : Bool :=
  let c := s.chan[ch]
  c.mem.win.toList.any (·.old) || c.ctx.toList.any (fun x => x.load.any (·.old)) ||
    c.q.toList.any fun q => (q.run.toList ++ q.parked).any fun e => c.mem.inv.contains e.order

/-- A write of MEM_MMU: ROOT and EN change only while every context is FREE; INV empties the translation cache. -/
def State.mmuWrite (s : State) (ch : ChIdx) (val : Word) : State :=
  let v := val.toNat
  let same := bits v 24 0 == s.f ch R.MEM_MMU_ROOT && bits v 31 31 == s.f ch R.MEM_MMU_EN
  if !same && !s.allFree ch then s.postReg (pfOf ch) .mmuLocked []
  else
    let s := (s.setF ch R.MEM_MMU_ROOT (bits v 24 0)).setF ch R.MEM_MMU_EN (bits v 31 31)
    if bit v 28 then s.invalidate ch else s

/-- MEM_MMU_WRITE. -/
def execMemMmuWrite (ch : Fin 8) (val : BitVec 32) (s : State) : Out := .next (s.chanWr ch 0x7000 fun s => s.mmuWrite ch val)
/-- INV: a write of MEM_MMU that carries 1 in INV. -/
def execInv (ch : Fin 8) (val : BitVec 32) (s : State) : Out :=
  .next (s.chanWr ch 0x7000 fun s => s.mmuWrite ch (val ||| 0x10000000))

/-- FLUSH: a write of MEM_TC_CTL. -/
def execFlush (ch : Fin 8) (val : BitVec 32) (s : State) : Out :=
  .next (s.chanWr ch 0x7014 fun s => if bit val.toNat 0 then s.flushAll ch else s)

/-- WRITE_BACK_COMPLETE: the oldest write-back of the buffer ends; `ok` says whether its home took it (R320, R321). -/
def execWriteBackComplete (ch : Fin 8) (ok : Bool) (s : State) : Out :=
  .next (match (s.chan[ch]).mem.tc.wb.find? (!·.failed) with
    | none => s
    | some x => (s.wbEnd ch x ok).tcCount ch)

/-- TC_WB_RETRY: every failed write-back is tried again; `ok` says whether the homes answer (R321). -/
def execTcWbRetry (ch : Fin 8) (ok : Bool) (s : State) : Out :=
  .next ((((s.chan[ch]).mem.tc.wb.filter (·.failed)).foldl (fun (s : State) x => s.wbAgain ch x ok) s).tcCount ch)

/-! ## Hot-page promotion (R322) -/

/-- The setting of a policy of the channel's partition, under R6; 0 without one. -/
def State.policy (s : State) (ch : ChIdx) (f : Policies → Nat) : Nat :=
  match s.partIdx ch, s.pkg.mould.force with
  | some p, some i => s.underR6 ch (f i.policy[p])
  | _, _ => 0

/-- The granules of a region that the tier cache serves because it is promoted. -/
def State.regionGrans (s : State) (ch : ChIdx) (addr : Nat) : List (Tier × Nat) :=
  (List.range 512).filterMap fun k =>
    match s.translate ch (addr + 4096 * k) with
    | .ok (l, a) => if l.tier == .t1 || l.tiered || !l.promo then none else some (l.tier, a / 4096)
    | .error _ => none

/-- The dirty granules of a region are written back. -/
def State.cleanRegion (s : State) (ch : ChIdx) (addr : Nat) : State :=
  (s.regionGrans ch addr).foldl (fun (s : State) g => s.tcClean ch g.1 g.2) s

/-- The granules of a region leave the cache. -/
def State.dropRegion (s : State) (ch : ChIdx) (addr : Nat) : State :=
  let gs := s.regionGrans ch addr
  s.modTc ch fun tc => { tc with lines := tc.lines.filter fun l => !gs.contains (l.tier, l.gran) }

/-- Step 1 of AUTO: promoted regions that counted too few are demoted, their dirty granules written back first, and their granules
leave the cache, so that a value never changes (R322, R336). A region with a write-back that has not ended stays promoted (log
entry 89). -/
def State.demoteCold (s : State) (ch : ChIdx) (cold : Nat) : State :=
  let cands := (s.chan[ch]).mem.promo.filter fun r => r.promoted && r.count < cold
  let s := cands.foldl (fun (s : State) r => s.cleanRegion ch r.addr) s
  let out := (cands.filter fun r => !(s.regionGrans ch r.addr).any fun g => s.tcDirty ch g.1 g.2).map (·.addr)
  let drop (r : Region) : Region := if out.contains r.addr then { r with promoted := false } else r
  let s := out.foldl (fun (s : State) a => s.dropRegion ch a) s
  let rest (l : List Region) : List Region := l.take 4096 ++ (l.drop 4096).filter (·.promoted)
  (s.modMem ch fun m => { m with promo := rest (m.promo.map drop) }).satF ch R.MEM_PROMO_DEMOTED out.length

/-- `a` is promoted ahead of `b`: highest count first, then lowest address. -/
def Region.ahead (a b : Region) : Bool := b.count < a.count || (a.count == b.count && a.addr < b.addr)

/-- Step 2 of AUTO: hot regions are promoted until `most` are. -/
def State.promoteHot (s : State) (ch : ChIdx) (hot most : Nat) : State :=
  let l := (s.chan[ch]).mem.promo
  let room := most - (l.filter (·.promoted)).length
  let cands := l.filter fun r => !r.promoted && hot ≤ r.count
  let wins (r : Region) : Bool := !r.promoted && hot ≤ r.count && (cands.filter fun q => q.ahead r).length < room
  s.modMem ch fun m => { m with promo := m.promo.map fun r => if wins r then { r with promoted := true } else r }

/-- PROMOTION_PERIOD. -/
def execPromotionPeriod (ch : Fin 8) (s : State) : Out :=
  .next (match s.imgCh ch with
    | none => s
    | some i =>
      let hots := (s.chan[ch]).mem.promo.filter fun r => i.hot ≤ r.count
      let s := s.setF ch R.MEM_PROMO_CANDIDATES (min 4095 hots.length)
      let set := s.policy ch (·.promo)
      if set == 1 then hots.foldl (fun (s : State) r =>
        s.post (srcOf ch 0x021) .hotRegion [r.addr % 2 ^ 32, r.addr / 2 ^ 32, r.count]) s
      else if set == 2 then
        let size := s.f ch R.MEM_TC_CFG_SIZE
        let s := (s.demoteCold ch i.cold).promoteHot ch i.hot (min (min i.promoMax 2048) (size / 2))
        let s := s.modMem ch fun m => { m with promo := m.promo.map fun r => { r with count := r.count / 2 } }
        let n := ((s.chan[ch]).mem.promo.filter (·.promoted)).length
        (((s.setF ch R.MEM_PROMO_PROMOTED n).tcCount ch).post (srcOf ch 0x021) .promoChange [])
      else s)

/-! ## Stream windows (R323 to R326) -/

/-- A stream-window entry (Table 11.6). -/
structure WinEnt where
  src : Nat
  dst : Nat
  bytes : Nat
  deadline : Nat
  fill : Nat
  free : Nat
  expert : Option Nat

/-- Entry `k` of a window's schedule. -/
def State.winEnt (s : State) (ch : ChIdx) (w : Fin 4) (k : Nat) : WinEnt :=
  let b := (s.chan[ch]).mem.ls.read (s.f ch (R.MEM_SW_CFG_SCHED w) * 32 + 32 * k) 32
  let f (o n : Nat) : Nat := leNat (slice b o n)
  let x := f 30 2
  ⟨f 0 8 % 2 ^ 56, f 8 8 % 2 ^ 56, f 16 4, f 24 4, f 28 1, f 29 1, if bit x 15 then some (x % 4096) else none⟩

/-- A window. -/
def State.win (s : State) (ch : ChIdx) (w : Fin 4) : Win := (s.chan[ch]).mem.win[w]

/-- A window changed. -/
def State.modWin (s : State) (ch : ChIdx) (w : Fin 4) (f : Win → Win) : State :=
  s.modMem ch fun m => { m with win := m.win.set w (f m.win[w]) }

/-- The residency of an expert set by an entry that names one. -/
def State.setExpert (s : State) (ch : ChIdx) (x : Option Nat) (st : ExpSt) : State :=
  match x with
  | none => s
  | some k => s.modMem ch fun m => { m with experts := Cells.set (fun _ => ExpSt.resident) m.experts k st }

/-- The run of a window ends (log entry 49). -/
def State.winEnd (s : State) (ch : ChIdx) (w : Fin 4) : State :=
  (s.modWin ch w fun _ => ⟨.idle, 0, false, false, 0, false⟩).setF ch (R.MEM_SW_STAT_RUNNING w) 0

/-- An entry is abandoned: EN clears, FAULTS counts, SW_FAULT carries the index and the status (R325). -/
def State.winFault (s : State) (ch : ChIdx) (w : Fin 4) (status : Nat) : State :=
  let cur := (s.win ch w).cur
  let s := (s.setF ch (R.MEM_SW_CFG_EN w) 0).satF ch (R.MEM_SW_STAT_FAULTS w) 1
  (s.winEnd ch w).post (srcOf ch 0x022) .swFault [cur, status]

/-- Every page of a slot maps to T1: none, or the status of what does not. -/
def State.slotBad (s : State) (ch : ChIdx) (va n : Nat) : Option Nat :=
  ((List.range (ceilDiv (va % 4096 + n) 4096)).findSome? fun k =>
    match s.translate ch ((va / 4096 + k) * 4096) with
    | .ok (l, _) => if l.tier == .t1 then none else some 0x20
    | .error _ => some 0x20)

/-- The copy of a window's entry waits for nothing but its START. -/
def State.winFree (s : State) (ch : ChIdx) (w : Fin 4) : Bool :=
  let x := s.winEnt ch w (s.win ch w).cur
  (s.win ch w).phase == .waiting && 1 + s.claimed ch x.free ≤ (s.semAt ch x.free).count

/-- A window of lower number is ready too: its START has passed, since that of `win` has, in a run that is no older (R324, log
entry 90). -/
def State.winBehind (s : State) (ch : ChIdx) (win : Fin 4) : Bool :=
  let start (w : Fin 4) : Nat := leNat (slice ((s.chan[ch]).mem.ls.read (s.f ch (R.MEM_SW_CFG_SCHED w) * 32 + 32 * (s.win ch w).cur) 32) 20 4)
  (List.finRange 4).any fun v => v.val < win.val && s.winFree ch v &&
    (start v == 0 || (start v ≤ start win && (s.win ch win).age ≤ (s.win ch v).age))

/-- WINDOW_COPY_START: START has passed; the entry takes FREE_SEM and its copy begins. One copy runs at a time, in ascending window
number among those that are ready (R324). -/
def execWindowCopyStart (ch : Fin 8) (win : Fin 4) (s : State) : Out :=
  let busy := (List.finRange 4).any fun v => (s.win ch v).phase == .copying
  let x := s.winEnt ch win (s.win ch win).cur
  .next (if !s.clocked ch || busy || !s.winFree ch win || s.winBehind ch win then s
    else
      let s := s.takeWaits ch [(x.free, 1)]
      match s.slotBad ch x.dst x.bytes with
      | some st => s.winFault ch win st
      | none => (s.modWin ch win fun v => { v with phase := .copying }).setExpert ch x.expert
          (if (s.win ch win).late then .late else .filling))

/-- The bytes of a window's entry copied. -/
def State.winCopy (s : State) (ch : ChIdx) (x : WinEnt) : Except MemErr State := do
  let bs ← s.vaRead ch x.src x.bytes
  (s.vaTouch ch x.src x.bytes).vaWrite ch x.dst bs

/-- WINDOW_COPY_DONE: the bytes are visible, FILL_SEM is signalled, and the run moves on or ends; `d` names the window and the
memory errors that the copy met. While the T2 link trains it waits (R311, R324, R325). -/
def execWindowCopyDone (ch : Fin 8) (d : WinDone) (s : State) : Out :=
  let win := d.win
  let v := s.win ch win
  let x := s.winEnt ch win v.cur
  .next (if v.phase != .copying then s
    else match (s.ecc ch d.ecc).winCopy ch x with
      | .error e => if e.waits then s else ((s.ecc ch d.ecc).winFault ch win e.status.1).eccDone ch
      | .ok s =>
        let s := ((s.setExpert ch x.expert .resident).semSignal ch 0x022 x.fill 1).eccDone ch
        if v.ending || s.f ch (R.MEM_SW_CFG_ENTRIES win) ≤ v.cur + 1 then s.winEnd ch win
        else (s.modWin ch win fun v => ⟨.waiting, v.cur + 1, false, false, v.age, false⟩).setF ch (R.MEM_SW_STAT_CUR win) (v.cur + 1))

/-- WINDOW_LATE: the entry in progress has a DEADLINE and has not signalled by it (R326). -/
def execWindowLate (ch : Fin 8) (win : Fin 4) (s : State) : Out :=
  let v := s.win ch win
  let x := s.winEnt ch win v.cur
  .next (if v.phase == .idle || v.late || x.deadline == 0 then s
    else
      let s := (s.modWin ch win fun v => { v with late := true }).satF ch (R.MEM_SW_STAT_LATE win) 1
      let s := if v.phase == .copying then s.setExpert ch x.expert .late else s
      s.post (srcOf ch 0x022) .windowLate [win.val, v.cur])

/-- SW_CFG_WRITE: clearing EN lets the entry in progress complete and ends the run. -/
def execSwCfgWrite (ch : Fin 8) (win : Fin 4) (val : BitVec 32) (s : State) : Out :=
  .next (s.chanWr ch (0x7400 + 8 * win.val) fun s =>
    let off := bits val.toNat 31 31 == 0 && s.f ch (R.MEM_SW_CFG_EN win) == 1 && (s.win ch win).phase != .idle
    let s := s.modC ch (·.wr (0x7400 + 8 * win.val) val)
    if off then s.modWin ch win fun v => { v with ending := true } else s)

/-! ## Regulators (R327 to R329) -/

/-- The channel under which a wait at an instance counts when no command of a channel made the transfer: its own, and for T3 the
lowest of the partition. -/
def State.instChan (s : State) (i : BucketInst) (k : Nat) : ChIdx :=
  match i with
  | .t1 ch => ch
  | .t2 ch => ch
  | .t3 => ((List.finRange 8).find? fun c => s.place c == k && s.bound c).getD 0

/-- REG_REFILL: the refill of an instance, then the transfers of the host port and the fabric until the next one, in request order:
source and bytes. Those of contexts and movers are charged as their accesses are made (R327, State.charge, log entry 48). -/
def execRegRefill (inst : BucketInst) (reqs : List (Nat × Nat)) (s : State) : Out :=
  let s := (instSources inst).foldl (fun (s : State) k => s.refillOne inst k) s
  .next (reqs.foldl (fun (s : State) r =>
    if (instSources inst).contains r.1 then s.transfer inst r.1 (s.instChan inst r.1) r.2 else s) s)

/-- RMIN and RMAX of a bucket in the image in force. -/
def State.rateBounds (s : State) (i : BucketInst) (k : Nat) : Option (Nat × Nat) :=
  match s.pkg.mould.force with
  | none => none
  | some im => match i with
    | .t1 ch => (im.chans[ch]).bounds[k]?
    | .t2 ch => (im.chans[ch]).bounds[9 + k]?
    | .t3 => im.t3Bounds[k]?

/-- The ceiling of Table 11.8. -/
def State.rateCeiling (s : State) (i : BucketInst) : Nat :=
  match i with
  | .t1 _ => 6250
  | .t2 ch => if (s.imgCh ch).any (·.ide) then 278 else 287
  | .t3 => 168

/-- The setting of regulator tuning for a bucket: that of the channel's partition, and for T3 that of the source's own. -/
def State.tuneSetting (s : State) (i : BucketInst) (k : Nat) : Nat :=
  match i with
  | .t1 ch => s.policy ch (·.reg)
  | .t2 ch => s.policy ch (·.reg)
  | .t3 => match s.pkg.mould.force with
    | none => 0
    | some im =>
      let p := (im.policy[Fin.ofNat 8 k]).reg
      if p == 2 && (List.finRange 8).any (fun c => s.place c == k && s.bound c) then 1 else p

/-- The sum of the enabled RATEs, from a list of rates by source. -/
def State.rateSum (s : State) (i : BucketInst) (rates : List Nat) : Nat :=
  ((instSources i).map fun k => if s.bf i (bktEn i k) == 1 then rates.getD k 0 else 0).sum

/-- Step 1 of R329 for a bucket. -/
def lowered (rate lo : Nat) : Nat := max lo (rate - max 1 ((rate - lo) / 8))

/-- The RATEs that AUTO would set. -/
def State.tuned (s : State) (i : BucketInst) : List Nat :=
  let ks := instSources i
  let old := ks.map fun k => s.bf i (bktRate i k)
  let step1 := ks.map fun k =>
    let r := old.getD k 0
    match s.rateBounds i k with
    | some b => if (s.bucket i k).full && b.1 ≤ r then lowered r b.1 else r
    | none => r
  ks.foldl (fun (rs : List Nat) k =>
    match s.rateBounds i k with
    | some b =>
      let r := rs.getD k 0
      if !(s.bucket i k).waited then rs
      else
        let free := s.rateCeiling i - s.rateSum i rs
        let up := min (max 1 ((b.2 - r) / 8)) (min (b.2 - r) (if s.bf i (bktEn i k) == 1 then free else b.2))
        rs.set k (r + up)
    | none => rs) step1

/-- REGULATOR_TUNING: AUTO sets each new RATE and posts it, ASSIST posts it alone (R329, Table 0.6). -/
def execRegulatorTuning (inst : BucketInst) (s : State) : Out :=
  let new := s.tuned inst
  let s := (instSources inst).foldl (fun (s : State) k =>
    let r := new.getD k 0
    if r == s.bf inst (bktRate inst k) then s
    else
      let src := match inst with
        | .t1 ch => srcOf ch 0x023
        | .t2 ch => srcOf ch 0x023
        | .t3 => srcHub 0x008
      if s.tuneSetting inst k == 2 then (s.setB inst (bktRate inst k) r).post src .rateChange [instOff inst k, r]
      else if s.tuneSetting inst k == 1 then s.post src .rateAdvice [instOff inst k, r]
      else s) s
  .next ((instSources inst).foldl (fun (s : State) k =>
    let full := s.bf inst (bktTok inst k) == s.burst inst k
    s.modBucket inst k fun b => { b with full := full, waited := false }) s)

/-- A RATE within the bounds of the image in force. -/
def clampRate (b : Option (Nat × Nat)) (r : Nat) : Nat :=
  match b with
  | some x => max x.1 (min x.2 r)
  | none => r

/-- TOKENS follows a new BURST: capped by it, and no longer full below it (R329, R336). -/
def State.newBurst (s : State) (i : BucketInst) (k : Nat) : State :=
  let t := min (s.burst i k) (s.bf i (bktTok i k))
  (s.setB i (bktTok i k) t).modBucket i k fun b => { b with full := b.full && t == s.burst i k }

/-- A bucket starts full: the reset value of TOKENS is BURST (R328). -/
def State.fillBucket (s : State) (i : BucketInst) (k : Nat) : State := s.setB i (bktTok i k) (s.burst i k)

/-- The buckets of T1 and T2 of a channel start full. -/
def State.fillBuckets (s : State) (ch : ChIdx) : State :=
  [BucketInst.t1 ch, BucketInst.t2 ch].foldl (fun (s : State) i => (List.range 9).foldl (fun (s : State) k => s.fillBucket i k) s) s

/-- REG_CFG_WRITE: RATE is clamped with REG_CLAMP; TOKENS is capped at the new BURST (R328, R336). -/
def execRegCfgWrite (inst : BucketInst) (src : Fin 9) (val : BitVec 32) (s : State) : Out :=
  if !(instSources inst).contains src.val then .next s
  else .next (s.hostWr (instPf inst) (instOff inst src.val) fun s =>
    let r := bits val.toNat 15 0
    let c := clampRate (s.rateBounds inst src.val) r
    let s := s.fnWr (instPf inst) (instOff inst src.val) (BitVec.ofNat 32 (putBits val.toNat 15 0 c))
    let s := s.newBurst inst src.val
    if c == r then s else s.postReg (instPf inst) .regClamp [])

/-! ## Stalls and failures (R311, R315, R330 to R333) -/

/-- The access that an engine, a scalar thread or a stream window waits for ends with MEM_UE: the entry or the thread faults, the
window's entry is abandoned (R311, R313, R315, R325). -/
def State.agentUe (s : State) (ch : ChIdx) (who : Agent) (va : Nat) : State :=
  match who with
  | .engine eng =>
    match ((s.eq ch eng).run.toList ++ (s.eq ch eng).parked.filter fun e => e.started && !e.stopped).head? with
    | none => s
    | some e => s.entryFault ch e (xerr 0x21 (va % 2 ^ 32)) (e.pass != 0)
  | .thread jc => match (s.ctx ch jc).load with
    | none => s
    | some _ => s.scalarFault ch jc 0x21 0 (va % 2 ^ 32)
  | .window w => if (s.win ch w).phase == .copying then s.winFault ch w 0x21 else s

/-- T2_COMPLETION_TIMEOUT: the request completes with poison and the link is marked failed, an uncorrectable event of the
expander (R311, R430). -/
def execT2CompletionTimeout (ch : Fin 8) (who : Option Agent) (va : BitVec 56) (s : State) : Out :=
  let l := s.f ch R.MEM_T2_STAT_LINK
  .next (if l == 0 || l == 3 then s
    else
      let s := ((s.satF ch R.MEM_T2_STAT_POISON 1).setF ch R.MEM_T2_STAT_LINK 3).faultUe 5 ch.val 0x21
      match who with
      | none => s
      | some a => s.agentUe ch a va.toNat)

/-- The partition of the channel runs in G1-compatibility mode. -/
def State.g1 (s : State) (ch : ChIdx) : Bool := (s.part ch).any (·.g1)

/-- NVME_TIMEOUT: the command is issued once more, its wait counted under T3_RETRY; a second failure ends the access. The mover of
the stream windows is no engine: its waits are not counted. -/
def execNvmeTimeout (ch : Fin 8) (who : Agent) (va : BitVec 56) (second : Bool) (cycles : Nat) (s : State) : Out :=
  .next (if (s.pkg.mould.force.any fun i => i.t3Form == 1) && s.up ch then
      let s := match who with
        | .window _ => s
        | _ => s.stalled ch 6 cycles
      if second then s.agentUe ch who va.toNat else s
    else s)

/-- A wait under a cause is counted: R330 leaves out G1-compatibility mode, and the rules of the other causes do not (R311, R315,
R319, R326, R328, log entry 50). -/
def State.countsStall (s : State) (ch : ChIdx) (cause : Fin 9) : Bool := !s.g1 ch || (cause != 2 && cause != 5)

/-- TIER_STALL: an engine or a scalar thread has waited `cycles` cycles in one stretch under a cause of Table 11.9. The event is an
engine's (R331). -/
def execTierStall (ch : Fin 8) (who : Agent) (cause : Fin 9) (cycles : Nat) (s : State) : Out :=
  let count (s : State) : State := if s.countsStall ch cause then s.stalled ch cause.val cycles else s
  .next (if !s.up ch then s
    else match who with
      | .window _ => s
      | .thread _ => count s
      | .engine eng =>
        let th := s.f ch R.MEM_TIER_EVT_THRESH
        if th != 0 && 2000 * th < cycles then (count s).post (srcOf ch (0x010 + eng.val)) .tierStall [cause.val, eng.val]
        else count s)

/-- The read of some granule of a run goes to T2 or T3: no hit of the tier cache serves it. -/
def State.runFar (s : State) (ch : ChIdx) (r : Nat × Nat) : Bool :=
  (granRuns r.1 r.2).any fun g => match s.translate ch g.1 with
    | .ok (l, a) => l.tier != .t1 && !(s.cached ch g.1 l && (s.tcLine ch l.tier (a / 4096)).isSome)
    | .error _ => false

/-- The read of a masked page continues: what the tier cache serves of it comes in (R332). -/
def State.pageIn (s : State) (ch : ChIdx) (r : Nat × Nat) : State :=
  match s.ownRead ch r.1 r.2 with
  | .ok _ => s.vaTouch ch r.1 r.2
  | .error _ => s

/-- The pass of an AT entry that runs reads a page. -/
def State.readsPage (s : State) (ch : ChIdx) (e : Entry) (ref : Nat) : Bool :=
  let (r0, n) := e.atTile e.pass
  match s.atPages ch e (((List.range n).map (r0 + ·)).map e.atRow) with
  | .ok ps => ps.contains ref
  | .error _ => false

/-- KV_PAGE_MASK: a page that the AT entry which runs reads, and whose bytes are due from T2 or T3, is masked for that entry,
counted and reported; its read continues (R269, R332, R333). -/
def execKvPageMask (ch : Fin 8) (page : BitVec 32) (s : State) : Out :=
  .next (match (s.eq ch 0).run, (s.chan[ch]).ft.cfg with
    | some e, some c =>
      let runs := c.pageRuns page.toNat
      if !s.g1 ch || e.op < 0x10 || !s.readsPage ch e page.toNat || !runs.any (s.runFar ch) then s
      else
        let s := runs.foldl (fun (s : State) r => s.pageIn ch r) s
        let s := s.modQ ch 0 fun q => { q with run := some { e with masked := e.masked ++ [page.toNat] } }
        let s := (s.satF ch R.CH_AT_STAT_MASKED 1).satF ch R.MEM_SUBST_KV 1
        s.post (srcOf ch 0x010) .tierSubst [1 + e.jc * 2 ^ 8, e.seq, page.toNat]
    | _, _ => s)

/-! ## Load/store engines (R334, R335) -/

/-- SHP0 to SHP3 govern DIM0 to DIM3 of every named operand. -/
def lsGov (w : Wide) : List Gov := (List.range 4).map fun d => govOf w [(0, d), (3, d)]

/-- LS.COPY at issue: COPY, or WRITEBACK and PREFETCH. -/
def formLsCopy : OpForm :=
  plainForm true (fun i => wPar i.w 1 0 == 3) lsGov [3] fun i =>
    let fit := match i.t 0, i.t 3 with
      | some x, some d => x.fmt == d.fmt && x.rank == d.rank
      | _, _ => false
    failIf (!i.has 0 || !i.absent [1, 2, 4, 5] || (if wPar i.w 1 0 == 0 then !fit else i.has 3)) (i.fault 0x80)

/-- LS.FILL at issue. -/
def formLsFill : OpForm :=
  plainForm true (fun _ => false) lsGov [3] fun i => failIf (!i.has 3 || !i.absent [0, 1, 2, 4, 5]) (i.fault 0x80)

/-- The rows of the resolved shape, in linear order. -/
def Entry.lsRows (e : Entry) : List (Nat × Nat × Nat) :=
  (List.range (e.sz 3)).flatMap fun k => (List.range (e.sz 2)).flatMap fun j => (List.range (e.sz 1)).map fun i => (i, j, k)

/-- The rows of each pass: a boundary stands after the row that takes the bytes written to a further whole MiB. -/
def lsSplit {α : Type} (rb : Nat) : Nat → List α → List α → List (List α)
  | _, acc, [] => if acc.isEmpty then [] else [acc]
  | done, acc, x :: xs =>
    let acc := acc ++ [x]
    if done / 2 ^ 20 < (done + rb) / 2 ^ 20 then acc :: lsSplit rb (done + rb) [] xs else lsSplit rb (done + rb) acc xs

/-- The passes of a copy or a fill. -/
def Entry.lsPasses (e : Entry) : List (List (Nat × Nat × Nat)) := lsSplit ((e.t 3).bytesOf (e.sz 0)) 0 [] e.lsRows

/-- Stored codes of a row: bytes of a coded region are not decoded (R305). -/
def State.rawRow (s : State) (ch : ChIdx) (t : Tens) (x : Nat × Nat × Nat) (n : Nat) : Try (List Nat) := do
  let b := fmtBits t.fmt
  let v := leNat (← s.spRead ch t.space (t.base + t.rowOff (0, x)) (ceilDiv (n * b) 8))
  .ok ((List.range n).map fun k => v / 2 ^ (b * k) % 2 ^ b)

/-- One row copied, with its scales. -/
def State.copyRow (s : State) (ch : ChIdx) (e : Entry) (x : Nat × Nat × Nat) : Try State := do
  let n := e.sz 0
  let a := e.t 0
  let d := e.t 3
  let s ← s.putCodes ch d (0, x) (← s.rawRow ch a x n)
  match a.scale e.td, d.scale e.td with
  | some sa, some sd => s.putCodes ch sd (0, x) (← s.rawRow ch sa x (ceilDiv n (fmtBlock a.fmt)))
  | _, _ => .ok s

/-- One row filled, with its scales. -/
def State.fillRow (s : State) (ch : ChIdx) (e : Entry) (x : Nat × Nat × Nat) : Try State := do
  let n := e.sz 0
  let d := e.t 3
  let s ← s.putCodes ch d (0, x) (List.replicate n (wPar e.word 47 0 % 2 ^ fmtBits d.fmt))
  match d.scale e.td with
  | some sd => s.putCodes ch sd (0, x) (List.replicate (ceilDiv n (fmtBlock d.fmt)) (wPar e.word 55 48))
  | none => .ok s

/-- The occupancy of one pass: the slower of its reads and its writes. -/
def State.lsPaid (s : State) (ch : ChIdx) (e : Entry) (rd wr : Feed) : Entry :=
  { e with cyc := e.cyc + max (s.feedCycles ch rd) (s.feedCycles ch wr) }

/-- Some rows of an operand with their scales, as they are stored. -/
def State.lsFeed (s : State) (ch : ChIdx) (td : Vector Desc 64) (t : Tens) (rows : List (Nat × Nat × Nat)) (n : Nat) : Feed :=
  rows.foldl (fun (f : Feed) x =>
    let f := s.feedRaw ch t (0, x) n f
    match t.scale td with
    | some sc => s.feedRaw ch sc (0, x) (ceilDiv n (fmtBlock t.fmt)) f
    | none => f) []

/-- A pass of a copy or a fill. -/
def State.lsPass (s : State) (ch : ChIdx) (e : Entry) : Try (State × Entry) := do
  let rows := (e.lsPasses).getD e.pass []
  let copy := e.op == 1
  let s' ← tryFold (fun (s : State) x => if copy then s.copyRow ch e x else s.fillRow ch e x) s rows
  let feed (k : Nat) : Feed := s.lsFeed ch e.td (e.t k) rows (e.sz 0)
  .ok (s', s.lsPaid ch e (if copy then feed 0 else []) (feed 3))

/-! ### WRITEBACK and PREFETCH -/

/-- The pages that hold a byte of an operand within the resolved extent. -/
def Entry.rangePages (e : Entry) (t : Tens) (n : Nat) : List Nat :=
  if t.space != 0 then []
  else e.lsRows.flatMap fun x =>
    let a := t.base + t.rowOff (0, x)
    (List.range ((a + t.bytesOf n - 1) / 4096 - a / 4096 + 1)).map (a / 4096 + ·)

/-- The granules of the range whose pages the tier cache serves: virtual page, tier and granule. -/
def State.rangeGrans (s : State) (ch : ChIdx) (e : Entry) : Try (List (Nat × Tier × Nat)) := do
  let a := e.t 0
  let pages := e.rangePages a (e.sz 0) ++ match a.scale e.td with
    | some sc => e.rangePages sc (ceilDiv (e.sz 0) (fmtBlock a.fmt))
    | none => []
  let l ← tryMap (fun p => match s.translate ch (4096 * p) with
    | .error x => .error x.x
    | .ok (l, t) => .ok (if s.cached ch (4096 * p) l then [(p, l.tier, t / 4096)] else [])) (distinct pages)
  .ok l.flatten

/-- What keeps a granule of a range from its home: the T2 link that trains, or on a PREFETCH a home that cannot be read
(R311, R313, R336). -/
def State.rangeErr (s : State) (ch : ChIdx) (wb : Bool) (g : Nat × Tier × Nat) : Option XErr :=
  let moves := if wb then s.tcDirty ch g.2.1 g.2.2 else (s.tcLine ch g.2.1 g.2.2).isNone && (s.wbGran ch g.2.1 g.2.2).isNone
  if !moves then none
  else if g.2.1 == .t2 && s.t2Waits ch then some (MemErr.wait (4096 * g.1)).x
  else if !wb && s.granBad ch g.2.1 g.2.2 then some (MemErr.ue (4096 * g.1)).x
  else none

/-- A pass of WRITEBACK or PREFETCH: 256 granules. -/
def State.rangePass (s : State) (ch : ChIdx) (e : Entry) : Try (State × Entry) := do
  let gs := slice (← s.rangeGrans ch e) (256 * e.pass) 256
  let wb := wPar e.word 1 0 == 1
  match gs.findSome? (s.rangeErr ch wb) with
  | some x => .error x
  | none => .ok ()
  let moved := gs.filter fun g => if wb then s.tcDirty ch g.2.1 g.2.2 else (s.tcLine ch g.2.1 g.2.2).isNone
  let home : Feed := moved.foldl (fun (f : Feed) g => f.add (if g.2.1 == .t2 then 4 else 5) 4096) []
  let t1 : Feed := [(3, 4096 * moved.length)]
  let s' := gs.foldl (fun (s : State) g => if wb then s.tcClean ch g.2.1 g.2.2 else s.tcTouch ch g.2.1 g.2.2) s
  .ok (s'.tcCount ch, s.lsPaid ch e (if wb then t1 else home) (if wb then home else t1))

/-- The passes of an LS entry. -/
def State.lsCount (s : State) (ch : ChIdx) (e : Entry) : Nat :=
  if e.op == 1 && wPar e.word 1 0 != 0 then
    match s.rangeGrans ch e with
    | .ok l => max 1 (ceilDiv l.length 256)
    | .error _ => e.pass + 1
  else e.lsPasses.length

/-- An LS entry in execution. -/
def runLs : OpRun :=
  { onePass (fun s ch e _ =>
      ofTry s e (if e.op == 1 && wPar e.word 1 0 != 0 then s.rangePass ch e else s.lsPass ch e)) with
    setup := fun _ resumes => if resumes then 0 else 32
    passes := State.lsCount }

/-! ## Commands -/

/-- LS.COPY COPY. -/
def execLsCopy (ch : Fin 8) (jc : Fin 16) (ls : Fin 4) (w : BitVec 512) (s : State) : Out :=
  .next (s.issueWide ch jc (asMode 1 0 0 (asOp (6 + ls.val) 1 w)) formLsCopy)
/-- LS.COPY WRITEBACK. -/
def execWriteback (ch : Fin 8) (jc : Fin 16) (ls : Fin 4) (w : BitVec 512) (s : State) : Out :=
  .next (s.issueWide ch jc (asMode 1 0 1 (asOp (6 + ls.val) 1 w)) formLsCopy)
/-- LS.COPY PREFETCH. -/
def execPrefetch (ch : Fin 8) (jc : Fin 16) (ls : Fin 4) (w : BitVec 512) (s : State) : Out :=
  .next (s.issueWide ch jc (asMode 1 0 2 (asOp (6 + ls.val) 1 w)) formLsCopy)
/-- LS.FILL. -/
def execLsFill (ch : Fin 8) (jc : Fin 16) (ls : Fin 4) (w : BitVec 512) (s : State) : Out :=
  .next (s.issueWide ch jc (asOp (6 + ls.val) 2 w) formLsFill)

end Sys2Proof.Machine
end

