-- ==== Sys2Proof/Machine/Collective.lean ====
section
/-! DEFINITION. Collectives: slots and their descriptors, joining, the two trees, the CL operations and the in-network
reduction (R375 to R393). -/

namespace Sys2Proof.Machine

open Sys2Proof

/-! ## Slot registers (R375, R376) -/

/-- STATE of CH_CL_SLOT_STAT as it reads: BUSY while an entry of the slot is queued or started, or a reduction runs. -/
def State.slotView (s : State) (ch : ChIdx) (k : SlotIdx) : Nat :=
  let st := s.slotState ch k
  if st == 1 && (!(s.slotEntries ch k).isEmpty || (s.slot ch k).inr.isSome) then 2 else st

/-- Addresses of a level-1 group share bits [23:3] and ascend in bits [2:0]. -/
def groupOk : List Nat → Bool
  | a :: b :: rest => a / 8 == b / 8 && a < b && groupOk (b :: rest)
  | _ => true

/-- A communicator descriptor read for a slot; none when it cannot be read or breaks R376. -/
def State.readComm (s : State) (ch : ChIdx) (k : SlotIdx) : Option ClSlot :=
  let addr := s.f ch (R.CH_CL_SLOT_DESC_LO_ADDR_LO k) * 64 + s.f ch (R.CH_CL_SLOT_DESC_HI_ADDR_HI k) * 2 ^ 32
  let id := s.f ch (R.CH_CL_SLOT_ID_LO_ID_LO k) + s.f ch (R.CH_CL_SLOT_ID_HI_ID_HI k) * 2 ^ 32
  match s.vaRead ch addr 64 with
  | .error _ => none
  | .ok h =>
    let f (o n : Nat) : Nat := leNat (slice h o n)
    let r := f 8 4
    let g1 := f 12 2
    let g2 := f 14 2
    let g3 := f 16 2
    let g4 := f 18 2
    let rank := f 20 4
    let shape := 2 ≤ r && r ≤ 16384 && 1 ≤ g1 && g1 ≤ 8 && [g2, g3, g4].all (fun g => 1 ≤ g && g ≤ 1024) &&
      r == g1 * g2 * g3 * g4 && rank < r && f 0 8 == id
    if !shape then none
    else match s.vaRead ch (addr + 64) (4 * r) with
      | .error _ => none
      | .ok b =>
        let nodes := (List.range r).map fun i => leNat (slice b (4 * i) 3)
        let groups := (List.range (r / g1)).all fun i => groupOk (slice nodes (i * g1) g1)
        if nodes.getD rank 0 == s.node ch && nodes.eraseDups.length == r && groups then
          some { ClSlot.new with id := BitVec.ofNat 64 id, r := r, g1 := g1, g2 := g2, g3 := g3, g4 := g4, rank := rank, nodes := nodes }
        else none

/-- A write of CH_CL_SLOT_BUF: EN from 0 to 1 reads the descriptor; EN 0 turns the slot off.
A reduction in the network over the slot stays until INR_DONE or INR_FAIL (R392). -/
def State.slotBuf (s : State) (ch : ChIdx) (k : SlotIdx) (v : Nat) : State :=
  let was := s.f ch (R.CH_CL_SLOT_BUF_EN k) == 1
  let s := ((s.setF ch (R.CH_CL_SLOT_BUF_BASE k) (bits v 11 0)).setF ch (R.CH_CL_SLOT_BUF_SIZE k) (bits v 23 12)).setF ch
    (R.CH_CL_SLOT_BUF_PT k) (bits v 26 24)
  if !bit v 31 then
    ((s.setF ch (R.CH_CL_SLOT_BUF_EN k) 0).setF ch (R.CH_CL_SLOT_STAT_STATE k) 0).modSlot ch k fun old => { ClSlot.new with inr := old.inr }
  else if was then s
  else match s.readComm ch k with
    | none => s.post (srcOf ch 0x014) .clSlotBad [k.val]
    | some c =>
      let s := (s.setF ch (R.CH_CL_SLOT_BUF_EN k) 1).modSlot ch k fun old => { c with inr := old.inr }
      ((s.setF ch (R.CH_CL_SLOT_STAT_STATE k) 1).setF ch (R.CH_CL_SLOT_STAT_RANK k) c.rank).setF ch (R.CH_CL_SLOT_STAT_SEQ k) 0

/-- A write of one word of a slot's registers: while an entry of the slot is queued or started, a change is discarded (R375,
R516). -/
def State.slotWrite (s : State) (ch : ChIdx) (k : SlotIdx) (word v : Nat) : State :=
  if 4 < word then s
  else if !(s.slotEntries ch k).isEmpty then
    let off := 0x9000 + 32 * k.val + 4 * word
    let m := classMask false off .rw
    if BitVec.ofNat 32 v &&& m == (s.chan[ch]).rd off &&& m then s else s.postReg (pfOf ch) .clSlotLocked [k.val]
  else match word with
    | 0 => s.setF ch (R.CH_CL_SLOT_ID_LO_ID_LO k) v
    | 1 => s.setF ch (R.CH_CL_SLOT_ID_HI_ID_HI k) v
    | 2 => s.setF ch (R.CH_CL_SLOT_DESC_LO_ADDR_LO k) (bits v 31 6)
    | 3 => s.setF ch (R.CH_CL_SLOT_DESC_HI_ADDR_HI k) (bits v 23 0)
    | _ => s.slotBuf ch k v

/-- CL_SLOT_WRITE. -/
def execClSlotWrite (ch : Fin 8) (slot : Fin 16) (word : Fin 8) (val : BitVec 32) (s : State) : Out :=
  .next (s.chanWr ch (0x9000 + 32 * slot.val + 4 * word.val) fun s => s.slotWrite ch slot word.val val.toNat)

/-- The ranks of a subtree. -/
def ClSlot.subtree (c : ClSlot) (b : Bool) : Nat → Nat → List Nat
  | 0, r => [r]
  | fuel + 1, r => r :: (c.tree b r).2.flatMap (c.subtree b fuel)

/-- The ranks of a subtree in ascending order. -/
def ClSlot.ranksBelow (c : ClSlot) (b : Bool) (r : Nat) : List Nat := sortBy (fun (n : Nat) => n) (c.subtree b 40 r)

/-! ## Halves, chunks and the bytes of an operand (R384, R386, R53) -/

/-- The index of linear element `i` of extents, DIM0 innermost. -/
def linIdx (dims : List Nat) (i : Nat) : Idx :=
  let d0 := max 1 (dims.getD 0 1)
  let d1 := max 1 (dims.getD 1 1)
  let d2 := max 1 (dims.getD 2 1)
  (i % d0, i / d0 % d1, i / (d0 * d1) % d2, i / (d0 * d1 * d2))

/-- The extents of a tensor, 1 above the rank. -/
def Tens.dims (t : Tens) : List Nat := (List.range 4).map t.dim

/-- Elements of a tensor. -/
def Tens.count (t : Tens) : Nat := t.dims.foldl (· * ·) 1

/-- Bytes of `n` elements of a format, scales included. -/
def rawBytes (fmt n : Nat) : Nat := ceilDiv (n * fmtBits fmt) 8 + (if isBlock fmt then n / fmtBlock fmt else 0)

/-- The bits of elements `off` to `off + n - 1` of an operand: packed elements, then the scales of their blocks. -/
def State.rawRead (s : State) (ch : ChIdx) (td : Vector Desc 64) (t : Tens) (dims : List Nat) (off n : Nat) : Try (List Byte) := do
  let cs ← tryMap (fun i => s.code ch t (linIdx dims (off + i))) (List.range n)
  let body := leBytes (ceilDiv (n * fmtBits t.fmt) 8) (packCodes (fmtBits t.fmt) cs)
  match t.scale td with
  | none => .ok body
  | some sc =>
    let b := fmtBlock t.fmt
    let ss ← tryMap (fun j =>
      let x := linIdx dims (off + j * b)
      s.code ch sc (x.1 / b, x.2)) (List.range (n / b))
    .ok (body ++ ss.map (BitVec.ofNat 8))

/-- The bits of elements written as `rawRead` reads them. -/
def State.rawWrite (s : State) (ch : ChIdx) (td : Vector Desc 64) (t : Tens) (dims : List Nat) (off n : Nat) (bs : List Byte) :
    Try State := do
  let w := fmtBits t.fmt
  let body := leNat (bs.take (ceilDiv (n * w) 8))
  let s ← tryFold (fun (s : State) i => s.putCodes ch t (linIdx dims (off + i)) [body / 2 ^ (w * i) % 2 ^ w]) s (List.range n)
  match t.scale td with
  | none => .ok s
  | some sc =>
    let b := fmtBlock t.fmt
    let ss := bs.drop (ceilDiv (n * w) 8)
    tryFold (fun (s : State) j =>
      let x := linIdx dims (off + j * b)
      s.putCodes ch sc (x.1 / b, x.2) [(ss.getD j 0).toNat]) s (List.range (n / b))

/-- The FP32 codes of bytes. -/
def words32 : Nat → List Byte → List Nat
  | 0, _ => []
  | n + 1, l => leNat (l.take 4) :: words32 n (l.drop 4)

/-! ## Operands (R386, Tables 13.2 and 13.3) -/

/-- The slot an instruction names. -/
def wSlot (w : Wide) : SlotIdx := Fin.ofNat 16 (wPar w 3 0)

/-- PARAM of a CL instruction outside its ranges (Table 13.3). -/
def clParamBad (i : Iss) : Bool :=
  let red := wOp i.w == 1
  let r := (i.s.slot i.ch (wSlot i.w)).r
  wPar i.w 19 8 == 0 || (if red then 1 < clMode i.w || clFunc i.w == 3 else clMode i.w != 0) ||
    (wOp i.w == 2 && r != 0 && r ≤ clRoot i.w)

/-- ARG of CL_OPERAND and EX_OPERAND at issue: the slot and the SEQ it would give (R401). -/
def Iss.slotArg (i : Iss) : Nat := wPar i.w 3 0 + i.s.f i.ch (R.CH_CL_SLOT_STAT_SEQ (wSlot i.w)) * 2 ^ 16

/-- The operation-specific checks of a CL instruction: every one is CL_OPERAND. -/
def Iss.clErr (i : Iss) : Option XErr :=
  let n := sizeProd i.size
  let r := (i.s.slot i.ch (wSlot i.w)).r
  let bad := match i.t 0, i.t 3 with
    | some x, some d =>
      let red := wOp i.w == 1
      let need := if red && clMode i.w == 1 then (if r == 0 then 0 else n / r) else if wOp i.w == 3 then r * n else n
      (red && !([8, 9, 10].contains x.fmt && [8, 9, 10].contains d.fmt)) || (!red && (0xD < x.fmt || x.fmt != d.fmt)) ||
        (red && clMode i.w == 1 && r != 0 && n % (64 * r) != 0) || (wOp i.w == 4 && r != 0 && n % r != 0) ||
        d.count < need ||
        (isBlock x.fmt && (n % fmtBlock x.fmt != 0 || (wOp i.w == 4 && r != 0 && n / r % fmtBlock x.fmt != 0)))
    | _, _ => true
  failIf (bad || [1, 2, 4, 5].any i.has || wAcc i.w) (xerr 0x90 i.slotArg)

/-- An entry takes its slot's next sequence number as the last step of issue; a ZERO_SHAPE no-op takes none (R377). -/
def Iss.takeSeq (i : Iss) : Try (State × List Nat) :=
  if i.size.any (· ≤ 0) then .ok (i.s, [])
  else
    let f := R.CH_CL_SLOT_STAT_SEQ (wSlot i.w)
    .ok (i.s.incF i.ch f 1, [i.s.f i.ch f])

/-- The form of every CL instruction. -/
def formCl : OpForm :=
  { plainForm true clParamBad (fun w => (List.range 4).map fun d => govOf w [(0, d)]) [3] Iss.clErr with atIssue := Iss.takeSeq }

/-! ## What an entry is to its communicator -/

/-- The extents over which the elements of X are counted. -/
def Entry.clDims (e : Entry) : List Nat := e.size.map (·.toNat)

/-- A message is held in its slot. -/
def State.hold (s : State) (ch : ChIdx) (k : SlotIdx) (kind : Nat) (m : CMsg) : State :=
  s.modSlot ch k fun c => { c with held := c.held ++ [(kind, m)] }

/-- An entry of an engine's queue replaced by its new self. -/
def State.putEntry (s : State) (ch : ChIdx) (e : Entry) : State :=
  let new (x : Entry) : Entry := if x.order == e.order then e else x
  s.modQ ch (engOf e.eng) fun q => { q with waiting := q.waiting.map new, parked := q.parked.map new, run := q.run.map new }

/-- An entry leaves its engine's queue. -/
def State.pullEntry (s : State) (ch : ChIdx) (e : Entry) : State :=
  let other (x : Entry) : Bool := x.order != e.order
  s.modQ ch (engOf e.eng) fun q =>
    { q with waiting := q.waiting.filter other, parked := q.parked.filter other, run := q.run.filter other }

/-- ARG of a collective status: slot and SEQ (R401). -/
def Entry.clArg (e : Entry) : Nat := e.slotNo.val + e.clSeq * 2 ^ 16

/-- A CL or EX entry ends, wherever it stands. -/
def State.clEnd (s : State) (ch : ChIdx) (e : Entry) (status : Nat) : State :=
  (s.pullEntry ch e).finish ch e status e.clArg 0 e.started

/-- A CL or EX entry ends on a failed access. -/
def State.clFault (s : State) (ch : ChIdx) (e : Entry) (x : XErr) : State :=
  let s := if x.wcode then s.post (srcOf ch (0x010 + e.eng)) .wcodeBad [] else s
  (s.pullEntry ch e).finish ch e x.status x.arg x.td e.started

/-- The entry that a slot serves, when it has this sequence number. -/
def State.servedAt (s : State) (ch : ChIdx) (k : SlotIdx) (seq : Nat) : Option Entry :=
  match s.served? ch k with
  | some e => if e.clSeq == seq then some e else none
  | none => none

/-! ## Joining (R378, R390) -/

/-- The 16 bytes of a JOIN (Table 13.4): operation, MODE and FUNC, DFMT of X, DFMT of D, then n (log entry 9). -/
def Entry.joinData (e : Entry) : List Byte :=
  leBytes 8 (e.op + (clMode e.word + 4 * clFunc e.word) * 2 ^ 16 + (e.t 0).fmt * 2 ^ 32 + (e.t 3).fmt * 2 ^ 48) ++ leBytes 8 e.clN

/-- A JOIN held for the entry that differs from its own (R390). -/
def State.mismatch (s : State) (ch : ChIdx) (e : Entry) : Bool :=
  let c := s.slot ch e.slotNo
  e.eng == 4 && c.held.any fun x => x.1 == 0x01 && x.2.seq.toNat == e.clSeq && x.2.data != e.joinData

/-- A CL entry joins: JOIN to its partners; a JOIN that disagrees ends it. -/
def State.clJoin (s : State) (ch : ChIdx) (e : Entry) : State :=
  let k := e.slotNo
  let c := s.slot ch k
  let s := s.modSlot ch k fun c => { c with joined := some e.clSeq }
  let s := (c.partners e.word).foldl (fun (s : State) r => s.clSend ch k r 0x01 e.clSeq false 0 false none e.joinData) s
  if s.mismatch ch e then s.clEnd ch e 0x93 else s

/-- Entries of an engine that may join now: next to start for their context, waits satisfied, served by their slot. -/
def State.joiners (s : State) (ch : ChIdx) (eng : Fin 11) : List Entry :=
  (s.eq ch eng).heads.filter fun e =>
    e.collective && (s.ctx ch (jcOf e.jc)).st.starts && s.waitsMet ch e.waits &&
      (s.served? ch e.slotNo).any (·.order == e.order) && (s.slotErr ch e).isNone && (s.slot ch e.slotNo).joined != some e.clSeq

/-! ## Passes (R381, R385 to R389) -/

/-- Passes of a CL entry: chunks of the longer half, or one per destination block. -/
def State.clPasses (s : State) (ch : ChIdx) (e : Entry) : Nat :=
  if e.op == 4 then (s.slot ch e.slotNo).r
  else max (chunksOf e.clN (clChunk e.word) false) (chunksOf e.clN (clChunk e.word) true)

/-- Everything an entry writes has been written. -/
def State.clDone (s : State) (ch : ChIdx) (e : Entry) : Bool :=
  let c := s.slot ch e.slotNo
  s.clPasses ch e ≤ e.pass &&
    (if e.op == 4 then (List.range c.r).all fun r => e.part.contains (2, r)
     else [false, true].all fun b => (List.range (chunksOf e.clN (clChunk e.word) b)).all fun i =>
       e.wrote b i || !s.owes ch e b i)

/-- Bytes that a rank's UP message of a chunk of `n` elements carries. -/
def State.upBytes (s : State) (ch : ChIdx) (e : Entry) (b : Bool) (from_ n : Nat) : Nat :=
  if e.op == 1 then 4 * n
  else if e.op == 2 then rawBytes (e.t 0).fmt n
  else ((s.slot ch e.slotNo).ranksBelow b from_).length * rawBytes (e.t 0).fmt n

/-- The bytes received under a KIND from a rank for a chunk, in order. -/
def State.gotBytes (s : State) (ch : ChIdx) (e : Entry) (kind r : Nat) (b : Bool) (i : Nat) : List Byte :=
  ((s.slot ch e.slotNo).got e.clSeq kind r fun m => m.tree == b && m.index.toNat == i).flatMap (·.data)

/-- The ranks whose UP data a chunk of a tree needs at this member. -/
def State.upFrom (s : State) (ch : ChIdx) (e : Entry) (b : Bool) : List Nat :=
  let c := s.slot ch e.slotNo
  if e.op == 2 then (if c.rank == c.root b && clRoot e.word != c.rank then [clRoot e.word] else [])
  else (c.tree b c.rank).2

/-- The inputs of an entry's next pass have arrived. -/
def State.passReady (s : State) (ch : ChIdx) (e : Entry) : Bool :=
  e.pass < s.clPasses ch e &&
    (e.op == 4 || [false, true].all fun b =>
      chunksOf e.clN (clChunk e.word) b ≤ e.pass ||
        (s.upFrom ch e b).all fun r =>
          s.upBytes ch e b r (chunkAt e.clN (clChunk e.word) b e.pass).2 ≤ (s.gotBytes ch e 0x02 r b e.pass).length)

/-- One step of a reduction (R385). -/
def reduceStep (func : Nat) (a b : Num) : Num :=
  if func == 0 then add32 a b
  else if a.isNan || b.isNan then .nan
  else if func == 1 then (if a.isZero && b.isZero then .zero (a.isNeg && b.isNeg) else Num.max a b)
  else Num.min a b

/-- The element-wise reduction of an own contribution with its children's, in their order. -/
def reduceAll (func : Nat) (own : List Num) (kids : List (List Num)) : List Num :=
  kids.foldl (fun (acc : List Num) k => acc.zipWith (reduceStep func) k) own

/-- The most data one message carries (R353, R391). -/
def msgLimit : Nat := 4095 * 256

/-- A long item goes out in messages in ascending order, each with the same INDEX. -/
def State.sendLong (s : State) (ch : ChIdx) (k : SlotIdx) (rank kind seq : Nat) (tree : Bool) (index : Nat)
    (order : Option Nat) (data : List Byte) : State :=
  (List.range (max 1 (ceilDiv data.length msgLimit))).foldl (fun (s : State) j =>
    s.clSend ch k rank kind seq tree index false order (slice data (j * msgLimit) msgLimit)) s

/-- A chunk of D is written and goes down the tree; it counts as written. -/
def State.clLand (s : State) (ch : ChIdx) (e : Entry) (b : Bool) (i : Nat) (data : List Byte) : Try (State × Entry) := do
  let k := e.slotNo
  let c := s.slot ch k
  let d := e.t 3
  let at_ := chunkAt e.clN (clChunk e.word) b i
  let s ← if e.op == 3 then
      let piece := rawBytes d.fmt at_.2
      tryFold (fun (s : State) r => s.rawWrite ch e.td d d.dims (r * e.clN + at_.1) at_.2 (slice data (r * piece) piece)) s
        (List.range c.r)
    else if e.op == 1 && clMode e.word == 1 then
      let (lo, n) := sliceIn e.clN c.r c.rank at_
      s.rawWrite ch e.td d d.dims (lo - c.rank * (e.clN / c.r)) n data
    else s.rawWrite ch e.td d d.dims at_.1 at_.2 data
  let kids := if e.op == 1 && clMode e.word == 1 then [] else (c.tree b c.rank).2
  let s := kids.foldl (fun (s : State) r => s.sendLong ch k r 0x03 e.clSeq b i (some e.order) data) s
  .ok (s, { e with part := e.part ++ [(if b then 1 else 0, i)] })

/-- The root sends each rank its part of a reduced chunk, and keeps its own (REDUCE_SCATTER). -/
def State.clScatter (s : State) (ch : ChIdx) (e : Entry) (b : Bool) (i : Nat) (codes : List Nat) : Try (State × Entry) := do
  let k := e.slotNo
  let c := s.slot ch k
  let w := fmtBits (e.t 3).fmt
  let at_ := chunkAt e.clN (clChunk e.word) b i
  let part (r : Nat) : List Byte :=
    let (lo, n) := sliceIn e.clN c.r r at_
    leBytes (n * w / 8) (packCodes w (slice codes (lo - at_.1) n))
  let s := ((List.range c.r).filter fun r => r != c.rank && 0 < (sliceIn e.clN c.r r at_).2).foldl (fun (s : State) r =>
    s.sendLong ch k r 0x03 e.clSeq b i (some e.order) (part r)) s
  if 0 < (sliceIn e.clN c.r c.rank at_).2 then s.clLand ch e b i (part c.rank) else .ok (s, e)

/-- Work of pass `i` on one tree. -/
def State.clUp (s : State) (ch : ChIdx) (e : Entry) (b : Bool) (i : Nat) : Try (State × Entry) := do
  let k := e.slotNo
  let c := s.slot ch k
  let x := e.t 0
  let at_ := chunkAt e.clN (clChunk e.word) b i
  let (par, kids) := c.tree b c.rank
  if chunksOf e.clN (clChunk e.word) b ≤ i then .ok (s, e)
  else if e.op == 1 then
    let own ← tryMap (fun j => s.elem ch x none (linIdx e.clDims (at_.1 + j))) (List.range at_.2)
    let from_ := kids.map fun r => (words32 at_.2 (s.gotBytes ch e 0x02 r b i)).map fFP32.val
    let v := reduceAll (clFunc e.word) own from_
    match par with
    | some p => .ok (s.sendLong ch k p 0x02 e.clSeq b i (some e.order) (v.flatMap fun y => leBytes 4 y.w32), e)
    | none =>
      let (codes, n) := gather (v.map fun y => writeElem (e.t 3).fmt rne y)
      let s := s.countFmt ch n
      if clMode e.word == 1 then s.clScatter ch e b i codes
      else
        let w := fmtBits (e.t 3).fmt
        s.clLand ch e b i (leBytes (ceilDiv (at_.2 * w) 8) (packCodes w codes))
  else if e.op == 2 then
    if clRoot e.word == c.rank then
      let data ← s.rawRead ch e.td x e.clDims at_.1 at_.2
      if c.root b == c.rank then s.clLand ch e b i data
      else .ok (s.sendLong ch k (c.root b) 0x02 e.clSeq b i (some e.order) data, e)
    else if c.root b == c.rank then s.clLand ch e b i (s.gotBytes ch e 0x02 (clRoot e.word) b i)
    else .ok (s, e)
  else
    let own ← s.rawRead ch e.td x e.clDims at_.1 at_.2
    let piece := rawBytes x.fmt at_.2
    let data := (c.ranksBelow b c.rank).flatMap fun r =>
      if r == c.rank then own
      else match kids.find? fun q => (c.ranksBelow b q).contains r with
        | none => []
        | some q =>
          let at2 := ((c.ranksBelow b q).findIdx? (· == r)).getD 0
          slice (s.gotBytes ch e 0x02 q b i) (at2 * piece) piece
    match par with
    | some p => .ok (s.sendLong ch k p 0x02 e.clSeq b i (some e.order) data, e)
    | none => s.clLand ch e b i data

/-- Pass `i` of an ALLTOALL: the block of the i-th destination, the own one last. -/
def State.clBlock (s : State) (ch : ChIdx) (e : Entry) (i : Nat) : Try (State × Entry) := do
  let k := e.slotNo
  let c := s.slot ch k
  let j := (c.rank + 1 + i) % c.r
  let n := e.clN / c.r
  let data ← s.rawRead ch e.td (e.t 0) e.clDims (j * n) n
  if j == c.rank then
    let s ← s.rawWrite ch e.td (e.t 3) (e.t 3).dims (j * n) n data
    .ok (s, { e with part := e.part ++ [(2, j)] })
  else
    .ok ((List.range (max 1 (ceilDiv data.length msgLimit))).foldl (fun (s : State) m =>
      s.clSend ch k j 0x04 e.clSeq false (j * 65536 + m) ((e.t 0).fmt == 8) (some e.order)
        (slice data (m * msgLimit) msgLimit)) s, e)

/-- Data that has come down for an entry is written and passed on. -/
def State.clDowns (s : State) (ch : ChIdx) (e : Entry) : Try (State × Entry) :=
  let c := s.slot ch e.slotNo
  let want (b : Bool) (i : Nat) : Nat :=
    let at_ := chunkAt e.clN (clChunk e.word) b i
    if e.op == 1 && clMode e.word == 1 then (sliceIn e.clN c.r c.rank at_).2 * fmtBits (e.t 3).fmt / 8
    else if e.op == 3 then c.r * rawBytes (e.t 3).fmt at_.2
    else rawBytes (e.t 3).fmt at_.2
  let src (b : Bool) : Nat := if e.op == 1 && clMode e.word == 1 then c.root b else ((c.tree b c.rank).1).getD c.rank
  let todo := [false, true].flatMap fun b =>
    ((List.range (chunksOf e.clN (clChunk e.word) b)).filter fun i =>
      !e.wrote b i && s.owes ch e b i && src b != c.rank && want b i ≤ (s.gotBytes ch e 0x03 (src b) b i).length).map fun i => (b, i)
  if e.op == 4 then
    let n := e.clN / c.r
    tryFold (fun (x : State × Entry) r => do
      let data := (c.got e.clSeq 0x04 r fun _ => true).flatMap (·.data)
      if r == c.rank || x.2.part.contains (2, r) || data.length < rawBytes (e.t 3).fmt n then .ok x
      else
        let s ← x.1.rawWrite ch e.td (e.t 3) (e.t 3).dims (r * n) n data
        .ok (s, { x.2 with part := x.2.part ++ [(2, r)] })) (s, e) (List.range c.r)
  else tryFold (fun (x : State × Entry) (t : Bool × Nat) =>
    x.1.clLand ch x.2 t.1 t.2 (s.gotBytes ch e 0x03 (src t.1) t.1 t.2)) (s, e) todo

/-- The virtual channels an entry's next pass sends on, with their destinations. -/
def State.clSends (s : State) (ch : ChIdx) (e : Entry) : List (Nat × Nat) :=
  let c := s.slot ch e.slotNo
  if e.op == 4 then [((c.rank + 1 + e.pass) % c.r, 5)].filter (·.1 != c.rank)
  else [false, true].flatMap fun b =>
    let (p, ks) := c.tree b c.rank
    p.toList.map (fun r => (r, 1)) ++ ks.map fun r => (r, 2)

/-- An entry reserves credits on the virtual channels it sends on as it begins a pass (R109, R352): up to one chunk's
cells on each output. -/
def State.clReserve (s : State) (ch : ChIdx) (e : Entry) : State :=
  let c := s.slot ch e.slotNo
  let cells := ceilDiv (4 * clChunk e.word) 256 + 1
  (s.clSends ch e).foldl (fun (s : State) x =>
    match s.way ch (c.node x.1) with
    | .link p => s.reserve ch p e.order x.2 cells
    | _ => s) s

/-- The next pass of an entry, when its inputs have arrived, and what has come down for it. -/
def State.clWork (s : State) (ch : ChIdx) (e : Entry) : Try (State × Entry) := do
  let (s, e) ←
    if s.passReady ch e then do
      let s := s.clReserve ch e
      let (s, e) ← if e.op == 4 then s.clBlock ch e e.pass
        else do
          let (s, e) ← s.clUp ch e false e.pass
          s.clUp ch e true e.pass
      .ok (s, { e with pass := e.pass + 1 })
    else .ok (s, e)
  s.clDowns ch e

/-- A CL entry after work: it stays parked. Where every chunk begun has finished, an entry with P = 1 yields with its reservations
returned when its context has lost its slice, and completes when its job is stopping (R68, R73, R104, R109, R381, R388). -/
def State.clPark (s : State) (ch : ChIdx) (e : Entry) : State :=
  let c := s.ctx ch (jcOf e.jc)
  if !e.p || e.stopped || s.clDone ch e || !s.clQuiet ch e then s.putEntry ch e
  else if c.st == .faulted || c.st == .killing then
    (s.pullEntry ch e).finish ch e (if c.st == .killing then 3 else 2) 0 0 true
  else if !c.sched.slice && (c.st == .preempted || c.st == .ready) then
    ((s.putEntry ch { e with stopped := true, yielded := true }).unreserve ch e.order).settle ch (jcOf e.jc)
  else s.putEntry ch e

/-- Work on a started entry; what waits for the T2 link is done later (R311). -/
def State.clAct (s : State) (ch : ChIdx) (e : Entry) (r : Try (State × Entry)) : State :=
  match r with
  | .ok (s, e) => s.clPark ch e
  | .error x => if x.waits then s else s.clFault ch e x

/-- An entry goes on with new passes: its context holds its place, or it is atomic. -/
def State.clGoes (s : State) (ch : ChIdx) (e : Entry) : Bool :=
  !e.stopped && (!e.p || (s.ctx ch (jcOf e.jc)).st.starts)

/-- CL_PASS: the engine takes the first parked entry whose next pass has its inputs (R381). -/
def execClPass (ch : Fin 8) (s : State) : Out :=
  .next (match s.first ch ((s.eq ch 4).parked.filter fun e => s.clGoes ch e && s.passReady ch e) with
    | none => s
    | some e => if s.clocked ch then s.clAct ch e (s.clWork ch e) else s)

/-- The start of a CL entry: the checks of R380, R129 and R389, then it is parked (R381). What CYCLES will count is a free
value (R72, log entry 71). -/
def State.clStart (s : State) (ch : ChIdx) (e : Entry) : State :=
  match s.slotErr ch e, s.ownerErr ch e formCl with
  | some st, _ => s.clEnd ch e st
  | none, some x =>
    let s := if x.status == 0x25 then s.satF ch R.CH_ARWS_STAT_DENIED 1 else s
    (s.takeWaits ch e.waits).clFault ch { e with started := true } x
  | none, none =>
    let c := s.slot ch e.slotNo
    let kids := ((c.tree false c.rank).2).length + ((c.tree true c.rank).2).length
    let cb := if e.op == 1 then 4 * clChunk e.word else if e.op == 4 then 2 ^ 21 else rawBytes (e.t 0).fmt (clChunk e.word)
    if s.f ch (R.CH_CL_SLOT_BUF_SIZE e.slotNo) * 65536 < (kids + 2) * cb then s.clEnd ch e 0x92
    else
      let (d, s) := (s.takeWaits ch e.waits).draw
      let e := { e with started := true, cyc := (Config.freeWord d).toNat }
      (s.pullEntry ch e).modQ ch 4 fun q => { q with parked := q.parked ++ [e] }

/-- A finished CL entry completes: its reads are charged, and bytes of D that overlap X, or that entries without order touch, are
unpredictable (R69, R127, R386). Data that waited for the T2 link is written first. -/
def State.clFinish (s : State) (ch : ChIdx) : State :=
  let s := (s.eq ch 4).parked.foldl (fun (s : State) e => s.clAct ch e (s.clDowns ch e)) s
  match (s.eq ch 4).parked.find? (s.clDone ch) with
  | none => s
  | some e =>
    let s := ((s.touchOps ch e).overlap ch e (e.t 3) (some (e.t 0)) []).race ch e.order
    (s.pullEntry ch e).finish ch e 0 0 0 false

/-- CL_REDUCE_ALLREDUCE at issue. -/
def execClReduceAllreduce (ch : Fin 8) (jc : Fin 16) (w : BitVec 512) (s : State) : Out :=
  .next (s.issueWide ch jc (asMode 5 4 0 (asOp 4 1 w)) formCl)
/-- REDUCE_SCATTER at issue. -/
def execReduceScatter (ch : Fin 8) (jc : Fin 16) (w : BitVec 512) (s : State) : Out :=
  .next (s.issueWide ch jc (asMode 5 4 1 (asOp 4 1 w)) formCl)
/-- CL_BCAST at issue. -/
def execClBcast (ch : Fin 8) (jc : Fin 16) (w : BitVec 512) (s : State) : Out := .next (s.issueWide ch jc (asOp 4 2 w) formCl)
/-- CL_ALLGATHER at issue. -/
def execClAllgather (ch : Fin 8) (jc : Fin 16) (w : BitVec 512) (s : State) : Out := .next (s.issueWide ch jc (asOp 4 3 w) formCl)
/-- CL_ALLTOALL at issue. -/
def execClAlltoall (ch : Fin 8) (jc : Fin 16) (w : BitVec 512) (s : State) : Out := .next (s.issueWide ch jc (asOp 4 4 w) formCl)

/-! ## Messages (R378 to R382, R385 to R387) -/

/-- A message of a collective arrives at its slot and is held there; the entry it belongs to then acts. On an ABORTED slot
only an entry that had started takes messages still (R380). -/
def State.clArrive (s : State) (ch : ChIdx) (m : CMsg) (kind : Nat) (act : State → SlotIdx → State) : State :=
  let s := s.takeMsg ch m kind
  match s.slotOf ch m with
  | none => s
  | some (k, _) =>
    if s.slotState ch k == 3 && !(s.servedAt ch k m.seq.toNat).any (·.started) then s else act (s.hold ch k kind m) k

/-- JOIN. -/
def execJoin (ch : Fin 8) (m : CMsg) (s : State) : Out :=
  .next (s.clArrive ch m 0x01 fun s k =>
    match s.servedAt ch k m.seq.toNat with
    | some e => if (s.slot ch k).joined == some e.clSeq && s.mismatch ch e then s.clEnd ch e 0x93 else s
    | none => s)

/-- UP: a child's data for a chunk is held for the pass that needs it. -/
def execUp (ch : Fin 8) (m : CMsg) (s : State) : Out := .next (s.clArrive ch m 0x02 fun s _ => s)

/-- Data for a started entry is written as it arrives. -/
def State.clLanded (s : State) (ch : ChIdx) (k : SlotIdx) (seq : Nat) : State :=
  match s.servedAt ch k seq with
  | some e => if e.started && e.eng == 4 then s.clAct ch e (s.clDowns ch e) else s
  | none => s

/-- DOWN: the root's bits of a chunk, written and passed on. -/
def execDown (ch : Fin 8) (m : CMsg) (s : State) : Out :=
  .next (s.clArrive ch m 0x03 fun s k => s.clLanded ch k m.seq.toNat)

/-- BLOCK: a block of an ALLTOALL. -/
def execBlock (ch : Fin 8) (m : CMsg) (s : State) : Out :=
  .next (s.clArrive ch m 0x04 fun s k => s.clLanded ch k m.seq.toNat)

/-- An in-network reduction ends without its result: INR_FAIL with the cause (R392, log entry 41). -/
def State.inrFail (s : State) (ch : ChIdx) (k : SlotIdx) (cause : Nat) : State :=
  match (s.slot ch k).inr with
  | none => s
  | some _ =>
    ((s.modSlot ch k fun c => { c with inr := none, held := c.held.filter fun x => x.1 != 0x22 }).setF ch R.CH_CL_INR_CTL_BUSY 0).post
      (srcOf ch 0x014) .inrFail [cause]

/-- ABORT: the entry of its SEQ ends and the slot is ABORTED; a reduction in the network fails. -/
def execAbort (ch : Fin 8) (m : CMsg) (s : State) : Out :=
  let s := s.takeMsg ch m 0x05
  .next (match s.slotOf ch m with
    | none => s
    | some (k, _) =>
      let s := (s.satF ch R.CH_CL_STAT_ABORTS 1).setF ch (R.CH_CL_SLOT_STAT_STATE k) 3
      let st := m.index.toNat
      let s := (s.modSlot ch k fun c => { c with aborts := c.aborts ++ [(m.seq.toNat, st)] }).inrFail ch k 0x96
      match (s.slotEntries ch k).find? (·.clSeq == m.seq.toNat) with
      | none => s
      | some e => s.clEnd ch e (if st == 0x26 then 0x26 else 0x96))

/-- An entry ends with ORDER_TIMEOUT, with ABORT for its SEQ even on a slot that has just aborted (R379). -/
def State.orderOut (s : State) (ch : ChIdx) (e : Entry) : State :=
  let s := if s.slotState ch e.slotNo == 0 then s else s.clAbort ch e.slotNo e.clSeq 0x26
  s.clEnd ch e 0x26

/-- ORDER_TIMEOUT: the blocked start of a context's next entry on the CL or EX engine exceeds ORDER_LIM; an earlier entry
of the slot that held it back ends in the same way (R379). -/
def execOrderTimeout (ch : Fin 8) (ex : Bool) (jc : Fin 16) (s : State) : Out :=
  .next (match (s.eq ch (if ex then 5 else 4)).heads.find? (·.jc == jc.val) with
    | none => s
    | some e =>
      if !e.collective || !s.waitsMet ch e.waits || s.clReady ch e || (s.ctx ch jc).st == .preempted then s
      else match s.served? ch e.slotNo with
        | some f => if f.order == e.order then s.orderOut ch e else (s.orderOut ch f).orderOut ch e
        | none => s)

/-- CL_STALL: a parked entry has received nothing for STALL_LIM (R381). -/
def execClStall (ch : Fin 8) (slot : Fin 16) (s : State) : Out :=
  .next (match s.served? ch slot with
    | none => s
    | some e =>
      if e.eng == 4 && e.started && !e.stopped && (s.ctx ch (jcOf e.jc)).st != .preempted && !s.clDone ch e then s.clEnd ch e 0x94
      else s)

/-- A message of a collective was abandoned: the receiving entry ends with CL_LOST (R382), or the reduction in the network
fails. The opening cell names the collective; without it, it is the first joined entry with that member. -/
def State.clLost (s : State) (ch : ChIdx) (src vc : Nat) (head : Option (List Byte)) : State :=
  let fits (k : SlotIdx) : Bool :=
    let c := s.slot ch k
    s.slotState ch k != 0 && (c.rankOf src).isSome && (match head with
      | some h => leNat (h.take 8) == c.id.toNat
      | none => c.joined.isSome || c.inr.isSome)
  match slots.find? fits with
  | none => s
  | some k =>
    if vc == 7 then s.inrFail ch k 0x95
    else
      let seq := match head with
        | some h => some (leNat (slice h 8 2))
        | none => (s.slot ch k).joined
      match seq with
      | none => s
      | some q => match (s.slotEntries ch k).find? (·.clSeq == q) with
        | some e => s.clEnd ch e 0x95
        | none => s

/-! ## In-network reduction (R392) -/

/-- Chunks of 64 elements of a tree. -/
def Inr.chunks (i : Inr) (b : Bool) : Nat := chunksOf i.n 64 b

/-- A reduction is complete: DST is written. -/
def State.inrDone (s : State) (ch : ChIdx) (k : SlotIdx) : State :=
  match (s.slot ch k).inr with
  | none => s
  | some i =>
    if i.down.length < i.chunks false + i.chunks true then s
    else
      ((s.modSlot ch k fun c => { c with inr := none }).setF ch R.CH_CL_INR_CTL_BUSY 0).post (srcOf ch 0x014) .inrDone []

/-- A REDUCE cell of a slot to one rank: TYPE REDUCE on VC7. -/
def State.inrSend (s : State) (ch : ChIdx) (k : SlotIdx) (rank kind : Nat) (b : Bool) (i : Nat) (data : List Byte) : State :=
  let c := s.slot ch k
  s.sendMsg ch (c.node rank) 7 4 false none (clHead c.id.toNat (s.f ch (R.CH_CL_SLOT_STAT_SEQ k)) kind b i) data

/-- The bits of a chunk are written to DST and go down the tree. -/
def State.inrLand (s : State) (ch : ChIdx) (k : SlotIdx) (i : Inr) (b : Bool) (j : Nat) (data : List Byte) : State :=
  let c := s.slot ch k
  let at_ := chunkAt i.n 64 b j
  match s.vaWrite ch (i.dst + 4 * at_.1) (data.take (4 * at_.2)) with
  | .error e => if e.waits then s else s.inrFail ch k e.status.1
  | .ok s =>
    let s := s.modSlot ch k fun c => { c with inr := c.inr.map fun i => { i with down := i.down ++ [(if b then 1 else 0, j)] } }
    ((c.tree b c.rank).2.foldl (fun (s : State) r => s.inrSend ch k r 0x03 b j data) s).inrDone ch k

/-- A router adds a chunk once its own contribution and those of its children are present (R385, R392). -/
def State.inrUp (s : State) (ch : ChIdx) (k : SlotIdx) (b : Bool) (j : Nat) : State :=
  let c := s.slot ch k
  match c.inr with
  | none => s
  | some i =>
    let (par, kids) := c.tree b c.rank
    let from_ := kids.filterMap fun r => (c.held.find? fun x =>
      x.1 == 0x22 && c.rankOf x.2.src.toNat == some r && x.2.tree == b && x.2.index.toNat == j).map (·.2.data)
    if i.up.contains (if b then 1 else 0, j) || i.chunks b ≤ j || from_.length < kids.length then s
    else
      let at_ := chunkAt i.n 64 b j
      match s.vaRead ch (i.src + 4 * at_.1) (4 * at_.2) with
      | .error e => if e.waits then s else s.inrFail ch k e.status.1
      | .ok bs =>
        let own := (words32 at_.2 bs).map fFP32.val
        let v := reduceAll i.func own (from_.map fun d => (words32 at_.2 d).map fFP32.val)
        let data := v.flatMap fun y => leBytes 4 y.w32
        let s := (s.vaTouch ch (i.src + 4 * at_.1) (4 * at_.2)).modSlot ch k fun c => { c with
          inr := c.inr.map fun i => { i with up := i.up ++ [(if b then 1 else 0, j)] }
          held := c.held.filter fun x => !(x.1 == 0x22 && x.2.tree == b && x.2.index.toNat == j) }
        match par with
        | some p => s.inrSend ch k p 0x02 b j data
        | none => s.inrLand ch k i b j data

/-- INR_GO: a write of CH_CL_INR_CTL; with GO it starts the reduction or is refused (R392). -/
def State.inrGo (s : State) (ch : ChIdx) (v : Nat) : State :=
  let k : SlotIdx := Fin.ofNat 16 (bits v 3 0)
  let s := ((s.setF ch R.CH_CL_INR_CTL_SLOT (bits v 3 0)).setF ch R.CH_CL_INR_CTL_FUNC (bits v 5 4)).setF ch
    R.CH_CL_INR_CTL_COUNT (bits v 29 6)
  if !bit v 31 then s
  else if !s.allFree ch || s.slotView ch k != 1 || bits v 5 4 == 3 || bits v 29 6 == 0 || s.f ch R.CH_CL_INR_CTL_BUSY == 1 then
    s.postReg (pfOf ch) .inrRefused []
  else
    let src := s.f ch R.CH_CL_INR_SRC_LO_SRC_LO * 64 + s.f ch R.CH_CL_INR_SRC_HI_SRC_HI * 2 ^ 32
    let dst := s.f ch R.CH_CL_INR_DST_LO_DST_LO * 64 + s.f ch R.CH_CL_INR_DST_HI_DST_HI * 2 ^ 32
    let i : Inr := ⟨bits v 5 4, 64 * bits v 29 6, src, dst, [], []⟩
    let s := (s.modSlot ch k fun c => { c with inr := some i }).setF ch R.CH_CL_INR_CTL_BUSY 1
    [false, true].foldl (fun (s : State) b => (List.range (i.chunks b)).foldl (fun (s : State) j => s.inrUp ch k b j) s) s

/-- INR_GO. -/
def execInrGo (ch : Fin 8) (val : BitVec 32) (s : State) : Out :=
  .next (s.chanWr ch 0x9210 fun s => (if val.getLsbD 31 then s.wake ch 6 else s).inrGo ch val.toNat)

/-- A reduction in the network writes to a T2 page while the link trains or fails over: it waits (R311). -/
def State.inrHeld (s : State) (ch : ChIdx) (k : SlotIdx) : Bool :=
  s.t2Waits ch && (s.slot ch k).inr.any fun i => (granRuns i.dst (4 * i.n)).any fun r => match s.translate ch r.1 with
    | .ok (l, _) => l.tier == .t2
    | .error _ => false

/-- REDUCE: a cell of a reduction in the network, on its way up or down. -/
def execReduce (ch : Fin 8) (m : CMsg) (down : Bool) (s : State) : Out :=
  let s0 := s
  let s := s.takeMsg ch m (if down then 0x03 else 0x02)
  .next (match s.slotOf ch m with
    | none => s
    | some (k, r) =>
      if s.slotState ch k == 3 then s
      else if down && s.inrHeld ch k then s0
      else if down then
        match (s.slot ch k).inr with
        | some i =>
          let c := s.slot ch k
          if (c.tree m.tree c.rank).1 == some r && !i.down.contains (if m.tree then 1 else 0, m.index.toNat) then
            s.inrLand ch k i m.tree m.index.toNat m.data
          else s
        | none => s
      else (s.hold ch k 0x22 m).inrUp ch k m.tree m.index.toNat)

/-- INR_FAIL: no message for longer than STALL_LIM. -/
def execInrFail (ch : Fin 8) (s : State) : Out :=
  .next (match slots.find? fun k => (s.slot ch k).inr.isSome with
    | none => s
    | some k => s.inrFail ch k 0x94)

/-- A reduction in the network that waited for the T2 link goes on with every chunk that has its inputs. -/
def State.inrResume (s : State) (ch : ChIdx) : State :=
  slots.foldl (fun (s : State) k => match (s.slot ch k).inr with
    | none => s
    | some i => [false, true].foldl (fun (s : State) b =>
        (List.range (i.chunks b)).foldl (fun (s : State) j => s.inrUp ch k b j) s) s) s

end Sys2Proof.Machine
end

