-- ==== Sys2Proof/Machine/Conv.lean ====
section
/-! DEFINITION. Convolution and pooling on the array: MX.CONV (R193 to R209). -/

namespace Sys2Proof.Machine

open Sys2Proof

/-! ## Geometry (Table 7.2, R196) -/

/-- One dimension of the window: filter extent, stride, dilation and padding. -/
structure Axis where
  f : Nat
  s : Nat
  d : Nat
  lo : Nat
  hi : Nat
  deriving DecidableEq, Repr

/-- Width, height and time (0, 1, 2) of Table 7.2. -/
def axisOf (w : Wide) (k : Nat) : Axis :=
  ⟨wPar w (7 + 8 * k) (8 * k), wPar w (29 + 6 * k) (24 + 6 * k) + 1, wPar w (47 + 6 * k) (42 + 6 * k) + 1,
    wPar w (67 + 16 * k) (60 + 16 * k), wPar w (75 + 16 * k) (68 + 16 * k)⟩

/-- POOL. -/
def wPool (w : Wide) : Nat := wPar w 109 108

/-- The output extent of a dimension; the quotient rounds toward −∞ (R196). -/
def Axis.out (a : Axis) (i : Int) : Int :=
  (i + a.lo + a.hi - ((a.d : Int) * ((a.f : Int) - 1) + 1)) / (a.s : Int) + 1

/-- The input coordinate that output coordinate `o` reads at tap `f` (R196). -/
def Axis.input (a : Axis) (o f : Nat) : Int := (o : Int) * a.s - a.lo + (f : Int) * a.d

/-- An input coordinate, none when it is absent (R197). -/
def Axis.read (a : Axis) (i o f : Nat) : Option Nat :=
  let x := a.input o f
  if x < 0 || (i : Int) ≤ x then none else some x.toNat

/-- The taps of an instruction: FW × FH × FT. -/
def wTaps (w : Wide) : Nat := (axisOf w 0).f * (axisOf w 1).f * (axisOf w 2).f

/-- The output extents OW, OH and OT from the sizes of an instruction. -/
def convOuts (w : Wide) (size : List Int) : List Int := (List.range 3).map fun k => (axisOf w k).out (size.getD k 1)

/-- M as the product of the output extents, 0 when one is not positive. -/
def convM (w : Wide) (size : List Int) : Int :=
  let o := convOuts w size
  if o.any (· ≤ 0) then 0 else o.foldl (· * ·) 1

/-! ## Issue (R194, R195, R198 to R201) -/

/-- The chapter's part of the PARAM_INVALID step (R194). -/
def convParamBad (i : Iss) : Bool :=
  let w := i.w
  (List.range 3).any (fun k => (axisOf w k).f == 0) || wPool w == 3 || wTa w || (wAcc w && wPool w != 0)

/-- SHP0 to SHP2 govern the width, height and time of X; SHP3 must be zero (R195). -/
def convGov (w : Wide) : List Gov := [govOf w [(0, 1)], govOf w [(0, 2)], govOf w [(0, 3)], none]

/-- The group count, and what of R200 concerns groups: `x` and `d` are the channel counts of X and D. -/
def groupsOf (tb : Bool) (x d : Nat) (wt : Tens) : Nat := (if tb then d else x) / max 1 (wt.dim 0)

/-- The filter breaks R200. -/
def filterBad (w : Wide) (x d wt : Tens) : Bool :=
  let whole := if wTb w then d.dim 0 else x.dim 0
  let other := if wTb w then x.dim 0 else d.dim 0
  let g := groupsOf (wTb w) (x.dim 0) (d.dim 0) wt
  wt.rank != 2 || wt.dim 2 != wTaps w || whole % max 1 (wt.dim 0) != 0 || g == 0 || wt.dim 1 != other || other % max 1 g != 0

/-- The layouts break R200. -/
def Iss.layoutBad (i : Iss) : Bool :=
  match i.t 0, i.t 3 with
  | some x, some d =>
    x.rank != d.rank || x.rank < 2 || (i.t 2).any (fun c => (List.range 4).any fun k => c.dim k != d.dim k) ||
      match i.t 1 with
      | some wt => filterBad i.w x d wt
      | none => d.dim 0 != x.dim 0
  | _, _ => true

/-- SHAPE_OVER under R198: every output extent is positive and one exceeds D's. -/
def Iss.convOver (i : Iss) : Option XErr :=
  let o := convOuts i.w i.size
  match i.t 3 with
  | none => none
  | some d =>
    if o.any (· ≤ 0) then none
    else (((List.range 3).zip o).find? fun x => ((d.dim (x.1 + 1) : Nat) : Int) < x.2).map fun x => ⟨0x10, low32 x.2, d.n, false⟩

/-- Output channels, which are D's. -/
def Iss.cout (i : Iss) : Int := match i.t 3 with
  | some d => (d.dim 0 : Nat)
  | none => 0

/-- The checks of MX.CONV in the order of R201, and those of R192. -/
def Iss.convErr (i : Iss) : Option XErr :=
  let ax := axisOf i.w
  firstErr [
    failIf (!i.has 0 || i.has 1 != (wPool i.w == 0) || !i.has 3 || i.has 2 != wAcc i.w) (i.fault 0x42),
    failIf ((if wPool i.w == 0 then pairBad (i.fmt 0) (i.fmt 1) else fmtClass (i.fmt 0) == 0) || outBad (i.t 2) (i.t 3))
      (i.fault 0x40),
    failIf (15 < (ax 0).f || 15 < (ax 1).f || 7 < (ax 2).f) (i.fault 0x11),
    failIf i.layoutBad (i.fault 0x44),
    i.convOver,
    i.epErr (convM i.w i.size) i.cout (i.t 3)]

/-- MX.CONV at issue. -/
def formConv : OpForm :=
  { plainForm true convParamBad convGov [3] Iss.convErr with
    arr := true
    epiBad := epiAny
    preds := true
    rows := fun i => convM i.w i.size
    cols := Iss.cout
    derived := fun i => convOuts i.w i.size }

/-! ## Bands and passes (R202, R206) -/

/-- The shape of an MX.CONV on the array. -/
structure ConvGeo where
  /-- Input extents, output extents. -/
  inp : List Nat
  out : List Nat
  taps : Nat
  /-- Groups, input and output channels of a group, groups of a band. -/
  g : Nat
  cg : Nat
  og : Nat
  gb : Nat
  mt : Nat
  nt : Nat
  cls : Nat

/-- The class of the passes: that of X when it pools. -/
def Entry.convClass (e : Entry) : Nat := if wPool e.word == 0 then e.pairClass else fmtClass (e.t 0).fmt

/-- The shape of an entry. -/
def Entry.geo (e : Entry) : ConvGeo :=
  let x := (e.t 0).dim 0
  let d := (e.t 3).dim 0
  let g := if wPool e.word == 0 then groupsOf (wTb e.word) x d (e.t 1) else x
  let cls := e.convClass
  let (mt, nt) := tile (wArr e.word) cls
  let cg := x / max 1 g
  let og := d / max 1 g
  ⟨(List.range 3).map e.sz, (convOuts e.word e.size).map Int.toNat, wTaps e.word, g, cg, og,
    min g (min (max 1 (nt / max 1 og)) (max 1 (32 / max 1 cg))), mt, nt, cls⟩

/-- M. -/
def ConvGeo.m (c : ConvGeo) : Nat := c.out.foldl (· * ·) 1
/-- The row passes of a band. -/
def ConvGeo.mPasses (c : ConvGeo) : Nat := ceilDiv c.m c.mt
/-- The groups of band `b`. -/
def ConvGeo.groups (c : ConvGeo) (b : Nat) : Nat := min c.gb (c.g - b * c.gb)
/-- The column passes of band `b`. -/
def ConvGeo.nPasses (c : ConvGeo) (b : Nat) : Nat := ceilDiv (c.groups b * c.og) c.nt
/-- The passes of an entry. -/
def ConvGeo.passes (c : ConvGeo) : Nat :=
  ((List.range (ceilDiv c.g c.gb)).map fun b => c.mPasses * c.nPasses b).sum

/-- The position of output row `m` (R202). -/
def ConvGeo.place (c : ConvGeo) (m : Nat) : Nat × Nat × Nat :=
  let ow := max 1 (c.out.getD 0 1)
  let oh := max 1 (c.out.getD 1 1)
  (m % ow, m / ow % oh, m / (ow * oh))

/-- One pass: its band, first position, positions, first column within the band, and columns. -/
structure ConvPass where
  b : Nat
  m0 : Nat
  r : Nat
  n0 : Nat
  n : Nat

/-- Pass `p`: bands outermost, then positions, then columns (R202). Every band but the last has the passes of band 0. -/
def ConvGeo.pass (c : ConvGeo) (p : Nat) : ConvPass :=
  let each := max 1 (c.mPasses * c.nPasses 0)
  let b := min (p / each) (ceilDiv c.g c.gb - 1)
  let q := p - b * each
  let np := max 1 (c.nPasses b)
  let m0 := q / np * c.mt
  let n0 := q % np * c.nt
  ⟨b, m0, min c.mt (c.m - m0), n0, min c.nt (c.groups b * c.og - n0)⟩

/-! ## The K stream (R202 to R204) -/

/-- The taps in ascending index: fx, fy, ft. -/
def tapsOf (w : Wide) : List (Nat × Nat × Nat) :=
  (List.range (axisOf w 2).f).flatMap fun t => (List.range (axisOf w 1).f).flatMap fun y =>
    (List.range (axisOf w 0).f).map fun x => (x, y, t)

/-- The input position of an output position at a tap, none when it is absent. -/
def ConvGeo.window (c : ConvGeo) (w : Wide) (m : Nat) (tap : Nat × Nat × Nat) : Option (Nat × Nat × Nat) :=
  let o := c.place m
  match (axisOf w 0).read (c.inp.getD 0 1) o.1 tap.1, (axisOf w 1).read (c.inp.getD 1 1) o.2.1 tap.2.1,
      (axisOf w 2).read (c.inp.getD 2 1) o.2.2 tap.2.2 with
  | some x, some y, some t => some (x, y, t)
  | _, _, _ => none

/-- Positions of one tap padded to whole K-blocks. -/
def padBlock (l : List Pos) : List Pos := l ++ List.replicate (32 * ceilDiv l.length 32 - l.length) none

/-- The stream of position `m` over the input channels `c0` to `c0 + cb - 1` of a band. -/
def State.convA (s : State) (ch : ChIdx) (e : Entry) (g : ConvGeo) (c0 cb m : Nat) : Try (List Pos) := do
  let l ← tryMap (fun tap => do
    .ok (padBlock (← s.stream ch e.td (e.t 0) (fun c => (g.window e.word m tap).map fun x => (c0 + c, x)) cb)))
    (tapsOf e.word)
  .ok l.flatten

/-- The element of W for an input channel, an output channel and a tap, none between groups (R202, R204). -/
def convW (w : Wide) (g : ConvGeo) (c n : Nat) (tap : Nat × Nat × Nat) : Option Idx :=
  let fw := (axisOf w 0).f
  let fh := (axisOf w 1).f
  let idx := (tap.2.2 * fh + tap.2.1) * fw + tap.1
  if c / max 1 g.cg != n / max 1 g.og then none
  else if wTb w then some (n % max 1 g.og, c, g.taps - 1 - idx, 0)
  else some (c % max 1 g.cg, n, idx, 0)

/-- The stream of output channel `n`: the filter, or the implicit weight 1 of its own channel (R206). -/
def State.convB (s : State) (ch : ChIdx) (e : Entry) (g : ConvGeo) (c0 cb n : Nat) : Try (List Pos) := do
  let one (c : Nat) : Pos := if c0 + c == n then some (.one, .one) else none
  let l ← tryMap (fun tap =>
    if wPool e.word == 0 then do
      .ok (padBlock (← s.stream ch e.td (e.t 1) (fun c => convW e.word g (c0 + c) n tap) cb))
    else .ok (padBlock ((List.range cb).map one))) (tapsOf e.word)
  .ok l.flatten

/-! ## Pooling (R207, R208) -/

/-- The larger of two present values: NaN wins, and of two zeros +0 does (R208). -/
def poolMax (a b : Num) : Num :=
  match a, b with
  | .nan, _ => .nan
  | _, .nan => .nan
  | .zero x, .zero y => .zero (x && y)
  | a, b => Num.max a b

/-- Maximum pooling of one window: the values of the channel of column `n`. -/
def poolOne (a b : List Pos) : Num :=
  (a.zip b).foldl (fun (m : Num) x => match x with
    | (some p, some _) => poolMax m (scaled p.2 p.1)
    | _ => m) (.inf true)

/-- The present positions of a window. -/
def ConvGeo.present (g : ConvGeo) (w : Wide) (m : Nat) : Nat := ((tapsOf w).filter fun t => (g.window w m t).isSome).length

/-- The divisor of average pooling and what it does to a sum (R207). -/
def ConvGeo.average (g : ConvGeo) (w : Wide) (m : Nat) (v : Num) : Num :=
  let p := g.present w m
  if p == 0 then .zero false
  else div32 v (.ofRat (((if wPar w 110 110 == 1 then g.taps else p) : Nat) : Rat))

/-! ## Cost (R205) -/

/-- The box of X along one dimension: the input coordinates over the output coordinates `lo` to `hi`. -/
def Axis.box (a : Axis) (i lo hi : Nat) : List Nat :=
  let x := (max 0 (a.input lo 0)).toNat
  let y := min ((i : Int) - 1) (a.input hi (a.f - 1))
  (List.range (y - x + 1).toNat).map (x + ·)

/-- The positions of X that a pass reads. -/
def ConvGeo.box (g : ConvGeo) (w : Wide) (p : ConvPass) : List (Nat × Nat × Nat) :=
  let ps := (List.range p.r).map fun j => g.place (p.m0 + j)
  let span (k : Nat) (f : Nat × Nat × Nat → Nat) : List Nat :=
    let l := ps.map f
    (axisOf w k).box (g.inp.getD k 1) (l.foldl min (l.headD 0)) (l.foldl max 0)
  (span 2 (·.2.2)).flatMap fun t => (span 1 (·.2.1)).flatMap fun y => (span 0 (·.1)).map fun x => (x, y, t)

/-- The places of W that output channels `n0` to `n0 + n - 1` read, for each run: with TB its blocks run along Og (R204). -/
def State.feedW (s : State) (ch : ChIdx) (e : Entry) (g : ConvGeo) (n0 n : Nat) (f : Feed) : Feed :=
  let taps := List.range g.taps
  if wTb e.word then
    (List.range g.g).foldl (fun (f : Feed) k =>
      let lo := max n0 (k * g.og)
      s.feedRows ch e.td (e.t 1) (lo - k * g.og)
        ((List.range g.cg).flatMap fun c => taps.map fun t => (k * g.cg + c, t, 0)) (min (n0 + n) ((k + 1) * g.og) - lo) f) f
  else s.feedRows ch e.td (e.t 1) 0 ((List.range n).flatMap fun j => taps.map fun t => (n0 + j, t, 0)) g.cg f

/-- The bytes that a pass reads: X over the band's `cb` channels from `c0` on, and W over its columns from `n0` on. -/
def State.convFeed (s : State) (ch : ChIdx) (e : Entry) (g : ConvGeo) (p : ConvPass) (c0 cb n0 : Nat) : Feed :=
  let f := s.feedRows ch e.td (e.t 0) c0 (g.box e.word p) cb e.part
  if wPool e.word != 0 then f else s.feedW ch e g n0 p.n f

/-- The products of positions `m0` to `m0 + r - 1` and the output channels `ns`, all of band `b`, with the count dropped. -/
def State.convCols (s : State) (ch : ChIdx) (e : Entry) (g : ConvGeo) (m0 r b : Nat) (ns : List Nat) :
    Try (List (List Num) × Nat) := do
  let c0 := b * g.gb * g.cg
  let cb := g.groups b * g.cg
  let as ← tryMap (fun j => s.convA ch e g c0 cb (m0 + j)) (List.range r)
  let bs ← tryMap (s.convB ch e g c0 cb) ns
  let (acc, drops) ←
    if wPool e.word == 2 then .ok (as.map fun a => bs.map fun b => poolOne a b, 0)
    else tileAcc (fun i j => s.startVal ch e.c (ns.getD j 0, g.place (m0 + i))) as bs
  .ok (if wPool e.word == 1 then ((List.range acc.length).zip acc).map fun x => x.2.map (g.average e.word (m0 + x.1))
    else acc, drops)

/-- The columns before `n0` of the block of D that column `n0` stands in: bands and columns need not end with a block (R203,
log entry 85). -/
def State.convPre (s : State) (ch : ChIdx) (e : Entry) (g : ConvGeo) (m0 r b n0 : Nat) : Try (List (List Num) × Nat) := do
  let pre := if (e.t 3).needsScale then n0 % fmtBlock (e.t 3).fmt else 0
  let cols (k : Nat) : List Nat := ((List.range pre).map (n0 - pre + ·)).filter fun n => n / max 1 g.og / max 1 g.gb == k
  let acc ← tryFold (fun (acc : List (List Num)) k =>
    if (cols k).isEmpty then .ok acc
    else do
      let (l, _) ← s.convCols ch e g m0 r k (cols k)
      .ok (acc.zipWith (· ++ ·) l)) (List.replicate r []) (List.range (b + 1))
  .ok (acc, pre)

/-- One pass of MX.CONV. -/
def State.convPass (s : State) (ch : ChIdx) (e : Entry) (reruns : Nat) : Try (State × Entry) := do
  let g := e.geo
  let p := g.pass e.pass
  let cb := g.groups p.b * g.cg
  let n0 := p.b * g.gb * g.og + p.n0
  let (acc, drops) ← s.convCols ch e g p.m0 p.r p.b ((List.range p.n).map (n0 + ·))
  let (before, pre) ← s.convPre ch e g p.m0 p.r p.b n0
  let s' ← s.epilogue ch ⟨e, e.t 3, (e.t 3).dim 0, g.place, p.m0, n0, before.zipWith (· ++ ·) acc, pre⟩
  let (s', e') := (s'.countSpan ch drops).passCost ch e (g.taps * 32 * ceilDiv cb 32)
    (s.feedCycles ch (s.convFeed ch e g p (p.b * g.gb * g.cg) cb n0)) reruns (ceilDiv (p.r * g.nt) 1024)
  .ok (s', { e' with part := s.epiFeed ch e (e.t 3) g.place p.m0 p.r n0 p.n })

/-- MX.CONV in execution. -/
def runConv : OpRun :=
  { onePass (fun s ch e n => ofTry s e (s.convPass ch e n)) with
    cls := fun _ _ e => e.convClass
    passes := fun _ _ e => e.geo.passes
    tile := fun _ _ e => let p := e.geo.pass e.pass; (p.r, p.n)
    done := State.arrayDone }

/-! ## Commands -/

/-- MX.CONV with POOL = 0. -/
def execMxConv (ch : Fin 8) (jc : Fin 16) (w : BitVec 512) (s : State) : Out :=
  .next (s.issueWide ch jc (asMode 109 108 0 (asOp 0 3 w)) formConv)
/-- MX.CONV with average pooling. -/
def execAveragePooling (ch : Fin 8) (jc : Fin 16) (w : BitVec 512) (s : State) : Out :=
  .next (s.issueWide ch jc (asMode 109 108 1 (asOp 0 3 w)) formConv)
/-- MX.CONV with maximum pooling. -/
def execMaximumPooling (ch : Fin 8) (jc : Fin 16) (w : BitVec 512) (s : State) : Out :=
  .next (s.issueWide ch jc (asMode 109 108 2 (asOp 0 3 w)) formConv)

end Sys2Proof.Machine
end

