-- ==== Sys2Proof/Machine/Expert.lean ====
section
/-! DEFINITION. Expert dispatch and combine (R394 to R399). -/

namespace Sys2Proof.Machine

open Sys2Proof

/-! ## Operands (R395, Table 13.5) -/

/-- Local experts of a member. -/
def exEloc (w : Wide) : Nat := wPar w 15 4
/-- Slot rows of a local expert. -/
def exCap (w : Wide) : Nat := wPar w 31 16

/-- Two operands have the same extents. -/
def sameDims (a b : Tens) : Bool := a.dim 0 == b.dim 0 && a.dim 1 == b.dim 1

/-- The checks of EX.DISPATCH at issue. -/
def Iss.dispatchBad (i : Iss) : Bool :=
  let rows := exEloc i.w * exCap i.w
  match i.t 0, i.t 1, i.t 2, i.t 3, i.t 4, i.t 5 with
  | some x, some rt, some st, some y, some om, some cn =>
    !([8, 0xA, 3].contains x.fmt) || rt.fmt != 0xD || st.fmt != 0xD || y.fmt != x.fmt || om.fmt != 0xD || cn.fmt != 0xD ||
      8 < rt.dim 0 || !sameDims rt st || y.dim 1 < rows || om.dim 0 != 2 || om.dim 1 < rows || cn.dim 0 < exEloc i.w
  | _, _, _, _, _, _ => true

/-- The checks of EX.COMBINE at issue. -/
def Iss.combineBad (i : Iss) : Bool :=
  let rows := exEloc i.w * exCap i.w
  match i.t 0, i.t 1, i.t 2, i.t 3, i.t 4, i.t 5 with
  | some z, some om, some g, some o, some st, some sg =>
    !([8, 0xA].contains z.fmt) || om.fmt != 0xD || g.fmt != 0xA || !([8, 0xA].contains o.fmt) || st.fmt != 0xD || sg.fmt != z.fmt ||
      8 < g.dim 0 || !sameDims g st || z.dim 1 < rows || om.dim 0 != 2 || om.dim 1 < rows ||
      (sg.dim 1 : Int) < (g.dim 0 : Int) * i.sz 0
  | _, _, _, _, _, _ => true

/-- Every check of an EX instruction is EX_OPERAND. -/
def Iss.exErr (i : Iss) : Option XErr :=
  failIf (exEloc i.w == 0 || exCap i.w == 0 || (if wOp i.w == 1 then i.dispatchBad else i.combineBad)) (xerr 0x97 i.slotArg)

/-- The form of EX.DISPATCH. -/
def formDispatch : OpForm :=
  { plainForm false (fun _ => false)
      (fun w => [govOf w [(0, 1), (1, 1), (2, 1)], govOf w [(0, 0), (3, 0)], none, none]) [2, 3, 4, 5] Iss.exErr with
    atIssue := Iss.takeSeq }

/-- The form of EX.COMBINE. -/
def formCombine : OpForm :=
  { plainForm false (fun _ => false)
      (fun w => [govOf w [(2, 1), (3, 1), (4, 1)], govOf w [(0, 0), (3, 0), (5, 0)], none, none]) [3, 5] Iss.exErr with
    atIssue := Iss.takeSeq }

/-- EX_DISPATCH at issue. -/
def execExDispatch (ch : Fin 8) (jc : Fin 16) (w : BitVec 512) (s : State) : Out :=
  .next (s.issueWide ch jc (asOp 5 1 w) formDispatch)
/-- EX_COMBINE at issue. -/
def execExCombine (ch : Fin 8) (jc : Fin 16) (w : BitVec 512) (s : State) : Out :=
  .next (s.issueWide ch jc (asOp 5 2 w) formCombine)

/-! ## What an entry keeps -/

/-- A number that an EX entry keeps under a key of its own. -/
def Entry.note (e : Entry) (key : Nat) : Nat := ((e.part.find? (·.1 == key)).map (·.2)).getD 0

/-- A number kept. -/
def Entry.setNote (e : Entry) (key v : Nat) : Entry := { e with part := e.part.filter (·.1 != key) ++ [(key, v)] }

/-- The grants have been sent. -/
def noteGranted : Nat := 0
/-- The rows have been sent. -/
def noteSent : Nat := 1
/-- Rows returned to this source and staged. -/
def noteBack : Nat := 2
/-- Rows that the home granted to a source rank, and rows received from it. -/
def noteDue (r : Nat) : Nat := 16 + 2 * r
/-- Rows received from a source rank. -/
def noteIn (r : Nat) : Nat := 17 + 2 * r

/-- Tokens of this member, the row length, and routes per token. -/
def Entry.exT (e : Entry) : Nat := e.sz 0
/-- The row length d. -/
def Entry.exD (e : Entry) : Nat := e.sz 1

/-- Bits of row `r` of an operand of rows of d elements. -/
def State.rowRead (s : State) (ch : ChIdx) (e : Entry) (t : Tens) (r : Nat) : Try (List Byte) :=
  s.rawRead ch e.td t [e.exD, 2 ^ 32, 1, 1] (r * e.exD) e.exD

/-- Bits of a row written. -/
def State.rowWrite (s : State) (ch : ChIdx) (e : Entry) (t : Tens) (r : Nat) (bs : List Byte) : Try State :=
  s.rawWrite ch e.td t [e.exD, 2 ^ 32, 1, 1] (r * e.exD) e.exD bs

/-- Bytes of a row. -/
def Entry.rowLen (e : Entry) : Nat := rawBytes (e.t 0).fmt e.exD

/-! ## Routes and grants (R395, R397, R398) -/

/-- A route of this source: token, k, and the expert, none for -1. -/
structure Route where
  t : Nat
  k : Nat
  ex : Option Nat

/-- The routes of this source, in order of token and then k; none when a value names no expert. -/
def State.routes (s : State) (ch : ChIdx) (e : Entry) : Try (Option (List Route)) := do
  let rt := e.t 1
  let most := (s.slot ch e.slotNo).r * exEloc e.word
  let ws ← tryMap (fun i => s.word ch rt (i % rt.dim 0, i / rt.dim 0, 0, 0)) (List.range (e.exT * rt.dim 0))
  let rs := ws.mapIdx fun i w => (⟨i / rt.dim 0, i % rt.dim 0, if w == 2 ^ 32 - 1 then none else some w⟩ : Route)
  .ok (if rs.any (fun r => match r.ex with
    | some x => most ≤ x
    | none => false) then none else some rs)

/-- The routes to local expert `j` of a home rank. -/
def routesTo (eloc home j : Nat) (rs : List Route) : List Route :=
  rs.filter fun r => r.ex == some (home * eloc + j)

/-- What a home grants to one source for one local expert: first slot row, placed count, and whether in F's rows. -/
structure GrantRow where
  src : Nat
  j : Nat
  first : Nat
  placed : Nat
  fallback : Bool

/-- Sources in ascending rank take the rows of one expert in turn, from row `used` of its `cap`. -/
def placeRows (j base cap : Nat) (fb : Bool) : Nat → List (Nat × Nat) → List GrantRow × Nat
  | used, [] => ([], used)
  | used, (src, n) :: rest =>
    let p := min n (cap - used)
    let (gs, u) := placeRows j base cap fb (used + p) rest
    (⟨src, j, base + used, p, fb⟩ :: gs, u)

/-- Routes from a source to a local expert, as its COUNT says. -/
def ClSlot.routesFrom (c : ClSlot) (seq src j : Nat) : Nat :=
  match c.got seq 0x10 src fun _ => true with
  | m :: _ => leNat (slice m.data (4 * j) 4)
  | [] => 0

/-- Local experts of a home that are LATE, in a partition in G1-compatibility mode, with the fallback expert. -/
def State.lateExperts (s : State) (ch : ChIdx) (e : Entry) : Option (Nat × List Nat) :=
  let eloc := exEloc e.word
  let rank := (s.slot ch e.slotNo).rank
  match s.part ch with
  | some p =>
    if !p.g1 then none
    else
      let late (j : Nat) : Bool :=
        j != p.fallback && Cells.get (fun _ => ExpSt.resident) (s.chan[ch]).mem.experts (rank * eloc + j) == .late
      some (p.fallback, (List.range eloc).filter late)
  | none => none

/-- Every grant of a home (R397, R398), and the rows filled of each expert. -/
def State.grants (s : State) (ch : ChIdx) (e : Entry) : List GrantRow × List Nat :=
  let c := s.slot ch e.slotNo
  let eloc := exEloc e.word
  let cap := exCap e.word
  let ask (j : Nat) : List (Nat × Nat) := (List.range c.r).map fun r => (r, c.routesFrom e.clSeq r j)
  let late := match s.lateExperts ch e with
    | some (_, l) => l
    | none => []
  let own := (List.range eloc).map fun j => if late.contains j then ([], 0) else placeRows j (j * cap) cap false 0 (ask j)
  match s.lateExperts ch e with
  | none => (own.flatMap (·.1), own.map (·.2))
  | some (f, l) =>
    let (more, used) := l.foldl (fun (a : List GrantRow × Nat) j =>
      let (gs, u) := placeRows j (f * cap) cap true a.2 (ask j)
      (a.1 ++ gs, u)) ([], (own.getD f ([], 0)).2)
    (own.flatMap (·.1) ++ more, (own.map (·.2)).set f used)

/-- t × 8 + k of the routes of a source to a local expert, in order (log entry 23). -/
def ClSlot.tkOf (c : ClSlot) (seq src j : Nat) : List Nat :=
  match c.got seq 0x110 src fun _ => true with
  | m :: _ =>
    let off := ((List.range j).map (c.routesFrom seq src)).sum
    words32 (c.routesFrom seq src j) (m.data.drop (4 * off))
  | [] => []

/-- The origin map of a home: source and t × 8 + k of every slot row, -1 for an empty one. -/
def State.originRows (s : State) (ch : ChIdx) (e : Entry) (gs : List GrantRow) (row : Nat) : List Nat :=
  let c := s.slot ch e.slotNo
  match gs.find? fun g => g.first ≤ row && row < g.first + g.placed with
  | some g => [g.src, (c.tkOf e.clSeq g.src g.j).getD (row - g.first) (2 ^ 32 - 1)]
  | none => [2 ^ 32 - 1, 2 ^ 32 - 1]

/-- The home side of a dispatch: counts and origin map are written, GRANT goes to every member, and DONE to those without
a granted row (R396 steps 3 and 5). -/
def State.homeGrant (s : State) (ch : ChIdx) (e : Entry) : Try (State × Entry) := do
  let k := e.slotNo
  let c := s.slot ch k
  let (gs, filled) := s.grants ch e
  let s ← tryFold (fun (s : State) j => s.putCodes ch (e.t 5) (j, 0, 0, 0) [filled.getD j 0]) s (List.range (exEloc e.word))
  let om := e.t 4
  let s ← tryFold (fun (s : State) r => s.putCodes ch om (0, r, 0, 0) (s.originRows ch e gs r)) s
    (List.range (exEloc e.word * exCap e.word))
  let mine (r : Nat) : List GrantRow := gs.filter (·.src == r)
  let asked (r : Nat) : List GrantRow := ((List.range (exEloc e.word)).filter fun j => c.routesFrom e.clSeq r j != 0).flatMap
    fun j => (mine r).filter (·.j == j)
  let s := c.all.foldl (fun (s : State) r => s.clSend ch k r 0x11 e.clSeq false 0 false none
    ((asked r).flatMap fun g => leBytes 4 g.first ++ leBytes 4 (g.placed + (if g.fallback then 2 ^ 31 else 0)))) s
  let due (r : Nat) : Nat := ((mine r).map (·.placed)).sum
  let e := c.all.foldl (fun (e : Entry) r => e.setNote (noteDue r) (due r)) (e.setNote noteGranted 1)
  .ok ((c.all.filter fun r => due r == 0).foldl (fun (s : State) r => s.clSend ch k r 0x13 e.clSeq false 0 false none []) s, e)

/-- An EX entry changed by work on it, or ended by its fault; what waits for the T2 link is done later (R311). -/
def State.exAct (s : State) (ch : ChIdx) (e : Entry) (r : Try (State × Entry)) : State :=
  match r with
  | .ok (s, e) => s.putEntry ch e
  | .error x => if x.waits then s else s.clFault ch e x

/-- The work waits for the T2 link. -/
def Try.waits {α : Type} (r : Try α) : Bool :=
  match r with
  | .ok _ => false
  | .error x => x.waits

/-- The home side acts once the entry has joined and every COUNT is there. -/
def State.exHome (s : State) (ch : ChIdx) (k : SlotIdx) (seq : Nat) : State :=
  match s.servedAt ch k seq with
  | some e =>
    if e.eng == 5 && e.op == 1 && s.joinedAll ch e && e.note noteGranted == 0 then s.exAct ch e (s.homeGrant ch e) else s
  | none => s

/-! ## Joining (R396 step 1, R399) -/

/-- COUNT to every member: the routes to each of its local experts. -/
def State.dispatchJoin (s : State) (ch : ChIdx) (e : Entry) : State :=
  let k := e.slotNo
  match s.routes ch e with
  | .error x => if x.waits then s else s.clFault ch e x
  | .ok none => s.clEnd ch e 0x98
  | .ok (some rs) =>
    let c := s.slot ch k
    let eloc := exEloc e.word
    let words (h : Nat) : List Byte := (List.range eloc).flatMap fun j => leBytes 4 (routesTo eloc h j rs).length
    let s := s.modSlot ch k fun c => { c with joined := some e.clSeq }
    let s := c.all.foldl (fun (s : State) h => s.clSend ch k h 0x10 e.clSeq false 0 false none (words h)) s
    s.exHome ch k e.clSeq

/-- Rows staged at the source: each at row t × K + k (R399). -/
def State.stage? (s : State) (ch : ChIdx) (e : Entry) (data : List Byte) (tk : List Nat) : Try (State × Entry) := do
  let n := if e.rowLen == 0 then 0 else data.length / e.rowLen
  let rows := (List.range n).filterMap fun i => (tk[i]?).map fun x => (i, x)
  let s ← tryFold (fun (s : State) (x : Nat × Nat) =>
    s.rowWrite ch e (e.t 5) (x.2 / 8 * (e.t 2).dim 0 + x.2 % 8) (slice data (x.1 * e.rowLen) e.rowLen)) s rows
  .ok (s, e.setNote noteBack (e.note noteBack + rows.length))

/-- The runs of slot rows that go back to one source: first row and t × 8 + k of each. -/
def retRuns (om : List (Nat × Nat)) (src : Nat) : List (Nat × List Nat) :=
  runsFrom 0 (om.map fun x => if x.1 == src then some x.2 else none)

/-- The home side of a combine: every filled row of Z goes to its source in slot order, and an empty RET to a member
without one, so that it serves as a JOIN (R378, R399). -/
def State.combineJoin (s : State) (ch : ChIdx) (e : Entry) : Try (State × Entry) := do
  let k := e.slotNo
  let c := s.slot ch k
  let om ← tryMap (fun r => do
    let a ← s.word ch (e.t 1) (0, r, 0, 0)
    let b ← s.word ch (e.t 1) (1, r, 0, 0)
    .ok (a, b)) (List.range (exEloc e.word * exCap e.word))
  let s := s.modSlot ch k fun c => { c with joined := some e.clSeq }
  let most := max 1 (msgLimit / max 1 e.rowLen)
  let s ← tryFold (fun (s : State) r =>
    let runs := retRuns om r
    if runs.isEmpty then .ok (s.clSend ch k r 0x14 e.clSeq false 0 false none [])
    else tryFold (fun (s : State) (run : Nat × List Nat) =>
      tryFold (fun (s : State) j => do
        let rows := slice (List.range run.2.length) (j * most) most
        let bs ← tryMap (fun i => s.rowRead ch e (e.t 0) (run.1 + i)) rows
        .ok (s.clSend ch k r 0x14 e.clSeq false (run.1 + j * most) ((e.t 0).fmt == 8) none bs.flatten)) s
        (List.range (ceilDiv run.2.length most))) s runs) s c.all
  let early := ((s.slot ch k).held.filter fun x => x.1 == 0x14 && x.2.seq.toNat == e.clSeq).map (·.2)
  tryFold (fun (x : State × Entry) (m : CMsg) =>
    let tk := (x.1.slot ch k).held.find? fun y => y.1 == 0x114 && y.2.seq == m.seq && y.2.src == m.src && y.2.index == m.index
    match tk with
    | some t => x.1.stage? ch x.2 m.data (words32 (t.2.data.length / 4) t.2.data)
    | none => .ok x) (s, e) early

/-- An entry of the CL or EX engine joins. -/
def State.joinOne (s : State) (ch : ChIdx) (e : Entry) : State :=
  if e.eng == 4 then s.clJoin ch e
  else if e.op == 1 then s.dispatchJoin ch e
  else s.exAct ch e (s.combineJoin ch e)

/-- Every entry of an engine that may join does. -/
def State.joinAll (s : State) (ch : ChIdx) (eng : Fin 11) : State :=
  (s.joiners ch eng).foldl (fun (s : State) e =>
    if (s.joiners ch eng).any (·.order == e.order) then s.joinOne ch e else s) s

/-! ## The source side (R396, R399) -/

/-- A message of a kind has arrived from every member. -/
def State.fromAll (s : State) (ch : ChIdx) (e : Entry) (kind : Nat) : Bool :=
  let c := s.slot ch e.slotNo
  c.all.all fun r => !(c.got e.clSeq kind r fun _ => true).isEmpty

/-- The grant of a home for one of its experts: first row, placed count, FALLBACK. -/
def ClSlot.grantOf (c : ClSlot) (seq home at_ : Nat) : Nat × Nat × Bool :=
  match c.got seq 0x11 home fun _ => true with
  | m :: _ =>
    let w := leNat (slice m.data (8 * at_ + 4) 4)
    (leNat (slice m.data (8 * at_) 4), w % 2 ^ 31, bit w 31)
  | [] => (0, 0, false)

/-- The routes of this source to one home, expert by expert, with the grant of each. -/
def State.granted (s : State) (ch : ChIdx) (e : Entry) (rs : List Route) (home : Nat) : List (List Route × Nat × Nat × Bool) :=
  let c := s.slot ch e.slotNo
  let eloc := exEloc e.word
  let named := (List.range eloc).filter fun j => !(routesTo eloc home j rs).isEmpty
  named.mapIdx fun i j => (routesTo eloc home j rs, c.grantOf e.clSeq home i)

/-- A substituted route: FALLBACK, MEM_SUBST and TIER_SUBST (R333, R398). -/
def State.exSubst (s : State) (ch : ChIdx) (e : Entry) (ex : Nat) : State :=
  ((s.satF ch R.CH_EX_STAT_FALLBACK 1).satF ch R.MEM_SUBST_EXPERT 1).post (srcOf ch 0x015) .tierSubst [e.jc * 2 ^ 8, e.seq, ex]

/-- Route status of one home's routes, then its granted rows (R396 step 4, R397). -/
def State.exSend (s : State) (ch : ChIdx) (e : Entry) (rs : List Route) (home : Nat) : Try State := do
  let k := e.slotNo
  let st := e.t 2
  let most := max 1 (msgLimit / max 1 e.rowLen)
  tryFold (fun (s : State) (g : List Route × Nat × Nat × Bool) => do
    let (l, first, placed, fb) := g
    let s ← tryFold (fun (s : State) (x : Nat × Route) => do
      let v := if x.1 < placed then (if fb then 2 else 0) else 1
      let s ← s.putCodes ch st (x.2.k, x.2.t, 0, 0) [v]
      .ok (if v == 1 then s.satF ch R.CH_EX_STAT_OVERFLOW 1
        else if v == 2 then s.exSubst ch e (x.2.ex.getD 0) else s)) s (l.mapIdx fun i r => (i, r))
    let rows := l.take placed
    tryFold (fun (s : State) j => do
      let bs ← tryMap (fun (r : Route) => s.rowRead ch e (e.t 0) r.t) (slice rows (j * most) most)
      .ok (s.clSend ch k home 0x12 e.clSeq false (first + j * most) ((e.t 0).fmt == 8) (some e.order) bs.flatten)) s
      (List.range (ceilDiv rows.length most))) s (s.granted ch e rs home)

/-- The source side of a dispatch, once every GRANT is there. -/
def State.exSource (s : State) (ch : ChIdx) (e : Entry) : Try (State × Entry) := do
  match ← s.routes ch e with
  | none => .error (xerr 0x98 e.clArg)
  | some rs =>
    let c := s.slot ch e.slotNo
    let s ← tryFold (fun (s : State) (r : Route) => s.putCodes ch (e.t 2) (r.k, r.t, 0, 0) [3]) s (rs.filter (·.ex.isNone))
    let s ← tryFold (fun (s : State) h => s.exSend ch e rs h) s c.all
    .ok (s, e.setNote noteSent 1)

/-- The home side has received every row it granted. -/
def State.homeFull (s : State) (ch : ChIdx) (e : Entry) : Bool :=
  (s.slot ch e.slotNo).all.all fun r => e.note (noteDue r) ≤ e.note (noteIn r)

/-- Rows that this source was granted in the dispatch: its route status PLACED or FALLBACK. -/
def State.rowsDue (s : State) (ch : ChIdx) (e : Entry) : Try Nat := do
  let st := e.t 4
  let ws ← tryMap (fun i => s.word ch st (i % st.dim 0, i / st.dim 0, 0, 0)) (List.range (e.exT * st.dim 0))
  .ok (ws.filter fun w => w == 0 || w == 2).length

/-- O of one token (R399). -/
def State.combineRow (s : State) (ch : ChIdx) (e : Entry) (t : Nat) : Try State := do
  let g := e.t 2
  let o := e.t 3
  let sg := e.t 5
  let st ← tryMap (fun k => s.word ch (e.t 4) (k, t, 0, 0)) (List.range (g.dim 0))
  let gs ← tryMap (fun k => s.elem ch g none (k, t, 0, 0)) (List.range (g.dim 0))
  let used := (List.range (g.dim 0)).filter fun k => st.getD k 3 == 0 || st.getD k 3 == 2
  let vs ← tryMap (fun i => do
    let start ← if wAcc e.word then s.elem ch o none (i, t, 0, 0) else .ok (Num.zero false)
    let rows ← tryMap (fun k => do
      let v ← s.elem ch sg none (i, t * g.dim 0 + k, 0, 0)
      .ok (gs.getD k .nan, v)) used
    .ok (writeElem o.fmt rne (rows.foldl (fun (v : Num) x => add32 v (mul32 x.1 x.2)) start))) (List.range e.exD)
  let (codes, n) := gather vs
  let s ← s.putCodes ch o (0, t, 0, 0) codes
  .ok (s.countFmt ch n)

/-- The entry that runs on the EX engine completes: its reads are charged, and bytes that it and entries without order touch are
unpredictable (R69). -/
def State.exEnd (s : State) (ch : ChIdx) (e : Entry) : State :=
  (((s.touchOps ch e).race ch e.order).pullEntry ch e).finish ch { e with pass := 1 } 0 0 0 false

/-- The entry that runs on the EX engine goes on as far as its messages let it: a dispatch sends its rows and completes, a
combine computes O and completes. -/
def State.exStep (s : State) (ch : ChIdx) (last : Bool) : State :=
  match (s.eq ch 5).run with
  | none => s
  | some e =>
    if e.op == 1 then
      let s := if e.note noteSent == 0 && s.fromAll ch e 0x11 then s.exAct ch e (s.exSource ch e) else s
      match (s.eq ch 5).run with
      | none => s
      | some e =>
        if last && e.note noteSent == 1 && s.fromAll ch e 0x13 && s.homeFull ch e then
          s.exEnd ch e
        else s
    else if !last then s
    else match s.rowsDue ch e with
      | .error x => if x.waits then s else s.clFault ch e x
      | .ok n =>
        if e.note noteBack < n then s
        else match tryFold (fun (s : State) t => s.combineRow ch e t) s (List.range e.exT) with
          | .error x => if x.waits then s else s.clFault ch e x
          | .ok s => s.exEnd ch e

/-- A dispatch reserves credits for the rows it may send to each home; they return when it completes (R109, log entry 42). A
combine has sent its rows on joining. -/
def State.exReserve (s : State) (ch : ChIdx) (e : Entry) : State :=
  match (if e.op == 1 then s.routes ch e else .ok none) with
  | .ok (some rs) =>
    let c := s.slot ch e.slotNo
    let eloc := exEloc e.word
    (c.all.filter (· != c.rank)).foldl (fun (s : State) h =>
      let n := ((List.range eloc).map fun j => (routesTo eloc h j rs).length).sum
      match s.way ch (c.node h) with
      | .link p => if n == 0 then s else s.reserve ch p e.order 3 (ceilDiv (n * e.rowLen) 256 + 1)
      | _ => s) s
  | _ => s

/-- The start of an EX entry (R396 step 2): the checks of R380, R394 and R129. What CYCLES will count is a free value (R72, log
entry 71). -/
def State.exStart (s : State) (ch : ChIdx) (e : Entry) : State :=
  match s.slotErr ch e, s.ownerErr ch e (if e.op == 1 then formDispatch else formCombine) with
  | some st, _ => s.clEnd ch e st
  | none, some x =>
    let s := if x.status == 0x25 then s.satF ch R.CH_ARWS_STAT_DENIED 1 else s
    (s.takeWaits ch e.waits).clFault ch { e with started := true } x
  | none, none =>
    let (d, s) := ((s.takeWaits ch e.waits).exReserve ch e).draw
    let e := { e with started := true, cyc := (Config.freeWord d).toNat }
    (s.pullEntry ch e).modQ ch 5 fun q => { q with run := some e }

/-! ## Messages (R396, R399) -/

/-- The t × 8 + k values that come with a message, held beside it. -/
def holdTk (m : CMsg) (tk : List Nat) : CMsg := { m with data := tk.flatMap (leBytes 4) }

/-- COUNT. -/
def execCount (ch : Fin 8) (m : CMsg) (tk : List Nat) (s : State) : Out :=
  .next (s.clArrive ch m 0x10 fun s k => (s.hold ch k 0x110 (holdTk m tk)).exHome ch k m.seq.toNat)

/-- GRANT. -/
def execGrant (ch : Fin 8) (m : CMsg) (s : State) : Out := .next (s.clArrive ch m 0x11 fun s _ => s)

/-- DONE. -/
def execDone (ch : Fin 8) (m : CMsg) (s : State) : Out := .next (s.clArrive ch m 0x13 fun s _ => s)

/-- Rows of a source are written to Y; with the last one granted, DONE goes back. -/
def State.homeRows (s : State) (ch : ChIdx) (e : Entry) (r : Nat) (m : CMsg) : Try (State × Entry) := do
  let n := if e.rowLen == 0 then 0 else m.data.length / e.rowLen
  let s ← tryFold (fun (s : State) i => s.rowWrite ch e (e.t 3) (m.index.toNat + i) (slice m.data (i * e.rowLen) e.rowLen)) s
    (List.range n)
  let got := e.note (noteIn r) + n
  let e' := e.setNote (noteIn r) got
  let full := e.note (noteIn r) < e.note (noteDue r) && e.note (noteDue r) ≤ got
  .ok (if full then s.clSend ch e.slotNo r 0x13 e.clSeq false got false none [] else s, e')

/-- ROWS. -/
def execRows (ch : Fin 8) (m : CMsg) (s : State) : Out :=
  let s0 := s
  .next (s.clArrive ch m 0x12 fun s k =>
    match s.servedAt ch k m.seq.toNat, (s.slot ch k).rankOf m.src.toNat with
    | some e, some r =>
      if e.eng == 5 && e.op == 1 && e.note noteGranted == 1 then
        let r := s.homeRows ch e r m
        if r.waits then s0 else s.exAct ch e r
      else s
    | _, _ => s)

/-- RET: rows of expert output, staged once the entry has joined. -/
def execRet (ch : Fin 8) (m : CMsg) (tk : List Nat) (s : State) : Out :=
  let s0 := s
  .next (s.clArrive ch m 0x14 fun s k =>
    let s := s.hold ch k 0x114 (holdTk m tk)
    match s.servedAt ch k m.seq.toNat with
    | some e =>
      if e.eng == 5 && e.op == 2 && (s.slot ch k).joined == some e.clSeq then
        let r := s.stage? ch e m.data tk
        if r.waits then s0 else s.exAct ch e r
      else s
    | none => s)

/-! ## The T2 link (R311) -/

/-- The home sides that waited for the T2 link go on. -/
def State.exResume (s : State) (ch : ChIdx) : State :=
  slots.foldl (fun (s : State) k => match s.served? ch k with
    | some e => if e.eng == 5 then s.exHome ch k e.clSeq else s
    | none => s) s

/-- T2_LINK_FAIL: the link retrains or fails over, and is up again when it recovers and may be lit; what waited for it goes on. A
recovery of a link that trains is no further failure. -/
def execT2LinkFail (ch : Fin 8) (recovered : Bool) (s : State) : Out :=
  let l := s.f ch R.MEM_T2_STAT_LINK
  let recovered := recovered && s.mayTrain ch
  .next (if l == 0 || l == 3 then s
    else if l == 1 && recovered then ((s.setF ch R.MEM_T2_STAT_LINK 2).inrResume ch).exResume ch
    else (s.satF ch R.MEM_T2_STAT_RETRAIN 1).setF ch R.MEM_T2_STAT_LINK (if recovered then 2 else 1))

end Sys2Proof.Machine
end

