-- ==== Sys2Proof/Machine/Power.lean ====
section
/-! DEFINITION. Power states, waking, the power caps and thermal limits of a channel (R471 to R483, R510). -/

namespace Sys2Proof.Machine

open Sys2Proof

/-! ## Quiet channels (R473) -/

/-- A context that lets its channel be quiet: FREE, or in WAIT_SEM with no entry queued or running. -/
def State.ctxQuiet (s : State) (ch : ChIdx) (jc : JcIdx) : Bool :=
  (s.ctx ch jc).st == .free || ((s.ctx ch jc).st == .waitSem && (s.entriesOf ch jc).isEmpty)

/-- The channel is quiet. -/
def State.quiet (s : State) (ch : ChIdx) : Bool :=
  ctxs.all (s.ctxQuiet ch) && engines.all (fun e => (s.eq ch e).all.isEmpty) && !s.sqDue ch && !s.windowRuns ch &&
    s.f ch R.CH_DIG_STAT_BUSY == 0 && (s.chan[ch]).mover.phase == .idle && s.f ch R.CH_CL_INR_CTL_BUSY == 0 &&
    s.f ch R.MEM_TC_CTL_FLUSH == 0 && (s.chan[ch]).mem.tc.wb.isEmpty

/-! ## Timers (R474) -/

/-- The power-state setting: that of the channel's partition under R6, AUTO for a channel in none. -/
def State.pwrPolicy (s : State) (ch : ChIdx) : Nat := if s.place ch < 8 then s.policy ch (·.power) else 2

/-- A channel that is PARKED (R476). -/
def State.parked (s : State) (ch : ChIdx) : Bool := s.place ch == 0xE

/-- A timer has run out in state `at_`: under AUTO the next state is entered and posted, under ASSIST it is advised (Table 0.6). -/
def State.timer (s : State) (ch : ChIdx) (at_ : PwrSt) (ok : Bool) : State :=
  let p := s.pwr ch
  if !s.up ch || p.st != at_ || p.move != .none || !ok then s
  else if s.pwrPolicy ch == 1 then s.post (srcGaffer ch) .pwrAdvice [at_.deeper.code]
  else if s.pwrPolicy ch == 2 && !s.gafferDown ch then
    (s.post (srcGaffer ch) .pwrChange [at_.deeper.code]).pwrBegin ch (.entry at_.deeper)
  else s

/-- IDLE_T. -/
def execIdleT (ch : Fin 8) (s : State) : Out := .next (s.timer ch .run (s.quiet ch))

/-- SLEEP_T. -/
def execSleepT (ch : Fin 8) (s : State) : Out := .next (s.timer ch .idle true)

/-- DEEP_T: only while DEEP_EN is 1, and never for a PARKED channel (R476). -/
def execDeepT (ch : Fin 8) (s : State) : Out :=
  .next (s.timer ch .sleep (s.f ch R.CH_PWR_CFG_DEEP_EN == 1 && !s.parked ch))

/-! ## Links of a channel as a whole -/

/-- What the image in force says of a link. -/
def State.portCfg (s : State) (ch : ChIdx) (p : LinkIdx) : Option PortCfg := (s.imgCh ch).bind fun i => i.ports[p.val]?

/-- The image uses the link, and the channel may have it: its own number names no link. -/
def State.linkUsed (s : State) (ch : ChIdx) (p : LinkIdx) : Bool :=
  p.val != 8 + ch.val && (s.portCfg ch p).any fun c => c.use != 0

/-- Training of every link that is not up begins: a link the image uses trains, any other is HELD and dark (R367,
R368). -/
def State.trainAll (s : State) (ch : ChIdx) : State :=
  links.foldl (fun (s : State) p =>
    if s.linkUp ch p || p.val == 8 + ch.val then s
    else (s.modLink ch p fun l => { l with dark := false }).setF ch (R.FAB_PORT_STAT_STATE p) (if s.linkUsed ch p then 1 else 3)) s

/-! ## Changes of state (R475, R478, R479) -/

/-- The power state changes, with what that does: entering DEEP takes the links down, and the optical engine with its rings,
whose heater codes are held (R472, R476). -/
def State.pwrEnter (s : State) (ch : ChIdx) (st : PwrSt) : State :=
  let s := s.modPwr ch fun p => { p with st := st }
  if st == .deep then ((s.allDown ch).t2Dark ch).ringsLocked ch 0 else s

/-- POWER_ENTRY_DONE: an exit follows at once when a wake arrived, back to the target when a command has asked for a state
that is less deep; else the next entry on the way to the target. -/
def execPowerEntryDone (ch : Fin 8) (s : State) : Out :=
  let p := s.pwr ch
  match p.move with
  | .entry target =>
    if p.held || s.gafferDown ch || !s.up ch then .next s
    else
      let s := s.pwrEnter ch p.st.deeper
      let s := s.modPwr ch fun p => { p with move := .none, wake := none }
      let s := match p.wake with
        | some code =>
          let s := s.exitBegin ch code
          if target.code < (s.pwr ch).st.code then s.modPwr ch fun p => { p with move := .exit target } else s
        | none => if target.code ≤ (s.pwr ch).st.code then s.pwrShow ch else s.pwrBegin ch (.entry target)
      .next (s.lehrNext ch)
  | _ => .next s

/-- POWER_EXIT_DONE: the channel is in RUN; after DEEP its rings are in lock again and its links train (R475). A quiet channel goes on to the state that a command
asked for, and a PARKED channel to SLEEP (Table 17.9). -/
def execPowerExitDone (ch : Fin 8) (s : State) : Out :=
  let p := s.pwr ch
  match p.move with
  | .exit after =>
    if p.held || s.gafferDown ch || !s.up ch then .next s
    else
      let s := (s.modPwr ch fun p => { p with st := .run, move := .none, wake := none }).pwrShow ch
      let s := (s.setF ch R.CH_PWR_STAT_REUP_PENDING 0).satF ch R.CH_PWR_STAT_WAKES 1
      let s := if p.st == .deep then s.ringsLocked ch 1 else s
      let s := if p.st == .deep && s.mayTrain ch then s.trainAll ch else s
      let after := if s.parked ch then .sleep else after
      let s := if after == .run || !(s.quiet ch || s.parked ch) then s else s.pwrBegin ch (.entry after)
      .next (s.lehrNext ch)
  | _ => .next s

/-- PWR_WAKE: a wake event of Table 17.5; code 0 names none. -/
def execPwrWake (ch : Fin 8) (code : Fin 8) (s : State) : Out := .next (if code.val == 0 then s else s.wake ch code.val)

/-- A power state by its code. -/
def pwrOf (n : Nat) : PwrSt := if n == 0 then .run else if n == 1 then .idle else if n == 2 then .sleep else .deep

/-- A command of R480 to a state other than RUN: deeper than the present state it is refused when the channel is not
quiet, when DEEP_EN is 0 for DEEP, and when the channel is PARKED; else the change begins. A change under way takes the
state as its new target (log entry 52). -/
def State.pwrTo (s : State) (ch : ChIdx) (t : PwrSt) : State :=
  let p := s.pwr ch
  let now := p.entering
  if now.code < t.code then
    if !s.quiet ch || (t == .deep && s.f ch R.CH_PWR_CFG_DEEP_EN == 0) || s.parked ch then s.postReg (pfOf ch) .pwrRefused []
    else match p.move with
      | .none => s.pwrBegin ch (.entry t)
      | .entry _ => s.modPwr ch fun p => { p with move := .entry t }
      | .exit _ => s.modPwr ch fun p => { p with move := .exit t }
  else match p.move with
    | .none => if t == now then s else
      let s := s.wake ch 6
      s.modPwr ch fun p => if p.move == .exit .run then { p with move := .exit t } else p
    | .entry _ =>
      let s := if t == now then s else s.wake ch 6
      s.modPwr ch fun p => { p with move := .entry t }
    | .exit _ => s.modPwr ch fun p => { p with move := .exit t }

/-- An exit that a command was to follow ends in RUN. -/
def Power.toRun (p : Power) : Power :=
  match p.move with
  | .exit _ => { p with move := .exit .run }
  | _ => p

/-- PWR_CMD (R480). -/
def execPwrCmd (ch : Fin 8) (val : BitVec 32) (s : State) : Out :=
  .next (s.chanWr ch 0xC004 fun s =>
    let t := pwrOf (bits val.toNat 1 0)
    let s := s.setF ch R.CH_PWR_CMD_TARGET t.code
    if !val.getLsbD 31 then s else if t == .run then (s.wake ch 6).modPwr ch Power.toRun else s.pwrTo ch t)

/-! ## Gaffers (R20, R479) -/

/-- GAFFER_RESET: the changes of its half are held (R20, R479). -/
def execGafferReset (gaf : Gaffer) (s : State) : Out := .next (s.gafferGone gaf)

/-- GAFFER_RETURN: the lehr finishes the interrupted sequences, then acts on the wake events held. -/
def execGafferReturn (gaf : Gaffer) (s : State) : Out :=
  let s := match gaf with
    | .gw => s.modP fun p => { p with gwReset := false }
    | .ge => s.modP fun p => { p with geReset := false }
  let half := gafHalf gaf
  let s := s.lehrNext (half.headD 0)
  let mine (x : Nat × Nat) : Bool := half.any fun c => c.val == x.1
  let wakes := s.pkg.heldWakes.filter mine
  let s := s.modP fun p => { p with heldWakes := p.heldWakes.filter fun x => !mine x }
  .next (wakes.foldl (fun (s : State) x => s.wake (Fin.ofNat 8 x.1) x.2) s)

/-! ## Caps (R471, R482, R483) -/

/-- The next pass of an entry of the channel is held. -/
def State.passHeld (s : State) (ch : ChIdx) : Bool := engines.any fun e => (s.eq ch e).run.any fun x => x.array && !x.going

/-- CURRENT_SUM: the VMAIN current and voltage of the last 10 µs; the starts granted count anew (R471). A channel whose
pass start is held for the current, and for nothing else, counts in INLIM. -/
def execCurrentSum (ma mv : Nat) (s : State) : Out :=
  let s := s.eachC fun s ch => if s.passHeld ch && !(s.pwr ch).thermHold && !s.capHeld ch then s.satF ch R.CH_PWR_CAP_INLIM 1 else s
  .next (s.modP fun p => { p with current := ma, granted := 0, vmainMv := mv })

/-- The share S of a channel of an EFFICIENT partition, in units of 1/840 mW: CAP counts 10 W and is divided over the
channels of the partition on this package (R482). -/
def State.capShare (s : State) (ch : ChIdx) : Option Nat :=
  match s.part ch with
  | none => none
  | some p =>
    if p.mode != 2 then none
    else
      let n := ((List.finRange 8).filter fun c => s.place c == s.place ch).length
      some (p.cap * 10000 * (840 / max 1 n))

/-- CAP_CREDIT_UPDATE: E := min(E + (S - P) x 10 µs, S x 1 ms), with the draw P in mW; a held start counts in CAPHOLD
(R482, R483). -/
def execCapCreditUpdate (ch : Fin 8) (draw : Nat) (s : State) : Out :=
  let s := if s.passHeld ch && s.capHeld ch then s.satF ch R.CH_PWR_CAP_CAPHOLD 1 else s
  .next (match s.capShare ch with
    | none => s.modPwr ch fun p => { p with capped := false }
    | some share => s.modPwr ch fun p =>
      { p with capped := true, credit := min (p.credit + ((share : Int) - (840 * draw : Nat))) (100 * share : Nat) })

/-! ## Thermal limits (R502, R510) -/

/-- THERM_N follows the holds and trips in force. -/
def State.thermPin (s : State) : State :=
  let low := (List.finRange 8).any fun c => (s.pwr c).thermHold || (s.pwr c).thermTrip
  s.modP fun p => { p with pins := { p.pins with thermN := !low } }

/-- THERM_HOLD: at 105 °C (169 in the register's units) no further array pass starts. -/
def execThermHold (ch : Fin 8) (tj : BitVec 8) (s : State) : Out :=
  if !s.up ch || (s.pwr ch).thermHold || tj.toNat < 169 then .next s
  else
    let s := (s.setF ch R.CH_THERM_TJ tj.toNat).setF ch R.CH_THERM_HOLD 1
    let s := (s.satF ch R.CH_THERM_HOLDS 1).modPwr ch fun p => { p with thermHold := true }
    .next ((s.post (srcGaffer ch) .thermHold []).thermPin)

/-- THERM_HOLD_RELEASE: below 100 °C. -/
def execThermHoldRelease (ch : Fin 8) (tj : BitVec 8) (s : State) : Out :=
  if !s.up ch || !(s.pwr ch).thermHold || 164 ≤ tj.toNat then .next s
  else
    let s := (s.setF ch R.CH_THERM_TJ tj.toNat).setF ch R.CH_THERM_HOLD 0
    .next ((s.modPwr ch fun p => { p with thermHold := false }).thermPin)

end Sys2Proof.Machine
end

