-- ==== Sys2Proof/Machine/Fabric.lean ====
section
/-! DEFINITION. The fabric: lanes and slots, lasers and rings, cells that arrive, link training, and links that go down
(R337 to R374, R40, R80). -/

namespace Sys2Proof.Machine

open Sys2Proof

/-! ## Slots (R345, R370, R372) -/

/-- The link whose lane a slot carries now: W8 carries the lane of the link that has it in use. -/
def State.laneOwner (s : State) (ch : ChIdx) (g w : Nat) : Option LinkIdx :=
  if w != 8 then slotLink g w
  else links.find? fun p => (linkSlots p).1 == g && s.f ch (R.FAB_PORT_STAT_SPARE p) == 1

/-- A flag of FAB_LANE_STAT for a slot. -/
def State.setFailed (s : State) (ch : ChIdx) (g w v : Nat) : State := s.setF ch (R.FAB_LANE_STAT_FAILED (laneIdx g w)) v
/-- ACTIVE of a slot. -/
def State.setActive (s : State) (ch : ChIdx) (g w v : Nat) : State := s.setF ch (R.FAB_LANE_STAT_ACTIVE (laneIdx g w)) v

/-- W8 of a fiber or waveguide is good, carries nothing, and no switch to it is in progress. -/
def State.spareFree (s : State) (ch : ChIdx) (g : Nat) : Bool :=
  let l := laneIdx g 8
  s.f ch (R.FAB_LANE_STAT_FAILED l) == 0 && s.f ch (R.FAB_LANE_STAT_ACTIVE l) == 0 && (s.chan[ch]).fab.spare.all (·.1 != g)

/-- FAB_SPARE for a slot: from its link, or from the rings and laser monitors. -/
def State.postSpare (s : State) (ch : ChIdx) (g w : Nat) : State :=
  match slotLink g w with
  | some p => s.post (srcLink ch p) .fabSpare [g, w]
  | none => s.post (srcOf ch 0x040) .fabSpare [g, w]

/-- The memory link goes on at half rate on the half whose four slots are whole, else it has failed, an uncorrectable
event of the expander (Table 12.12, R311, R430). -/
def State.t2Half (s : State) (ch : ChIdx) : State :=
  let l := s.f ch R.MEM_T2_STAT_LINK
  if l == 0 || l == 3 then s
  else
    let whole (h : Nat) : Bool := (List.range 4).all fun i => s.f ch (R.FAB_LANE_STAT_FAILED (laneIdx 4 (4 * h + i))) == 0
    let s := s.satF ch R.MEM_T2_STAT_RETRAIN 1
    if whole 0 then (s.memSlotsOff ch [4, 5, 6, 7, 8]).setF ch R.MEM_T2_STAT_LINK 2
    else if whole 1 then (s.memSlotsOff ch [0, 1, 2, 3, 8]).setF ch R.MEM_T2_STAT_LINK 2
    else ((s.memSlotsOff ch (List.range 9)).setF ch R.MEM_T2_STAT_LINK 3).faultUe 5 ch.val 0x21

/-- The link unit of a channel runs: a channel that is fused off, retired, in reset or without its hub link sees nothing on
its fibers (R36, R343). -/
def State.lit (s : State) (ch : ChIdx) (f : State → State) : State := if s.up ch then f s else s

/-- A slot fails: its lane moves to W8 when that is free; otherwise its link goes down (Table 12.12). -/
def State.slotFail (s : State) (ch : ChIdx) (g w : Nat) : State :=
  let l := laneIdx g w
  if s.f ch (R.FAB_LANE_STAT_FAILED l) == 1 then s
  else
    let active := s.f ch (R.FAB_LANE_STAT_ACTIVE l) == 1
    let owner := s.laneOwner ch g w
    let free := s.spareFree ch g
    let s := (s.setFailed ch g w 1).setActive ch g w 0
    if w == 8 then
      let s := s.postSpare ch g w
      if !active then s
      else match owner with
        | some p => s.linkDown ch p
        | none => s.t2Half ch
    else if !active then s
    else if free then (s.postSpare ch g w).modFab ch fun b => { b with spare := b.spare ++ [(g, w)] }
    else match owner with
      | some p => s.linkDown ch p
      | none => s.t2Half ch

/-- SPARE_SWITCH: the lane moves to W8 at the announced codeword, a correctable event of its slot (R372, R430). -/
def execSpareSwitch (ch : Fin 8) (grp : Fin 13) (s : State) : Out :=
  .next (match (s.chan[ch]).fab.spare.find? (·.1 == grp.val) with
    | none => s
    | some (g, w) =>
      let s := (s.modFab ch fun b => { b with spare := b.spare.filter (·.1 != g) }).setActive ch g 8 1
      let s := match slotLink g w with
        | some p => ((s.setF ch (R.FAB_PORT_STAT_SPARE p) 1).setF ch (R.FAB_PORT_STAT_SPARE_LANE p) (w % 4)).sendTicks ch p
        | none => s
      s.faultCe 3 (keySlot ch (waveNo ch g) w))

/-- LANE_FAIL: a lane exceeds its error limits (R345). -/
def execLaneFail (ch : Fin 8) (lane : Fin 85) (ber : BitVec 8) (s : State) : Out :=
  let (g, w) := laneAt lane.val
  .next (s.lit ch fun s => (s.setF ch (R.FAB_LANE_Q_BER_EXP lane) ber.toNat).slotFail ch g w)

/-! ## Lasers (R342, R370) -/

/-- The index of a laser slot's register. -/
def laserIdx (las : Fin 2) (slot : Fin 9) : Nat := 9 * las.val + slot.val

/-- A power in units of 0.02 mW is below a level in units of 0.1 dBm: P / 50 < 10 ^ (L / 100), in whole numbers. -/
def belowDbm (power level : Nat) : Bool := power ^ 100 < 50 ^ 100 * 10 ^ level

/-- The LOW threshold of a laser input in units of 0.1 dBm: +15.0 dBm, or the user calibration of the image in force in its
place (R342, Table 12.10). -/
def State.laserLevel (s : State) (ch : ChIdx) (las : Fin 2) : Nat :=
  match (s.imgCh ch).bind fun c => c.cal.find? fun (x : Nat × Nat × Nat) => x.1 == 5 && x.2.1 == las.val with
  | some x => x.2.2
  | none => 150

/-- A slot is measured. Below the LOW threshold the event is posted once, until the slot is re-armed 0.5 dB above it. -/
def State.laserLow (s : State) (ch : ChIdx) (las : Fin 2) (slot : Fin 9) (power : BitVec 12) : State :=
  let i := laserIdx las slot
  let s := s.setF ch (R.FAB_LASER_POWER i) power.toNat
  if !belowDbm power.toNat (s.laserLevel ch las) then s
  else
  let s := s.setF ch (R.FAB_LASER_LOW i) 1
  if (s.chan[ch]).fab.low.contains (las.val, slot.val) then s
  else (s.modFab ch fun b => { b with low := b.low ++ [(las.val, slot.val)] }).post (srcOf ch 0x040) .fabLaserLow [las.val, slot.val]

/-- LASER_LOW: a slot falls below the threshold. -/
def execLaserLow (ch : Fin 8) (las : Fin 2) (slot : Fin 9) (power : BitVec 12) (s : State) : Out :=
  .next (s.lit ch (·.laserLow ch las slot power))

/-- Fibers or waveguides that a laser feeds: L0 the five signal transmitters, L1 the seven siblings'. -/
def laserFeeds (ch : ChIdx) (las : Fin 2) : List Nat :=
  if las.val == 0 then List.range 5 else ((List.range 8).filter (· != ch.val)).map (5 + ·)

/-- LASER_LOST: below +10.0 dBm the slot, which is below the LOW threshold too, is lost, and its lanes on every transmitter
the laser feeds move to W8. -/
def execLaserLost (ch : Fin 8) (las : Fin 2) (slot : Fin 9) (power : BitVec 12) (s : State) : Out :=
  .next (s.lit ch fun s =>
    let i := laserIdx las slot
    let s := s.laserLow ch las slot power
    if !belowDbm power.toNat 100 then s
    else
      let s := s.setF ch (R.FAB_LASER_LOST i) 1
      (laserFeeds ch las).foldl (fun (s : State) g =>
        if 5 ≤ g && 4 ≤ slot.val && slot.val != 8 then s else s.slotFail ch g slot.val) s)

/-- LASER_RETURN: LOST clears at +10.0 dBm and LOW at the LOW threshold; once the slot has risen 0.5 dB above it the event is
re-armed. -/
def execLaserReturn (ch : Fin 8) (las : Fin 2) (slot : Fin 9) (power peak : BitVec 12) (s : State) : Out :=
  .next (s.lit ch fun s =>
    let i := laserIdx las slot
    let n := power.toNat
    let low := s.laserLevel ch las
    let s := s.setF ch (R.FAB_LASER_POWER i) n
    let s := if belowDbm n 100 then s else s.setF ch (R.FAB_LASER_LOST i) 0
    let s := if belowDbm n low then s else s.setF ch (R.FAB_LASER_LOW i) 0
    if belowDbm (max n peak.toNat) (low + 5) then s else s.modFab ch fun b => { b with low := b.low.filter (· != (las.val, slot.val)) })

/-! ## Rings (R364, R365) -/

/-- A link that uses a slot satisfies a test of STATE, or the memory link one of LINK. -/
def State.slotIs (s : State) (ch : ChIdx) (g w : Nat) (port : Nat → Bool) (mem : Nat → Bool) : Bool :=
  if g == 4 then mem (s.f ch R.MEM_T2_STAT_LINK)
  else if w == 8 then links.any fun p => (linkSlots p).1 == g && port (s.linkState ch p)
  else match slotLink g w with
    | some p => port (s.linkState ch p)
    | none => false

/-- A link that uses a slot is up. -/
def State.slotUp (s : State) (ch : ChIdx) (g w : Nat) : Bool := s.slotIs ch g w (· == 2) (· == 2)

/-- A ring of the slot runs its loop as AUTO whatever POLICY says: its link is up, or trains, which returns its rings to
AUTO. -/
def State.slotAuto (s : State) (ch : ChIdx) (g w : Nat) : Bool :=
  s.slotIs ch g w (fun st => st == 1 || st == 2) (fun st => st == 1 || st == 2)

/-- The heater code of a ring. -/
def heaterFld (lane : Nat) (rx : Bool) : Fld := if rx then R.FAB_LANE_STAT_RXHEAT lane else R.FAB_LANE_STAT_TXHEAT lane

/-- RING_LOOP: the loop corrects the heater, or, on a down link, holds it and under ASSIST posts the code it would set;
the ring site's temperature and heating rate are seen. `advise` marks the end of 100 ms, at which AUTO on a down link posts
the code it has set (Table 0.6, log entry 88). -/
def execRingLoop (ch : Fin 8) (lane : Fin 85) (rx : Bool) (code : BitVec 12) (temp : BitVec 8) (slew : BitVec 16) (advise : Bool)
    (s : State) : Out :=
  .next (s.lit ch fun s =>
    if !laneHere ch lane.val then s
    else
      let (g, w) := laneAt lane.val
      let s := s.setF ch (R.FAB_LANE_Q_TEMP lane) temp.toNat
      let s := s.setF ch R.FAB_RING_SLEW_SLEW (max slew.toNat (s.f ch R.FAB_RING_SLEW_SLEW))
      let pol := s.f ch R.FAB_RING_CTL_POLICY
      let arg := [lane.val + (if rx then 128 else 0), code.toNat]
      if s.slotAuto ch g w then s.setF ch (heaterFld lane rx) code.toNat
      else if 2 ≤ pol then
        let s := s.setF ch (heaterFld lane rx) code.toNat
        if advise then s.post (srcOf ch 0x040) .ringChange arg else s
      else if pol == 1 && advise then s.post (srcOf ch 0x040) .ringAdvice arg
      else s)

/-- RING_LOCK_LOST: the ring's slot fails. -/
def execRingLockLost (ch : Fin 8) (lane : Fin 85) (rx : Bool) (s : State) : Out :=
  .next (s.lit ch fun s =>
    if !laneHere ch lane.val then s
    else
      let (g, w) := laneAt lane.val
      let s := s.setF ch (if rx then R.FAB_LANE_STAT_RXLOCK lane else R.FAB_LANE_STAT_TXLOCK lane) 0
      let s := (s.satF ch R.FAB_RING_CTL_LOCKLOSS 1).post (srcOf ch 0x040) .ringLockLost [lane.val + (if rx then 128 else 0)]
      s.slotFail ch g w)

/-- FAB_RING_MAN: a heater code set by the host on a down link under MANUAL; any other write is discarded. A LANE that names
no ring of the channel is refused too (log entry 91). -/
def execFabRingMan (ch : Fin 8) (val : BitVec 32) (s : State) : Out :=
  .next (s.chanWr ch 0x8684 fun s =>
    let v := val.toNat
    let lane := bits v 6 0
    let (g, w) := laneAt lane
    let s := if bit v 31 then s.wake ch 6 else s
    if !laneHere ch lane || s.slotUp ch g w || s.f ch R.FAB_RING_CTL_POLICY != 0 then s.postReg (pfOf ch) .ringManRefused [lane]
    else
      let s := ((s.setF ch R.FAB_RING_MAN_LANE lane).setF ch R.FAB_RING_MAN_SIDE (bits v 7 7)).setF ch R.FAB_RING_MAN_HEATER (bits v 19 8)
      if bit v 31 then s.setF ch (heaterFld lane (bit v 7)) (bits v 19 8) else s)

/-! ## Codewords (R346 to R348, R350, R372) -/

/-- CONTROL_CODEWORD: count, timestamp, the lane's quality since the last one, and the announcement of a spare switch. -/
def execControlCodeword (ch : Fin 8) (lane : Fin 85) (count : BitVec 32) (stamp : BitVec 64) (corr : Nat) (ber : BitVec 8)
    (ann : Option (Fin 9)) (s : State) : Out :=
  let (g, w) := laneAt lane.val
  if !s.up ch then .next s else
  let s := s.setF ch (R.FAB_LANE_Q_BER_EXP lane) ber.toNat
  let s := match s.laneOwner ch g w with
    | none => s
    | some p =>
      let t := (s.link ch p).corr + corr
      (s.modLink ch p fun l => { l with corr := t % 1024, ctl := some (count.toNat, stamp.toNat) }).satF ch
        (R.FAB_PORT_ERR_CORR p) (t / 1024)
  .next (match ann with
    | none => s
    | some a =>
      if a.val == 8 || !s.spareFree ch g then s
      else ((s.setFailed ch g a.val 1).setActive ch g a.val 0).modFab ch fun b => { b with spare := b.spare ++ [(g, a.val)] })

/-- The receiver of a link asks for a resend, once for each gap (R350). -/
def State.askResend (s : State) (ch : ChIdx) (p : LinkIdx) : State :=
  if (s.link ch p).gap then s else (s.modLink ch p fun l => { l with gap := true, nak := true }).idle ch p

/-- UNCORRECTABLE_CODEWORD: its bytes are lost, it counts, and a NAK goes out. -/
def execUncorrectableCodeword (ch : Fin 8) (lane : Fin 85) (s : State) : Out :=
  let (g, w) := laneAt lane.val
  .next (match s.laneOwner ch g w with
    | none => s
    | some p => if s.linkUp ch p then (s.satF ch (R.FAB_PORT_ERR_UNCORR p) 1).askResend ch p else s)

/-! ## Cells (R349 to R353, R362) -/

/-- Credits, acknowledgement and NAK of a cell: a cell resent for the fourth time takes the link down (R350, R351). -/
def State.linkFields (s : State) (ch : ChIdx) (p : LinkIdx) (c : Cell) : State :=
  let left (x : Cell × Nat) : Bool := 2048 ≤ (c.lack.toNat + 4096 - x.1.lseq.toNat) % 4096
  let s := s.modLink ch p fun l =>
    { l with credits := modAt l.credits c.crvc.toNat (· + c.crcnt.toNat), replay := l.replay.filter left }
  let s := if (s.link ch p).due then s.closeGroup ch p else s
  if !c.nak then s
  else
    let s := (s.satF ch (R.FAB_PORT_ERR_REPLAY p) 1).modLink ch p fun l => { l with replay := l.replay.map fun x => (x.1, x.2 + 1) }
    if (s.link ch p).replay.any fun x => 4 ≤ x.2 then s.linkDown ch p else s

/-- A sequenced cell that has passed its checks: its link fields act, and it is forwarded or delivered. -/
def State.takeCell (s : State) (ch : ChIdx) (p : LinkIdx) (c : Cell) : State :=
  let s := s.linkFields ch p c
  if c.typ == 6 then s else s.forward ch ⟨p.val, c, none⟩ false

/-- A group whose MAC has passed is released; one whose MAC fails is discarded and takes the link down (R362). -/
def State.closeRx (s : State) (ch : ChIdx) (p : LinkIdx) (c : Cell) (macOk : Bool) : State :=
  if macOk then
    let cells := (s.link ch p).rxGroup ++ [c]
    let s := s.modLink ch p fun l => { l with rxGroup := [], rxAck := c.lseq.toNat }
    cells.foldl (fun (s : State) x => s.takeCell ch p x) s
  else ((s.satF ch (R.FAB_PORT_ERR_MACFAIL p) 1).post (srcLink ch p) .fabMacFail []).linkDown ch p

/-- A sequenced cell: accepted in LSEQ order only; after a gap it is discarded. -/
def State.sequenced (s : State) (ch : ChIdx) (p : LinkIdx) (c : Cell) (macOk : Bool) : State :=
  let l := s.link ch p
  let n := c.lseq.toNat
  if n != l.rxNext then (if (l.rxNext + 4095 - n) % 4096 < 2048 then s else s.askResend ch p)
  else
    let s := s.modLink ch p fun l => { l with rxNext := (n + 1) % 4096, gap := false }
    if s.linkEnc ch p then
      if c.typ == 6 then s.closeRx ch p c macOk else s.modLink ch p fun l => { l with rxGroup := l.rxGroup ++ [c] }
    else (s.modLink ch p fun l => { l with rxAck := n }).takeCell ch p c

/-- CELL_RECEIVE: a cell arrives on a link that is up, decrypted; `macOk` is the check of a MAC cell's group. -/
def execCellReceive (ch : Fin 8) (link : Fin 16) (c : Cell) (macOk : Bool) (s : State) : Out :=
  .next (if !s.linkUp ch link then s
    else match c.typ.toNat with
      | 0 | 2 => s.linkFields ch link c
      | 1 | 3 | 4 | 5 | 6 => s.sequenced ch link c macOk
      | _ => s.satF ch (R.FAB_VC_STAT_DROPS c.vc.toNat) 1)

/-- FAB_MSG_LOST: an incomplete message is abandoned; later messages of its stream are released, and the collective that
waits for it ends (R353, R382). -/
def execFabMsgLost (ch : Fin 8) (src : BitVec 24) (vc : BitVec 3) (msg : BitVec 16) (s : State) : Out :=
  let mine (m : FabMsg) : Bool := m.src == src.toNat && m.vc == vc.toNat && m.msg == msg.toNat && !m.gone && !m.whole
  .next (match (s.chan[ch]).fab.parts.find? mine with
    | none => s
    | some m =>
      let head := (m.cells.find? (·.1 == 0)).map (·.2)
      let drop (x : FabMsg) : FabMsg := if mine x then { x with gone := true, cells := [], last := none } else x
      let s := s.modFab ch fun b => Fab.release { b with parts := b.parts.map drop } m.src m.vc (b.parts.length + 1)
      let s := (s.satF ch (R.FAB_VC_STAT_LOST m.vc) 1).post (srcOf ch 0x070) .fabMsgLost [m.src, m.vc, m.msg]
      s.clLost ch m.src m.vc head)

/-- FAB_VC_STALL: an output's credits have stood at zero while cells wait (R356). -/
def execFabVcStall (ch : Fin 8) (link : Fin 16) (vc : BitVec 3) (s : State) : Out :=
  let l := s.link ch link
  .next (if s.linkUp ch link && l.credits.getD vc.toNat 0 == 0 && l.outq.any (fun q => q.cell.vc == vc) then
      s.post (srcLink ch link) .fabVcStall [vc.toNat]
    else s)

/-! ## Virtual-channel weights (R360, R361) -/

/-- The setting that governs weight tuning at the outputs of a channel: its partition's, or the package's without one. -/
def State.vcSetting (s : State) (ch : ChIdx) : Nat :=
  match s.partIdx ch, s.pkg.mould.force with
  | some p, some i => s.underR6 ch i.policy[p].vc
  | none, some i => i.vcPolicy
  | _, none => 0

/-- The weight that tuning gives a virtual channel at an output. -/
def State.tunedWeight (s : State) (ch : ChIdx) (p : LinkIdx) (vc : Nat) : Nat :=
  let l := s.link ch p
  let w (v : Nat) : Nat := max 1 (s.f ch (R.FAB_VC_CFG_WEIGHT v))
  let total := l.sent.sum
  if !l.empty.getD vc true && l.sent.getD vc 0 * (vcs.map w).sum < total * w vc then min (s.f ch (R.FAB_VC_CFG_WMAX vc)) (w vc + 1)
  else if !l.held.getD vc false then max (s.f ch (R.FAB_VC_CFG_WMIN vc)) (w vc - 1)
  else w vc

/-- VC_WEIGHT_TUNING: the tuning of one output; a new ms of counting begins at it. The ms of FAB_UNREACH is the channel's,
and begins with the tuning of output 0 (log entry 91). -/
def execVcWeightTuning (ch : Fin 8) (link : Fin 16) (s : State) : Out :=
  let new := vcs.map (s.tunedWeight ch link)
  let set := s.vcSetting ch
  let s :=
    let arg := [leNat ((new.take 4).map (BitVec.ofNat 8)), leNat ((new.drop 4).map (BitVec.ofNat 8))]
    if set == 2 then
      let t := vcs.foldl (fun (s : State) v => s.setF ch (R.FAB_VC_CFG_WEIGHT v) (new.getD v 1)) s
      if vcs.all fun v => t.f ch (R.FAB_VC_CFG_WEIGHT v) == s.f ch (R.FAB_VC_CFG_WEIGHT v) then s
      else t.post (srcLink ch link) .vcChange arg
    else if set == 1 then s.post (srcLink ch link) .vcAdvice arg
    else s
  let s := if link.val == 0 then s.modFab ch fun b => { b with unreach := [] } else s
  .next (s.modLink ch link fun l =>
    let has (v : Nat) : Bool := l.outq.any fun q => q.cell.vc.toNat == v
    { l with sent := List.replicate 8 0, empty := vcs.map (fun v => !has v), held := vcs.map has })

/-! ## Encryption (R362) -/

/-- MAC_GROUP_CLOSE: 100 ns after its first cell a group is closed by its MAC cell. -/
def execMacGroupClose (ch : Fin 8) (link : Fin 16) (s : State) : Out :=
  .next (if s.linkUp ch link && s.linkEnc ch link then s.closeGroup ch link else s)

/-- KEY_RENEWAL: fresh keys, switched at an agreed group number without interruption. -/
def execKeyRenewal (ch : Fin 8) (link : Fin 16) (s : State) : Out :=
  .next (if s.linkUp ch link && s.linkEnc ch link then s.modLink ch link fun l => { l with keys := l.keys + 1 } else s)

/-! ## Training (R366 to R369) -/

/-- A training step overran: the link is down until training repeats. -/
def State.trainFail (s : State) (ch : ChIdx) (p : LinkIdx) : State := s.setF ch (R.FAB_PORT_STAT_STATE p) 0

/-- User calibration: item, index and value (Table 12.10). -/
abbrev Cal := List (Nat × Nat × Nat)

/-- The user calibration of the image in force. -/
def State.calNow (s : State) (ch : ChIdx) : Cal := ((s.imgCh ch).map (·.cal)).getD []

/-- The heater offset of a ring, 2 × lane index + side; without one it is 0. -/
def Cal.heater (l : Cal) (ring : Nat) : Int :=
  match l.find? fun (x : Nat × Nat × Nat) => x.1 == 0 && x.2.1 == ring with
  | some x => sextNat 16 x.2.2
  | none => 0

/-- The lane index of an item: a ring has two and a lane three PAM4 levels; the laser thresholds have none. -/
def calLane (x : Nat × Nat × Nat) : Option Nat :=
  if x.1 == 5 then none else some (if x.1 == 0 then x.2.1 / 2 else if x.1 == 2 then x.2.1 / 3 else x.2.1)

/-- The lanes have the user values of `cal` in force. -/
def Fab.putCal (b : Fab) (lanes : List Nat) (cal : Cal) : Fab :=
  let of (x : Nat × Nat × Nat) : Bool := (calLane x).any lanes.contains
  { b with cal := b.cal.filter (fun x => !of x) ++ cal.filter of }

/-- A heater code is set, clipped with CAL_CLIP when the sum leaves the 12 bits of the heater (R366). -/
def State.setHeat (s : State) (ch : ChIdx) (lane : Nat) (rx : Bool) (sum : Int) : State :=
  let s := s.setF ch (heaterFld lane rx) (if sum < 0 then 0 else min 4095 sum.toNat)
  if sum < 0 || 4095 < sum then s.post (srcOf ch 0x040) .calClip [2 * lane + (if rx then 1 else 0)] else s

/-- A ring is in lock. -/
def State.lockRing (s : State) (ch : ChIdx) (lane : Nat) (rx : Bool) : State :=
  s.setF ch (if rx then R.FAB_LANE_STAT_RXLOCK lane else R.FAB_LANE_STAT_TXLOCK lane) 1

/-- Ring lock sweeps a ring from its start code and ends at its factory code with the user's offset (R364, R366, log entry
91). -/
def State.sweepRing (s : State) (ch : ChIdx) (cal : Cal) (lane : Nat) (rx : Bool) : State :=
  let i := 2 * lane + (if rx then 1 else 0)
  (s.setHeat ch lane rx (s.pkg.otp.heater.getD i 0 + cal.heater i)).lockRing ch lane rx

/-- A ring is locked again without a sweep: its code moves by the change of the user's offset alone. -/
def State.relockRing (s : State) (ch : ChIdx) (cal : Cal) (lane : Nat) (rx : Bool) : State :=
  let i := 2 * lane + (if rx then 1 else 0)
  let by_ := cal.heater i - Cal.heater (s.chan[ch]).fab.cal i
  let s := if by_ == 0 then s else s.setHeat ch lane rx (s.f ch (heaterFld lane rx) + by_)
  s.lockRing ch lane rx

/-- Ring lock at start-up: every ring of the channel, those of ports that no link uses among them (R364). -/
def State.ringLock (s : State) (ch : ChIdx) (cal : Cal) : State :=
  let ls := (List.range 85).filter (laneHere ch)
  let s := ls.foldl (fun (s : State) l => (s.sweepRing ch cal l false).sweepRing ch cal l true) s
  s.modFab ch fun b => b.putCal ls cal

/-- The rings of slots at a training: in lock, with the user values of `cal` in force. -/
def State.relock (s : State) (ch : ChIdx) (cal : Cal) (lanes : List Nat) : State :=
  let s := lanes.foldl (fun (s : State) l => (s.relockRing ch cal l false).relockRing ch cal l true) s
  s.modFab ch fun b => b.putCal lanes cal

/-- The fault history holds a slot failed at every training (R435). -/
def State.slotHeld (s : State) (ch : ChIdx) (g w : Nat) : Bool :=
  s.pkg.hist.recs.any fun h => h.unit == 3 && h.cls == clsRetired && h.key == keySlot ch (waveNo ch g) w

/-- Steps 1 to 3: the slots of the link are tested again, but for those held failed; the lowest failed one takes W8. The result is the slot that W8
replaces, none without one, or no result when the link fails. -/
def State.trainSlots (s : State) (ch : ChIdx) (p : LinkIdx) (bad : List (Fin 9)) : State × Option (Option Nat) :=
  let (g, ws) := linkSlots p
  let isBad (w : Nat) : Bool := (bad.any fun b => b.val == w) || s.slotHeld ch g w
  let spareUsed := s.f ch (R.FAB_LANE_STAT_ACTIVE (laneIdx g 8)) == 1
  let s := ws.foldl (fun (s : State) w => s.setFailed ch g w (if isBad w then 1 else 0)) s
  let s := if spareUsed then s else s.setFailed ch g 8 (if isBad 8 then 1 else 0)
  match ws.filter isBad with
  | [] => (s, some none)
  | [w] => (s, if s.spareFree ch g then some (some w) else none)
  | _ => (s, none)

/-- The memory link has run steps 1 to 3: its eight lanes stand on their slots, or one on W8 when its slot is bad; with more
bad slots a whole half runs at half rate, else the link has failed (R308, R338, R367, Table 12.12). -/
def State.t2Train (s : State) (ch : ChIdx) (cal : Cal) (measured : List (Fin 9)) : State :=
  let isBad (w : Nat) : Bool := (measured.any fun b => b.val == w) || s.slotHeld ch 4 w
  let bad := (List.range 8).filter isBad
  let moved := !bad.isEmpty && !isBad 8
  let s := (List.range 9).foldl (fun (s : State) w =>
    (s.setFailed ch 4 w (if isBad w then 1 else 0)).setActive ch 4 w
      (if w == 8 then (if moved then 1 else 0) else if isBad w then 0 else 1)) s
  let s := (s.relock ch cal ((List.range 9).map (laneIdx 4))).setF ch R.MEM_T2_STAT_LINK 2
  if bad.isEmpty || (bad.length == 1 && moved) then s else s.t2Half ch

/-- The memory link trains and its expander is enumerated: CAP_GIB when the channel has none, and IDE as the image says
(R308, R310). What waited for the tier goes on. -/
def State.t2Link (s : State) (ch : ChIdx) (t : Training) : State :=
  if s.f ch R.MEM_T2_STAT_LINK != 1 || !s.mayTrain ch || !t.ok then s
  else
    let cap := s.f ch R.MEM_T2_STAT_CAP_GIB
    let gib := if cap == 0 then min 512 t.gib else cap
    if gib == 0 then s.setF ch R.MEM_T2_STAT_LINK 0
    else
      let ide := (s.imgCh ch).any (·.ide)
      let s := (s.setF ch R.MEM_T2_STAT_CAP_GIB gib).setF ch R.MEM_T2_STAT_IDE (if ide then 1 else 0)
      ((s.t2Train ch (s.calNow ch) t.bad).inrResume ch).exResume ch

/-- Step 7: credits set, replay numbers zeroed, STATE UP, FAB_LINK_UP posted; cells held at their source go on. -/
def State.linkUpNow (s : State) (ch : ChIdx) (p : LinkIdx) (t : Training) (spare : Option Nat) : State :=
  let (g, ws) := linkSlots p
  let lanes := (ws.filter fun w => some w != spare) ++ (if spare.isSome then [8] else [])
  let s := lanes.foldl (fun (s : State) w => s.setActive ch g w 1) s
  let s := s.relock ch (s.calNow ch) ((ws ++ [8]).map (laneIdx g))
  let s := (s.setF ch (R.FAB_PORT_STAT_SPARE p) (if spare.isSome then 1 else 0)).setF ch (R.FAB_PORT_STAT_SPARE_LANE p)
    (spare.getD 0 % 4)
  let s := ((s.setF ch (R.FAB_PORT_STAT_ENC p) (if t.enc then 1 else 0)).setF ch (R.FAB_PORT_STAT_DELAY p) t.delay.toNat).setF ch
    (R.FAB_PORT_STAT_STATE p) 2
  let credits := vcs.map fun v => 8 * t.share.getD v 0
  let s := s.modLink ch p fun l =>
    { Link.new with credits := credits, moved := l.moved, corr := l.corr, ctl := l.ctl, stale := l.stale, peerWire := t.wire }
  (s.post (srcLink ch p) .fabLinkUp []).forwardHeld ch

/-- LINK_TRAINING: the steps of Table 12.11 on a port or sibling link that trains, or steps 1 to 3 on the memory link. -/
def execLinkTraining (ch : Fin 8) (link : Option (Fin 16)) (t : Training) (s : State) : Out :=
  match link with
  | none => .next (s.t2Link ch t)
  | some link => .next (if s.linkState ch link != 1 then s
    else if !t.ok then s.trainFail ch link
    else
      let (s, spare) := s.trainSlots ch link t.bad
      match spare, s.portCfg ch link with
      | some sp, some c =>
        let s := (s.setF ch (R.FAB_PORT_PEER_PEER link) t.peer.toNat).setF ch (R.FAB_PORT_PEER_PEER_PORT link) t.peerPort.val
        if c.peer != t.peer.toNat || c.peerPort != t.peerPort.val || c.enc != t.enc then
          (s.setF ch (R.FAB_PORT_STAT_STATE link) 3).post (srcLink ch link) .fabMiswire [t.peer.toNat, t.peerPort.val]
        else s.linkUpNow ch link t sp
      | _, _ => s.trainFail ch link)

/-- LINK_TRAINING_RETRY: training repeats after 100 ms, or after 1 s in HELD; an unused link is never trained. -/
def execLinkTrainingRetry (ch : Fin 8) (link : Fin 16) (s : State) : Out :=
  let st := s.linkState ch link
  .next (if (st == 0 || st == 3) && !(s.link ch link).dark && s.linkUsed ch link && s.mayTrain ch then
      s.setF ch (R.FAB_PORT_STAT_STATE link) 1
    else s)

/-- LINK_DELAY_MEASURE: the delay of a link that is up, measured again (R369). -/
def execLinkDelayMeasure (ch : Fin 8) (link : Fin 16) (delay : BitVec 16) (s : State) : Out :=
  .next (if s.linkUp ch link then s.setF ch (R.FAB_PORT_STAT_DELAY link) delay.toNat else s)

/-! ## Links that go down (R40, R371) -/

/-- LOSS_OF_LIGHT: the link is down. -/
def execLossOfLight (ch : Fin 8) (link : Fin 16) (s : State) : Out := .next (s.linkDown ch link)

/-- FAB_LINK_DOWN: the link goes down for another reason of R371, such as no good control codeword for 8 µs. -/
def execFabLinkDown (ch : Fin 8) (link : Fin 16) (s : State) : Out := .next (s.linkDown ch link)

/-- LINK_DARK_END: training begins. -/
def execLinkDarkEnd (ch : Fin 8) (link : Fin 16) (s : State) : Out :=
  .next (if !(s.link ch link).dark then s
    else
      let s := s.modLink ch link fun l => { l with dark := false }
      if s.linkState ch link == 0 && s.linkUsed ch link && s.mayTrain ch then s.setF ch (R.FAB_PORT_STAT_STATE link) 1 else s)

/-! ## The tick over the fabric (R77, R80, R81, R369) -/

/-- At a boundary, the tick master sends a TICK cell on the children of its channels. -/
def State.tickMaster (s : State) : State :=
  if s.pkg.fld R.HUB_TICK_CFG_MASTER == 0 then s
  else s.eachC fun s c => if s.up c then s.tickKids c s.pkg.tick.num.toNat 0 else s

/-- TICK_MESSAGE: a TICK cell on the parent link, or on the alternate while the parent is down. It goes on to the channel's
children with the link delay and the channel's residence time added. Within 100 ns of the master, the package that was
acquiring takes its number at the next boundary. -/
def execTickMessage (ch : Fin 8) (link : Fin 16) (cell : TickCell) (err : Int) (s : State) : Out :=
  .next (match s.imgCh ch with
    | none => s
    | some i =>
      let serves := s.linkUp ch link &&
        (link.val == i.tickParent || (link.val == i.tickAlt && !s.linkUp ch (linkOf i.tickParent)))
      if !serves then s
      else
        let sum := cell.delay.toNat + s.f ch (R.FAB_PORT_STAT_DELAY link) + cell.resid.toNat
        let s := s.tickKids ch cell.num.toNat (sum % 2 ^ 32)
        if s.pkg.fld R.HUB_TICK_STAT_SRC_NOW != 2 then s
        else
        let (s, ok) := s.tickAccept err
        if ok && s.pkg.tick.acquiring && err.natAbs ≤ 100 then
          s.modP fun p => { p with tick := { p.tick with adopt := some (cell.num + 1) } }
        else s)

end Sys2Proof.Machine
end

