-- ==== Sys2Proof/Machine/Gather.lean ====
section
/-! DEFINITION. The gather path: records, the tile codec, packing, live rows, lanes and the host split (R402 to R423). -/

namespace Sys2Proof.Machine

open Sys2Proof

/-! ## Operands (R405, Tables 14.3 and 14.4) -/

/-- The gather engine. -/
def gtEng : Fin 11 := 10

/-- The operands break Table 14.3, or the sizes R405 or R411. -/
def Iss.gatherBad (i : Iss) : Bool :=
  let ints (w : Nat) (t : Tens) : Bool := t.fmt == 0xD && t.dim 0 == w
  !i.opdOk 0 true (ints 4) || !i.opdOk 1 true (ints 16) || !i.opdOk 5 false (ints 4) || 16 < i.sz 1 ||
    (wPar i.w 1 0 == 1 && i.sz 2 != 1) ||
    match i.t 3, i.t 4 with
    | some d, some m =>
      !([8, 9, 0xA, 0xD].contains d.fmt) || m.fmt != 0xD || !m.seg || m.dim 0 < d.dim 1 || (m.dim 1 : Int) < i.sz 2 ||
        !i.opdOk 2 false (fun h => h.fmt == d.fmt)
    | _, _ => true

/-- TICK of a LIVE target, from PARAM or from a general register (Table 14.3). -/
def Iss.liveTick (i : Iss) : Nat :=
  if wPar i.w 71 71 == 1 then ((i.s.ctx i.ch i.jc).rg (Fin.ofNat 32 (wPar i.w 70 66))).toNat % 2 ^ 40 else wPar i.w 41 2

/-- The form of GT.DECODE. -/
def formGather : OpForm :=
  { plainForm true (fun i => 2 ≤ wPar i.w 1 0)
      (fun w => [govOf w [(0, 1), (5, 1)], govOf w [(1, 1), (2, 1)], govOf w [(3, 2), (4, 1)], none]) [1, 2, 3, 4, 5]
      (fun i => failIf i.gatherBad (i.fault 0xA0)) with
    atIssue := fun i => .ok (i.s, [i.liveTick]) }

/-- BATCH: GT.DECODE with MODE 0 at issue. -/
def execBatch (ch : Fin 8) (jc : Fin 16) (w : BitVec 512) (s : State) : Out :=
  .next (s.issueWide ch jc (asMode 1 0 0 (asOp 0xA 1 w)) formGather)
/-- LIVE: GT.DECODE with MODE 1 at issue. -/
def execLive (ch : Fin 8) (jc : Fin 16) (w : BitVec 512) (s : State) : Out :=
  .next (s.issueWide ch jc (asMode 1 0 1 (asOp 0xA 1 w)) formGather)

/-- The entry runs in LIVE mode. -/
def Entry.isLive (e : Entry) : Bool := wPar e.word 1 0 == 1

/-- A row of the stream table (Table 14.4). -/
structure GtStream where
  n : Nat
  sensor : Nat
  kind : Nat
  etype : Nat
  rank : Nat
  interp : Bool
  prev : Bool
  ext : List Nat
  pos : Nat
  skew : Nat
  avg : Nat
  have_ : Bool
  replaced : Nat

/-- A row of the record table (Table 14.3). -/
structure GtRow where
  n : Nat
  addr : Nat
  stream : Nat
  join : Bool
  avail : Nat

/-- Words of a row of an INT32 operand. -/
def State.rowWords (s : State) (ch : ChIdx) (t : Tens) (row n : Nat) : Try (List Nat) :=
  tryMap (fun i => s.word ch t (i, row, 0, 0)) (List.range n)

/-- Stream `n` of the table, with its raw words. -/
def State.gtStream (s : State) (ch : ChIdx) (e : Entry) (n : Nat) : Try (GtStream × List Nat) := do
  let w ← s.rowWords ch (e.t 1) n 16
  let g (i : Nat) : Nat := w.getD i 0
  .ok (⟨n, bits (g 0) 15 0, bits (g 0) 23 16, bits (g 0) 27 24, bits (g 0) 29 28 + 1, bit (g 0) 30, bit (g 0) 31,
    [g 1, g 2, g 3, g 4], g 5, g 6, g 12, bit (g 13) 0, g 14⟩, w)

/-- Record row `n` of the table. -/
def State.gtRow (s : State) (ch : ChIdx) (e : Entry) (n : Nat) : Try GtRow := do
  let w ← s.rowWords ch (e.t 0) n 4
  let w1 := w.getD 1 0
  .ok ⟨n, w.getD 0 0 + bits w1 23 0 * 2 ^ 32, bits w1 27 24, bit w1 28, w.getD 2 0⟩

/-- Every stream of an entry. -/
def State.gtStreams (s : State) (ch : ChIdx) (e : Entry) : Try (List GtStream) :=
  tryMap (fun n => (s.gtStream ch e n).map (·.1)) (List.range (e.sz 1))

/-- Every record row of an entry. -/
def State.gtRows (s : State) (ch : ChIdx) (e : Entry) : Try (List GtRow) :=
  tryMap (fun n => s.gtRow ch e n) (List.range (e.sz 0))

/-- Width of an element type, for a legal type (Table 14.2). -/
def etWidth (et : Nat) : Nat := if et < 2 then 8 else if et < 6 then 16 else 32

/-- D formats that an element type converts to (Table 14.2). -/
def etTo (et : Nat) : List Nat :=
  if et < 2 then [8, 9, 0xA, 0xD] else if et < 4 then [0xA, 0xD] else if et == 4 then [8, 0xA] else if et == 5 then [9, 0xA]
  else if et == 6 then [0xA] else []

/-- Extents are positive below the rank and 0 above it. -/
def extOk (rank : Nat) (ext : List Nat) : Bool :=
  (List.range 4).all fun d => (ext.getD d 0 != 0) == decide (d < rank)

/-- The product of the extents below the rank. -/
def extProd (rank : Nat) (ext : List Nat) : Nat := (ext.take rank).foldl (· * ·) 1

/-- A stream row breaks R406. -/
def streamBad (e : Entry) (x : GtStream) (w : List Nat) : Bool :=
  let d := e.t 3
  let short := match (wOpd e.word 2).map (tensOf e.td) with
    | none => true
    | some h => h.dim 0 < x.pos * d.dim 0
  x.kind == 0 || 6 < x.kind || 6 < x.etype || !extOk x.rank x.ext || x.pos == 0 || d.dim 1 < x.pos ||
    [7, 8, 9, 10, 11, 15].any (fun i => w.getD i 0 != 0) || extProd x.rank x.ext != x.pos * d.dim 0 ||
    !((etTo x.etype).contains d.fmt) || (x.interp && (x.etype < 4 || d.fmt == 0xD)) || (x.prev && short)

/-- A record row breaks R406 or R411. -/
def rowBad (e : Entry) (x : GtRow) : Bool := (e.sz 1) ≤ x.stream || (x.join && (x.n == 0 || e.isLive))

/-- The start of an entry: the checks of R406 and R411, and the settings that are read once (R414, R422). `aux` becomes
TICK, MULT, CAP, PERIOD and then AVG of every stream. -/
def State.gtStart (s : State) (ch : ChIdx) (e : Entry) : Try (State × Entry) := do
  let ss ← tryMap (fun n => do
    let (x, w) ← s.gtStream ch e n
    if streamBad e x w then .error (xerr 0xA1 n) else .ok x) (List.range (e.sz 1))
  let _ ← tryMap (fun n => do
    let x ← s.gtRow ch e n
    if rowBad e x then .error (xerr 0xA1 n) else .ok x) (List.range (e.sz 0))
  .ok (s, { e with aux := [e.aux.headD 0, max 1 (s.f ch R.CH_GT_BUDGET_MULT), max 1 (s.f ch R.CH_GT_BUDGET_CAP),
    s.pkg.fld R.HUB_TICK_CFG_PERIOD] ++ ss.map (·.avg) })

/-- The decode budget of a stream (R414). -/
def Entry.gtBudget (e : Entry) (stream : Nat) : Nat :=
  let cap := e.aux.getD 2 1 * 2000
  let b := min (e.aux.getD 1 1 * e.aux.getD (4 + stream) 0) cap
  if b == 0 then cap else b

/-! ## The record header (R402, R407) -/

/-- The header of a record (Table 14.1). -/
structure GtHdr where
  len : Nat
  kind : Nat
  codec : Nat
  etype : Nat
  rank : Nat
  sensor : Nat
  tick : Nat
  off : Nat
  ext : List Nat
  pay : Nat
  /-- MAGIC, VERSION, HDRLEN and the reserved bytes stand as Table 14.1 has them. -/
  ok : Bool

/-- The header in 64 bytes. -/
def gtHdr (b : List Byte) : GtHdr :=
  let g (off n : Nat) : Nat := leNat (slice b off n)
  let ts := g 20 8
  ⟨g 8 4, g 12 1, g 13 1, g 14 1, g 15 1, g 16 2, bits ts 63 24, bits ts 23 0, [g 32 4, g 36 4, g 40 4, g 44 4], g 48 4,
    g 0 4 == 0x31524647 && g 4 2 == 1 && g 6 2 == 64 && g 18 2 == 0 && g 28 4 == 0 && g 52 12 == 0⟩

/-- CORRUPT_RECORD. -/
def gtCorrupt : Nat := 1
/-- SLOW_RECORD. -/
def gtSlow : Nat := 2
/-- CLAIM_EXCEEDS_DATA. -/
def gtClaim : Nat := 3

/-- Four times the bits that the claimed elements need at least; saturating, as R407 has it. -/
def claimQuarters (h : GtHdr) : Nat :=
  let e := min (extProd h.rank h.ext) (2 ^ 128 - 1)
  min ((if h.codec == 0 then 4 * etWidth h.etype else 1) * e) (2 ^ 128 - 1)

/-- Checks 2 to 7 of Table 14.5: 0, or the outcome of the first failure. -/
def gtChecks (x : GtStream) (avail : Nat) (h : GtHdr) : Nat :=
  if !h.ok then gtCorrupt
  else if h.len != 68 + h.pay || avail < h.len then gtCorrupt
  else if h.kind == 0 || 6 < h.kind || 1 < h.codec || 6 < h.etype || h.rank == 0 || 4 < h.rank || !extOk h.rank h.ext then gtCorrupt
  else if 32 * h.pay < claimQuarters h then gtClaim
  else if h.sensor != x.sensor || h.kind != x.kind || h.etype != x.etype || h.rank != x.rank || h.ext != x.ext then gtCorrupt
  else if h.codec == 0 && 8 * h.pay != extProd h.rank h.ext * etWidth h.etype then gtCorrupt
  else 0

/-- The header of a record and the outcome of checks 1 to 7. -/
def State.gtHead (s : State) (ch : ChIdx) (x : GtStream) (r : GtRow) : Try (Nat × GtHdr) :=
  if r.avail < 68 then .ok (gtCorrupt, gtHdr [])
  else do
    let h := gtHdr (← s.spRead ch 0 r.addr 64)
    .ok (gtChecks x r.avail h, h)

/-! ## QTC (R403, R404) -/

/-- `n` bits, the most significant first. -/
def takeMsb : Nat → Nat → List Bool → Option (Nat × List Bool)
  | 0, v, bs => some (v, bs)
  | _, _, [] => none
  | n + 1, v, b :: bs => takeMsb n (2 * v + (if b then 1 else 0)) bs

/-- 1 bits before the next 0, at most `fuel`; the 0 is consumed. -/
def unary : Nat → Nat → List Bool → Option (Nat × List Bool)
  | 0, q, bs => some (q, bs)
  | _, _, [] => none
  | fuel + 1, q, b :: bs => if b then unary fuel (q + 1) bs else some (q, bs)

/-- A residual of R404, whether it was escaped, and the rest of the stream. -/
def residual (w k : Nat) (bs : List Bool) : Option (Nat × Bool × List Bool) := do
  let (q, bs) ← unary 24 0 bs
  if q == 24 then
    let (r, bs) ← takeMsb w 0 bs
    some (r, true, bs)
  else
    let (low, bs) ← takeMsb k 0 bs
    let z := q * 2 ^ k + low
    some (if z % 2 == 0 then z / 2 % 2 ^ w else wrapInt w (-(((z + 1) / 2 : Nat) : Int)), false, bs)

/-- The prediction of R404. -/
def predict (w pred a b c : Nat) : Nat :=
  if pred == 0 then 0
  else if pred == 1 then a
  else if pred == 2 then b
  else if max a b ≤ c then min a b
  else if c ≤ min a b then max a b
  else wrapInt w ((a : Int) + b - c)

/-- The elements of a coded tile of `n0` columns, from those done so far: the elements, the escapes and the rest. -/
def tileElems (w k pred n0 : Nat) : Nat → List Nat → Nat → List Bool → Option (List Nat × Nat × List Bool)
  | 0, acc, esc, bs => some (acc, esc, bs)
  | n + 1, acc, esc, bs =>
    match residual w k bs with
    | none => none
    | some (r, x, bs) =>
      let j := acc.length
      let i0 := j % n0
      let a := if i0 == 0 then 0 else acc.getD (j - 1) 0
      let b := if j < n0 then 0 else acc.getD (j - n0) 0
      let c := if i0 == 0 || j < n0 then 0 else acc.getD (j - n0 - 1) 0
      tileElems w k pred n0 n (acc ++ [(predict w pred a b c + r) % 2 ^ w]) (if x then esc + 1 else esc) bs

/-- One tile of `n0` by `n1` elements: its elements, its decode cycles and the payload after it. -/
def qtcTile (w n0 n1 : Nat) (pay : List Byte) : Option (List Nat × Nat × List Byte) :=
  let h := leNat (pay.take 4)
  let size := bits h 15 0
  let k := bits h 22 18
  let n := n0 * n1
  if pay.length < 4 || bits h 31 24 != 0 || w ≤ k || size < 4 || size % 4 != 0 || pay.length < size then none
  else
    let body := slice pay 4 (size - 4)
    if bit h 23 then
      if size == 8 && leNat body < 2 ^ w then some (List.replicate n (leNat body), 2 + ceilDiv n 32, pay.drop size) else none
    else match tileElems w k (bits h 17 16) n0 n [] 0 (bitsOf body) with
      | none => none
      | some (xs, esc, rest) =>
        if rest.length < 32 && rest.all (fun b => !b) then some (xs, 2 + ceilDiv n 4 + esc, pay.drop size) else none

/-- The sizes of the tiles of a sample, in order (R403). -/
def tileSizes (d0 d1 planes : Nat) : List (Nat × Nat) :=
  (List.range planes).flatMap fun _ => (List.range (ceilDiv d1 16)).flatMap fun j =>
    (List.range (ceilDiv d0 16)).map fun i => (min 16 (d0 - 16 * i), min 16 (d1 - 16 * j))

/-- The tiles of a payload: the tiles and the cycles, or the cycles spent before the bad tile. -/
def qtcTiles (w : Nat) : List (Nat × Nat) → Nat → List Byte → Except Nat (List (List Nat) × Nat)
  | [], c, pay => if pay.isEmpty then .ok ([], c) else .error c
  | (n0, n1) :: rest, c, pay =>
    match qtcTile w n0 n1 pay with
    | none => .error c
    | some (xs, k, pay) =>
      match qtcTiles w rest (c + k) pay with
      | .error c => .error c
      | .ok (ts, c) => .ok (xs :: ts, c)

/-- Element `i` of a sample, DIM0 innermost, from its tiles. -/
def tileAt (d0 d1 : Nat) (ts : List (List Nat)) (i : Nat) : Nat :=
  let i0 := i % d0
  let i1 := i / d0 % d1
  let t0 := ceilDiv d0 16
  let tile := i / (d0 * d1) * (t0 * ceilDiv d1 16) + i1 / 16 * t0 + i0 / 16
  (ts.getD tile []).getD (i1 % 16 * min 16 (d0 - i0 / 16 * 16) + i0 % 16) 0

/-- An extent of a shape, 1 above the rank. -/
def extAt (ext : List Nat) (d : Nat) : Nat := max 1 (ext.getD d 0)

/-- What the decode of a record comes to: its outcome, its decode cycles and its element codes. -/
structure Decoded where
  out : Nat
  cyc : Nat
  len : Nat
  xs : List Nat

/-- The payload of a record decoded: checks 8 to 10 (R407, R414). -/
def gtDecode (h : GtHdr) (budget : Nat) (body : List Byte) : Decoded :=
  let pay := slice body 64 h.pay
  let crcOk := leNat (slice body (64 + h.pay) 4) == (crc32c (body.take (64 + h.pay))).toNat
  let w := etWidth h.etype
  if h.codec == 0 then
    let c := 24 + ceilDiv h.pay 64
    if crcOk then ⟨0, c, h.len, (List.range (extProd h.rank h.ext)).map fun i => leNat (slice pay (i * (w / 8)) (w / 8))⟩
    else ⟨gtCorrupt, c, h.len, []⟩
  else
    let d0 := extAt h.ext 0
    let d1 := extAt h.ext 1
    match qtcTiles w (tileSizes d0 d1 (extAt h.ext 2 * extAt h.ext 3)) 24 pay with
    | .error c => if budget < c then ⟨gtSlow, budget, h.len, []⟩ else ⟨gtCorrupt, c, h.len, []⟩
    | .ok (ts, c) =>
      if budget < c then ⟨gtSlow, budget, h.len, []⟩
      else if crcOk then ⟨0, c, h.len, (List.range (extProd h.rank h.ext)).map (tileAt d0 d1 ts)⟩
      else ⟨gtCorrupt, c, h.len, []⟩

/-- A record checked and decoded. -/
def State.gtEval (s : State) (ch : ChIdx) (e : Entry) (x : GtStream) (r : GtRow) : Try Decoded := do
  let (out, h) ← s.gtHead ch x r
  if out != 0 then .ok ⟨out, 0, 0, []⟩
  else .ok (gtDecode h (e.gtBudget r.stream) (← s.spRead ch 0 r.addr h.len))

/-! ## Elements of D (Table 14.2) -/

/-- The value of an element. -/
def etVal (et code : Nat) : Num :=
  if et == 4 then fBF16.val code else if et == 5 then fFP16.val code else if et == 6 then fFP32.val code
  else .ofRat (if et == 0 || et == 2 then ((code : Int) : Rat) else (sextNat (etWidth et) code : Rat))

/-- An element converted to D: a code of D's own format stays as it is, but for a NaN, which is written canonical (R152, log
entry 43). -/
def etConv (d et code : Nat) : Nat × Cnt :=
  let same := (et == 4 && d == 8) || (et == 5 && d == 9) || (et == 6 && d == 0xA)
  if same && !(etVal et code matches .nan) then (code, ⟨0, 0⟩) else writeElem d rne (etVal et code)

/-! ## Placement (R409) -/

/-- Where a record goes: its row, first position and segment, or outcome 5 NOROOM or 6 TOOLONG. -/
structure Place where
  out : Nat
  row : Nat
  pos : Nat
  seg : Nat

/-- A record without a place. -/
def Place.none (out : Nat) : Place := ⟨out, 0, 0, 0⟩

/-- The sizes of the segments: a record row with JOIN 0 and the rows with JOIN 1 after it. -/
def gtSegments : List (Bool × Nat) → List (List Nat)
  | [] => []
  | (j, n) :: rest =>
    match rest, gtSegments rest with
    | (true, _) :: _, g :: gs => (n :: g) :: gs
    | _, gs => let _ := j; [n] :: gs

/-- Records of one segment in turn. -/
def placeSeg (row seg : Nat) : Nat → List Nat → List Place
  | _, [] => []
  | pos, n :: rest => ⟨0, row, pos, seg⟩ :: placeSeg row seg (pos + n) rest

/-- Every segment in table order. -/
def placeAll (p rows : Nat) : Nat → Nat → Nat → List (List Nat) → List Place
  | _, _, _, [] => []
  | row, pos, seg, g :: gs =>
    if p < g.sum then g.map (fun _ => Place.none 6) ++ placeAll p rows row pos seg gs
    else
      let next := decide (p < pos + g.sum)
      let row := if next then row + 1 else row
      let pos := if next then 0 else pos
      let seg := if next then 0 else seg
      if rows ≤ row then (g :: gs).flatMap fun x => x.map fun _ => Place.none 5
      else placeSeg row (seg + 1) pos g ++ placeAll p rows row (pos + g.sum) (seg + 1) gs

/-- The places of the records of a BATCH entry. -/
def batchPlaces (e : Entry) (ss : List GtStream) (rs : List GtRow) : List Place :=
  let size (r : GtRow) : Nat := ((ss[r.stream]?).map (·.pos)).getD 0
  placeAll ((e.t 3).dim 1) (e.sz 2) 0 0 0 (gtSegments (rs.map fun r => (r.join, size r)))

/-- The segments of a LIVE entry, one per stream (R411). -/
def livePlaces (e : Entry) (ss : List GtStream) : List Place :=
  placeAll ((e.t 3).dim 1) 1 0 0 0 (ss.map fun x => [x.pos])

/-! ## What an entry keeps (R413, R415) -/

/-- Key of the lane cycles of a record. -/
def gtBusyKey : Nat := 2 ^ 24
/-- Key of the records replaced of a stream. -/
def gtReplKey : Nat := 2 ^ 25

/-- A record has finished. -/
def Entry.gtSeen (e : Entry) (i : Nat) : Bool := e.part.any (·.1 == i)

/-- The outcome of a finished record. -/
def Entry.gtOut (e : Entry) (i : Nat) : Nat := e.note i % 16

/-- A record ended OK. -/
def Entry.gtOk (e : Entry) (i : Nat) : Bool := e.gtSeen i && e.gtOut i == 0

/-- A record finishes with an outcome; its decode cycles and its lane cycles are kept. -/
def Entry.gtNote (e : Entry) (i out cyc busy : Nat) : Entry := (e.setNote i (out + 16 * cyc)).setNote (gtBusyKey + i) busy

/-- The outcome row of a record (Table 14.7). -/
def State.gtOutcome (s : State) (ch : ChIdx) (e : Entry) (i out : Nat) (p : Place) : Try State :=
  if (wOpd e.word 5).isNone then .ok s
  else s.putCodes ch (e.t 5) (0, i, 0, 0)
    (if 5 ≤ out && out ≤ 7 then out :: List.replicate 3 (2 ^ 32 - 1) else [out, p.row, p.pos, p.seg])

/-- CH_GT_STAT counts an outcome of a check. -/
def State.gtCount (s : State) (ch : ChIdx) (out : Nat) : State :=
  if out == gtCorrupt then s.satF ch R.CH_GT_STAT_CORRUPT 1
  else if out == gtSlow then s.satF ch R.CH_GT_STAT_SLOW 1
  else if out == gtClaim then s.satF ch R.CH_GT_STAT_CLAIM 1
  else if out == 4 then s.satF ch R.CH_GT_STAT_STALE 1
  else s

/-- GT_REPLACED: the outcome, the stream and the record index (R408). -/
def State.gtReplaced (s : State) (ch : ChIdx) (out stream i : Nat) : State :=
  s.post (srcOf ch 0x01A) .gtReplaced [out, stream, i]

/-- A replacement on record: CH_GT_STAT, REPLACED of the stream, GT_REPLACED. -/
def State.gtReplace (s : State) (ch : ChIdx) (e : Entry) (out stream i : Nat) : State × Entry :=
  ((s.gtCount ch out).gtReplaced ch out stream i, e.setNote (gtReplKey + stream) (e.note (gtReplKey + stream) + 1))

/-! ## Samples in D -/

/-- The codes of a sample go to D at its place, and its positions are marked (R409, R410). -/
def State.gtPut (s : State) (ch : ChIdx) (e : Entry) (p : Place) (pos : Nat) (xs : List Nat) : Try State := do
  let f := (e.t 3).dim 0
  let s ← tryFold (fun (s : State) q => s.putCodes ch (e.t 3) (0, p.pos + q, p.row, 0) (slice xs (q * f) f)) s (List.range pos)
  s.putCodes ch (e.t 4) (p.pos, p.row, 0, 0) (List.replicate pos p.seg)

/-- The codes of a sample in D. -/
def State.gtGet (s : State) (ch : ChIdx) (e : Entry) (p : Place) (pos : Nat) : Try (List Nat) := do
  let f := (e.t 3).dim 0
  let l ← tryMap (fun q => tryMap (fun j => s.code ch (e.t 3) (j, p.pos + q, p.row, 0)) (List.range f)) (List.range pos)
  .ok l.flatten

/-- The sample of a stream's hold-store row, or zeros (R408). -/
def State.gtHeld (s : State) (ch : ChIdx) (e : Entry) (x : GtStream) : Try (List Nat) := do
  let n := x.pos * (e.t 3).dim 0
  let (now, _) ← s.gtStream ch e x.n
  if now.have_ then tryMap (fun j => s.code ch (e.t 2) (j, x.n, 0, 0)) (List.range n) else .ok (List.replicate n 0)

/-- The records of a stream before record `i`, with their places. -/
def earlier (rs : List GtRow) (ps : List Place) (stream i : Nat) : List (GtRow × Place) :=
  (rs.zip ps).filter fun x => x.1.stream == stream && x.1.n < i

/-- The substitute of a record of a BATCH entry (R408). -/
def State.gtSubst (s : State) (ch : ChIdx) (e : Entry) (x : GtStream) (before : List (GtRow × Place)) : Try (List Nat) :=
  if !x.prev then .ok (List.replicate (x.pos * (e.t 3).dim 0) 0)
  else match (before.filter fun y => e.gtOk y.1.n).getLast? with
    | some y => s.gtGet ch e y.2 x.pos
    | none => s.gtHeld ch e x

/-- Lane cycles of a record (R417). -/
def Entry.gtBusy (e : Entry) (x : GtStream) (d : Decoded) : Nat :=
  max d.cyc (ceilDiv d.len 64) + ceilDiv ((e.t 3).bytesOf (x.pos * (e.t 3).dim 0)) 64

/-- The tables of an entry. -/
structure GtTab where
  ss : List GtStream
  rs : List GtRow
  ps : List Place

/-- The tables of an entry as memory holds them. -/
def State.gtTab (s : State) (ch : ChIdx) (e : Entry) : Try GtTab := do
  let ss ← s.gtStreams ch e
  let rs ← s.gtRows ch e
  .ok ⟨ss, rs, if e.isLive then livePlaces e ss else batchPlaces e ss rs⟩

/-- A record of a BATCH entry finishes: its sample or its substitute stands in D (R407, R408, R423). -/
def State.gtBatchOne (s : State) (ch : ChIdx) (e : Entry) (g : GtTab) (i : Nat) : Try (State × Entry) :=
  match g.rs[i]?, g.ps[i]? with
  | some r, some p =>
    match g.ss[r.stream]? with
    | none => .ok (s, e)
    | some x =>
      if p.out != 0 then do
        let s ← s.gtOutcome ch e i p.out p
        .ok (s, e.gtNote i p.out 0 0)
      else do
        let d ← s.gtEval ch e x r
        let e' := e.gtNote i d.out d.cyc (e.gtBusy x d)
        if d.out == 0 then
          let (cs, n) := gather (d.xs.map (etConv (e.t 3).fmt x.etype))
          let s ← s.gtPut ch e p x.pos cs
          let s ← s.gtOutcome ch e i 0 p
          .ok ((s.countFmt ch n).incF ch R.CH_GT_DONE_DONE 1, e')
        else do
          let sub ← s.gtSubst ch e x (earlier g.rs g.ps r.stream i)
          let s ← s.gtPut ch e p x.pos sub
          let s ← s.gtOutcome ch e i d.out p
          .ok (s.gtReplace ch e' d.out r.stream i)
  | _, _ => .ok (s, e)

/-! ## Live rows (R411, R412) -/

/-- The time from one stamp (tick, offset) to another, in units of 10 ns. -/
def stampDelta (period : Nat) (a b : Nat × Nat) : Int :=
  sextNat 40 ((b.1 + 2 ^ 40 - a.1) % 2 ^ 40) * period + ((b.2 : Int) - a.2)

/-- A record that passed checks 1 to 7, with its stamp. -/
structure Cand where
  n : Nat
  at_ : Nat × Nat

/-- The best candidate of a list under an order of preference; `better x y` says that `x` replaces `y`. -/
def bestOf (better : Cand → Cand → Bool) : List Cand → Option Cand
  | [] => none
  | c :: cs => match bestOf better cs with
    | none => some c
    | some d => if better c d then some c else some d

/-- What a stream's segment is made of (Table 14.6). -/
inductive Choice where
  | stale (i : Option Nat)
  | one (i : Nat)
  | two (i j : Nat) (w : Num)

/-- The choice of R412. -/
def liveChoice (period skew : Nat) (interp : Bool) (t : Nat × Nat) (cs : List Cand) : Choice :=
  let toT (c : Cand) : Int := stampDelta period c.at_ t
  let near (d : Int) : Bool := skew == 0 || d ≤ skew
  let a := bestOf (fun x y => toT x < toT y) (cs.filter fun c => 0 ≤ toT c)
  let b := bestOf (fun x y => toT y ≤ toT x) (cs.filter fun c => toT c < 0)
  match a with
  | none => .stale (cs.head?.map (·.n))
  | some a =>
    if !near (toT a) then .stale (some a.n)
    else match (if interp then b else none) with
      | none => .one a.n
      | some b =>
        if near (-(toT b)) then
          let f (d : Int) : Num := rne32 (.ofRat (d : Rat))
          .two a.n b.n (div32 (f (toT a)) (f (stampDelta period a.at_ b.at_)))
        else .one a.n

/-- The records of a choice. -/
def Choice.recs : Choice → List Nat
  | .stale _ => []
  | .one i => [i]
  | .two i j _ => [i, j]

/-- Checks 1 to 7 of every record of a LIVE entry: outcome and header. -/
def State.gtHeads (s : State) (ch : ChIdx) (g : GtTab) : Try (List (Nat × GtHdr)) :=
  tryMap (fun r => match g.ss[r.stream]? with
    | some x => s.gtHead ch x r
    | none => .ok (gtCorrupt, gtHdr [])) g.rs

/-- The choice of every stream, in order. -/
def liveChoices (e : Entry) (g : GtTab) (hs : List (Nat × GtHdr)) : List Choice :=
  g.ss.map fun x =>
    let cs := ((g.rs.zip hs).filter fun y => y.1.stream == x.n && y.2.1 == 0).map fun y => Cand.mk y.1.n (y.2.2.tick, y.2.2.off)
    liveChoice (e.aux.getD 3 0) x.skew x.interp (e.aux.getD 0 0, wPar e.word 65 42) cs

/-- The record of a LIVE entry is decoded in its lane: its outcome is kept until its stream is formed. -/
def State.gtLiveOne (s : State) (ch : ChIdx) (e : Entry) (g : GtTab) (i : Nat) : Try (State × Entry) :=
  match g.rs[i]? with
  | none => .ok (s, e)
  | some r => match g.ss[r.stream]? with
    | none => .ok (s, e)
    | some x => do
      let d ← s.gtEval ch e x r
      .ok (s, e.gtNote i d.out d.cyc (e.gtBusy x d))

/-- The value of a blend (R412). -/
def blendOf (w va vb : Num) : Num := add32 va (mul32 w (sub32 vb va))

/-- A stream takes its substitute in LIVE mode. -/
def State.gtLiveSubst (s : State) (ch : ChIdx) (e : Entry) (x : GtStream) (p : Place) : Try State := do
  let sub ← if x.prev then s.gtHeld ch e x else .ok (List.replicate (x.pos * (e.t 3).dim 0) 0)
  s.gtPut ch e p x.pos sub

/-- The sample of a record of a LIVE entry. -/
def State.gtSample (s : State) (ch : ChIdx) (e : Entry) (g : GtTab) (x : GtStream) (i : Nat) : Try (List Nat) :=
  match g.rs[i]? with
  | none => .ok []
  | some r => (s.gtEval ch e x r).map (·.xs)

/-- The segment of one stream of a LIVE entry, once its records are decoded; without a place its records take the outcome
of R409. -/
def State.gtStreamRow (s : State) (ch : ChIdx) (e : Entry) (g : GtTab) (x : GtStream) (p : Place) (c : Choice) :
    Try (State × Entry) :=
  if p.out != 0 then do
    let l := match c with
      | .stale i => i.toList
      | c => c.recs
    let s ← tryFold (fun (s : State) i => s.gtOutcome ch e i p.out p) s l
    .ok (s, l.foldl (fun (e : Entry) i => e.gtNote i p.out 0 0) e)
  else match c with
    | .stale i => do
      let s ← s.gtLiveSubst ch e x p
      let s := (s.gtCount ch 4).gtReplaced ch 4 x.n (i.getD (2 ^ 32 - 1))
      match i with
      | none => .ok (s, e)
      | some i => do
        let s ← s.gtOutcome ch e i 4 p
        .ok (s, e.gtNote i 4 0 0)
    | c =>
      match c.recs.filter fun i => e.gtOut i != 0 with
      | [] => do
        let a ← s.gtSample ch e g x (c.recs.headD 0)
        let (cs, n) ← match c with
          | .two _ j w => do
            let b ← s.gtSample ch e g x j
            .ok (gather ((a.zip b).map fun y => writeElem (e.t 3).fmt rne (blendOf w (etVal x.etype y.1) (etVal x.etype y.2))))
          | _ => .ok (gather (a.map (etConv (e.t 3).fmt x.etype)))
        let s ← s.gtPut ch e p x.pos cs
        let out := if c.recs.length == 2 then 8 else 0
        let s ← tryFold (fun (s : State) i => s.gtOutcome ch e i out p) s c.recs
        let e := c.recs.foldl (fun (e : Entry) i => e.setNote i (out + e.note i / 16 * 16)) e
        .ok ((s.countFmt ch n).incF ch R.CH_GT_DONE_DONE c.recs.length, e)
      | bad => do
        let s ← s.gtLiveSubst ch e x p
        let good := c.recs.filter fun i => e.gtOut i == 0
        let s ← tryFold (fun (s : State) i => s.gtOutcome ch e i (e.gtOut i) p) s bad
        let s ← tryFold (fun (s : State) i => s.gtOutcome ch e i 7 p) s good
        let (s, e) := bad.foldl (fun (a : State × Entry) i => a.1.gtReplace ch a.2 (e.gtOut i) x.n i) (s, e)
        .ok (s, good.foldl (fun (e : Entry) i => e.gtNote i 7 0 0) e)

/-- A LIVE entry's row: every stream in order, then the records that failed a check or were not chosen (R412). -/
def State.gtLiveRow (s : State) (ch : ChIdx) (e : Entry) (g : GtTab) : Try (State × Entry) := do
  let hs ← s.gtHeads ch g
  let cs := liveChoices e g hs
  let todo := ((cs.zip g.ps).flatMap fun y => if y.2.out == 0 then y.1.recs else []).filter fun i => !e.gtSeen i
  let (s, e) ← tryFold (fun (a : State × Entry) i => a.1.gtLiveOne ch a.2 g i) (s, e) todo
  let (s, e) ← tryFold (fun (a : State × Entry) (y : GtStream × Place × Choice) =>
    a.1.gtStreamRow ch a.2 g y.1 y.2.1 y.2.2) (s, e) (g.ss.zip (g.ps.zip cs))
  tryFold (fun (a : State × Entry) (y : GtRow × Nat × GtHdr) =>
    if a.2.gtSeen y.1.n then .ok a
    else do
      let out := if y.2.1 == 0 then 7 else y.2.1
      let s ← a.1.gtOutcome ch a.2 y.1.n out (g.ps.getD y.1.stream (Place.none 0))
      .ok (s.gtCount ch (if out == 7 then 0 else out), a.2.gtNote y.1.n out 0 0)) (s, e) (g.rs.zip hs)

/-! ## Lanes (R417, R418) -/

/-- The records that the lanes of the present pass still have to take, in table order. -/
def State.gtTodo (s : State) (ch : ChIdx) (e : Entry) : List Nat :=
  let r : Try (List Nat) := do
    let g ← s.gtTab ch e
    if e.isLive then do
      let hs ← s.gtHeads ch g
      .ok (((liveChoices e g hs).zip g.ps).flatMap fun y => if y.2.out == 0 then y.1.recs else [])
    else .ok ((slice (List.range g.rs.length) (16 * e.pass) 16).filter fun i => (g.ps.getD i (Place.none 5)).out == 0)
  match r with
  | .ok l => sortBy (fun (n : Nat) => n) (l.filter fun i => !e.gtSeen i)
  | .error _ => []

/-- Records go to the lowest-numbered free lanes. -/
def dealLanes (held : List (Nat × Nat)) : List Nat → List (Nat × Nat)
  | [] => held
  | i :: rest =>
    if held.any (·.2 == i) then dealLanes held rest
    else match (List.range 16).find? fun l => !(held.any (·.1 == l)) with
      | none => held
      | some l => dealLanes (held ++ [(l, i)]) rest

/-- The lanes hold what the running entry's pass gives them, and nothing without one. -/
def State.gtDeal (s : State) (ch : ChIdx) : State :=
  let set (l : List (Nat × Nat)) : State := s.modC ch fun c => { c with lanes := l }
  match (s.eq ch gtEng).run with
  | none => set []
  | some e =>
    if !e.going || e.zero.isSome then set []
    else
      let todo := s.gtTodo ch e
      set (dealLanes ((s.chan[ch]).lanes.filter fun x => todo.contains x.2) todo)

/-- The job of the running entry is being killed: its decodes are abandoned (R422). -/
def State.gtKilled (s : State) (ch : ChIdx) (e : Entry) : Bool := (s.ctx ch (jcOf e.jc)).st == .killing

/-- A lane's record waits for the sample of an earlier record of its stream (R408). -/
def gtWaits (e : Entry) (g : GtTab) (d : Decoded) (r : GtRow) : Bool :=
  !e.isLive && d.out != 0 && ((g.ss[r.stream]?).any (·.prev)) &&
    (earlier g.rs g.ps r.stream r.n).any fun y => y.2.out == 0 && !e.gtSeen y.1.n

/-- A lane finishes its record, as SLOW_RECORD or otherwise; nothing when the record does not end so, or must wait. -/
def State.laneEnd (s : State) (ch : ChIdx) (lane : Nat) (slow : Bool) : State :=
  match (s.eq ch gtEng).run, (s.chan[ch]).lanes.find? (fun (x : Nat × Nat) => x.1 == lane) with
  | some e, some (_, i) =>
    if s.gtKilled ch e then s
    else
      let r : Try (Option (State × Entry)) := do
        let g ← s.gtTab ch e
        match g.rs[i]? with
        | none => .ok none
        | some r => match g.ss[r.stream]? with
          | none => .ok none
          | some x => do
            let d ← s.gtEval ch e x r
            if (d.out == gtSlow) != slow || gtWaits e g d r then .ok none
            else (if e.isLive then s.gtLiveOne ch e g i else s.gtBatchOne ch e g i).map some
      match r with
      | .ok none => s
      | .ok (some (s, e)) => (s.putEntry ch e).gtDeal ch
      | .error x => if x.waits then s else (s.entryFault ch e x true).gtDeal ch
  | _, _ => s

/-- RECORD_DECODE_DONE: the record of a lane ends other than by its budget. -/
def execRecordDecodeDone (ch : Fin 8) (lane : Fin 16) (s : State) : Out := .next (s.laneEnd ch lane.val false)
/-- SLOW_RECORD: the budget of a lane's record has expired (R414). -/
def execSlowRecord (ch : Fin 8) (lane : Fin 16) (s : State) : Out := .next (s.laneEnd ch lane.val true)

/-! ## The end of an entry (R410, R413, R415) -/

/-- Positions of a row that no record occupies. -/
def padOf (p : Nat) (occ : List (Place × Nat)) (row : Nat) : List Nat :=
  (List.range p).filter fun q => !(occ.any fun x => x.1.out == 0 && x.1.row == row && x.1.pos ≤ q && q < x.1.pos + x.2)

/-- The places of an entry with their sizes. -/
def occupied (e : Entry) (g : GtTab) : List (Place × Nat) :=
  if e.isLive then g.ps.zip (g.ss.map (·.pos))
  else g.ps.zip (g.rs.map fun r => ((g.ss[r.stream]?).map (·.pos)).getD 0)

/-- PAD positions up to the last row used, and the rows that have one. -/
def State.gtPad (s : State) (ch : ChIdx) (e : Entry) (g : GtTab) : Try (State × Nat) := do
  let occ := occupied e g
  let used := occ.filter (·.1.out == 0)
  let rows := List.range (if used.isEmpty then 0 else (used.map (·.1.row)).foldl max 0 + 1)
  let p := (e.t 3).dim 1
  let f := (e.t 3).dim 0
  let s ← tryFold (fun (s : State) row => tryFold (fun (s : State) q => do
    let s ← s.putCodes ch (e.t 3) (0, q, row, 0) (List.replicate f 0)
    s.putCodes ch (e.t 4) (q, row, 0, 0) [2 ^ 31]) s (padOf p occ row)) s rows
  .ok (s, (rows.filter fun row => !(padOf p occ row).isEmpty).length)

/-- The place of the sample last written for a stream, unless it was a substitute. -/
def lastSample (e : Entry) (g : GtTab) (x : GtStream) : Option Place :=
  if e.isLive then
    match g.ps[x.n]? with
    | some p => if p.out == 0 && g.rs.any (fun r => r.stream == x.n && e.gtSeen r.n && (e.gtOut r.n == 0 || e.gtOut r.n == 8)) then some p
      else none
    | none => none
  else match ((g.rs.zip g.ps).filter fun y => y.1.stream == x.n && y.2.out == 0).getLast? with
    | some y => if e.gtOk y.1.n then some y.2 else none
    | none => none

/-- AVG after the records of a stream (R415). -/
def newAvg (avg : Nat) (cs : List Nat) : Nat :=
  wrapInt 32 (cs.foldl (fun (a : Int) c => a + ((c : Int) - a) / 16) (sextNat 32 avg))

/-- What R413 writes for one stream. -/
def State.gtClose (s : State) (ch : ChIdx) (e : Entry) (g : GtTab) (qtc : List Nat) (x : GtStream) : Try State := do
  let n := x.pos * (e.t 3).dim 0
  let s ← match (wOpd e.word 2).map (tensOf e.td), lastSample e g x with
    | some h, some p =>
      if h.dim 0 < n then .ok s
      else do
        let xs ← s.gtGet ch e p x.pos
        let s ← s.putCodes ch h (0, x.n, 0, 0) xs
        s.putCodes ch (e.t 1) (13, x.n, 0, 0) [1]
    | _, _ => .ok s
  let cs := ((g.rs.filter fun r => r.stream == x.n && e.gtOk r.n && qtc.contains r.n)).map fun r => e.note r.n / 16
  let s ← s.putCodes ch (e.t 1) (12, x.n, 0, 0) [newAvg (e.aux.getD (4 + x.n) 0) cs]
  s.putCodes ch (e.t 1) (14, x.n, 0, 0) [(x.replaced + e.note (gtReplKey + x.n)) % 2 ^ 32]

/-- The records that are coded in QTC. -/
def State.gtQtc (s : State) (ch : ChIdx) (g : GtTab) : Try (List Nat) := do
  let l ← tryMap (fun r => do
    if r.avail < 68 then .ok []
    else .ok (if (gtHdr (← s.spRead ch 0 r.addr 64)).codec == 1 then [r.n] else [])) g.rs
  .ok l.flatten

/-- Lane cycles of a list of records dealt in order to 16 lanes. -/
def laneTime (l : List Nat) : Nat :=
  (l.foldl (fun (a : List Nat) n =>
    let low := a.foldl min (a.headD 0)
    match a.findIdx? (· == low) with
    | some k => a.set k (low + n)
    | none => a) (List.replicate 16 0)).foldl max 0

/-- A pass of an entry: the records that remain of it, and at the last pass what R410 and R413 write. -/
def State.gtPass (s : State) (ch : ChIdx) (e : Entry) (last : Bool) : Try (State × Entry) := do
  let g ← s.gtTab ch e
  let mine := if e.isLive then List.range g.rs.length else slice (List.range g.rs.length) (16 * e.pass) 16
  let (s, e) ← if e.isLive then s.gtLiveRow ch e g
    else tryFold (fun (a : State × Entry) i => if a.2.gtSeen i then .ok a else a.1.gtBatchOne ch a.2 g i) (s, e) mine
  let e := { e with cyc := e.cyc + laneTime (mine.map fun i => e.note (gtBusyKey + i)) }
  if !last then .ok (s, e)
  else do
    let (s, pads) ← s.gtPad ch e g
    let qtc ← s.gtQtc ch g
    let s ← tryFold (fun (s : State) x => s.gtClose ch e g qtc x) s g.ss
    let repl := (g.ss.map fun x => e.note (gtReplKey + x.n)).sum
    .ok (s, { e with cyc := e.cyc + 64 + 16 * repl + 2 * pads })

/-- The bytes that a lane reads of a record: its header, or all of it once checks 1 to 7 have passed (R407). -/
def State.gtRead (s : State) (ch : ChIdx) (x : GtStream) (r : GtRow) : Nat :=
  if r.avail < 68 then 0
  else match s.gtHead ch x r with
    | .ok (0, h) => h.len
    | _ => 64

/-- A record buffer may share bytes with D. -/
def GtRow.near (r : GtRow) (d : Tens) : Bool := d.space == 0 && r.addr < d.base + d.span && d.base < r.addr + r.avail

/-- An entry closes: its reads of the record buffers go through the tiers, and the bytes of D that a record buffer or the hold
store overlaps are unpredictable (R319, R322, R422). -/
def State.gtDone (s : State) (ch : ChIdx) (e : Entry) : State × Entry × Nat :=
  match s.gtTab ch e with
  | .error _ => (s, e, 0)
  | .ok g =>
    let s := g.rs.foldl (fun (s : State) r => match g.ss[r.stream]? with
      | some x => s.vaTouch ch r.addr (s.gtRead ch x r)
      | none => s) s
    let d := e.t 3
    let held := ((wOpd e.word 2).map (tensOf e.td)).toList
    let s := s.overlap ch e d none held
    let near := g.rs.filter (·.near d)
    (if near.isEmpty then s
      else s.blur ch d.space (d.bytes.filter fun a => near.any fun r => r.addr ≤ a && a < r.addr + r.avail), e, 0)

/-- The passes of an entry (R418). -/
def gtPasses (e : Entry) : Nat := if e.isLive then 1 else max 1 (ceilDiv (e.sz 0) 16)

/-- A GT entry in execution. -/
def runGather : OpRun :=
  { onePass (fun s ch e _ =>
      if s.gtKilled ch e then (s, e, some (xerr 3 0)) else ofTry s e (s.gtPass ch e (gtPasses e ≤ e.pass + 1))) with
    passes := fun _ _ e => gtPasses e
    start := fun s ch e => s.gtStart ch e
    done := fun s ch e => s.gtDone ch e }

/-! ## The host split (R419 to R421) -/

/-- GT_BUSY_UPDATE: BUSY, and SHARE under AUTO or its advice. -/
def execGtBusyUpdate (ch : Fin 8) (busy : Nat) (s : State) : Out :=
  let s := s.setF ch R.CH_GT_SPLIT_BUSY (min 100 busy)
  let b := s.f ch R.CH_GT_SPLIT_BUSY
  let sh := s.f ch R.CH_GT_SPLIT_SHARE
  let new := if 85 < b && sh < 16 then sh + 1 else if b < 70 && 0 < sh then sh - 1 else sh
  .next (if s.f ch R.CH_GT_SPLIT_MODE == 0 || new == sh then s
    else if s.bound ch then s.post (srcOf ch 0x01A) .gtSplitAdvice [new]
    else (s.setF ch R.CH_GT_SPLIT_SHARE new).post (srcOf ch 0x01A) .gtSplitChange [new])

/-- GT_SPLIT_WRITE: MODE and SHARE; under R421 a write of SHARE is discarded with GT_SPLIT_LOCKED. -/
def execGtSplitWrite (ch : Fin 8) (val : BitVec 32) (s : State) : Out :=
  .next (s.chanWr ch 0xA000 fun s =>
    let share := min 16 (bits val.toNat 5 1)
    if s.bound ch && share != s.f ch R.CH_GT_SPLIT_SHARE then s.postReg (pfOf ch) .gtSplitLocked [share]
    else (s.setF ch R.CH_GT_SPLIT_MODE (bits val.toNat 0 0)).setF ch R.CH_GT_SPLIT_SHARE share)

end Sys2Proof.Machine
end

