-- ==== Sys2Proof/Machine/Image.lean ====
section
/-! DEFINITION. The mould image: its layout, its sections, their composition, and its verification (R458 to R461, R463,
R464, R468, R491, Tables 16.4 to 16.7). -/

namespace Sys2Proof.Machine

open Sys2Proof

/-! ## Layout (Table 16.4) -/

/-- An image header. -/
structure Hdr where
  magic : Nat
  version : Nat
  kind : Nat
  flags : Nat
  serial : Nat
  base : Nat
  target : Nat
  stepping : Nat
  keyIdx : Nat
  roll : Nat
  len : Nat
  nsect : Nat
  iv : List Byte
  deriving DecidableEq, Repr

/-- The header at the start of an image. -/
def hdrOf (bs : List Byte) : Hdr :=
  let n (off len : Nat) : Nat := leNat (slice bs off len)
  ⟨n 0 4, n 4 2, n 6 1, n 7 1, n 8 8, n 16 8, n 24 8, n 32 2, n 34 1, n 35 1, n 36 4, n 40 4, slice bs 44 12⟩

/-- ENC: the sections are enciphered. -/
def Hdr.enc (h : Hdr) : Bool := bit h.flags 0

/-- Every byte is zero. -/
def zeros (l : List Byte) : Bool := l.all (· == 0)

/-- Bytes of the signature block that are zero. -/
def sigZeros (sig : List Byte) : Bool := zeros (slice sig 97 15) && zeros (slice sig 208 48)

/-- Magic, version, reserved bytes or length are wrong: FORMAT (R458, R460). -/
def formatBad (bs : List Byte) : Bool :=
  let h := hdrOf bs
  h.magic != 0x444C4D51 || h.version != 1 || 1 < h.kind || h.flags / 4 != 0 || h.serial == 0 || (h.kind == 0 && h.base != 0) ||
    h.len != bs.length || (if h.kind == 0 then 28 * 2 ^ 20 < h.len else 256 * 1024 < h.len) ||
    h.nsect == 0 || 64 < h.nsect || h.len < 128 + 16 * h.nsect + (if h.enc then 16 else 0) + 256 ||
    !zeros (slice bs 56 72) || !sigZeros (bs.drop (h.len - 256))

/-- A section-table entry: type, scope, offset and length; `bad` when a reserved byte is not zero. -/
structure Sect where
  typ : Nat
  scope : Nat
  off : Nat
  len : Nat
  bad : Bool
  deriving DecidableEq, Repr

/-- The section table of a plain image. -/
def sectsOf (bs : List Byte) : List Sect :=
  (List.range (hdrOf bs).nsect).map fun i =>
    let n (off len : Nat) : Nat := leNat (slice bs (128 + 16 * i + off) len)
    ⟨n 0 1, n 1 1, n 4 4, n 8 4, n 2 2 != 0 || n 12 4 != 0⟩

/-- The channels of a scope, in ascending number. -/
def Sect.chans (x : Sect) : List ChIdx := (List.finRange 8).filter fun c => bit x.scope c.val

/-! ## Composition (R468) -/

/-- The words an image has no entry for are 0. -/
def wordDefault : Nat → Word := fun _ => 0

/-- A partition that does not exist. -/
def Part.blank : Part := ⟨false, 0, 0, [], 0, 0, false, 0, 0⟩

/-- What no section has set for a channel. -/
def ImgChan.blank : ImgChan := ⟨none, [], 0, 0, 0, [], false, 0, 0, 0, 0, [], [], 0⟩

/-- What no section has set. -/
def Image.blank : Image :=
  ⟨0, false, 0, false, 0, 2, 0, 0, false, [], [], 100000, 0, false, 0, Vector.replicate 8 Part.blank,
    Vector.replicate 8 ImgChan.blank, [], [], 1, 0, false, Vector.replicate 8 ⟨0, 0, 0, 0⟩, 0, false⟩

/-- Words from offset `lo`, four bytes apart, in place of those of a table that ends at `hi`. -/
def putWords (m : Cells Word) (lo hi : Nat) (ws : List Word) : Cells Word :=
  let rows := (ws.mapIdx fun i w => (lo + 4 * i, w)).filter fun (x : Nat × Word) => x.2 != 0
  m.filter (fun (x : Nat × Word) => x.1 < lo) ++ rows ++ m.filter (fun (x : Nat × Word) => hi ≤ x.1)

/-- Little-endian words. -/
def wordsOf (n : Nat) (bs : List Byte) : List Word := (List.range n).map fun i => BitVec.ofNat 32 (leNat (slice bs (4 * i) 4))

/-- The part of a channel changed. -/
def Image.modChan (i : Image) (ch : ChIdx) (f : ImgChan → ImgChan) : Image := { i with chans := i.chans.set ch (f (i.chans[ch])) }

/-- One record per channel of a scope. -/
def perChan {α : Type} (i : Image) (cs : List ChIdx) (rs : List α) (f : α → ImgChan → ImgChan) : Option Image :=
  if rs.length != cs.length then none
  else some ((cs.zip rs).foldl (fun (i : Image) (x : ChIdx × α) => i.modChan x.1 (f x.2)) i)

/-- Records of `n` bytes. -/
def records (n count : Nat) (bs : List Byte) : List (List Byte) := (List.range count).map fun k => slice bs (n * k) n

/-- A partition record (Table 16.6); none when a field is out of range. -/
def partOf (bs : List Byte) : Option Part :=
  let n (off len : Nat) : Nat := leNat (slice bs off len)
  let valid := n 0 1
  let words := (List.range (n 3 1)).map fun k => n (8 + 4 * k) 4
  let g1 := bit (n 58 2) 15
  if valid == 0 then some Part.blank
  else if 1 < valid || 2 < n 1 1 || n 3 1 == 0 || 8 < n 3 1 || words.any (fun w => !bit w 31) || (g1 && n 60 2 == 0) then none
  else some ⟨true, n 1 1, n 2 1, words.map (· % 2 ^ 24), BitVec.ofNat 128 (n 40 16), n 56 2, g1, n 58 2 % 4096, n 60 2⟩

/-- Every element of a list under a partial function. -/
def allSome {α β : Type} (f : α → Option β) : List α → Option (List β)
  | [] => some []
  | x :: xs => match f x, allSome f xs with
    | some y, some ys => some (y :: ys)
    | _, _ => none

/-- The three bits of a route word that mean something. -/
def routeMask (w : Word) : Word := w &&& 0x7FF

/-- A route word with a reserved output code (R354, Table 12.8). -/
def codeBad (w : Word) : Bool :=
  let bad (code : Nat) : Bool := 16 ≤ code && code != 31
  bad (bits w.toNat 4 0) || bad (bits w.toNat 9 5)

/-- ROUTE: the two route tables of a channel. -/
def putRoutes (bs : List Byte) (c : ImgChan) : ImgChan :=
  let g := (wordsOf 65536 bs).map routeMask
  let l := (wordsOf 256 (bs.drop 262144)).map routeMask
  { c with words := putWords (putWords c.words 0x8800 0x8C00 l) 0x40000 0x80000 g }

/-- One DROUTE patch (Table 16.5). -/
def patch (bs : List Byte) (i : Image) : Option Image :=
  let n (off len : Nat) : Nat := leNat (slice bs off len)
  let ch := n 0 1
  let idx := n 2 2
  if 7 < ch || 1 < n 1 1 || (n 1 1 == 1 && 255 < idx) || codeBad (BitVec.ofNat 32 (n 4 4)) then none
  else
    let off := (if n 1 1 == 0 then 0x40000 else 0x8800) + 4 * idx
    some (i.modChan (Fin.ofNat 8 ch) fun c =>
      { c with words := Cells.set wordDefault c.words off (routeMask (BitVec.ofNat 32 (n 4 4))) })

/-- A list of changes, each of which may fail. -/
def foldSome {α β : Type} (f : β → α → Option α) : List β → α → Option α
  | [], a => some a
  | b :: bs, a => match f b a with
    | some a => foldSome f bs a
    | none => none

/-- Limits of the user calibration by item (Table 12.10). -/
def calLimits : List (Int × Int) := [(-256, 255), (-20, 10), (-16, 15), (-4, 3), (-16, 15), (140, 180)]

/-- PACKAGE. -/
def putPackage (i : Image) (p : PkgSec) : Option Image :=
  if 2 ^ 21 ≤ p.number || p.tickPeriod < 5000 || 10000000 < p.tickPeriod || 2 < p.tickSrc || 3 < p.t3Form ||
      p.t3Base % 4096 != 0 || 2 ^ 44 < p.t3Size || 8 < p.ssds.length then none
  else some { i with
    number := p.number, t3Form := p.t3Form, t3Base := p.t3Base, t3Size := p.t3Size, stripe := p.stripe, ssds := p.ssds,
    queues := p.queues, tickPeriod := p.tickPeriod, tickSrc := p.tickSrc, tickMaster := p.tickMaster,
    masterNode := p.masterNode }

/-- PORTS of one channel. -/
def putPorts (p : PortsSec) (c : ImgChan) : ImgChan :=
  { c with ports := p.ports, tickParent := p.tickParent, tickAlt := p.tickAlt, tickKids := p.tickKids }

/-- TIER of one channel; the reserved bits of MEM_TC_CFG read as zero (R12). -/
def putTier (t : TierSec) (c : ImgChan) : ImgChan :=
  { c with words := putWords c.words 0x7010 0x7014 [t.tc &&& 0x1FFFFFFF], ide := t.ide, period := t.period, hot := t.hot, cold := t.cold,
           promoMax := t.promoMax }

/-- Register words eight bytes apart. -/
def putPairs (m : Cells Word) (lo : Nat) (ws : List Word) : Cells Word :=
  (ws.mapIdx fun i w => (lo + 8 * i, w)).foldl (fun (m : Cells Word) (x : Nat × Word) => Cells.set wordDefault m x.1 x.2) m

/-- REGULATOR of one channel. -/
def putReg (r : List Word × List (Nat × Nat)) (c : ImgChan) : ImgChan :=
  { c with words := putPairs c.words 0x7100 r.1, bounds := r.2 }

/-- The T3 buckets of REGULATOR. -/
def putT3 (i : Image) : Option (List Word × List (Nat × Nat)) → Image
  | none => i
  | some r => { i with t3Words := putPairs i.t3Words 0x7200 r.1, t3Bounds := r.2 }

/-- A list of eight as a vector. -/
def vec8 {α : Type} (d : α) (l : List α) : Vector α 8 := Vector.ofFn fun k => l.getD k.val d

/-- POLICY. -/
def putPolicy (i : Image) (p : PolSec) : Option Image :=
  if p.policy.length != 8 || p.ring.length != 8 then none
  else
    let ring (i : Image) (x : ChIdx × Nat) : Image := i.modChan x.1 fun c => { c with ring := x.2 }
    some (((List.finRange 8).zip p.ring).foldl ring { i with policy := vec8 ⟨0, 0, 0, 0⟩ p.policy, vcPolicy := p.vcPolicy })

/-- SECURITY: the alarm policy is one of three. -/
def putSecurity (i : Image) (x : SecSec) : Option Image :=
  if 2 < x.alarm then none else some { i with alarm := x.alarm, rootHash := x.rootHash, debug := x.debug }

/-- One section replaces the same section of the base for the channels of its scope; none when its content is
malformed. -/
def Image.apply (i : Image) (delta : Bool) (x : Sect) (bs : List Byte) : Option Image :=
  let cs := x.chans
  let k := cs.length
  match x.typ with
  | 0x01 => (Config.packageSection bs).bind (putPackage i)
  | 0x02 =>
    if bs.length != 512 then none
    else (allSome partOf (records 64 8 bs)).map fun ps => { i with parts := vec8 Part.blank ps }
  | 0x03 =>
    if bs.length != k || bs.any (fun b => 1 < b.toNat) then none
    else perChan i cs bs fun b c => { c with parked := some (b == 1) }
  | 0x04 => (Config.portsSection k bs).bind fun l => perChan i cs l putPorts
  | 0x05 => if bs.length != 263168 * k || (wordsOf (65792 * k) bs).any codeBad then none else perChan i cs (records 263168 k bs) putRoutes
  | 0x06 => if !delta || bs.length % 8 != 0 then none else foldSome patch (records 8 (bs.length / 8) bs) i
  | 0x07 =>
    if bs.length != 32 * k then none
    else perChan i cs (records 32 k bs) fun b c => { c with words := putWords c.words 0x8600 0x8620 (wordsOf 8 b) }
  | 0x08 => (Config.tierSection k bs).bind fun l => perChan i cs l putTier
  | 0x09 => (Config.regulatorSection k bs).bind fun r => (perChan i cs r.chans putReg).map fun i => putT3 i r.t3
  | 0x0A => (Config.calSection k bs).bind fun l => (perChan i cs l fun v c => { c with cal := v }).map fun i => { i with hasCal := true }
  | 0x0B => (Config.securitySection bs).bind (putSecurity i)
  | 0x0C => (Config.policySection bs).bind (putPolicy i)
  | _ => none

/-- The sections in table order: the composed image, or the index of the first section that fails. A reserved byte of a
section-table entry that is not zero fails here: R460 rejects wrong reserved bytes as FORMAT, but the table of an enciphered
image cannot be read until the image is deciphered (DESIGN CHOICE, log entry 59). -/
def applyAll (delta : Bool) (bs : List Byte) (limit : Nat) : List Sect → Nat → Image → Except Nat Image
  | [], _, i => .ok i
  | x :: xs, k, i =>
    if x.bad || x.off % 64 != 0 || x.off < 128 + 16 * (hdrOf bs).nsect || limit < x.off + x.len then .error k
    else match i.apply delta x (slice bs x.off x.len) with
      | none => .error k
      | some i => applyAll delta bs limit xs (k + 1) i

/-! ## Content checks (Table 16.7) -/

/-- The package as the checks see it: CH_EN without RETIRED, and CH_EN. -/
structure Fuses where
  live : Nat
  enabled : Nat

/-- The node address of a channel under an image (R17). -/
def Image.node (i : Image) (ch : ChIdx) : Nat := i.number * 8 + ch.val

/-- The partition whose list names a channel (R459). -/
def Image.partOf (i : Image) (ch : ChIdx) : Option (Fin 8) :=
  (List.finRange 8).find? fun p => (i.parts[p]).valid && (i.parts[p]).list.contains (i.node ch)

/-- Channels of this package that a partition holds. -/
def Image.members (i : Image) (p : Fin 8) : List ChIdx := (List.finRange 8).filter fun c => (i.parts[p]).list.contains (i.node c)

/-- Channels fused on. -/
def Fuses.count (f : Fuses) : Nat := ((List.range 8).filter fun k => bit f.enabled k).length

/-- The cap of an EFFICIENT partition is out of range (R8). -/
def Image.capBad (i : Image) (f : Fuses) (p : Fin 8) : Bool :=
  let r := i.parts[p]
  let n := (i.members p).length
  r.valid && r.mode == 2 && n != 0 && (r.cap * 10 < 200 * n || 3200 * n < r.cap * 10 * f.count)

/-- The sum of the caps of the EFFICIENT partitions, in units of 10 W. -/
def Image.capSum (i : Image) : Nat :=
  (List.finRange 8).foldl (fun (a : Nat) (p : Fin 8) =>
    if (i.parts[p]).valid && (i.parts[p]).mode == 2 && !(i.members p).isEmpty then a + (i.parts[p]).cap else a) 0

/-- A list names an address twice. -/
def twice : List Nat → Bool
  | [] => false
  | x :: xs => xs.contains x || twice xs

/-- A channel stands in the lists of two partitions. -/
def Image.inTwo (i : Image) (ch : ChIdx) : Bool :=
  1 < ((List.finRange 8).filter fun p => (i.parts[p]).valid && (i.parts[p]).list.contains (i.node ch)).length

/-- A route word names the sibling link of a channel that is not live. -/
def routeBad (f : Fuses) (w : Word) : Bool :=
  let dead (code : Nat) : Bool := 8 ≤ code && code < 16 && !bit f.live (code - 8)
  dead (bits w.toNat 4 0) || dead (bits w.toNat 9 5)

/-- Some route word of the image names a channel that is disabled or retired (R36). -/
def Image.routesBad (i : Image) (f : Fuses) : Bool :=
  i.chans.toList.any fun c => c.words.any fun (x : Nat × Word) =>
    ((0x40000 ≤ x.1 && x.1 < 0x80000) || (0x8800 ≤ x.1 && x.1 < 0x8C00)) && routeBad f x.2

/-- CREDITS of the eight virtual channels of a channel (R359). -/
def ImgChan.credits (c : ImgChan) : Nat :=
  ((c.words.filter fun (x : Nat × Word) => 0x8600 ≤ x.1 && x.1 < 0x8620).map fun (x : Nat × Word) => bits x.2.toNat 31 24).sum

/-- A calibration value outside Table 12.10. -/
def calBad (x : Nat × Nat × Nat) : Bool :=
  match calLimits[x.1]? with
  | none => true
  | some (lo, hi) => sextNat 16 x.2.2 < lo || hi < sextNat 16 x.2.2

/-- The first check of Table 16.7 that fails, by the type of the section it concerns. That a partition maps T3 shows in an image
as a T3 bucket that is not zero (R312, log entry 59). -/
def Image.ruleErr (i : Image) (f : Fuses) (delta : Bool) : Option Nat :=
  let ps := List.finRange 8
  let cs := List.finRange 8
  let placed (c : ChIdx) : Bool := (i.partOf c).isSome
  if ps.any (fun p => (i.parts[p]).valid && (i.parts[p]).mode == 1 && (i.parts[p]).g1) then some 2
  else if ps.any (i.capBad f) || 320 < i.capSum then some 2
  else if cs.any (fun c => placed c && !bit f.live c.val) then some 2
  else if i.routesBad f then some 5
  else if cs.any i.inTwo || ps.any (fun p => (i.parts[p]).valid && twice (i.parts[p]).list) then some 2
  else if cs.any (fun c => placed c && (i.chans[c]).parked == some true) then some 3
  else if i.t3Form == 3 || (i.t3Form == 2 && i.t3Words.any fun (x : Nat × Word) => x.2 != 0) then some 1
  else if i.chans.toList.any (fun c => 128 < c.credits) then some 7
  else if i.chans.toList.any (fun c => c.cal.any calBad) then some 10
  else if !delta && cs.any (fun c => bit f.enabled c.val && (i.chans[c]).parked.isNone) then some 3
  else none

/-! ## Verification (R460) -/

/-- ERR of HUB_MOULD_STAT, and SECT for a SECTION or RULE error. -/
structure MErr where
  err : Nat
  sect : Nat
  deriving DecidableEq, Repr

/-- The public key of a signature block. -/
def sigKey (sig : List Byte) : List Byte := sig.take 97

/-- The signature over the image holds; X, Y, r and s stand in little-endian order (R11). -/
def sigHolds (bs : List Byte) : Bool :=
  let n := bs.length - 256
  let sig := bs.drop n
  leNat (slice sig 0 1) == 4 &&
    ecdsaHolds (leNat (slice sig 1 48)) (leNat (slice sig 49 48)) (sha384 (bs.take n)).toNat (leNat (slice sig 112 48))
      (leNat (slice sig 160 48))

/-- The image in plain: deciphered when ENC is 1, none when that fails. -/
def plainOf (key : BitVec 256) (bs : List Byte) : Option (List Byte) :=
  let h := hdrOf bs
  let n := bs.length - 256
  if !h.enc then some (bs.take n)
  else
    let ct := slice bs 128 (n - 16 - 128)
    (gcmOpen (beBytes 32 key.toNat) h.iv (bs.take 128) ct (slice bs (n - 16) 16)).map fun p => bs.take 128 ++ p

/-- The place of the first section of a type. -/
def sectIndex (l : List Sect) (typ : Nat) : Nat := (l.findIdx? fun x => x.typ == typ).getD 0

/-- An image verified against the package's OTP and fuses and the image in force `base`: the composed image, or the first
check that fails. A locked package refuses what is not a FULL image signed with key slot 0 (R491). -/
def verify (otp : Otp) (f : Fuses) (locked : Bool) (base : Option Image) (bs : List Byte) : Except MErr Image :=
  let h := hdrOf bs
  let sig := bs.drop (bs.length - 256)
  let slot : Fin 4 := Fin.ofNat 4 h.keyIdx
  if bs.length < 384 || formatBad bs then .error ⟨1, 0⟩
  else if (h.target != 0 && h.target != otp.serial.toNat) || h.stepping != otp.stepping then .error ⟨2, 0⟩
  else if 3 < h.keyIdx || otp.revoked[slot] || sha384 (sigKey sig) != otp.keyHash[slot] ||
      (locked && (h.keyIdx != 0 || h.kind != 0)) then .error ⟨3, 0⟩
  else if !sigHolds bs then .error ⟨4, 0⟩
  else if h.roll < otp.roll then .error ⟨5, 0⟩
  else match plainOf otp.imageKey bs with
    | none => .error ⟨6, 0⟩
    | some p =>
      let delta := h.kind == 1
      let from_ := match base with
        | some b => if delta then b else Image.blank
        | none => Image.blank
      if delta && (base.isNone || from_.serial.toNat != h.base) then .error ⟨7, 0⟩
      else
        let sects := sectsOf p
        match applyAll delta p p.length sects 0 from_ with
        | .error k => .error ⟨8, k⟩
        | .ok i =>
          match i.ruleErr f delta with
          | some typ => .error ⟨9, sectIndex sects typ⟩
          | none => .ok { i with serial := BitVec.ofNat 64 h.serial, bump := bit h.flags 1, roll := h.roll, delta := delta }

/-- The raw CAL section of a verified image, when it has one. -/
def calBytes (key : BitVec 256) (bs : List Byte) : Option (List Byte) :=
  (plainOf key bs).bind fun p => ((sectsOf p).find? fun x => x.typ == 0x0A).map fun x => slice p x.off x.len

end Sys2Proof.Machine
end

