-- ==== Sys2Proof/Machine/Queue.lean ====
section
/-! DEFINITION. The engine queues: which form and run an instruction has, retries, starts, pass boundaries, completions,
the completion ring's registers, and words that are no instruction (R45, R46, R57, R66 to R74, R516). -/

namespace Sys2Proof.Machine

open Sys2Proof

/-! ## Forms and runs by operation (Table 2.7) -/

/-- FT.LOOKUP by MODE. -/
def formLookup (mode : Nat) : OpForm :=
  if mode == 0 then formRead else if mode == 1 then formReserve else if mode == 2 then formCommit else formInfo

/-- The form of an instruction, by ENG, OP and mode. -/
def formOf (w : Wide) : OpForm :=
  match wEng w, wOp w with
  | 0, 1 => formGemm
  | 0, 2 => formGemv
  | 0, 3 => formConv
  | 0, _ => formAt
  | 1, 1 => formMap
  | 1, 2 => formReduce
  | 1, _ => formSample
  | 2, 1 => formFork
  | 2, 2 => formPrune
  | 2, 3 => formLookup (wPar w 1 0)
  | 2, _ => formPin
  | 3, 1 => formRc true
  | 3, 3 => formExport
  | 3, 4 => formImport
  | 3, _ => formRc false
  | 4, _ => formCl
  | 5, 1 => formDispatch
  | 5, _ => formCombine
  | 10, _ => formGather
  | _, 1 => formLsCopy
  | _, _ => formLsFill

/-- The run of an instruction. A CL or EX entry takes part in its queue's order alone; its work is its own (R381, R396). -/
def runOf (w : Wide) : OpRun :=
  match wEng w, wOp w with
  | 0, 1 => runGemm
  | 0, 2 => runGemm
  | 0, 3 => runConv
  | 0, _ => runAt
  | 1, 1 => runMap
  | 1, 2 => runReduce
  | 1, _ => runSample
  | 2, _ => runFt
  | 3, 3 => runExport
  | 3, 4 => runImport
  | 3, _ => runRc
  | 4, _ => onePass fun s _ e _ => (s, e, none)
  | 5, _ => onePass fun s _ e _ => (s, e, none)
  | 10, _ => runGather
  | _, _ => runLs

/-! ## WIDE_RETRY (R66) -/

/-- WIDE_RETRY: the instruction of a context in WAIT_QUEUE is attempted again once its queue has an entry free. -/
def execWideRetry (ch : Fin 8) (jc : Fin 16) (s : State) : Out :=
  let c := s.ctx ch jc
  .next (if s.clocked ch && c.st == .waitQueue && (s.eq ch (engOf (wEng c.wide))).room jc then s.attempt ch jc c.wide (formOf c.wide)
    else s)

/-! ## ENTRY_START (R67) -/

/-- A stopped entry goes on from its boundary (R68), when the owner check of R129 passes again. The time it was stopped counts
in CYCLES; the model holds no such time, and a free value stands for it (R138, log entry 77). -/
def State.resumeEntry (s : State) (ch : ChIdx) (e : Entry) (b2b : Bool) : State :=
  let run := runOf e.word
  let s := s.pullEntry ch e
  match s.ownerErr ch e (formOf e.word) with
  | some x => (s.modQ ch (engOf e.eng) fun q => { q with run := if e.eng == 4 then q.run else some e }).entryFault ch e x true
  | none =>
    let (d, s) := s.draw
    let (fill, s) := s.takeArray ch e b2b
    let e := { e with cyc := e.cyc + (Config.freeWord d).toNat + fill + run.setup e true, stopped := false }
    if e.eng == 4 then s.modQ ch 4 fun q => { q with parked := q.parked ++ [e] }
    else
      let (s, e) := s.startPass ch e run
      s.modQ ch (engOf e.eng) fun q => { q with run := some e }

/-- The descriptors an instruction names, and whether it writes them. -/
def namedWritten (w : Wide) : List (Nat × Bool) :=
  let f := formOf w
  (namedOf w (f.written w) (f.lists w)).map (fun x => (x.1, x.2.1)) ++
    ((predMap (wRpred w)).toList ++ (predMap (wCpred w)).toList).map fun n => (n, false)

/-- An entry that starts enters the order of the channel's entries, and its context is charged for the quantum (R69, R96). -/
def State.noteStart (s : State) (ch : ChIdx) (e : Entry) : State :=
  let s := s.modX ch (jcOf e.jc) fun c => { c with sched := { c.sched with busy := true } }
  if e.started || e.zero.isSome then s else (s.logStart ch e (namedWritten e.word)).race ch e.order

/-- An entry that has not started starts: its waits are taken (R61); a ZERO_SHAPE no-op holds its engine (R57); the owner
check of R129 and the start checks of its chapter follow. A start that meets a page waiting for the T2 link stays to be made
(R311). -/
def State.freshEntry (s : State) (ch : ChIdx) (e : Entry) (b2b : Bool) : State :=
  if e.zero.isNone && e.eng == 4 then s.clStart ch e
  else if e.zero.isNone && e.eng == 5 then s.exStart ch e
  else
    let s0 := s
    let run := runOf e.word
    let hold (s : State) (e : Entry) : State := s.modQ ch (engOf e.eng) fun q => { q with run := some e }
    let s := (s.pullEntry ch e).takeWaits ch e.waits
    let e := { e with started := true }
    if e.zero.isSome then hold (s.noopArray ch e b2b) { e with going := true }
    else match s.ownerErr ch e (formOf e.word) with
      | some x => (hold s e).entryFault ch e x false
      | none => match run.start s ch e with
        | .error x => if x.waits then s0 else (hold s e).entryFault ch e x false
        | .ok (s, e) =>
          let (fill, s) := s.takeArray ch e b2b
          let e := { e with cyc := e.cyc + fill + run.setup e false }
          let (s, e) := s.startPass ch e run
          hold s e

/-- ENTRY_START: an idle engine takes the entry that R67 chooses. `b2b` says that the array was held until now (R134,
R136). An entry whose start waits for the T2 link stays as it was (R311). -/
def execEntryStart (ch : Fin 8) (eng : Fin 11) (b2b : Bool) (s : State) : Out :=
  if !s.clocked ch || (s.eq ch eng).run.isSome then .next s
  else
    let s := if eng == 4 || eng == 5 then s.joinAll ch eng else s
    match s.pick ch eng with
    | none => .next s
    | some e =>
      if !s.mayHold ch e then .next s
      else
        let s0 := s
        let s := s.noteStart ch e
        let s := if e.stopped then s.resumeEntry ch e b2b else s.freshEntry ch e b2b
        if (s.eq ch eng).waiting.any (·.order == e.order) then .next s0
        else .next ((if eng == gtEng then s.gtDeal ch else s).semServe ch)

/-! ## PASS_BOUNDARY and ENTRY_COMPLETE (R57, R68, R71) -/

/-- The ZERO_SHAPE no-op that an engine holds, when it holds one. -/
def State.noop (s : State) (ch : ChIdx) (eng : Fin 11) : Option Entry := (s.eq ch eng).run.filter (·.zero.isSome)

/-- The run of the entry an engine holds. -/
def State.runNow (s : State) (ch : ChIdx) (eng : Fin 11) : OpRun :=
  match (s.eq ch eng).run with
  | some e => runOf e.word
  | none => runGemm

/-- PASS_BOUNDARY: the pass that runs ends and another follows. `stall` counts the cycles it waited, `upsets` the
clusters whose residues disagreed, attempt by attempt, `ecc` the ECC errors its reads met. -/
def execPassBoundary (ch : Fin 8) (eng : Fin 11) (stall : Nat) (upsets : List (List (Fin 16 × Fin 32)))
    (ecc : List Ecc) (s : State) : Out :=
  if !s.clocked ch || (s.eq ch eng).run.isNone || (s.noop ch eng).isSome then .next s
  else
    let s := s.ecc ch ecc
    if eng == 5 then .next ((s.exStep ch false).eccDone ch)
    else
      let s := s.advance ch eng (s.runNow ch eng) false stall upsets
      .next ((if eng == gtEng then s.gtDeal ch else s).eccDone ch)

/-- ENTRY_COMPLETE: the entry an engine runs goes through its last pass and completes, unless it stops at a boundary, is
held or faults. -/
def execEntryComplete (ch : Fin 8) (eng : Fin 11) (stall : Nat) (upsets : List (List (Fin 16 × Fin 32)))
    (ecc : List Ecc) (s : State) : Out :=
  if !s.clocked ch then .next s
  else match s.noop ch eng with
    | some e => .next ((s.leave ch e).finish ch { e with cyc := 8 } 1 (e.zero.getD 0) 0 false)
    | none =>
      let s := s.ecc ch ecc
      if eng == 4 then .next ((s.clFinish ch).eccDone ch)
      else if eng == 5 then .next ((s.exStep ch true).eccDone ch)
      else match (s.eq ch eng).run with
        | none => .next (s.eccDone ch)
        | some e =>
          let run := runOf e.word
          let s := (s.advance ch eng run true stall upsets).advanceAll ch eng run e.order (run.passes s ch e)
          .next ((if eng == gtEng then s.gtDeal ch else s).eccDone ch)

/-! ## The completion ring (R72, R74, R516) -/

/-- Held records go to the ring while it has room, oldest first (R72). -/
def State.cqDrain (s : State) (ch : ChIdx) (jc : JcIdx) : Nat → State
  | 0 => s
  | fuel + 1 =>
    match (s.ctx ch jc).held with
    | [] => s
    | r :: rest =>
      if s.cqFull ch jc then s
      else match s.cqPut ch jc r with
        | .ok s => State.cqDrain (s.modX ch jc fun c => { c with held := rest }) ch jc fuel
        | .error e => s.cqLost ch jc e

/-- CQ_RD_WRITE: RD advances, unless past WR; held records follow, and the job ends when it can. -/
def execCqRdWrite (ch : Fin 8) (jc : Fin 16) (val : BitVec 32) (s : State) : Out :=
  .next (s.chanWr ch (0x1010 + 0x40 * jc.val) fun s =>
    let rd := bits val.toNat 31 16
    if s.cqUnread ch jc < (s.f ch (R.CH_JC_CQ_PTR_WR jc) + 65536 - rd) % 65536 then s
    else
      let s := (s.setF ch (R.CH_JC_CQ_PTR_RD jc) rd).cqDrain ch jc (s.ctx ch jc).held.length
      let s := if (s.ctx ch jc).st == .faulted then s.sweep ch jc 2 else s
      s.tryEnd ch jc)

/-- CQ_BASE_WRITE: CH_JC_CQ_LO or CH_JC_CQ_HI; a write that changes it while the context is not FREE is discarded with
CQ_LOCKED. -/
def execCqBaseWrite (ch : Fin 8) (jc : Fin 16) (hi : Bool) (val : BitVec 32) (s : State) : Out :=
  let off := (if hi then 0x100C else 0x1008) + 0x40 * jc.val
  .next (s.chanWr ch off fun s =>
    let new := val &&& (if hi then 0x8FFFFFFF#32 else 0xFFFFF000#32)
    if (s.chan[ch]).rd off == new then s
    else if (s.ctx ch jc).st == .free then s.modC ch (·.wr off new)
    else s.postReg (pfOf ch) .cqLocked [jc.val])

/-! ## ILLEGAL_OP (R45, R46, R49, R50) -/

/-- A word that is no scalar instruction: an opcode or function outside the tables, or a reserved encoding. -/
def scalarIllegal (w : Nat) : Bool :=
  let op := bits w 31 26
  let imm := bits w 15 0
  let known := [0, 1, 2, 3, 4, 5, 6, 7, 8, 0x10, 0x11, 0x12, 0x14, 0x15, 0x16, 0x17, 0x20, 0x21, 0x22, 0x23, 0x24, 0x25, 0x28,
    0x29, 0x30, 0x31, 0x32, 0x33, 0x34, 0x38, 0x3A, 0x3B, 0x3C]
  !(known.contains op) || (op == 0 && 0x12 < bits w 10 0) || (op == 5 && (bits imm 15 8 != 0 || bits imm 7 6 == 3)) ||
    ((op == 7 || op == 8) && bits w 18 16 != 0) || (op == 0x34 && 4 < bits w 3 0) || (op == 0x38 && bits w 20 16 != 0) ||
    (op == 0x3A && (bits imm 15 4 != 0 || (10 < bits imm 3 0 && bits imm 3 0 != 15))) || (op == 0x3B && 1 < imm)

/-- A wide instruction that fails at its address or its encoding faults so; any other has no row here. -/
def State.wideFault (s : State) (ch : ChIdx) (jc : JcIdx) (w : Wide) : State :=
  match Iss.checks ⟨s, ch, jc, w, (s.ctx ch jc).td, s.pcArg ch jc, []⟩ (formOf w) with
  | .error e => if [0x12, 0x13, 0x15, 0x16].contains e.status then s.attempt ch jc w (formOf w) else s
  | .ok _ => s

/-- ILLEGAL_OP: the word at the program counter is no instruction: a scalar word (the low 32 bits of `w`), or, with the
prefix 0x3F, a wide instruction (log entry 28). -/
def execIllegalOp (ch : Fin 8) (jc : Fin 16) (w : BitVec 512) (s : State) : Out :=
  .next (if !s.canIssue ch jc then s
    else if bits w.toNat 31 26 == 0x3F then s.wideFault ch jc w
    else if scalarIllegal (bits w.toNat 31 0) then s.scalar ch jc fun s => s.trapPc ch jc stIllegalOp
    else s)

end Sys2Proof.Machine
end

