-- ==== Sys2Proof/Machine/Security.lean ====
section
/-! DEFINITION. Security alarms, their policies and the key store (R486 to R492). -/

namespace Sys2Proof.Machine

open Sys2Proof

/-- The hub is powered and out of reset. -/
def State.hubOn (s : State) : Bool :=
  match s.pkg.cond with
  | .off | .unpowered | .inReset | .lost => false
  | .starting | .running | .safe | .failed => true

/-- FAULT_N is low while the package is SAFE, locked, or failed at self-test (R502). -/
def State.faultPin (s : State) : State :=
  let low := s.hubOn && (s.pkg.cond == .safe || s.pkg.cond == .failed || s.locked)
  s.modP fun p => { p with pins := { p.pins with faultN := !low } }

/-- The security engine changed. -/
def State.modSec (s : State) (f : Security → Security) : State := s.modP fun p => { p with sec := f p.sec }

/-- The alarm bits. -/
def State.alarms (s : State) : Nat := bits (s.pkg.rd 0x484).toNat 4 0

/-! ## Lost bytes (R490) -/

/-- The bytes of T2, and of T3 under FLASH, read back unpredictably from now on. -/
def State.loseTiers (s : State) : State :=
  let (d, s) := s.draw
  let s := s.eachC fun s ch => s.modMem ch fun m => { m with lost2 := some ⟨2 * d, []⟩ }
  s.modP fun p => { p with lost3 := some ⟨2 * d + 1, []⟩ }

/-- The key store is zeroised: what was encrypted under the memory key is lost (R490). -/
def State.zeroise (s : State) : State :=
  let s := if s.pkg.sec.enc then s.loseTiers else s
  s.modSec fun x => { x with memKey := false }

/-! ## The fence (R489) -/

/-- A context that the fence pre-empts: it holds a slice and its job is not stopping. -/
def Ctx.fences (c : Ctx) : Bool := c.sched.slice && c.st != .free && !c.st.stopping

/-- One channel under the fence: slices end under R101, every link and the T2 link go down. -/
def State.fenceChan (s : State) (ch : ChIdx) : State :=
  if !s.up ch then s
  else
    let s := ctxs.foldl (fun (s : State) jc => if (s.ctx ch jc).fences then s.releaseSlice ch jc true false true else s) s
    (s.allDown ch).t2Dark ch

/-- The fence comes into force. -/
def State.fence (s : State) : State :=
  if s.fenced then s else (s.eachC State.fenceChan).modP (·.setFld R.HUB_SEC_ALARM_FENCED 1)

/-- The fence lifts: links train, the memory link among them, whose LINK has read training since it went down. -/
def State.unfence (s : State) : State :=
  (s.modP (·.setFld R.HUB_SEC_ALARM_FENCED 0)).eachC fun s ch =>
    if s.mayTrain ch then s.trainAll ch else s

/-! ## Alarms (R486, R488 to R490, R492) -/

/-- ERASE: the key store is zeroised and every fiber goes dark; the stores follow (SEC_ERASED). -/
def State.erase (s : State) : State :=
  ((s.zeroise).eachC fun s ch => (s.allDown ch).t2Dark ch).modP (·.setFld R.HUB_SEC_ALARM_ERASING 1)

/-- The policy in force: that of HUB_SEC_POLICY, and during start-up ERASE when the key store holds it (R487, R492). -/
def State.alarmPolicy (s : State) : Nat :=
  if s.pkg.cond == .starting && s.pkg.sec.stored == 2 then 2 else s.pkg.fld R.HUB_SEC_POLICY_POLICY

/-- An alarm while the hub runs: its bit, its event and its record of the fault history, then the policy. An ERASE alarm
during start-up locks the package, so that start-up ends SAFE (R492). -/
def State.raise (s : State) (sensor ch slot : Nat) : State :=
  let s := s.modP fun p => (p.wr 0x484 (p.rd 0x484 ||| BitVec.ofNat 32 (2 ^ sensor))).satFld R.HUB_SEC_ALARM_ALARMS 1
  let s := s.post (srcHub 0x004) .secAlarm (if sensor == 4 then [sensor, ch, slot] else [sensor])
  let s := s.histAdd 0 0 (if sensor == 4 then ch + 8 * slot else 0) 0 sensor
  if s.alarmPolicy == 0 then s
  else if s.alarmPolicy == 2 then
    if s.pkg.cond == .starting then s.zeroise.modSec fun x => { x with locked := true } else s.erase
  else s.fence

/-- SEC_ALARM: a sensor trips. Without a running hub only TAMPER is handled, by the key store while VSTBY is present
(log entry 62). -/
def execSecAlarm (sensor : Fin 5) (ch : Fin 8) (slot : Nat) (s : State) : Out :=
  if s.hubOn then
    let s := s.modSec fun x => { x with persist := x.persist ||| BitVec.ofNat 5 (2 ^ sensor.val) }
    .next (s.raise sensor.val ch.val slot).faultPin
  else if sensor.val != 0 || !s.pkg.vstby then .next s
  else if s.pkg.sec.stored == 2 then .next (s.zeroise.modSec fun x => { x with locked := true })
  else .next (s.modSec fun x => { x with recorded := true })

/-- SEC_ERASED: the stores and T1 of every live channel read zero, the granules that T1 caches among it, LOCKED is set, and the event is posted. -/
def execSecErased (s : State) : Out :=
  if s.pkg.fld R.HUB_SEC_ALARM_ERASING == 0 then .next s
  else
    let s := s.eachC fun s ch =>
      let blank (l : TcLine) : TcLine := { l with bytes := [] }
      if s.live ch then s.modMem ch fun m =>
          { m with t1 := [], ls := [], arws := [], poison := [], tc := { m.tc with lines := m.tc.lines.map blank } }
        else s
    let s := s.modP fun p => ((({ p with flash := { p.flash with locked := true } }).setFld R.HUB_SEC_ALARM_ERASING 0).setFld
      R.HUB_SEC_POLICY_LOCKED 1)
    .next (((s.modSec fun x => { x with locked := true }).post (srcHub 0x004) .secErased []).faultPin)

/-- Alarm bits acknowledged; a bit whose condition persists sets again at once; the fence lifts with the last one
(R489). -/
def State.ackAlarms (s : State) (val : Nat) : State :=
  let left := (s.alarms &&& (31 - val % 32)) ||| s.pkg.sec.persist.toNat
  let s := s.modP fun p => p.wr 0x484 (BitVec.ofNat 32 (putBits (p.rd 0x484).toNat 4 0 left))
  if s.fenced && left == 0 then s.unfence else s

/-- SEC_ALARM_ACK, subject to the lease gate; `persist` names the sensors that still detect their condition. -/
def execSecAlarmAck (by_ : Writer) (val : BitVec 32) (persist : BitVec 5) (s : State) : Out :=
  let s := if s.hubOn then s.modSec fun x => { x with persist := persist } else s
  match by_ with
  | .host => .next (s.hostWr 0 0x484 fun s => s.gate .host (·.ackAlarms val.toNat))
  | .gaffer g => .next (if s.hubOn then s.gate (.gaffer g) (·.ackAlarms val.toNat) else s)

/-- A write of POLICY that has passed the gate: from LOG to FENCE it is taken, any other change is refused (R487, R516). -/
def State.policyWrite (s : State) (val : Nat) : State :=
  let now := s.pkg.fld R.HUB_SEC_POLICY_POLICY
  if bits val 1 0 == now then s
  else if now == 0 && bits val 1 0 == 1 then s.modP (·.setFld R.HUB_SEC_POLICY_POLICY 1)
  else s.post (srcHub 0x00B) .secPolicyRefused []

/-- SEC_POLICY_WRITE, subject to the lease gate. -/
def execSecPolicyWrite (by_ : Writer) (val : BitVec 32) (s : State) : Out :=
  match by_ with
  | .host => .next (s.hostWr 0 0x480 fun s => s.gate .host (·.policyWrite val.toNat))
  | .gaffer g => .next (if s.hubOn then s.gate (.gaffer g) (·.policyWrite val.toNat) else s)

end Sys2Proof.Machine
end

