-- ==== Sys2Proof/Machine/Reset.lean ====
section
/-! DEFINITION. Function Level Resets, thermal trips, the loss of a hub link, and what the package loses with its supplies
or under PERST# (R34, R38, R39, R470, R511, R523). -/

namespace Sys2Proof.Machine

open Sys2Proof

/-! ## What a channel's reset does (R34, R523) -/

/-- The bits of a register that keep their value: fields of class EPOCH or RWV and fields whose reset value is "from
mould". -/
def keepMask (r : RegDef) : Nat :=
  (r.fields.filter fun f => f.cls == .epoch || f.cls == .rwv || f.mould).foldl (fun (a : Nat) f =>
    a + (2 ^ (f.hi + 1 - f.lo) - 1) * 2 ^ f.lo) 0

/-- A word of a register after a reset. -/
def keptWord (off : Nat) (w : Word) : Word :=
  match regFind false off with
  | none => regReset false off
  | some r =>
    let m := BitVec.ofNat 32 (keepMask r)
    (w &&& m) ||| (regReset false off &&& ~~~m)

/-- The registers after a reset, in canonical form. -/
def keptRegs (m : Cells Word) : Cells Word :=
  (m.map fun (x : Nat × Word) => (x.1, keptWord x.1 x.2)).filter fun (x : Nat × Word) => x.2 != regReset false x.1

/-- Bytes that an entry was writing are unpredictable: the rows of a tensor. -/
def State.openTens (s : State) (ch : ChIdx) (draw : Nat) (t : Tens) : State :=
  if t.space == 3 then s
  else t.rows.foldl (fun (s : State) o =>
    let a := t.base + o
    match s.spWrite ch t.space a ((List.range t.rowBytes).map fun i => Config.freeByte draw (a + i)) with
    | .ok s => s
    | .error _ => s) s

/-- The tensors an entry writes, scales and STAT among them. -/
def Entry.outputs (e : Entry) : List Tens :=
  (namedOf e.word ((formOf e.word).written e.word) []).flatMap fun x =>
    if !x.2.1 then []
    else
      let t := tensOf e.td x.1
      t :: (t.scale e.td).toList

/-- Every entry that has started and not completed leaves its outputs unpredictable. -/
def State.openWrites (s : State) (ch : ChIdx) : State :=
  let es := engines.flatMap fun e => ((s.eq ch e).run.toList ++ (s.eq ch e).parked).filter fun x => x.zero.isNone
  es.foldl (fun (s : State) e =>
    let (d, s) := s.draw
    e.outputs.foldl (fun (s : State) t => s.openTens ch d t) s) s

/-- Slots of the ARWS that killed jobs owned, or that wait to be cleared. -/
def Arws.taken (a : Arws) : List Nat := (a.tags.filter fun (x : Nat × Nat) => x.2 < 16).map (·.1) ++ a.clearing

/-- Bytes of an ARWS slot (R128). -/
def slotBytes : Nat := 65536

/-- The channel after a reset: registers at their reset values but for those R523 keeps; memory, tier cache and the local
copy area kept; ARWS slots of killed jobs cleared; everything else as new. -/
def Chan.flr (c : Chan) : Chan :=
  let gone := c.arws.taken
  let n := Chan.new
  { n with
    reg := keptRegs c.reg
    sched := { n.sched with quantum := c.sched.quantum }
    mem := { n.mem with
      t1 := c.mem.t1, t2 := c.mem.t2, lost2 := c.mem.lost2, ls := c.mem.ls,
      arws := c.mem.arws.filter fun (x : Nat × Byte) => !gone.contains (x.1 / slotBytes),
      poison := c.mem.poison, copying := c.mem.copying, poison2 := c.mem.poison2, tc := { c.mem.tc with flush := [] },
      promo := c.mem.promo }
    mover := { n.mover with area1 := c.mover.area1 }
    power := { n.power with
      credit := c.power.credit, capped := c.power.capped, thermTrip := c.power.thermTrip }
    hubLost := c.hubLost
    draining := c.draining }

/-- Slots held failed by the fault history read as failed (R435, R437). -/
def State.reapplySlots (s : State) (ch : ChIdx) : State :=
  s.pkg.hist.recs.foldl (fun (s : State) h =>
    if h.unit == 3 && h.cls == clsRetired && h.key % 8 == ch.val then s.setFailed ch (waveAt ch (bits h.key 6 3)) (bits h.key 10 7) 1 else s) s

/-- INRESET of HUB_CH_LIVE. -/
def State.setInReset (s : State) (ch : ChIdx) (on : Bool) : State :=
  let s := s.modP fun p => p.wr 0x14 (BitVec.ofNat 32 (putBits (p.rd 0x14).toNat (16 + ch.val) (16 + ch.val) (if on then 1 else 0)))
  s.modC ch fun c => { c with inReset := on }

/-- A channel enters reset: its fibers go dark, its jobs end without records, and R523 applies. What the spec counts or marks
since package reset stays: TRIPS, the last mismatch of CH_MX_RESIDUE with VALID, and the copies marked stuck (log entry 55). -/
def State.flr (s : State) (ch : ChIdx) : State :=
  let s := (s.openWrites ch).allDown ch
  let trips := s.f ch R.CH_THERM_TRIPS
  let seen := (s.f ch R.CH_MX_RESIDUE_ROW, s.f ch R.CH_MX_RESIDUE_COL, s.f ch R.CH_MX_RESIDUE_VALID)
  let stuck := s.f ch R.VOTE_STUCK
  let s := s.modC ch Chan.flr
  let s := (s.setF ch R.CH_THERM_TRIPS trips).setF ch R.VOTE_STUCK stuck
  let s := ((s.setF ch R.CH_MX_RESIDUE_ROW seen.1).setF ch R.CH_MX_RESIDUE_COL seen.2.1).setF ch R.CH_MX_RESIDUE_VALID seen.2.2
  let pf := ch.val + 1
  let mine (r : Staged) : Bool := r.pf == pf
  let s := s.modP fun p => { p with
    tick := { p.tick with staged := p.tick.staged.filter fun r => !mine r, latched := p.tick.latched.filter fun r => !mine r }
    evt := p.evt.set (pfOf ch) { p.evt[pfOf ch] with fired := false }
    heldWakes := p.heldWakes.filter fun x => x.1 != ch.val }
  ((((s.reapplySlots ch).fillBuckets ch).tcCount ch).setInReset ch true).thermPin

/-- The rings of a channel lock and its links begin to train, the memory link among them (R364, R367). In SAFE every fiber
stays dark (R463). -/
def State.relight (s : State) (ch : ChIdx) : State :=
  if !s.mayTrain ch || s.pkg.mould.force.isNone then s
  else ((s.ringLock ch (s.calNow ch)).setF ch R.MEM_T2_STAT_LINK 1).trainAll ch

/-- A channel leaves reset: INRESET clears, and its links train; the memory link's training enumerates the expander again
(R308, R523, log entry 91). -/
def State.flrDone (s : State) (ch : ChIdx) : State := (s.setInReset ch false).relight ch

/-- The package runs, SAFE or with an image. -/
def State.runs (s : State) : Bool := s.pkg.cond == .running || s.pkg.cond == .safe

/-- FLR_CHANNEL. -/
def execFlrChannel (ch : Fin 8) (s : State) : Out :=
  if !s.present (pfOf ch) then .next (s.answer .unsupported 0)
  else if !s.live ch || (s.chan[ch]).inReset then .next (s.answer .ok 0)
  else .next ((s.flr ch).answer .ok 0)

/-- FLR_CHANNEL_DONE: within 100 ms; a thermal trip holds the channel on (R511), and a locked package holds every channel
(R491). -/
def execFlrChannelDone (ch : Fin 8) (s : State) : Out :=
  if !s.runs || !s.live ch || !(s.chan[ch]).inReset || (s.pwr ch).thermTrip || s.locked then .next s
  else .next (s.flrDone ch)

/-- FLR_HUB: PF0's event ring, CPER ring and vector return to their reset values; nothing else changes (R34). -/
def execFlrHub (s : State) : Out :=
  if !s.present 0 then .next (s.answer .unsupported 0)
  else
    let ring (off : Nat) : Bool := (0x30 ≤ off && off < 0x3C) || (0x80 ≤ off && off < 0x90)
    .next ((s.modP fun p => { p with
      reg := p.reg.filter fun (x : Nat × Word) => !ring x.1, evt := p.evt.set 0 { p.evt[(0 : Fin 9)] with fired := false } }).answer .ok 0)

/-! ## Thermal trips (R511) -/

/-- THERM_TRIP: at 120 °C (184) the channel is held in reset as under a Function Level Reset. -/
def execThermTrip (ch : Fin 8) (tj : BitVec 8) (s : State) : Out :=
  if !s.live ch || !s.runs || (s.pwr ch).thermTrip || tj.toNat < 184 then .next s
  else
    let s := s.post (srcGaffer ch) .thermTrip []
    let s := if (s.chan[ch]).inReset then s else s.flr ch
    let s := (s.setF ch R.CH_THERM_TJ tj.toNat).satF ch R.CH_THERM_TRIPS 1
    .next ((s.modPwr ch fun p => { p with thermTrip := true }).thermPin)

/-- THERM_TRIP_RELEASE: below 90 °C (154) the channel leaves reset, runs its self-test and trains its links. -/
def execThermTripRelease (ch : Fin 8) (tj : BitVec 8) (pass : Bool) (s : State) : Out :=
  if !s.live ch || !(s.pwr ch).thermTrip || 154 ≤ tj.toNat then .next s
  else
    let s := ((s.setF ch R.CH_THERM_TJ tj.toNat).modPwr ch fun p => { p with thermTrip := false }).thermPin
    .next (if !pass then s.retireWhole 4 ch else if s.locked then s else s.flrDone ch)

/-! ## The hub link (R38) -/

/-- The hub is lost, and with it the whole package: the host sees no endpoint, nothing answers and no tick comes until the
supplies are taken away (R38, Table 1.6, log entry 56). -/
def State.hubGone (s : State) : State := s.modP fun p => { p with cond := .lost, portUp := false }

/-- HUB_FAULT: the channel has lost its hub link and turns its transmitters off; when every live channel has, the package is
lost. -/
def execHubFault (ch : Fin 8) (s : State) : Out :=
  if !s.live ch then .next s
  else
    let s := ((s.allDown ch).t2Dark ch).modC ch fun c => { c with hubLost := true }
    let all := (List.finRange 8).all fun c => !s.live c || (s.chan[c]).hubLost
    .next (if all then s.hubGone else s)

/-! ## Package resets (R39, R470, R495) -/

/-- A channel after the loss of its supply: nothing is left, but a local copy area in SSDs (R490, log entry 54). -/
def Chan.lose (flash : Bool) (c : Chan) : Chan :=
  let n := Chan.new
  if flash then { n with mover := { n.mover with area1 := c.mover.area1 } } else n

/-- Pin states live on VSTBY: HUB_PIN_STAT but for FAST. -/
def Pkg.pinWord (p : Pkg) : Word := BitVec.ofNat 32 (bits (p.rd 0x408).toNat 5 0)

/-- The channels and the hub lose their state. OTP, flash with the fault history, the SSDs, host memory, the key store and
the pins stay. -/
def State.lose (s : State) (cond : PkgCond) : State :=
  let flash := s.pkg.mould.force.any fun i => i.t3Form == 1
  let chans := s.chan.map (Chan.lose flash)
  let keep (p : Pkg) : Pkg :=
    { Pkg.new with
      cond := cond, vmain := p.vmain, vaux := p.vaux, vstby := p.vstby, pins := { p.pins with held := false, thermN := true, faultN := true },
      startFails := p.startFails, otp := p.otp, flash := p.flash, hist := { p.hist with held := [] }, sec := p.sec, t3 := p.t3,
      lost3 := p.lost3, host := p.host, out := p.out }
  let pins := s.pkg.pinWord
  { s with chan := chans, pkg := (keep s.pkg).wr 0x408 pins }

end Sys2Proof.Machine
end

