-- ==== Sys2Proof/Machine/Mould.lean ====
section
/-! DEFINITION. Loading, draining, committing and storing mould images (R460 to R468, R28, R482, R490, R491). -/

namespace Sys2Proof.Machine

open Sys2Proof

/-! ## Commands (R24, R465) -/

/-- ERR of HUB_MOULD_STAT. -/
def State.mouldErr (s : State) (e : Nat) : State := s.modP (·.setFld R.HUB_MOULD_STAT_ERR e)

/-- STATE of HUB_MOULD_STAT. -/
def State.mouldState (s : State) : Nat := s.pkg.fld R.HUB_MOULD_STAT_STATE

/-- STATE changes. -/
def State.toMould (s : State) (st : Nat) : State := s.modP (·.setFld R.HUB_MOULD_STAT_STATE st)

/-- The mould loader beside its registers. -/
def State.modMould (s : State) (f : Mould → Mould) : State := s.modP fun p => { p with mould := f p.mould }

/-- The loader is busy with a command (R465). -/
def State.mouldBusy (s : State) : Bool := s.mouldState != mouldIdle && s.mouldState != mouldStaged

/-- A command of HUB_MOULD_CMD. LOAD, COMMIT and ABANDON pass the lease gate or are discarded with FENCED (R24, R26). -/
def State.mouldCmd (s : State) (w : Writer) (cmd : Nat) (f : State → State) : State :=
  let go (s : State) : State :=
    let s := s.modP (·.setFld R.HUB_MOULD_CMD_CMD cmd)
    if cmd != 4 && !s.gateOpen w then s.countFenced.mouldErr 0xB else f s
  match w with
  | .host => s.hostWr 0 0x300 go
  | .gaffer _ => if s.hubOn then go s else s

/-- A command that is refused while the loader is busy (R465). -/
def State.unlessBusy (s : State) (f : State → State) : State := if s.mouldBusy then s.mouldErr 0xA else f s

/-- LOAD: the image is read from host memory. -/
def execLoad (by_ : Writer) (s : State) : Out :=
  .next (s.mouldCmd by_ 1 (·.unlessBusy fun s =>
    let addr := s.pkg.fld R.HUB_MOULD_ADDR_LO_ADDR_LO * 64 + s.pkg.fld R.HUB_MOULD_ADDR_HI_ADDR_HI * 2 ^ 32
    let bytes := s.pkg.host.read addr (s.pkg.fld R.HUB_MOULD_LEN_LEN)
    ((s.modMould fun m => { m with staged := none, loadBytes := bytes }).toMould mouldLoading).mouldErr 0))

/-- CH_EN, and CH_EN without RETIRED. -/
def State.fuses (s : State) : Fuses :=
  let en := bits (s.pkg.rd 0x10).toNat 7 0
  ⟨en &&& (255 - bits (s.pkg.rd 0x14).toNat 15 8), en⟩

/-- MOULD_STAGED: verification ends. -/
def execMouldStaged (s : State) : Out :=
  if s.mouldState != mouldLoading then .next s
  else match verify s.pkg.otp s.fuses s.locked s.pkg.mould.force s.pkg.mould.loadBytes with
    | .ok i => .next ((s.modMould fun m => { m with staged := some i, key0 := (hdrOf m.loadBytes).keyIdx == 0 }).toMould mouldStaged)
    | .error e =>
      .next (((s.modMould fun m => { m with loadBytes := [] }).toMould mouldIdle).modP fun p =>
        (p.setFld R.HUB_MOULD_STAT_ERR e.err).setFld R.HUB_MOULD_STAT_SECT e.sect)

/-! ## Affected channels (Table 16.9) -/

/-- What of a partition drains its channels. -/
def Part.key (p : Part) : Bool × Nat × Nat × List Nat × Bool × Nat × Nat :=
  (p.valid, p.mode, p.lcShare, p.list, p.g1, p.fallback, p.kvWait)

/-- What of section TIER drains a channel. -/
def ImgChan.tier (c : ImgChan) : Word × Bool × Nat × Nat × Nat × Nat :=
  (Cells.get wordDefault c.words 0x7010, c.ide, c.period, c.hot, c.cold, c.promoMax)

/-- The package number, the T3 form or its layout. -/
def Image.layout (i : Image) : Nat × Nat × Nat × Nat × Bool × List Nat × List Nat :=
  (i.number, i.t3Form, i.t3Base, i.t3Size, i.stripe, i.ssds, i.queues)

/-- The channels that a commit drains. -/
def affected (old : Option Image) (new : Image) : List ChIdx :=
  match old with
  | none => List.finRange 8
  | some o =>
    if o.layout != new.layout then List.finRange 8
    else (List.finRange 8).filter fun c =>
      ((List.finRange 8).any fun p => (o.parts[p]).key != (new.parts[p]).key &&
        ((o.members p).contains c || (new.members p).contains c)) ||
      ((o.chans[c]).parked.getD false) != ((new.chans[c]).parked.getD false) || (o.chans[c]).tier != (new.chans[c]).tier

/-- The channels that the staged image drains. -/
def State.drains (s : State) : List ChIdx :=
  match s.pkg.mould.staged with
  | none => []
  | some i => (affected s.pkg.mould.force i).filter s.live

/-! ## Draining (R466, R467) -/

/-- A copy epoch or restore of a drained channel is abandoned (Table 15.9). -/
def State.dropEpoch (s : State) (ch : ChIdx) : State :=
  if (s.chan[ch]).mover.phase == .idle then s
  else ((s.modC ch fun c => { c with mover := { c.mover with phase := .idle } }).setF ch R.CH_PC_STAT_STATE 0).satF ch
    R.CH_PC_STAT_FAILS 1

/-- Dirty granules of drained channels without a job are written back (R466 step 3). -/
def State.drainFlush (s : State) : State :=
  s.drains.foldl (fun (s : State) c => if s.allFree c && !(s.dirtyLines c).isEmpty then s.flushAll c else s) s

/-- The jobs of the drained channels are killed, reason DRAIN. -/
def State.drainKill (s : State) : State :=
  (s.drains.foldl (fun (s : State) c => s.killAll c 8) s).modMould fun m => { m with killed := true }

/-- COMMIT of a staged image. -/
def execCommit (by_ : Writer) (s : State) : Out :=
  .next (s.mouldCmd by_ 2 (·.unlessBusy fun s =>
    if s.mouldState != mouldStaged then s
    else
      let s := ((s.toMould mouldDraining).mouldErr 0).modMould fun m => { m with boundaries := 0, killed := false }
      let s := s.drains.foldl (fun (s : State) c =>
        ((s.wake c 7).dropEpoch c).modC c fun k => { k with draining := true }) s
      let s := s.drainFlush
      if s.pkg.fld R.HUB_MOULD_CFG_DRAIN_LIM == 0 then s.drainKill else s))

/-- DRAIN_LIMIT, at the DRAIN_LIM-th boundary after COMMIT. -/
def execDrainLimit (s : State) : Out :=
  if s.mouldState != mouldDraining || s.pkg.mould.killed || s.pkg.mould.boundaries < s.pkg.fld R.HUB_MOULD_CFG_DRAIN_LIM then .next s
  else .next s.drainKill

/-- The drained channels load jobs again. -/
def State.undrain (s : State) : State := s.eachC fun s c => s.modC c fun k => { k with draining := false }

/-- ABANDON. -/
def execAbandon (by_ : Writer) (s : State) : Out :=
  .next (s.mouldCmd by_ 3 fun s =>
    if s.mouldState == mouldStaged || s.mouldState == mouldDraining || s.mouldState == mouldHeld then
      ((s.undrain.modMould fun m => { m with staged := none, loadBytes := [] }).toMould mouldIdle).mouldErr 0
    else s)

/-- The drain is complete. -/
def State.drained (s : State) : Bool := s.drains.all fun c => s.allFree c && (s.dirtyLines c).isEmpty && (s.chan[c]).mem.tc.wb.isEmpty

/-- The commit tick has been reached (R466 step 4). -/
def State.atReached (s : State) : Bool :=
  s.pkg.fld R.HUB_MOULD_CFG_AT_EN == 0 || s.pkg.fld R.HUB_MOULD_AT_AT ≤ s.pkg.tick.num.toNat % 2 ^ 32

/-! ## The commit (Table 16.9) -/

/-- Register words that differ between two images are written. -/
def diffWords (old new : Cells Word) : List (Nat × Word) :=
  (new.filter fun (x : Nat × Word) => Cells.get wordDefault old x.1 != x.2) ++
    ((old.filter fun (x : Nat × Word) => !new.any fun y => y.1 == x.1).map fun (x : Nat × Word) => (x.1, wordDefault x.1))

/-- The place of a channel in HUB_PART_MAP under an image. -/
def State.placeOf (s : State) (i : Image) (ch : ChIdx) : Nat :=
  if !s.live ch then 0xF
  else match i.partOf ch with
    | some p => p.val
    | none => if (i.chans[ch]).parked == some true then 0xE else 0xF

/-- HUB_PART_MAP under an image. -/
def State.partMap (s : State) (i : Image) : Word :=
  BitVec.ofNat 32 ((List.finRange 8).foldl (fun (a : Nat) (c : ChIdx) => a + s.placeOf i c * 16 ^ c.val) 0)

/-- A link trains anew, or is HELD when the image does not use it (R367, R368); the channel's own number names none. -/
def State.retrain (s : State) (ch : ChIdx) (p : LinkIdx) : State :=
  if p.val == 8 + ch.val then s
  else ((s.linkDown ch p).modLink ch p fun l => { l with dark := false }).setF ch (R.FAB_PORT_STAT_STATE p)
    (if s.linkUsed ch p then 1 else 3)

/-- The links that a commit retrains: those whose entry in PORTS has changed, or all with the package number or the form or
layout of T3. -/
def State.retrainLinks (s : State) (old : Option Image) (new : Image) (ch : ChIdx) : State :=
  if !s.mayTrain ch then s
  else links.foldl (fun (s : State) p =>
    let same := match old with
      | none => false
      | some o => o.layout == new.layout && (o.chans[ch]).ports[p.val]? == (new.chans[ch]).ports[p.val]?
    if same then s else s.retrain ch p) s

/-- A commit that ends SAFE lights the fibers for the first time since start-up: the rings lock, and the memory link trains
(R364, R367, log entry 61). -/
def State.firstLight (s : State) (ch : ChIdx) : State :=
  if s.mayTrain ch then (s.ringLock ch (s.calNow ch)).setF ch R.MEM_T2_STAT_LINK 1 else s

/-- What the commit writes on one channel: its register words, LC_SHARE, the ring policy, IDE; a changed IDE, package number or
layout of T3 retrains the memory link (Table 16.9), a changed tier cache is empty, and a changed prefix key empties the prefix
table (R213). -/
def State.commitChan (s : State) (old : Option Image) (new : Image) (ch : ChIdx) : State :=
  let o := match old with
    | some o => o.chans[ch]
    | none => ImgChan.blank
  let n := new.chans[ch]
  let ws := diffWords o.words n.words
  let s := ws.foldl (fun (s : State) x => s.modC ch (·.wr x.1 x.2)) s
  let s := if old.isNone then s.fillBuckets ch
    else [BucketInst.t1 ch, BucketInst.t2 ch].foldl (fun (s : State) i => (List.range 9).foldl (fun (s : State) k =>
      if ws.any fun x => x.1 == instOff i k then s.newBurst i k else s) s) s
  let share := match new.partOf ch with
    | some p => (new.parts[p]).lcShare
    | none => 0
  let s := s.setF ch R.CH_SCHED_LC_SHARE share
  let s := if old.isSome && o.ring == n.ring then s else s.setF ch R.FAB_RING_CTL_POLICY n.ring
  let s := if o.tier.1 == n.tier.1 then s else (s.modTc ch fun _ => ⟨[], [], []⟩).tcCount ch
  let s := match old with
    | some i => if o.ide != n.ide || i.layout != new.layout then s.t2Dark ch else s
    | none => if s.f ch R.MEM_T2_STAT_CAP_GIB == 0 then s else s.setF ch R.MEM_T2_STAT_IDE (if n.ide then 1 else 0)
  let key (i : Image) : BitVec 128 := match i.partOf ch with
    | some p => (i.parts[p]).pkey
    | none => 0
  if old.any fun o => key o != key new then
    let wait := s.readers ch
    s.modFt ch (·.emptyTable wait)
  else s

/-- A channel is parked, or taken back into use (R476). -/
def State.commitPark (s : State) (was : Nat) (ch : ChIdx) : State :=
  if !s.up ch then s
  else if s.place ch == 0xE && was != 0xE then
    match (s.pwr ch).move with
    | .none => if (s.pwr ch).st.code < 2 then s.pwrBegin ch (.entry .sleep) else s
    | .entry _ => s.modPwr ch fun p => { p with move := .entry .sleep }
    | .exit _ => s
  else if was == 0xE && s.place ch != 0xE then s.wake ch 7
  else s

/-- The credit of a channel whose share changes starts at S x 1 ms (R482). -/
def State.commitCap (s : State) (was : Option Nat) (ch : ChIdx) : State :=
  if s.capShare ch == was then s
  else match s.capShare ch with
    | none => s.modPwr ch fun p => { p with capped := false }
    | some share => s.modPwr ch fun p => { p with capped := true, credit := (100 * share : Nat) }

/-- PERIOD, SRC and MASTER of the image come into force when it changes them. -/
def State.commitTick (s : State) (old : Option Image) (new : Image) : State :=
  let f (i : Image) : Nat × Nat × Bool := (i.tickPeriod, i.tickSrc, i.tickMaster)
  if old.any fun o => f o == f new then s
  else (s.modP fun p => ((p.setFld R.HUB_TICK_CFG_PERIOD new.tickPeriod).setFld R.HUB_TICK_CFG_SRC new.tickSrc).setFld
    R.HUB_TICK_CFG_MASTER (if new.tickMaster then 1 else 0)).tickSource

/-- The alarm policy is set; the encryption of T2 and FLASH T3 follows it at a commit that drains every channel, and bytes
written under the other state are lost (R487, R490). -/
def State.commitPolicy (s : State) (new : Image) (all : Bool) : State :=
  let enc := if all then new.alarm == 2 else s.pkg.sec.enc
  let s := if enc == s.pkg.sec.enc then s else s.loseTiers
  (s.modSec fun x => { x with stored := new.alarm, enc := enc }).modP fun p =>
    (p.setFld R.HUB_SEC_POLICY_POLICY new.alarm).setFld R.HUB_SEC_POLICY_MEMENC (if enc then 1 else 0)

/-- OTP and locks: BUMP raises the rollback counter (R460); a commit on a locked package clears LOCKED and makes a new
memory key (R491). -/
def State.commitOtp (s : State) (new : Image) (key0 : Bool) : State :=
  let s := if new.bump && s.pkg.otp.roll < new.roll then s.modP fun p => { p with otp := { p.otp with roll := new.roll } } else s
  if s.locked && key0 then
    (s.modSec fun x => { x with locked := false, memKey := true }).modP fun p =>
      ({ p with flash := { p.flash with locked := false } }).setFld R.HUB_SEC_POLICY_LOCKED 0
  else s

/-- Calibration: a CAL section of the image that loads goes to the calibration area; an image without one keeps the values
in force (R464, R366). -/
def State.withCal (s : State) (new : Image) : Image :=
  if new.hasCal then new
  else
    let cal (c : ChIdx) : List (Nat × Nat × Nat) := match s.pkg.mould.force with
      | some o => (o.chans[c]).cal
      | none => (new.chans[c]).cal
    { new with chans := Vector.ofFn fun c => { new.chans[c] with cal := cal c } }

/-- The calibration area is written. -/
def State.saveCal (s : State) (bytes : List Byte) : State :=
  match calBytes s.pkg.otp.imageKey bytes with
  | none => s
  | some b => s.modP fun p => { p with flash := { p.flash with bytes := p.flash.bytes.write 0x4000000 b } }

/-- The image comes into force: everything a commit changes, in the order of Table 3.2 step 3. -/
def State.commitImage (s : State) (new : Image) (bytes : List Byte) (key0 all : Bool) : State :=
  let old := s.pkg.mould.force
  let new := s.withCal new
  let places := (List.finRange 8).map s.place
  let shares := (List.finRange 8).map s.capShare
  let wasLocked := s.locked
  let s := (s.commitOtp new key0).saveCal bytes
  let s := if wasLocked && !s.locked then
      s.eachC fun s c => if s.live c && (s.chan[c]).inReset && !(s.pwr c).thermTrip then s.setInReset c false else s
    else s
  let s := s.modP fun p => ((((({ p with mould := ⟨some new, none, bytes, [], false, 0, false⟩ }).wr 0x50 (s.partMap new)).setFld
    R.HUB_MOULD_STAT_STATE mouldIdle).setFld R.HUB_MOULD_STAT_SAFE 0).setFld R.HUB_MOULD_SERIAL_LO_SERIAL_LO new.serial.toNat)
  let s := s.eachC fun s c => s.commitChan old new c
  let t3 := diffWords (match old with | some o => o.t3Words | none => []) new.t3Words
  let s := t3.foldl (fun (s : State) x => s.modP (·.wr x.1 x.2)) s
  let s := (List.range 8).foldl (fun (s : State) k =>
    if old.isNone then s.fillBucket .t3 k else if t3.any fun x => x.1 == instOff .t3 k then s.newBurst .t3 k else s) s
  let s := ((s.commitTick old new).commitPolicy new all).undrain
  let s := if s.pkg.cond == .safe then s.eachC fun s c => s.firstLight c else s
  let s := s.eachC fun s c =>
    ((((s.retrainLinks old new c).forwardHeld c).commitPark (places.getD c.val 0xF) c).commitCap (shares.getD c.val none) c)
  let s := if s.pkg.cond == .safe then s.modP fun p => { p with cond := .running } else s
  (s.post (srcHub 0x006) .mouldCommit [new.serial.toNat % 2 ^ 32, new.serial.toNat / 2 ^ 32]).faultPin

/-- The mould commit that is due at a boundary, step 2 of Table 3.2: SPLIT_LEASE holds a commit that is pending (R28). -/
def State.commitDue (s : State) : State :=
  if s.mouldState != mouldDraining && s.mouldState != mouldHeld then s
  else
    let s := s.drainFlush
    match s.pkg.mould.staged with
    | none => s
    | some new =>
      if !s.drained || !s.atReached then s
      else if s.split then s.toMould mouldHeld
      else s.commitImage new s.pkg.mould.loadBytes s.pkg.mould.key0 ((affected s.pkg.mould.force new).length == 8)

/-- MOULD_COMMIT: the commit of a boundary; TICK_BOUNDARY makes it among its own steps (log entry 60). -/
def execMouldCommit (s : State) : Out := .next s.commitDue

/-- TICK_BOUNDARY (R75, R84, R85); the tick master's messages go out with it (R369). -/
def execTickBoundary (s : State) : Out :=
  .next (if s.pkg.tick.started then (s.boundary State.commitDue).tickMaster else s)

/-! ## Storing (R462) -/

/-- The base of a flash slot (Table 16.8). -/
def slotBase (k : Nat) : Nat := 0x2000000 * k

/-- Where the images of a slot end: each stands directly behind the one before (log entry 26). -/
def chainEnd (m : Mem) (base : Nat) : Nat → Nat
  | 0 => base
  | n + 1 =>
    let off := chainEnd m base n
    off + leNat (m.read (off + 36) 4)

/-- STORE: a sixteenth delta is refused with FULL. Without an image in force there is nothing to store. -/
def execStore (by_ : Writer) (s : State) : Out :=
  .next (s.mouldCmd by_ 4 (·.unlessBusy fun s =>
    match s.pkg.mould.force with
    | none => s
    | some i =>
      if i.delta && 15 ≤ s.pkg.fld R.HUB_MOULD_STAT_DELTAS then s.mouldErr 0xC
      else ((s.modMould fun m => { m with staged := none, loadBytes := [] }).toMould mouldStoring).mouldErr 0))

/-- The bytes of the image in force reach flash: a FULL image fills the other slot, which becomes active; a DELTA joins
the chain of the active slot. -/
def State.storeNow (s : State) : State :=
  let active := s.pkg.flash.active
  let bytes := s.pkg.mould.forceBytes
  match s.pkg.mould.force with
  | none => s
  | some i =>
    if i.delta then
      let n := s.pkg.fld R.HUB_MOULD_STAT_DELTAS
      let off := chainEnd s.pkg.flash.bytes (slotBase active) (n + 1)
      s.modP fun p => ({ p with flash := { p.flash with bytes := p.flash.bytes.write off bytes } }).setFld R.HUB_MOULD_STAT_DELTAS (n + 1)
    else
      let other := 1 - active
      s.modP fun p => (({ p with flash := { p.flash with bytes := p.flash.bytes.write (slotBase other) bytes, active := other } }).setFld
        R.HUB_MOULD_STAT_DELTAS 0).setFld R.HUB_MOULD_STAT_SLOT other

/-- STORE_DONE. -/
def execStoreDone (s : State) : Out :=
  if s.mouldState != mouldStoring then .next s else .next (s.storeNow.toMould mouldIdle)

end Sys2Proof.Machine
end

