-- ==== Sys2Proof/Machine/Startup.lean ====
section
/-! DEFINITION. Supplies, PERST#, start-up and the package states Off and unpowered (R39, R469 to R471, R481, R484, R485,
R493 to R495, R505, R513). -/

namespace Sys2Proof.Machine

open Sys2Proof

/-! ## Causes of start-up (R470, R481, R493, R495) -/

/-- START of HUB_WAKE. -/
def State.startCause (s : State) (c : Nat) : State := s.modP (·.setFld R.HUB_WAKE_START c)

/-- Start-up is about to begin; with FL_EN high it will hold at step 3 (R505). -/
def State.startingFrom (s : State) (c : Nat) : State :=
  (s.modP fun p => { p with cond := .starting, pins := { p.pins with held := p.pins.flEn } }).startCause c

/-- The supplies are all present. -/
def State.supplied (s : State) : Bool := s.pkg.vmain && s.pkg.vaux && s.pkg.vstby

/-- A supply becomes present or absent. -/
def State.setSupply (s : State) (x : Supply) (on : Bool) : State :=
  match x with
  | .vmain => s.modP fun p => { p with vmain := on }
  | .vaux => s.modP fun p => { p with vaux := on }
  | .vstby => s.modP fun p => { p with vstby := on }

/-- SUPPLY_PRESENT: with all three present, start-up begins unless PERST# holds the package. -/
def execSupplyPresent (sup : Supply) (s : State) : Out :=
  let s := s.setSupply sup true
  if s.pkg.cond != .unpowered || !s.supplied then .next s
  else if s.pkg.pins.perst then .next (s.modP fun p => { p with cond := .inReset })
  else .next (s.startingFrom 0)

/-- The key store and the tamper mesh without VSTBY: the memory key is gone, and with it what it encrypted (R470,
R490). -/
def State.loseKeys (s : State) : State := s.zeroise.modSec fun x => { x with persist := 0, stored := 1, recorded := false, locked := false }

/-- SUPPLY_ABSENT: without VMAIN or VAUX the package is unpowered; from Off, the return of any supply will begin
start-up. -/
def execSupplyAbsent (sup : Supply) (s : State) : Out :=
  let s := s.setSupply sup false
  let s := if sup == .vstby then s.loseKeys else s
  let s := s.modP fun p => { p with startFails := 0 }
  if sup != .vstby then .next (s.lose .unpowered)
  else if s.pkg.cond == .off then .next (s.modP fun p => { p with cond := .unpowered })
  else .next s

/-- PERST_ASSERT: the package holds in reset; Off and unpowered stay as they are. -/
def execPerstAssert (s : State) : Out :=
  let s := s.modP fun p => { p with pins := { p.pins with perst := true } }
  .next (if s.hubOn then s.lose .inReset else s)

/-- PERST_RELEASE. -/
def execPerstRelease (s : State) : Out :=
  let s := s.modP fun p => { p with pins := { p.pins with perst := false } }
  .next (if s.pkg.cond == .inReset && s.supplied then s.startingFrom 1 else s)

/-- FL_EN_FALL: a start-up held at step 3 goes on. -/
def execFlEnFall (s : State) : Out := .next (s.modP fun p => { p with pins := { p.pins with flEn := false, held := false } })

/-! ## The steps of Table 17.7 -/

/-- Step 2: each gaffer claims the lease, and GW wins (R22, R23). -/
def State.stepLease (s : State) : State := (s.leaseHear .gw 1).leaseHear .ge 1

/-- The channel has a RETIRED record (R437): its own, or one of its pseudo-channels or clusters. -/
def State.wasRetired (s : State) (ch : ChIdx) : Bool :=
  s.pkg.hist.recs.any fun h => h.cls == clsRetired && h.action == 3 && h.key % 8 == ch.val

/-- Step 3: the fault history is read, and HUB_CH_LIVE and HUB_FH_STAT are set (R36, R437). -/
def State.stepHistory (s : State) : State :=
  let en := bits (s.pkg.rd 0x10).toNat 7 0
  let gone := (List.finRange 8).foldl (fun (a : Nat) c => if s.wasRetired c then a + 2 ^ c.val else a) 0
  let live := en &&& (255 - gone)
  let perm := (s.pkg.hist.recs.filter fun h => h.cls == clsPermanent).length
  let s := s.modP fun p => ((p.wr 0x14 (BitVec.ofNat 32 (live + gone * 256 + live * 65536))).setFld R.HUB_FH_STAT_PERMANENT
    (min 4095 perm)).setFld R.HUB_FH_STAT_SPARES (min 4095 p.hist.remaps.length)
  s.histFill.eachC fun s c => s.reapplySlots c

/-- The key store: LOCKED is read, and a memory key is made when there is none (R490, R491). -/
def State.stepKeys (s : State) : State :=
  let s := if s.locked || s.pkg.sec.memKey then s else s.modSec fun x => { x with memKey := true }
  s.modP fun p => (p.setFld R.HUB_SEC_POLICY_LOCKED (if p.sec.locked || p.flash.locked then 1 else 0)).setFld
    R.HUB_SEC_POLICY_MEMENC (if p.sec.enc then 1 else 0)

/-- An alarm recorded in Off is raised (R492). -/
def State.stepAlarm (s : State) : State :=
  if s.pkg.sec.recorded then (s.modSec fun x => { x with recorded := false }).raise 0 0 0 else s

/-- The configuration spaces of the functions present: PF0 and those of the channels in `live`, chained in ascending order; the
next of the last is 0 (R31, R32). -/
def cfgSpaces (stepping : Nat) (live : BitVec 8) : List (Nat × CfgSpace) :=
  let fns := 0 :: ((List.range 8).filter live.getLsbD).map (· + 1)
  fns.map fun n => (n, ⟨Config.vendorId, if n == 0 then 0x2200 else 0x2201, BitVec.ofNat 8 stepping,
    (fns.find? fun m => n < m).getD 0⟩)

/-- The host port trains, and the live functions are present. Without ARI forwarding PF8 cannot be reached, and PF0 posts
ARI_ABSENT (R31, R32). -/
def State.stepPort (s : State) (ari : Bool) : State :=
  let live := BitVec.ofNat 8 (bits (s.pkg.rd 0x14).toNat 7 0)
  let s := s.modP fun p => { p with portUp := true, functions := live, ari := ari, cfg := cfgSpaces p.otp.stepping live }
  if ari then s else s.post (srcHub 0x005) .ariAbsent []

/-- Steps 5 and 9: a channel that fails its self-test or its HBM training is retired; the others leave reset, unless the
package is locked (R491, R494). -/
def State.stepChannels (s : State) (env : StartEnv) : State :=
  s.eachC fun s c =>
    if !s.live c then s
    else if !env.selfTest.getLsbD c.val then s.retireWhole 4 c
    else
      let s := if s.locked then s else s.setInReset c false
      if env.hbm.getLsbD c.val then s else s.retireWhole 2 c

/-! ## The image of a start-up (R463, R464) -/

/-- The bytes of an image in flash. -/
def State.flashImage (s : State) (off : Nat) : List Byte :=
  let n := leNat (s.pkg.flash.bytes.read (off + 36) 4)
  if n ≤ 28 * 2 ^ 20 then s.pkg.flash.bytes.read off n else []

/-- The deltas of a chain, in order: the composed image, its bytes, how many held, and whether one failed. -/
def State.chain (s : State) : Nat → Nat → Image → List Byte → Nat → Image × List Byte × Nat × Bool
  | 0, _, i, bs, n => (i, bs, n, false)
  | fuel + 1, off, i, bs, n =>
    if leNat (s.pkg.flash.bytes.read off 4) != 0x444C4D51 then (i, bs, n, false)
    else
      let next := s.flashImage off
      match verify s.pkg.otp s.fuses false (some i) next with
      | .ok j => if j.delta then State.chain s fuel (off + next.length) j next (n + 1) else (i, bs, n, false)
      | .error _ => (i, bs, n, true)

/-- The FULL image of a slot. -/
def State.slotImage (s : State) (k : Nat) : Option (Image × List Byte) :=
  let bs := s.flashImage (slotBase k)
  match verify s.pkg.otp s.fuses false none bs with
  | .ok i => if i.delta then none else some (i, bs)
  | .error _ => none

/-- The calibration area takes the place of what the image does not bring (R464). -/
def State.areaCal (s : State) (i : Image) : Image :=
  if i.hasCal then i
  else match Config.calSection 8 (s.pkg.flash.bytes.read 0x4000000 0x100000) with
    | none => i
    | some l => { i with chans := Vector.ofFn fun c => { i.chans[c] with cal := l.getD c.val [] } }

/-- Step 8: the active slot with its chain, else the other slot, else none. -/
def State.stepImage (s : State) : State × Option (Image × List Byte) :=
  let a := s.pkg.flash.active
  let withChain (s : State) (k : Nat) (i : Image) (bs : List Byte) : State × Option (Image × List Byte) :=
    let (i, bs, n, bad) := s.chain 15 (slotBase k + bs.length) i bs 0
    let s := if bad then s.post (srcHub 0x006) .mouldDeltaBad [n] else s
    let s := s.modP fun p => (({ p with flash := { p.flash with active := k } }).setFld R.HUB_MOULD_STAT_SLOT k).setFld
      R.HUB_MOULD_STAT_DELTAS n
    (s, some (s.areaCal i, bs))
  match s.slotImage a with
  | some (i, bs) => withChain s a i bs
  | none =>
    let s := s.post (srcHub 0x006) .mouldFallback []
    match s.slotImage (1 - a) with
    | some (i, bs) => withChain s (1 - a) i bs
    | none => (s.modP fun p => p.setFld R.HUB_MOULD_STAT_SLOT p.flash.active, none)

/-- Step 10: ring lock, with the user calibration of the image that will commit (R364, R366). -/
def State.stepRings (s : State) (i : Image) : State := s.eachC fun s c => if s.mayTrain c then s.ringLock c (i.chans[c]).cal else s

/-- Step 12: the far memories are enumerated; one that is absent, or whose link does not train, has no capacity (R308). -/
def State.stepT2 (s : State) (i : Image) (env : StartEnv) : State :=
  s.eachC fun s c =>
    let gib := min 512 (env.t2Gib.getD c.val 0)
    if !s.mayTrain c || gib == 0 then s
    else
      let s := s.t2Train c (i.chans[c]).cal (env.t2Bad.getD c.val [])
      if s.f c R.MEM_T2_STAT_LINK == 2 then s.setF c R.MEM_T2_STAT_CAP_GIB gib else s

/-- The tick starts (R80): number 0, or the master's number under FABRIC. -/
def State.stepTick (s : State) (num : DWord) : State :=
  let fabric := s.pkg.fld R.HUB_TICK_CFG_SRC == 2 && s.pkg.fld R.HUB_TICK_CFG_MASTER == 0
  let n : DWord := if fabric then num else 0
  s.modP fun p => ({ p with tick := { p.tick with num := n, started := true, acquiring := false } }).setFld R.HUB_TICK_STAT_LOCKED
    (if fabric then 1 else 0)

/-- A SAFE start: no image in force, every fabric port dark, the tick INTERNAL (R463, R491, R493). -/
def State.safeStart (s : State) : State :=
  ((s.modP fun p => ({ p with cond := .safe }).setFld R.HUB_MOULD_STAT_SAFE 1).stepTick 0).faultPin

/-- START_UP, from self-test to the first tick; with a hub that fails its self-test the package has failed (R494). -/
def State.startUp (s : State) (env : StartEnv) : State :=
  let s := s.stepLease
  if !env.hubOk then (s.modP fun p => { p with cond := .failed, startFails := p.startFails + 1 }).faultPin
  else
    let s := s.modP fun p => { p with startFails := 0 }
    let s := (((s.stepHistory.stepKeys).stepAlarm).stepPort env.ari).stepChannels env
    let (s, image) := if s.locked then (s, none) else s.stepImage
    match image with
    | none => s.safeStart
    | some (i, bs) =>
      let s := s.modP fun p => { p with cond := .running }
      let s := ((s.stepRings i).stepT2 i env).commitImage i bs false true
      (s.stepTick env.masterNum).faultPin

/-- START_UP: runs while start-up has begun and is held neither at step 3 nor after three failures (R494, R505). -/
def execStartUp (env : StartEnv) (s : State) : Out :=
  if s.pkg.cond == .starting && s.pkg.startFails < 3 && !s.pkg.pins.held && s.supplied && !s.pkg.pins.perst then
    .next (s.startUp env)
  else .next s

/-- STARTUP_REPEAT: 10 s after a failed self-test, and no more after three (R494). -/
def execStartupRepeat (env : StartEnv) (s : State) : Out :=
  if s.pkg.cond != .failed || 3 ≤ s.pkg.startFails then .next s
  else .next (((s.lose .starting).startingFrom 3).startUp env)

/-! ## The host port (R31 to R33) -/

/-- HOST_PORT_LINK_UP. -/
def execHostPortLinkUp (ari : Bool) (s : State) : Out :=
  if !s.runs then .next s
  else
    .next (s.stepPort ari)

/-- CONFIG_REQUEST_ABSENT: a configuration request to a function that is not present. -/
def execConfigRequestAbsent (fn : Nat) (s : State) : Out :=
  let here := if h : fn < 9 then s.present ⟨fn, h⟩ else false
  .next (if here then s else s.answer .unsupported 0)

/-! ## Off (R481, R513) -/

/-- Every entry of a channel ends as KILLED, and its jobs end. -/
def State.endAll (s : State) (ch : ChIdx) : State :=
  let s := s.killAll ch 1
  let s := engines.foldl (fun (s : State) e =>
    let es := (s.eq ch e).all
    let s := s.modQ ch e fun _ => ⟨[], none, []⟩
    es.foldl (fun (s : State) x => s.dropEntry ch x 3 (x.started)) s) s
  s.tryEndAll ch

/-- A STORE in progress completes before the rails fall. -/
def State.finishStore (s : State) : State := if s.mouldState == mouldStoring then s.storeNow.toMould mouldIdle else s

/-- The package goes Off, or refuses while a channel is not quiet and FORCE is 0 (R481, log entry 57). -/
def State.goOff (s : State) (force : Bool) : State :=
  let busy := (List.finRange 8).any fun c => s.up c && !s.quiet c
  if !s.runs || (busy && !force) then s.post (srcHub 0x00B) .pwrRefused []
  else
    let s := if force then s.eachC fun s c => if s.up c then s.endAll c else s else s
    s.finishStore.lose .off

/-- HUB_PWR_OFF: KEY must hold 0x0FF0 when GO is written; otherwise the write is discarded. -/
def execHubPwrOff (val : BitVec 32) (s : State) : Out :=
  .next (s.hostWr 0 0x400 fun s =>
    let key := bits val.toNat 23 8
    if val.getLsbD 31 && key != 0x0FF0 then s
    else
      let s := s.modP fun p => (p.setFld R.HUB_PWR_OFF_FORCE (bits val.toNat 0 0)).setFld R.HUB_PWR_OFF_KEY key
      if val.getLsbD 31 then s.goOff (val.getLsbD 0) else s)

/-! ## Input pins (R483 to R485) -/

/-- The ACT and STUCK fields of a pin. -/
def pinFlds : Pin → Fld × Fld
  | .wakeN => (R.HUB_PIN_STAT_WAKE_ACT, R.HUB_PIN_STAT_WAKE_STUCK)
  | .tickIn => (R.HUB_PIN_STAT_TICK_ACT, R.HUB_PIN_STAT_TICK_STUCK)
  | .alertN => (R.HUB_PIN_STAT_ALERT_ACT, R.HUB_PIN_STAT_ALERT_STUCK)

/-- The number of a pin in an event. -/
def pinNo : Pin → Nat
  | .wakeN => 0 | .tickIn => 1 | .alertN => 2

/-- WAKE_N: an accepted falling edge begins start-up from Off; with PERST# low the package stays in reset (R513). -/
def execWakeN (s : State) : Out :=
  if !s.pkg.vstby || s.pkg.fld R.HUB_PIN_STAT_WAKE_STUCK == 1 then .next s
  else
    let s := s.modP (·.setFld R.HUB_PIN_STAT_WAKE_ACT 1)
    if s.pkg.cond != .off then .next s
    else if s.pkg.pins.perst then .next (s.modP fun p => { p with cond := .inReset })
    else .next (s.startingFrom 2)

/-- ALERT_N: accepted active, it holds every pass start; one ALERT_HOLD for each assertion (R483). -/
def execAlertN (s : State) : Out :=
  if !s.pkg.vstby || s.pkg.fld R.HUB_PIN_STAT_ALERT_STUCK == 1 || s.pkg.fld R.HUB_PIN_STAT_ALERT_ACT == 1 then .next s
  else
    let s := s.modP (·.setFld R.HUB_PIN_STAT_ALERT_ACT 1)
    .next (if s.hubOn then s.post (srcHub 0x00A) .alertHold [] else s)

/-- ALERT_N_INACTIVE. -/
def execAlertNInactive (s : State) : Out := .next (s.modP (·.setFld R.HUB_PIN_STAT_ALERT_ACT 0))

/-- STUCK_INPUT: a pin active for 1 s is masked, and counts as inactive (R485). -/
def execStuckInput (pin : Pin) (s : State) : Out :=
  let (act, stuck) := pinFlds pin
  if s.pkg.fld act == 0 then .next s
  else
    let s := s.modP fun p => (p.setFld act 0).setFld stuck 1
    .next (if s.hubOn then s.post (srcHub 0x00A) .stuckInput [pinNo pin] else s)

/-- PIN_REARM (R485). -/
def execPinRearm (pin : Pin) (s : State) : Out :=
  let (act, stuck) := pinFlds pin
  .next (if s.pkg.fld stuck == 0 then s else s.modP fun p => (p.setFld act 0).setFld stuck 0)

end Sys2Proof.Machine
end

