-- ==== Sys2Proof/Machine/Ports.lean ====
section
/-! DEFINITION. The ports beside the host port: the I3C management port, the flash recovery port and JTAG (R481, R503 to
R505). -/

namespace Sys2Proof.Machine

open Sys2Proof

/-! ## I3C (R503) -/

/-- A transaction answered with NACK of its command byte. -/
def State.nack (s : State) : State := s.modP fun p => { p with out := { p.out with i3cNack := true, i3c := [] } }

/-- A transaction answered with bytes. -/
def State.i3cAnswer (s : State) (l : List Byte) : State := s.modP fun p => { p with out := { p.out with i3cNack := false, i3c := l } }

/-- The port answers a command that is allowed while the package is running or SAFE (Table 18.4). -/
def State.i3cCmd (s : State) (f : State → State) : State := if s.pkg.vstby && s.runs then f s else s.nack

/-- The code of STATUS (Table 18.4). A package that failed its self-test is still starting. -/
def State.statusCode (s : State) : Nat :=
  match s.pkg.cond with
  | .off | .unpowered | .lost => 0
  | .inReset => 1
  | .starting | .failed => 2
  | .running => if s.locked then 5 else 3
  | .safe => if s.locked then 5 else 4

/-- I3C_STATUS; a package that a hub fault has lost answers nothing (R38, Table 1.6). -/
def execI3cStatus (s : State) : Out :=
  .next (if s.pkg.vstby && s.pkg.cond != .off && s.pkg.cond != .lost then s.i3cAnswer (leBytes 1 s.statusCode) else s.nack)

/-- The 32 bytes of a history record (Table 15.3). -/
def Hist.bytes (h : Hist) : List Byte :=
  let l := leBytes 4 h.seq ++ leBytes 4 h.firstS ++ leBytes 1 h.unit ++ leBytes 1 h.cls ++ leBytes 2 h.count ++ leBytes 8 h.key ++
    leBytes 4 h.action ++ leBytes 4 h.arg
  l ++ leBytes 4 (crc32c l).toNat

/-- HIST_COUNT. -/
def execHistCount (s : State) : Out := .next (s.i3cCmd fun s => s.i3cAnswer (leBytes 4 s.pkg.hist.recs.length))

/-- HIST_READ: 32 bytes of zero beyond the last record. -/
def execHistRead (idx : BitVec 32) (s : State) : Out :=
  .next (s.i3cCmd fun s => s.i3cAnswer (match s.pkg.hist.recs[idx.toNat]? with
    | some h => h.bytes
    | none => List.replicate 32 0))

/-- I3C_PWR_OFF acts as HUB_PWR_OFF does (R481); another KEY is discarded. -/
def execI3cPwrOff (key : BitVec 16) (force : BitVec 8) (s : State) : Out :=
  .next (s.i3cCmd fun s =>
    let s := s.i3cAnswer []
    if key = 0x0FF0#16 then s.goOff (force.getLsbD 0) else s)

/-- TJ of a channel, 0xFF for one that is not powered. -/
def State.tjByte (s : State) (ch : ChIdx) : Byte :=
  if s.live ch then BitVec.ofNat 8 (s.f ch R.CH_THERM_TJ) else 0xFF

/-- I3C_TEMP: the hub's reading, then those of CH0 to CH7. -/
def execI3cTemp (hub : BitVec 8) (s : State) : Out :=
  .next (s.i3cCmd fun s => s.i3cAnswer (hub :: (List.finRange 8).map s.tjByte))

/-! ## The flash recovery port (R505, Table 16.8) -/

/-- One byte of the flash as the port reads it: the slots and the calibration area, the fault history, and a free value
where the layout gives none (log entry 64). -/
def State.flashByte (s : State) (draw a : Nat) : Byte :=
  if a < 0x4100000 then s.pkg.flash.bytes.byte a
  else if 0x6000000 ≤ a && a < 0x7000000 then
    match s.pkg.hist.recs[(a - 0x6000000) / 32]? with
    | some h => h.bytes.getD (a % 32) 0
    | none => Config.freeByte draw a
  else Config.freeByte draw a

/-- One byte written through the port: only the slots and the calibration area take it. -/
def flashPut (m : Mem) (a : Nat) (b : Byte) : Mem := if a < 0x4100000 then m.put a b else m

/-- Bytes written through the port from `a` upward. -/
def flashWrite (m : Mem) (a : Nat) : List Byte → Mem
  | [] => m
  | b :: bs => flashWrite (flashPut m a b) (a + 1) bs

/-- FLASH_RECOVERY_PORT_ACCESS: the port is active only while PERST# is low; the access itself shows that FL_EN is high. -/
def execFlashRecoveryPortAccess (wr : Bool) (addr : Nat) (data : List (BitVec 8)) (len : Nat) (s : State) : Out :=
  if !s.pkg.vstby || !s.pkg.pins.perst then .next s
  else
    let s := s.modP fun p => { p with pins := { p.pins with flEn := true } }
    if wr then .next (s.modP fun p => { p with flash := { p.flash with bytes := flashWrite p.flash.bytes addr data } })
    else
      let (d, s) := s.draw
      let l := (List.range len).map fun i => s.flashByte d (addr + i)
      .next (s.modP fun p => { p with out := { p.out with spi := l } })

/-! ## JTAG (R504) -/

/-- What the JTAG port shifted out (log entry 65). -/
def State.jtagOut (s : State) (l : List Bool) : State := s.modP fun p => { p with out := { p.out with jtag := l } }

/-- The image in force enables the debug port. -/
def State.debugOn (s : State) : Bool := s.pkg.mould.force.any (·.debug)

/-- JTAG_INSTRUCTION: boundary scan shows the levels, an instruction outside IEEE 1149.1 reads as BYPASS unless the
image in force enables the debug port. -/
def execJtagInstruction (op : JtagOp) (s : State) : Out :=
  if !s.pkg.vaux then .next s
  else match op with
    | .scan levels => .next (s.jtagOut levels)
    | .bypass inBit => .next (s.jtagOut [inBit])
    | .debug => if s.debugOn then .refused .debugPort else .next (s.jtagOut [false])

end Sys2Proof.Machine
end

