-- ==== Sys2Proof/Machine/Resilience.lean ====
section
/-! DEFINITION. Weight digests, partner copies and restores (R424 to R429, R440 to R446). The fault history, classing and
retirement stand in History.lean. -/

namespace Sys2Proof.Machine

open Sys2Proof

/-! ## Protected regions (R424) -/

/-- An entry of the protection table (Table 15.1). -/
structure Prot where
  base : Nat
  len : Nat
  region : Nat
  kind : Nat
  flags : Nat
  peers : Nat
  deriving DecidableEq, Repr

/-- Entry `i` of a channel's protection table; none when it is unused or cannot be read. -/
def State.prot (s : State) (ch : ChIdx) (i : Nat) : Option Prot :=
  let table := s.f ch R.CH_PROT_LO_BASE_LO * 4096 + s.f ch R.CH_PROT_HI_BASE_HI * 2 ^ 32
  match s.vaRead ch (table + 32 * i) 32 with
  | .error _ => none
  | .ok b =>
    let f (o n : Nat) : Nat := leNat (slice b o n)
    if f 8 8 == 0 then none else some ⟨f 0 8 % 2 ^ 56, f 8 8, f 16 2, f 18 1, f 19 1, f 20 1⟩

/-- The entries from index `i` on that carry a flag, with their indices, in ascending order. -/
def State.prots (s : State) (ch : ChIdx) (i flag : Nat) : List (Nat × Prot) :=
  (List.range 63).filterMap fun k =>
    if k < i then none
    else match s.prot ch k with
      | some p => if bit p.flags flag then some (k, p) else none
      | none => none

/-- The entry with a region's identifier. -/
def State.protOf (s : State) (ch : ChIdx) (region : Nat) : Option Prot :=
  (List.range 63).findSome? fun k => (s.prot ch k).filter fun p => p.region == region

/-! ## Digests (R425 to R428) -/

/-- The bytes cut into leaves of 1 MiB. -/
def leaves : Nat → List Byte → List (List Byte)
  | 0, _ => []
  | _, [] => []
  | fuel + 1, l => l.take (2 ^ 20) :: leaves fuel (l.drop (2 ^ 20))

/-- The digest of a region: SHA-256 over LEN and the digests of its leaves (R425). -/
def regionDigest (bs : List Byte) : BitVec 256 :=
  sha256 (leBytes 8 bs.length ++ (leaves bs.length bs).flatMap fun l => digBytes (sha256 l))

/-- The digest engine of a channel. -/
def State.dig (s : State) (ch : ChIdx) : DigSt := (s.chan[ch]).dig

/-- A change of the digest engine. -/
def State.modDig (s : State) (ch : ChIdx) (f : DigSt → DigSt) : State := s.modC ch fun c => { c with dig := f c.dig }

/-- Digest peer `i` is in use. -/
def State.digPeer (s : State) (ch : ChIdx) (i : Nat) : Bool := s.f ch (R.CH_DIG_PEER_VALID i) == 1

/-- Peers of an entry that are in use. -/
def State.peersOf (s : State) (ch : ChIdx) (mask : Nat) : List Nat :=
  (List.range 8).filter fun i => bit mask i && s.digPeer ch i

/-- The round ends when no entry is left; else the reading of the next region begins. -/
def State.digBusy (s : State) (ch : ChIdx) : State :=
  let left := s.prots ch (s.dig ch).next 0
  (s.modC ch fun c => { c with digHand := left.head?.map fun x => ⟨x.2.base, x.2.len, false⟩ }).setF ch R.CH_DIG_STAT_BUSY
    (if left.isEmpty then 0 else 1)

/-- The digest of a region's bytes; of a region that was stored to while it was read, a free value (R429). -/
def State.digestRead (s : State) (torn : Bool) (bs : List Byte) : BitVec 256 × State :=
  if torn then
    let (d, s) := s.draw
    (BitVec.ofNat 256 (leNat ((List.range 32).map (Config.freeByte d))), s)
  else (regionDigest bs, s)

/-- A peer whose digest of a region has not arrived when the next round starts (R427). -/
def State.digAbsent (s : State) (ch : ChIdx) : State :=
  (s.dig ch).own.foldl (fun (s : State) r => (s.peersOf ch r.peers).foldl (fun (s : State) i =>
    if (s.dig ch).peers.any (fun x => x.peer == i && x.region == r.region) then s
    else (s.satF ch R.CH_DIG_STAT_ABSENT 1).post (srcOf ch 0x050) .digestAbsent [i, r.region]) s) s

/-- The digests known of a region: the own one and every peer's that has arrived. -/
def DigSt.known (d : DigSt) (region : Nat) : List (BitVec 256) :=
  (d.own.filter fun r => r.region == region).map (·.digest) ++ (d.peers.filter fun x => x.region == region).map (·.digest)

/-- The verdict over the digests of a region: 0 MINORITY, 1 MAJORITY, 2 NONE (R428). -/
def verdict (own : BitVec 256) (l : List (BitVec 256)) : Nat :=
  let major (x : BitVec 256) : Bool := l.length < 2 * (l.filter (· == x)).length
  if major own then 1 else if l.any major then 0 else 2

/-- A peer's digest that differs: the event, its count, and a DIGEST record (R428). -/
def State.digMismatch (s : State) (ch : ChIdx) (own : BitVec 256) (region peer : Nat) : State :=
  let v := verdict own ((s.dig ch).known region)
  let code := (Config.verdictCode v).toNat
  let s := (s.satF ch R.CH_DIG_STAT_MISMATCH 1).post (srcOf ch 0x050) .digestMismatch [region, peer, code]
  s.histAdd 6 clsDigest (ch.val + region * 8) 0 code

/-- The peers' digests of a region that are not yet compared are compared with the own one (R427, R428). -/
def State.digJudge (s : State) (ch : ChIdx) (own : DigRow) : State :=
  let fresh := (s.dig ch).peers.filter fun x => x.region == own.region && !x.seen
  let mark (x : PeerDig) : PeerDig := if x.region == own.region then { x with seen := true } else x
  let s := s.modDig ch fun d => { d with peers := d.peers.map mark }
  fresh.foldl (fun (s : State) x => if x.digest == own.digest then s else s.digMismatch ch own.digest own.region x.peer) s

/-- Every peer of an entry has answered. -/
def State.digAnswered (s : State) (ch : ChIdx) (own : DigRow) : Bool :=
  (s.peersOf ch own.peers).all fun i => (s.dig ch).peers.any fun x => x.peer == i && x.region == own.region

/-- The digests of a region are compared once every peer of its entry has answered, so that the verdict is over them all
(R428, log entry 66). -/
def State.digCompare (s : State) (ch : ChIdx) (region : Nat) : State :=
  match (s.dig ch).own.find? (fun r => r.region == region) with
  | none => s
  | some own => if s.digAnswered ch own then s.digJudge ch own else s

/-- At the start of the next round what has arrived is compared. -/
def State.digLate (s : State) (ch : ChIdx) : State := (s.dig ch).own.foldl (fun (s : State) r => s.digJudge ch r) s

/-- A round begins, or the one before still runs (R426). -/
def State.digRound (s : State) (ch : ChIdx) : State :=
  if s.f ch R.CH_DIG_STAT_BUSY == 1 then
    (s.satF ch R.CH_DIG_STAT_SKIPPED 1).post (srcOf ch 0x050) .digestSkip []
  else
    (((s.digLate ch).digAbsent ch).modDig ch fun _ => ⟨s.pkg.tick.num.toNat, 0, [], []⟩).digBusy ch

/-- DIGEST_ROUND, at a boundary whose number is a multiple of PERIOD. -/
def execDigestRound (ch : Fin 8) (s : State) : Out :=
  let due := s.f ch R.CH_DIG_CFG_EN == 1 && s.pkg.tick.num.toNat % max 1 (s.f ch R.CH_DIG_CFG_PERIOD) == 0
  .next (if s.up ch && due then (s.wake ch 5).digRound ch else s)

/-- The 48 bytes of a DIGEST message (R427). -/
def digestMsg (region tick : Nat) (d : BitVec 256) : List Byte :=
  padTo 8 (leBytes 2 region) ++ leBytes 8 tick ++ digBytes d

/-- The digest of the next region is complete: it goes to every peer of the entry, and is compared with what has arrived. -/
def State.digRegion (s : State) (ch : ChIdx) : State :=
  match s.prots ch (s.dig ch).next 0 with
  | [] => s.digBusy ch
  | (i, p) :: _ =>
    let s := s.modDig ch fun d => { d with next := i + 1 }
    match s.vaRead ch p.base p.len with
    | .error _ => s.digBusy ch
    | .ok bs =>
      let torn := (s.chan[ch]).digHand.any (·.torn)
      let (x, s) := (s.vaTouch ch p.base p.len).digestRead torn bs
      let msg := digestMsg p.region (s.dig ch).round x
      let s := s.modDig ch fun d => { d with own := d.own ++ [⟨p.region, x, p.peers⟩] }
      let s := (s.peersOf ch p.peers).foldl (fun (s : State) k =>
        s.sendMsg ch (s.f ch (R.CH_DIG_PEER_NODE k)) 0 3 false none msg []) s
      (s.digCompare ch p.region).digBusy ch

/-- DIGEST_REGION_DONE. -/
def execDigestRegionDone (ch : Fin 8) (s : State) : Out :=
  .next (if s.up ch && s.f ch R.CH_DIG_STAT_BUSY == 1 then s.digRegion ch else s)

/-- A delivered message that matches leaves the inbox (log entry 11). -/
def State.takeIn (s : State) (ch : ChIdx) (mine : Msg → Bool) : State :=
  s.modFab ch fun b => match b.inbox.findIdx? mine with
    | some i => { b with inbox := b.inbox.eraseIdx i }
    | none => b

/-- DIGEST: a message of another round, or of a node that is no peer, is discarded. -/
def execDigest (ch : Fin 8) (src : BitVec 24) (region : BitVec 16) (tick : BitVec 64) (digest : BitVec 256) (s : State) : Out :=
  if !s.up ch then .next s
  else
    let s := s.takeIn ch fun m => m.src == src.toNat && m.vc == 0 && m.data == digestMsg region.toNat tick.toNat digest
    match (List.range 8).find? fun i => s.digPeer ch i && s.f ch (R.CH_DIG_PEER_NODE i) == src.toNat with
    | none => .next s
    | some i =>
      let again := (s.dig ch).peers.any fun x => x.peer == i && x.region == region.toNat
      if tick.toNat != (s.dig ch).round || again then .next s
      else
        .next ((s.modDig ch fun d => { d with peers := d.peers ++ [⟨i, region.toNat, digest, false⟩] }).digCompare ch region.toNat)

/-! ## Copy areas (R440) -/

/-- The copy mover of a channel. -/
def State.mov (s : State) (ch : ChIdx) : Mover := (s.chan[ch]).mover

/-- A change of the copy mover. -/
def State.modMov (s : State) (ch : ChIdx) (f : Mover → Mover) : State := s.modC ch fun c => { c with mover := f c.mover }

/-- Area `a` of the mover. -/
def Mover.area (m : Mover) (a : Nat) : Area := if a == 0 then m.area0 else m.area1

/-- Area `a` changed. -/
def Mover.setArea (m : Mover) (a : Nat) (x : Area) : Mover := if a == 0 then { m with area0 := x } else { m with area1 := x }

/-- Generation `g` of an area. -/
def Area.gen (a : Area) (g : Nat) : Gen := if g == 0 then a.g0 else a.g1

/-- Generation `g` changed. -/
def Area.setGen (a : Area) (g : Nat) (x : Gen) : Area := if g == 0 then { a with g0 := x } else { a with g1 := x }

/-- The generation that holds the last valid epoch. -/
def Area.best (a : Area) : Option Gen := if (a.gen a.last).valid then some (a.gen a.last) else none

/-- The generation that an epoch writes: the one that does not hold the last valid epoch. -/
def Area.target (a : Area) : Nat := if (a.best).isSome then 1 - a.last else a.last

/-- Bytes of a generation. -/
def State.genSize (s : State) (ch : ChIdx) (a : Nat) : Nat := s.f ch (R.CH_PAREA_LO_SIZE a) * 2 ^ 26 / 2

/-- Address of a generation. -/
def State.genBase (s : State) (ch : ChIdx) (a g : Nat) : Nat :=
  s.f ch (R.CH_PAREA_LO_BASE_LO a) * 4096 + s.f ch (R.CH_PAREA_HI_BASE_HI a) * 2 ^ 32 + g * s.genSize ch a

/-- GEN and VALID of CH_PC_STAT follow area 0. -/
def State.pcView (s : State) (ch : ChIdx) : State :=
  let a := (s.mov ch).area0
  (s.setF ch R.CH_PC_STAT_GEN a.last).setF ch R.CH_PC_STAT_VALID (if a.best.isSome then 1 else 0)

/-- A manifest in memory: the 64-byte header and the entries (R442, log entry 27). -/
def manifestBytes (epoch src tick : Nat) (l : List ManEntry) : List Byte :=
  padTo 64 (leBytes 4 0x5453464D ++ leBytes 8 epoch ++ leBytes 4 src ++ leBytes 8 tick ++ leBytes 4 l.length) ++
    l.flatMap fun e => padTo 8 (leBytes 2 e.region ++ leBytes 1 e.kind) ++ leBytes 8 e.len ++ padTo 16 (leBytes 8 e.off) ++
      digBytes e.digest

/-- Bytes stored by the mover, for the partition, or for HOST where they come from another channel (R442); none when the access
fails. -/
def State.movWrite (s : State) (ch : ChIdx) (va : Nat) (bs : List Byte) (host : Bool := false) : Option State :=
  match s.vaWrite ch va bs host with
  | .ok s => some s
  | .error _ => none

/-- A generation is marked invalid, in the mover and in memory, before the first byte of an epoch lands (R440). -/
def State.genOpen (s : State) (ch : ChIdx) (a epoch : Nat) : State :=
  let x := (s.mov ch).area a
  let g := x.target
  let s := s.modMov ch fun m => m.setArea a (x.setGen g ⟨epoch, false, []⟩)
  let s := (s.movWrite ch (s.genBase ch a g) (List.replicate 4096 0)).getD s
  if a == 0 then s.pcView ch else s

/-- The generation that an epoch has filled is marked valid. -/
def State.genClose (s : State) (ch : ChIdx) (a : Nat) (x : Gen) (bytes : List Byte) : State :=
  let g := ((s.mov ch).area a).target
  let put (y : Area) : Area := { y.setGen g x with last := g }
  let s := s.modMov ch fun m => m.setArea a (put (m.area a))
  let s := (s.movWrite ch (s.genBase ch a g) (padTo 4096 bytes)).getD s
  if a == 0 then s.pcView ch else s

/-! ## Copy messages (Table 15.7) -/

/-- Bytes of one copy message. -/
def copyChunk : Nat := 2 ^ 19

/-- The header of a copy message. -/
def copyHead (epoch region kind off status : Nat) : List Byte :=
  leBytes 4 epoch ++ leBytes 2 region ++ leBytes 1 kind ++ leBytes 1 0 ++ leBytes 4 off ++ leBytes 4 status

/-- A copy message on VC6: DATA and MANIFEST carry data, a request and an ACK none (log entry 27). -/
def State.copySend (s : State) (ch : ChIdx) (dst : Nat) (head data : List Byte) (carry : Bool) : State :=
  s.sendMsg ch dst 6 (if carry then 1 else 3) false none head data

/-- A region goes out in messages of 512 KiB. -/
def State.copyRegion (s : State) (ch : ChIdx) (dst epoch region : Nat) (bs : List Byte) : State :=
  (List.range (ceilDiv bs.length copyChunk)).foldl (fun (s : State) i =>
    s.copySend ch dst (copyHead epoch region 0x30 i 0) (slice bs (i * copyChunk) copyChunk) true) s

/-- The mover's last work ended: idle, STATE 0. -/
def State.movIdle (s : State) (ch : ChIdx) : State :=
  (s.modMov ch fun m => { m with phase := .idle, rx := none, landed := [] }).setF ch R.CH_PC_STAT_STATE 0

/-- An epoch or restore fails: it is counted, and its event posted. -/
def State.movFail (s : State) (ch : ChIdx) (e : Ev) : State :=
  ((s.movIdle ch).satF ch R.CH_PC_STAT_FAILS 1).post (srcOf ch 0x051) e []

/-- EPOCH of CH_PC_STAT. -/
def State.showEpoch (s : State) (ch : ChIdx) (epoch : Nat) : State := s.setF ch R.CH_PC_STAT_EPOCH epoch

/-! ## A copy epoch at its source (R441) -/

/-- An epoch begins, or is skipped and counted while another runs (log entry 67). -/
def State.copyBegin (s : State) (ch : ChIdx) : State :=
  if (s.mov ch).phase != .idle then s.satF ch R.CH_PC_STAT_FAILS 1
  else
    let wait := s.f ch R.CH_PC_CTL_WEN == 1
    let s := s.modMov ch fun m => { m with phase := if wait then .waiting else .reading, epoch := m.epoch + 1 }
    (s.setF ch R.CH_PC_STAT_STATE 1).moverWait ch

/-- COPY_EPOCH, at a boundary whose number is a multiple of PERIOD; a PERIOD of 0 starts no epoch. -/
def execCopyEpoch (ch : Fin 8) (s : State) : Out :=
  let n := s.f ch R.CH_PC_CFG_PERIOD
  let due := s.f ch R.CH_PC_CFG_EN == 1 && n != 0 && s.pkg.tick.num.toNat % n == 0
  .next (if s.up ch && due then (s.wake ch 5).copyBegin ch else s)

/-- The regions of an epoch as read, each with its place in a generation and its digest; none when a read fails. -/
def State.copyRead (s : State) (ch : ChIdx) : Nat → List (Nat × Prot) → Option (List (ManEntry × List Byte))
  | _, [] => some []
  | place, (_, p) :: more =>
    match s.vaRead ch p.base p.len with
    | .error _ => none
    | .ok bs =>
      (State.copyRead s ch (place + p.len) more).map fun l =>
        ((⟨p.region, p.kind, p.len, place, regionDigest bs⟩ : ManEntry), bs) :: l

/-- SSEM is signalled when the last byte has been read (R441). -/
def State.copySignal (s : State) (ch : ChIdx) : State :=
  if s.f ch R.CH_PC_CTL_SEN == 1 then s.semSignal ch 0x051 (s.f ch R.CH_PC_CTL_SSEM) 1 else s

/-- The regions of an epoch land in the channel's own area 1; none when they do not fit or a store fails. -/
def State.copyLocal (s : State) (ch : ChIdx) (l : List (ManEntry × List Byte)) : Option State :=
  let g := ((s.mov ch).area 1).target
  let base := s.genBase ch 1 g
  if s.genSize ch 1 < 4096 + (l.map fun x => x.1.len).sum then none
  else l.foldl (fun (r : Option State) x => r.bind fun s => s.movWrite ch (base + x.1.off) x.2) (some s)

/-- COPY_READ_DONE: the data go to the target, SSEM is signalled, and the manifest follows. -/
def State.copyDone (s : State) (ch : ChIdx) : State :=
  let epoch := (s.mov ch).epoch
  match s.copyRead ch 4096 (s.prots ch 0 1) with
  | none => s.movFail ch .pcFail
  | some l =>
    let s := (s.prots ch 0 1).foldl (fun (s : State) x => s.vaTouch ch x.2.base x.2.len) s
    let man := l.map (·.1)
    let bytes := manifestBytes epoch (s.node ch) s.pkg.tick.num.toNat man
    if s.f ch R.CH_PC_TGT_LOCAL == 1 then
      let s := s.genOpen ch 1 epoch
      match s.copyLocal ch l with
      | none => (s.copySignal ch).movFail ch .pcFail
      | some s =>
        let s := ((s.copySignal ch).genClose ch 1 ⟨epoch, true, man⟩ bytes).showEpoch ch epoch
        (s.movIdle ch).post (srcOf ch 0x051) .pcDone []
    else
      let dst := s.f ch R.CH_PC_TGT_NODE
      let s := l.foldl (fun (s : State) x => s.copyRegion ch dst epoch x.1.region x.2) s
      let s := (s.copySignal ch).copySend ch dst (copyHead epoch 0 0x31 0 0) bytes true
      (s.modMov ch fun m => { m with phase := .manifest }).showEpoch ch epoch

/-- COPY_READ_DONE. -/
def execCopyReadDone (ch : Fin 8) (s : State) : Out :=
  .next (if s.up ch && (s.mov ch).phase == .reading then s.copyDone ch else s)

/-- ACK: the answer to the manifest of the epoch in hand. -/
def execAck (ch : Fin 8) (src : BitVec 24) (epoch : BitVec 32) (status : BitVec 32) (s : State) : Out :=
  if !s.up ch then .next s
  else
    let s := s.takeIn ch fun m => m.src == src.toNat && m.vc == 6 && m.data == copyHead epoch.toNat 0 0x33 0 status.toNat
    let mine := (s.mov ch).phase == .manifest && s.f ch R.CH_PC_TGT_NODE == src.toNat && (s.mov ch).epoch % 2 ^ 32 == epoch.toNat
    .next (if !mine then s
      else if status = 0 then (s.movIdle ch).post (srcOf ch 0x051) .pcDone []
      else s.movFail ch .pcFail)

/-- PC_ACK_TIMEOUT: no ACK within 1 s of the manifest. -/
def execPcAckTimeout (ch : Fin 8) (s : State) : Out :=
  .next (if s.up ch && (s.mov ch).phase == .manifest then s.movFail ch .pcFail else s)

/-! ## Restores (R443, R444) -/

/-- Every region of a manifest has an entry of the same REGION_ID and LEN (R444). -/
def State.restorable (s : State) (ch : ChIdx) (l : List ManEntry) : Bool :=
  l.all fun e => (s.protOf ch e.region).any fun p => p.len == e.len

/-- Every region of a manifest stands at its BASE with its digest. -/
def State.restored (s : State) (ch : ChIdx) (l : List ManEntry) : Bool :=
  l.all fun e => match s.protOf ch e.region with
    | none => false
    | some p => match s.vaRead ch p.base e.len with
      | .error _ => false
      | .ok bs => regionDigest bs == e.digest

/-- A restore ends with every region checked. -/
def State.restoreOk (s : State) (ch : ChIdx) (epoch : Nat) : State :=
  ((s.movIdle ch).showEpoch ch epoch).post (srcOf ch 0x051) .restoreDone []

/-- A restore from the channel's own area 1. -/
def State.restoreLocal (s : State) (ch : ChIdx) : State :=
  let a := (s.mov ch).area1
  match a.best with
  | none => s.movFail ch .restoreFail
  | some g =>
    if !s.restorable ch g.man then s.movFail ch .restoreFail
    else
      let base := s.genBase ch 1 a.last
      let s := g.man.foldl (fun (s : State) e =>
        match s.protOf ch e.region, s.vaRead ch (base + e.off) e.len with
        | some p, .ok bs => ((s.vaTouch ch (base + e.off) e.len).movWrite ch p.base bs).getD s
        | _, _ => s) s
      if s.restored ch g.man then s.restoreOk ch g.epoch else s.movFail ch .restoreFail

/-- A restore begins: RESTORE_REQ goes to the partner, or the own area 1 serves. -/
def State.restoreBegin (s : State) (ch : ChIdx) : State :=
  if (s.mov ch).phase != .idle then s.satF ch R.CH_PC_STAT_FAILS 1
  else if s.f ch R.CH_PC_TGT_LOCAL == 1 then s.restoreLocal ch
  else
    let s := (s.modMov ch fun m => { m with phase := .restoring, rx := none, landed := [] }).setF ch R.CH_PC_STAT_STATE 2
    s.copySend ch (s.f ch R.CH_PC_TGT_NODE) (copyHead 0 0 0x32 0 0) [] false

/-- A write of CH_PC_CTL; GO starts what MODE names and wakes the channel (R441, R443). -/
def State.pcCtl (s : State) (ch : ChIdx) (v : Nat) : State :=
  let go := bit v 31
  let s := s.modC ch (·.wr 0xB018 (BitVec.ofNat 32 (bits v 18 0)))
  if !go then s
  else
    let s := s.wake ch 6
    if bit v 18 then s.restoreBegin ch else s.copyBegin ch

/-- PC_COPY_GO: MODE COPY. -/
def execPcCopyGo (ch : Fin 8) (val : BitVec 32) (s : State) : Out := .next (s.chanWr ch 0xB018 fun s => s.pcCtl ch val.toNat)

/-- PC_RESTORE_GO: MODE RESTORE. -/
def execPcRestoreGo (ch : Fin 8) (val : BitVec 32) (s : State) : Out := .next (s.chanWr ch 0xB018 fun s => s.pcCtl ch val.toNat)

/-- RESTORE_REQ: the partner serves it when the source is SRC of its area 0 and a valid epoch stands there, with no job
involved: the regions in manifest order, then the manifest as it stands in the generation. -/
def State.serveRestore (s : State) (ch : ChIdx) (src : Nat) : State :=
  let a := (s.mov ch).area0
  match a.best with
  | none => s
  | some g =>
    if s.f ch R.CH_PAREA_SRC_SRC != src then s
    else
      let base := s.genBase ch 0 a.last
      let read := g.man.foldl (fun (r : Option (List (Nat × List Byte))) e => r.bind fun l =>
        match s.vaRead ch (base + e.off) e.len with
        | .ok bs => some (l ++ [(e.region, bs)])
        | .error _ => none) (some [])
      match read, s.vaRead ch base (64 + 64 * g.man.length) with
      | some l, .ok man =>
        let s := g.man.foldl (fun (s : State) e => s.vaTouch ch (base + e.off) e.len) s
        let s := l.foldl (fun (s : State) x => s.copyRegion ch src g.epoch x.1 x.2) s
        s.copySend ch src (copyHead g.epoch 0 0x31 0 0) man true
      | _, _ => s

/-- RESTORE_REQ. -/
def execRestoreReq (ch : Fin 8) (src : BitVec 24) (s : State) : Out :=
  if !s.up ch then .next s
  else
    let s := s.takeIn ch fun m => m.src == src.toNat && m.vc == 6 && m.data == copyHead 0 0 0x32 0 0
    .next (s.serveRestore ch src.toNat)

/-- RESTORE_FAIL: 1 s without messages from the partner, or a check that fails. -/
def execRestoreFail (ch : Fin 8) (s : State) : Out :=
  .next (if s.up ch && (s.mov ch).phase == .restoring then s.movFail ch .restoreFail else s)

/-! ## An epoch at its receiver (R442, R444) -/

/-- A node is the partner of the restore in hand. -/
def State.restoringFrom (s : State) (ch : ChIdx) (src : Nat) : Bool :=
  (s.mov ch).phase == .restoring && s.f ch R.CH_PC_TGT_NODE == src

/-- A chunk of a restore goes to the BASE of its region. -/
def State.landRestore (s : State) (ch : ChIdx) (region off : Nat) (bs : List Byte) : State :=
  match s.protOf ch region with
  | none => s
  | some p =>
    if p.len < off * copyChunk + bs.length then s
    else match s.movWrite ch (p.base + off * copyChunk) bs true with
      | none => s
      | some s => s.modMov ch fun m => { m with landed := m.landed ++ [⟨region, off, 0, bs.length⟩] }

/-- A chunk of a copy epoch lands in area 0 behind what has landed of the epoch; the first chunk of an epoch opens the
generation. A chunk that does not fit is not stored. -/
def State.landCopy (s : State) (ch : ChIdx) (epoch region off : Nat) (bs : List Byte) : State :=
  let s := if (s.mov ch).rx == some epoch then s
    else (s.genOpen ch 0 epoch).modMov ch fun m => { m with rx := some epoch, landed := [] }
  let place := 4096 + ((s.mov ch).landed.map (·.len)).sum
  let s := s.modMov ch fun m => { m with landed := m.landed ++ [⟨region, off, place, bs.length⟩] }
  if s.genSize ch 0 < place + bs.length then s
  else (s.movWrite ch (s.genBase ch 0 ((s.mov ch).area0).target + place) bs true).getD s

/-- COPY_DATA: accepted from the partner of a restore, or from SRC; from any other node it is discarded. -/
def execCopyData (ch : Fin 8) (src : BitVec 24) (epoch : BitVec 32) (region : BitVec 16) (off : BitVec 32)
    (data : List (BitVec 8)) (s : State) : Out :=
  if !s.up ch then .next s
  else
    let s := s.takeIn ch fun m => m.src == src.toNat && m.vc == 6 &&
      m.data.take 16 == copyHead epoch.toNat region.toNat 0x30 off.toNat 0
    .next (if s.restoringFrom ch src.toNat then s.landRestore ch region.toNat off.toNat data
      else if s.f ch R.CH_PAREA_SRC_SRC == src.toNat then s.landCopy ch epoch.toNat region.toNat off.toNat data
      else s)

/-- The chunks of a region landed in order, without a gap, at the places its manifest entry gives. -/
def Mover.complete (m : Mover) (e : ManEntry) (placed : Bool) : Bool :=
  let l := m.landed.filter fun x => x.region == e.region
  (List.range (ceilDiv e.len copyChunk)).all fun i => l.any fun x =>
    x.off == i && x.len == min copyChunk (e.len - i * copyChunk) && (!placed || x.place == e.off + i * copyChunk)

/-- STATUS of the answer to a manifest (Table 15.7): 2 when the area is too small, 1 when a region does not check, else 0. -/
def State.copyStatus (s : State) (ch : ChIdx) (epoch : Nat) (l : List ManEntry) : Nat :=
  let base := s.genBase ch 0 ((s.mov ch).area0).target
  let checks (e : ManEntry) : Bool := (s.mov ch).complete e true && match s.vaRead ch (base + e.off) e.len with
    | .ok bs => regionDigest bs == e.digest
    | .error _ => false
  if s.genSize ch 0 < 4096 + (l.map (·.len)).sum then 2
  else if (l.isEmpty || (s.mov ch).rx == some (epoch % 2 ^ 32)) && l.all checks then 0
  else 1

/-- A manifest of a copy epoch from SRC: every region is checked, the generation marked valid or left invalid, and ACK
answers. -/
def State.manCopy (s : State) (ch : ChIdx) (src epoch : Nat) (l : List ManEntry) : State :=
  let s := if (s.mov ch).rx == some (epoch % 2 ^ 32) then s else s.genOpen ch 0 epoch
  let st := s.copyStatus ch epoch l
  let s := s.modMov ch fun m => { m with rx := none, landed := [] }
  let s := if st == 0 then s.genClose ch 0 ⟨epoch, true, l⟩ (manifestBytes epoch src s.pkg.tick.num.toNat l) else s
  s.copySend ch src (copyHead epoch 0 0x33 0 st) [] false

/-- A manifest of a restore: refused with ACK STATUS 3 when a region has no entry of its LEN; else every region must have
arrived and check. -/
def State.manRestore (s : State) (ch : ChIdx) (src epoch : Nat) (l : List ManEntry) : State :=
  if !s.restorable ch l then (s.copySend ch src (copyHead epoch 0 0x33 0 3) [] false).movFail ch .restoreFail
  else if (l.all fun e => (s.mov ch).complete e false) && s.restored ch l then s.restoreOk ch epoch
  else s.movFail ch .restoreFail

/-- MANIFEST. -/
def execManifest (ch : Fin 8) (src : BitVec 24) (epoch : BitVec 64) (entries : List ManEntry) (s : State) : Out :=
  if !s.up ch then .next s
  else
    let s := s.takeIn ch fun m => m.src == src.toNat && m.vc == 6 && m.data.take 16 == copyHead epoch.toNat 0 0x31 0 0
    .next (if s.restoringFrom ch src.toNat then s.manRestore ch src.toNat epoch.toNat entries
      else if s.f ch R.CH_PAREA_SRC_SRC == src.toNat then s.manCopy ch src.toNat epoch.toNat entries
      else s)

end Sys2Proof.Machine
end

