-- ==== Sys2Proof/Machine/HostRegs.lean ====
section
/-! DEFINITION. The register window and the bit-alias region of the host port, reads and their effects, the voter, and
event interrupts (R447 to R457, R515, R516). -/

namespace Sys2Proof.Machine

open Sys2Proof

/-- The state after a command that goes on. -/
def after (o : Out) (s : State) : State :=
  match o with
  | .next t => t
  | _ => s

/-! ## The register map -/

/-- Where an offset of BAR0 falls (R447). -/
inductive BarPlace where
  | window
  /-- The alias word of bit `b` of the register at an offset. -/
  | alias_ (off b : Nat)
  | outside
  deriving DecidableEq, Repr

/-- The end of the register window. -/
def windowEnd : Nat := 0x80000
/-- ALIAS_BASE. -/
def aliasBase : Nat := 0x4000000

/-- The region of an offset; the alias word of bit b of the register at o lies at ALIAS_BASE + (32 o + b) x 4. -/
def placeOfOff (off : Nat) : BarPlace :=
  if off < windowEnd then .window
  else if aliasBase ≤ off && off < aliasBase + windowEnd * 128 then
    let k := (off - aliasBase) / 4
    .alias_ (k / 32) (k % 32)
  else .outside

/-- Byte `off` belongs to the word that starts here. -/
def wordOff (off : Nat) : Nat := off / 4 * 4

/-- The index of an instance of a strided register block, when `off` falls in it: base, stride, count, and the offset
within the stride. -/
def inst (base stride count sub off : Nat) : Option Nat :=
  if base + sub ≤ off && off < base + stride * count + sub && (off - base - sub) % stride == 0 then some ((off - base - sub) / stride)
  else none

/-! ## The value in force -/

/-- A number as a register word. -/
def regWord (n : Nat) : Word := BitVec.ofNat 32 n

/-- A wait is blocked on the semaphore (CH_SEM WAITERS). -/
def State.waiters (s : State) (ch : ChIdx) (n : Nat) : Bool :=
  ((List.finRange 16).any fun jc => (s.ctx ch jc).st == .waitSem && match (s.ctx ch jc).waitOn with
    | .sem k _ _ => k == n
    | _ => false) ||
  (engines.any fun e => (s.eq ch e).heads.any fun h => h.waits.any (fun w => w.1 == n) && !s.waitsMet ch h.waits) ||
  ((s.mov ch).phase == .waiting && s.f ch R.CH_PC_CTL_WSEM == n)

/-- CH_SEM. -/
def State.viewSem (s : State) (ch : ChIdx) (n : Nat) : Word :=
  let m := s.semAt ch n
  regWord (m.count + (m.owner.getD 16) * 2 ^ 16 + (if s.waiters ch n then 2 ^ 21 else 0))

/-- CH_QSTAT: FULL_STALLS is stored. -/
def State.viewQ (s : State) (ch : ChIdx) (e : Fin 11) : Word :=
  let q := s.eq ch e
  let jc := match q.run with
    | some x => 2 ^ 7 + x.jc * 2 ^ 8
    | none => 0
  regWord (min 64 (q.waiting.length + q.parked.length) + jc + s.f ch (fullStalls e.val) * 2 ^ 12)

/-- CH_JC_STATUS, CH_JC_FAULT and CH_JC_SCHED. -/
def State.viewCtx (s : State) (ch : ChIdx) (jc : JcIdx) (sub : Nat) : Word :=
  let c := s.ctx ch jc
  if sub == 0 then regWord (c.st.code + c.job.client * 2 ^ 4 + (min 255 (s.entriesOf ch jc).length) * 2 ^ 16)
  else if sub == 4 then regWord (c.fStatus + c.fEng * 2 ^ 16 + c.fTd * 2 ^ 20)
  else
    let d := c.sched
    regWord ((if d.lc then 1 else 0) + (if d.slice then 2 else 0) + (if d.donor.isSome then 4 else 0) + (if d.demoted then 8 else 0) +
      (min 65535 d.left) * 2 ^ 4 + (min 255 d.debt) * 2 ^ 20)

/-- The tag of an ARWS slot. -/
def Arws.tag (a : Arws) (slot : Nat) : Nat := Cells.get (fun _ => 0x10) a.tags slot

/-- CH_ARWS_OWN. -/
def State.viewOwn (s : State) (ch : ChIdx) (i : Nat) : Word :=
  let t (k : Nat) : Nat := (s.chan[ch]).arws.tag (4 * i + k)
  regWord (t 0 + t 1 * 2 ^ 8 + t 2 * 2 ^ 16 + t 3 * 2 ^ 24)

/-- CH_ARWS_STAT: DENIED is stored. -/
def State.viewArws (s : State) (ch : ChIdx) : Word :=
  let a := (s.chan[ch]).arws
  let free := ((List.range 512).filter fun k => a.tag k == 0x10).length
  regWord (a.clearing.length + free * 2 ^ 10 + s.f ch R.CH_ARWS_STAT_DENIED * 2 ^ 20)

/-- CH_MX_STAT. Whether the drain of the last pass is still in progress is time the model leaves out: a free value while
there is one (log entry 3). -/
def State.viewMx (s : State) (ch : ChIdx) (draw : Nat) : Word :=
  let m := (s.chan[ch]).mx
  let cls := if m.cls == 4 then 2 else if m.cls == 2 then 1 else 0
  let who := engines.findSome? fun e => (s.eq ch e).run.filter fun x => x.array && x.zero.isNone
  let busy := match who with
    | some x => 1 + (if x.marver then 2 else 0) + x.jc * 2 ^ 4
    | none => 0
  let drain := if m.drain == 0 then 0 else (Config.freeWord draw).toNat % 2
  regWord (busy + cls * 2 ^ 2 + (min 65535 m.pass) * 2 ^ 8 + drain * 2 ^ 24)

/-- CH_EP_STAT, with DRAIN as in CH_MX_STAT. -/
def State.viewEp (s : State) (ch : ChIdx) (draw : Nat) : Word :=
  let busy := match (s.eq ch 1).run with
    | some x => 1 + x.jc * 2
    | none => 0
  let drain := if (s.chan[ch]).mx.drain == 0 then 0 else (Config.freeWord draw).toNat % 2
  regWord (busy + drain * 2 ^ 5)

/-- CH_GT_LANES. -/
def State.viewLanes (s : State) (ch : ChIdx) : Word :=
  let jc := match (s.eq ch 10).run with
    | some x => x.jc
    | none => 0
  regWord ((s.chan[ch]).lanes.foldl (fun (a : Nat) l => a ||| 2 ^ l.1) 0 + jc * 2 ^ 16)

/-- A channel's register as it reads. -/
def State.chanView (s : State) (ch : ChIdx) (off draw : Nat) : Word :=
  match inst 0x2000 4 256 0 off, inst 0x2400 4 256 0 off, inst 0x400 4 11 0 off, inst 0x5000 4 128 0 off, inst 0x9000 32 16 0x14 off with
  | some n, _, _, _, _ => s.viewSem ch n
  | _, some n, _, _, _ => regWord (s.semAt ch n).init
  | _, _, some e, _, _ => s.viewQ ch (engOf e)
  | _, _, _, some i, _ => s.viewOwn ch i
  | _, _, _, _, some k => (R.CH_CL_SLOT_STAT_STATE k).put ((s.chan[ch]).rd off) (s.slotView ch (Fin.ofNat 16 k))
  | _, _, _, _, _ =>
    match inst 0x1000 0x40 16 0 off, inst 0x1000 0x40 16 4 off, inst 0x1000 0x40 16 0x14 off with
    | some n, _, _ => s.viewCtx ch (jcOf n) 0
    | _, some n, _ => s.viewCtx ch (jcOf n) 4
    | _, _, some n => s.viewCtx ch (jcOf n) 0x14
    | _, _, _ =>
      if off == 0x5200 then s.viewArws ch
      else if off == 0x700 then s.viewMx ch draw
      else if off == 0xA00 then s.viewEp ch draw
      else if off == 0xA010 then s.viewLanes ch
      else if off == 0x7000 then R.MEM_MMU_INVBUSY.put ((s.chan[ch]).rd off) (if s.invBusy ch then 1 else 0)
      else (s.chan[ch]).rd off

/-- SERIAL of the image in force, 0 while none. -/
def State.serial (s : State) : DWord :=
  match s.pkg.mould.force with
  | some i => i.serial
  | none => 0

/-- A register of PF0 as it reads: NUM_HI and SERIAL_HI as latched. -/
def State.hubView (s : State) (off : Nat) : Word :=
  if off == 0x108 then regWord s.pkg.tick.num.toNat
  else if off == 0x10C then s.pkg.tick.hiLatch
  else if off == 0x31C then regWord s.serial.toNat
  else if off == 0x320 then s.pkg.tick.serialHi
  else s.pkg.rd off

/-- The register of function `pf` at `off` as it reads; 0 where none stands (R447). -/
def State.view (s : State) (pf : Fin 9) (off draw : Nat) : Word :=
  match pfChan pf with
  | none => s.hubView off
  | some ch => s.chanView ch off draw

/-! ## Writes under the access classes (Table 16.1, R515) -/

/-- The register after a write: RW and RWV fields take the bits written, W1C fields lose the ones written, others stay. -/
def plainWord (hub : Bool) (off : Nat) (old v : Word) : Word :=
  let w := classMask hub off .rw ||| classMask hub off .rwv
  let c := classMask hub off .w1c
  ((old &&& ~~~w) ||| (v &&& w)) &&& ~~~(c &&& v)

/-- A written value of an RWT register: WEIGHT of FAB_VC_CFG is kept within WMIN to WMAX. -/
def State.stagedWord (s : State) (pf : Fin 9) (off : Nat) (v : Word) : Word :=
  match pfChan pf, inst 0x8600 4 8 0 off with
  | some ch, some k =>
    let lo := s.f ch (R.FAB_VC_CFG_WMIN k)
    let hi := s.f ch (R.FAB_VC_CFG_WMAX k)
    (R.FAB_VC_CFG_WEIGHT k).put v (max lo (min hi ((R.FAB_VC_CFG_WEIGHT k).of v)))
  | _, _ => v

/-- A write of a register that no rule of its own governs: under its fields' classes; RWT fields are staged; changed EPOCH
bits are discarded with REG_EPOCH_WRITE (R515). An offset that no register occupies discards it (R447). -/
def State.plainWrite (s : State) (pf : Fin 9) (off : Nat) (v : Word) : State :=
  let hub := pf == 0
  match regFind hub off with
  | none => s
  | some r =>
    let old := s.fnRd pf off
    let epoch := classMask hub off .epoch
    let s := if v &&& epoch == old &&& epoch then s else s.postReg pf .regEpochWrite []
    let s := if r.fields.any (fun f => f.cls == .rwt) then s.stage pf off (s.stagedWord pf off v) else s
    s.fnWr pf off (plainWord hub off old v)

/-- A register that is written only while a condition holds: a write that would change it is otherwise discarded (R516). -/
def State.plainUnless (s : State) (stop : Bool) (pf : Fin 9) (off : Nat) (v : Word) : State :=
  if stop && plainWord (pf == 0) off (s.fnRd pf off) v != s.fnRd pf off then s else s.plainWrite pf off v

/-- The oldest unread record is not yet signalled: with DELAY 0 vector 0 fires at once. -/
def State.evtFire (s : State) (pf : Fin 9) : State :=
  if s.fnFld pf R.EVT_CFG_IRQ == 1 && s.fnFld pf R.EVT_CFG_DELAY == 0 && 0 < s.evtUnread pf && !(s.pkg.evt[pf]).fired then s.irq pf
  else s

/-- A write of xx_EVT_CFG: SIZE changes only while EN is 0; held records enter an enabled ring, and unread ones are signalled
(R457). -/
def State.evtCfg (s : State) (pf : Fin 9) (v : Word) : State :=
  if s.fnFld pf R.EVT_CFG_EN == 1 && R.EVT_CFG_SIZE.of v != s.fnFld pf R.EVT_CFG_SIZE then s
  else ((s.plainWrite pf 0x88 v).evtDrain pf 257).evtFire pf

/-- A write of xx_EVT_PTR: RD advances, and not past WR; held records follow (R457). -/
def State.evtPtr (s : State) (pf : Fin 9) (v : Word) : State :=
  let rd := R.EVT_PTR_RD.of v
  let old := s.fnFld pf R.EVT_PTR_RD
  if rd == old || !rdOk (s.fnFld pf R.EVT_PTR_WR) old rd 65536 then s
  else
    let s := (s.fnSet pf R.EVT_PTR_RD rd).modP fun p => { p with evt := p.evt.set pf { p.evt[pf] with fired := false } }
    (s.evtDrain pf 257).evtFire pf

/-- A write of HUB_MOULD_CMD; a CMD the table does not name is discarded. -/
def State.mouldWrite (s : State) (v : Word) : State :=
  let cmd := R.HUB_MOULD_CMD_CMD.of v
  if !v.getLsbD 31 then s.hostWr 0 0x300 fun s => if 1 ≤ cmd && cmd ≤ 4 then s.modP (·.setFld R.HUB_MOULD_CMD_CMD cmd) else s
  else match cmd with
    | 1 => after (execLoad .host s) s
    | 2 => after (execCommit .host s) s
    | 3 => after (execAbandon .host s) s
    | 4 => after (execStore .host s) s
    | _ => s.hostWr 0 0x300 id

/-- A write of GAF_SPLIT: a 1 clears its bit. -/
def State.splitWrite (s : State) (v : Word) : State :=
  let s := if v.getLsbD 0 then after (execSplitSeenClear s) s else s
  if v.getLsbD 1 then after (execPassiveHoldRelease s) s else s.hostWr 0 0x208 id

/-- The bucket of a MEM_REG_CFG register, and its source. -/
def bucketAt (pf : Fin 9) (off : Nat) : Option (BucketInst × Fin 9) :=
  match pfChan pf, inst 0x7100 8 18 0 off with
  | none, some n => if n < 9 then some (.t3, Fin.ofNat 9 n) else none
  | some ch, some n => some (if n < 9 then .t1 ch else .t2 ch, Fin.ofNat 9 (n % 9))
  | _, none => none

/-- A write of a register of PF0. -/
def State.hubWrite (s : State) (off : Nat) (v : Word) : State :=
  match bucketAt 0 off with
  | some (i, k) => after (execRegCfgWrite i k v s) s
  | none =>
    match off with
    | 0x38 => after (execCperRdWrite v s) s
    | 0x100 => after (execTickCfgWrite .host v s) s
    | 0x208 => s.splitWrite v
    | 0x300 => s.mouldWrite v
    | 0x400 => after (execHubPwrOff v s) s
    | 0x480 => after (execSecPolicyWrite .host v s) s
    | 0x484 => after (execSecAlarmAck .host v s.pkg.sec.persist s) s
    | 0x88 => s.hostWr 0 off (·.evtCfg 0 v)
    | 0x8C => s.hostWr 0 off (·.evtPtr 0 v)
    | _ => s.hostWr 0 off (·.plainWrite 0 off v)

/-- A write of a register of a job context. -/
def State.ctxWrite (s : State) (ch : ChIdx) (off : Nat) (v : Word) : Option State :=
  match inst 0x1000 0x40 16 8 off, inst 0x1000 0x40 16 0xC off, inst 0x1000 0x40 16 0x10 off with
  | some n, _, _ => some (after (execCqBaseWrite ch (jcOf n) false v s) s)
  | _, some n, _ => some (after (execCqBaseWrite ch (jcOf n) true v s) s)
  | _, _, some n => some (after (execCqRdWrite ch (jcOf n) v s) s)
  | _, _, _ => none

/-- A write of a register of a submission queue. -/
def State.sqWrite (s : State) (ch : ChIdx) (off : Nat) (v : Word) : Option State :=
  match inst 0x800 0x10 8 0 off, inst 0x800 0x10 8 4 off, inst 0x800 0x10 8 8 off, inst 0x800 0x10 8 0xC off with
  | some n, _, _, _ => some (after (execSqBaseWrite ch (Fin.ofNat 8 n) false v s) s)
  | _, some n, _, _ => some (after (execSqBaseWrite ch (Fin.ofNat 8 n) true v s) s)
  | _, _, some n, _ => some (after (execSqDoorbell ch (Fin.ofNat 8 n) v s) s)
  | _, _, _, some n => some (after (execJcrRdWrite ch (Fin.ofNat 8 n) v s) s)
  | _, _, _, _ => none

/-- A write of a register that stands in a block of equal registers. -/
def State.arrayWrite (s : State) (ch : ChIdx) (off : Nat) (v : Word) : Option State :=
  match inst 0x2000 4 256 0 off, inst 0x5000 4 128 0 off, inst 0x6100 4 16 0 off, inst 0x7400 8 4 0 off with
  | some n, _, _, _ => some (after (execChSemWrite ch (Fin.ofNat 256 n) v s) s)
  | _, some n, _, _ => some (after (execArwsOwnWrite ch (Fin.ofNat 128 n) v s) s)
  | _, _, some n, _ => some (after (execFtJcRangeWrite ch (jcOf n) v s) s)
  | _, _, _, some n => some (after (execSwCfgWrite ch (Fin.ofNat 4 n) v s) s)
  | _, _, _, _ =>
    match bucketAt (pfOf ch) off with
    | some (i, k) => some (after (execRegCfgWrite i k v s) s)
    | none =>
      if 0x9000 ≤ off && off < 0x9200 && off % 32 < 20 then
        some (after (execClSlotWrite ch (Fin.ofNat 16 ((off - 0x9000) / 32)) (Fin.ofNat 8 (off % 32 / 4)) v s) s)
      else none

/-- A write of a register of a channel that stands alone. -/
def State.chanWrite (s : State) (ch : ChIdx) (off : Nat) (v : Word) : State :=
  let pf := pfOf ch
  match off with
  | 0x508 => after (execJobKill ch v s) s
  | 0x6000 => after (execFtCtlWrite ch v s) s
  | 0x6004 => s.hostWr pf off fun s => s.plainUnless (s.f ch R.FT_CTL_EN == 1) pf off v
  | 0x6008 => s.hostWr pf off fun s => s.plainUnless (s.f ch R.FT_CTL_EN == 1) pf off v
  | 0x600C => after (execFtHostRelease ch v s) s
  | 0x6018 => s.hostWr pf off fun s => (s.plainWrite pf off v).ftSync ch
  | 0x6800 => after (execRcCtlWrite ch v s) s
  | 0x6804 => s.hostWr pf off fun s => s.plainUnless (s.f ch R.CH_RC_CTL_EN == 1) pf off v
  | 0x6808 => s.hostWr pf off fun s => s.plainUnless (s.f ch R.CH_RC_CTL_EN == 1) pf off v
  | 0x680C => after (execChRcSwap ch v s) s
  | 0x7000 => after (execMemMmuWrite ch v s) s
  | 0x7014 => after (execFlush ch v s) s
  | 0x8684 => after (execFabRingMan ch v s) s
  | 0x9210 => after (execInrGo ch v s) s
  | 0xA000 => after (execGtSplitWrite ch v s) s
  | 0xB018 => after (execPcCopyGo ch v s) s
  | 0xC004 => after (execPwrCmd ch v s) s
  | 0x88 => s.hostWr pf off (·.evtCfg pf v)
  | 0x8C => s.hostWr pf off (·.evtPtr pf v)
  | _ => s.hostWr pf off (·.plainWrite pf off v)

/-- A whole-word write of the register of function `pf` at `off`, under the rule of that register. -/
def State.regWrite (s : State) (pf : Fin 9) (off : Nat) (v : Word) : State :=
  match pfChan pf with
  | none => s.hubWrite off v
  | some ch => (((s.ctxWrite ch off v).orElse fun _ => s.sqWrite ch off v).orElse fun _ => s.arrayWrite ch off v).getD
      (s.chanWrite ch off v)

/-- A write whose byte enables do not cover one whole regWord (R448). -/
def State.partialWrite (s : State) (pf : Fin 9) (off : Nat) : State := s.hostWr pf off (·.postReg pf .regPartial [])

/-! ## The bit-alias region (R451, R452) -/

/-- The class of the field that holds a bit; none for a bit of no register. -/
def classAt (hub : Bool) (off b : Nat) : Option FldClass :=
  ((regFind hub off).bind fun r => r.fields.find? fun f => f.lo ≤ b && b ≤ f.hi).map (·.cls)

/-- The word an alias write stands for: its bit, the other bits as they are, and no one for another W1C bit. An RWT bit is
changed in the staged value, which starts from the value in force. -/
def State.aliasWord (s : State) (pf : Fin 9) (off b : Nat) (on : Bool) : Word :=
  let hub := pf == 0
  let now := s.view pf off 0 &&& ~~~(classMask hub off .w1c)
  let t := classMask hub off .rwt
  let base := match s.pkg.tick.staged.find? (fun r => r.pf == pf.val && r.off == off) with
    | some r => (now &&& ~~~t) ||| (r.val &&& t)
    | none => now
  regWord (putBits base.toNat b b (if on then 1 else 0))

/-- A write of the alias word of bit `b` of the register at `off` (log entry 70). -/
def State.aliasWrite (s : State) (pf : Fin 9) (off b : Nat) (v : Word) : State :=
  match classAt (pf == 0) off b with
  | none | some .ro => s.hostWr pf off id
  | some .w1c => if v.getLsbD 0 then s.regWrite pf off (s.aliasWord pf off b true) else s.hostWr pf off id
  | some _ => s.regWrite pf off (s.aliasWord pf off b (v.getLsbD 0))

/-- An access outside the register window and the alias region of a function (R447). -/
def State.noAccess (s : State) : State := s.answer .unsupported 0

/-- REG_WRITE. -/
def execRegWrite (pf : Fin 9) (off : Nat) (be : BitVec 4) (val : BitVec 32) (s : State) : Out :=
  let off := wordOff off
  .next (match placeOfOff off with
    | .outside => s.noAccess
    | .window => if be != 0xF#4 then s.partialWrite pf off else s.regWrite pf off val
    | .alias_ o b => if be != 0xF#4 then s.partialWrite pf o else s.aliasWrite pf o b val)

/-- ALIAS_WRITE: the alias word of bit `b` of the register at `off`. -/
def execAliasWrite (pf : Fin 9) (off : Nat) (b : Fin 32) (be : BitVec 4) (val : BitVec 32) (s : State) : Out :=
  .next (if windowEnd ≤ off then s.noAccess
    else if be != 0xF#4 then s.partialWrite pf off
    else s.aliasWrite pf off b.val val)

/-! ## Reads (R449, R453) -/

/-- A host read reaches the register, or is answered as R33, R35 and R37 say. -/
def State.hostRd (s : State) (pf : Fin 9) (f : State → State) : State :=
  if !s.present pf then s.answer .unsupported 0
  else match pfChan pf with
    | none => f s
    | some ch => if !s.live ch then s.answer .abort 0 else if (s.chan[ch]).inReset then s.answer .ok 0 else f s

/-- The bits of a register that a read clears (R449). -/
def clearMask (hub : Bool) (off : Nat) : Word :=
  match regFind hub off with
  | none => 0
  | some r => regWord ((r.fields.filter (·.clr)).foldl (fun (a : Nat) f => a + (2 ^ (f.hi + 1 - f.lo) - 1) * 2 ^ f.lo) 0)

/-- A read of HUB_TICK_NUM_LO or HUB_MOULD_SERIAL_LO through the register window latches the upper half (R453). -/
def State.readLatch (s : State) (pf : Fin 9) (off : Nat) : State :=
  if pf != 0 then s
  else if off == 0x108 then s.modP fun p => { p with tick := { p.tick with hiLatch := regWord (p.tick.num.toNat / 2 ^ 32) } }
  else if off == 0x31C then
    let hi := regWord (s.serial.toNat / 2 ^ 32)
    s.modP fun p => { p with tick := { p.tick with serialHi := hi } }
  else s

/-- A read of a register through the register window, with its read effects. -/
def State.readReg (s : State) (pf : Fin 9) (off : Nat) : State :=
  s.hostRd pf fun s =>
    let (d, s) := s.draw
    let v := s.view pf off d
    let m := clearMask (pf == 0) off
    ((s.fnWr pf off (s.fnRd pf off &&& ~~~m)).readLatch pf off).answer .ok v

/-- READ_CLEAR; a read of an alias word returns its bit and has no read effect (R451, R453). -/
def execReadClear (pf : Fin 9) (off : Nat) (s : State) : Out :=
  let off := wordOff off
  .next (match placeOfOff off with
    | .outside => s.noAccess
    | .window => s.readReg pf off
    | .alias_ o b => s.hostRd pf fun s =>
      let (d, s) := s.draw
      s.answer .ok (regWord (bits (s.view pf o d).toNat b b)))

/-- SERIAL_READ: HUB_MOULD_SERIAL_LO. -/
def execSerialRead (s : State) : Out := .next (s.readReg 0 0x31C)

/-! ## The voter (R454, R455) -/

/-- The offsets of the registers of a function that hold a voted field. -/
def votedAt (pf : Fin 9) (off : Nat) : Bool :=
  if pf == 0 then off == 0x200 || off == 0x204 || off == 0x50 || off == 0x480 || (inst 0x7100 8 9 0 off).isSome
  else (inst 0x7100 8 18 0 off).isSome

/-- Source of a function's voter (Table 16.3). -/
def srcVoter (pf : Fin 9) : Nat :=
  match pfChan pf with
  | none => srcHub 0x009
  | some ch => srcOf ch 0x060

/-- A change of the voter. -/
def State.modVote (s : State) (f : Voter → Voter) : State := s.modP fun p => { p with voter := f p.voter }

/-- The copies of one field: function and register. -/
def VoteRow.field (a b : VoteRow) : Bool := a.pf == b.pf && a.off == b.off
/-- The same copy of the same field. -/
def VoteRow.same (a b : VoteRow) : Bool := a.field b && a.copy == b.copy

/-- The package is lost with its hub: every channel's transmitters go off, and the host sees no endpoint (R38). -/
def State.hubLostAll (s : State) : State :=
  (s.eachC fun s c => if s.live c then ((s.allDown c).t2Dark c).modC c fun k => { k with hubLost := true } else s).hubGone

/-- No majority exists: a channel is retired, in the hub the fault is a hub fault (R455). -/
def State.noMajority (s : State) (pf : Fin 9) : State :=
  match pfChan pf with
  | none => s.hubLostAll
  | some ch => if s.live ch then s.retireWhole 4 ch else s

/-- A copy that disagrees: it is rewritten and counted with VOTE_ERR; one that disagrees again within 1 ms is marked stuck;
beside a stuck copy no majority is left (R454, R455). -/
def State.voteOne (s : State) (pf : Fin 9) (u : Upset) : State :=
  let r : VoteRow := ⟨pf.val, u.off, u.bit.val, u.copy.val⟩
  if !votedAt pf u.off || s.pkg.voter.stuck.any (fun x => x.same r) then s
  else if s.pkg.voter.stuck.any (fun x => x.field r) then s.noMajority pf
  else
    let s := s.fnSet pf R.VOTE_ERRS (min 65535 (s.fnFld pf R.VOTE_ERRS + 1))
    let s := ((s.fnSet pf R.VOTE_LAST_OFFSET u.off).fnSet pf R.VOTE_LAST_BIT u.bit.val).fnSet pf R.VOTE_LAST_COPY u.copy.val
    let s := s.post (srcVoter pf) .voteErr [u.off, u.bit.val, u.copy.val]
    if s.pkg.voter.recent.any (fun x => x.1.same r) then
      let s := (s.modVote fun v => { v with stuck := v.stuck ++ [r], recent := v.recent.filter fun x => !x.1.same r }).fnSet pf
        R.VOTE_STUCK (s.fnFld pf R.VOTE_STUCK + 1)
      s.post (srcVoter pf) .voteStuck [u.off, u.bit.val, u.copy.val]
    else s.modVote fun v => { v with recent := v.recent ++ [(r, 100)] }

/-- Checks are 10 µs apart: a rewritten copy counts as rewritten within 1 ms for 100 checks of its function. -/
def Voter.tick (v : Voter) (pf : Fin 9) : Voter :=
  { v with recent := (v.recent.map fun x => if x.1.pf == pf.val then (x.1, x.2 - 1) else x).filter fun x => 0 < x.2 }

/-- VOTE_CHECK: the copies found to disagree at one check of a function's voted fields. -/
def execVoteCheck (pf : Fin 9) (upsets : List Upset) (s : State) : Out :=
  let on := match pfChan pf with
    | none => s.hubOn
    | some ch => s.up ch
  .next (if !on then s
    else (upsets.foldl (fun (s : State) u => s.voteOne pf u) s).modVote (·.tick pf))

/-! ## Event interrupts (R457) -/

/-- EVENT_IRQ: vector 0 fires DELAY µs after the oldest unread record was written; a function in reset raises none (R35). -/
def execEventIrq (pf : Fin 9) (s : State) : Out :=
  let quiet := match pfChan pf with
    | none => false
    | some ch => (s.chan[ch]).inReset
  .next (if !s.present pf || quiet || s.fnFld pf R.EVT_CFG_IRQ == 0 || s.evtUnread pf == 0 || (s.pkg.evt[pf]).fired then s
    else s.irq pf)

end Sys2Proof.Machine
end

