-- ==== Sys2Proof/Machine/Dispatch.lean ====
section
/-! DEFINITION. One arm per command: the effect of a command on everything but the queue. -/

namespace Sys2Proof.Machine

open Sys2Proof

def exec (i : Instr) (s : State) : Host.Outcome State Fault Refusal :=
  match i with
  | .supplyPresent sup => Sys2Proof.Machine.execSupplyPresent sup s
  | .supplyAbsent sup => Sys2Proof.Machine.execSupplyAbsent sup s
  | .perstAssert => Sys2Proof.Machine.execPerstAssert s
  | .perstRelease => Sys2Proof.Machine.execPerstRelease s
  | .startUp env => Sys2Proof.Machine.execStartUp env s
  | .startupRepeat env => Sys2Proof.Machine.execStartupRepeat env s
  | .flEnFall => Sys2Proof.Machine.execFlEnFall s
  | .hostPortLinkUp ari => Sys2Proof.Machine.execHostPortLinkUp ari s
  | .configRequestAbsent fn => Sys2Proof.Machine.execConfigRequestAbsent fn s
  | .flrChannel ch => Sys2Proof.Machine.execFlrChannel ch s
  | .flrChannelDone ch => Sys2Proof.Machine.execFlrChannelDone ch s
  | .flrHub => Sys2Proof.Machine.execFlrHub s
  | .channelRetire ch => Sys2Proof.Machine.execChannelRetire ch s
  | .hubFault ch => Sys2Proof.Machine.execHubFault ch s
  | .gafferReset gaf => Sys2Proof.Machine.execGafferReset gaf s
  | .gafferReturn gaf => Sys2Proof.Machine.execGafferReturn gaf s
  | .leaseRenew gaf epoch => Sys2Proof.Machine.execLeaseRenew gaf epoch s
  | .leaseExpire observer => Sys2Proof.Machine.execLeaseExpire observer s
  | .leaseClaim gaf epoch => Sys2Proof.Machine.execLeaseClaim gaf epoch s
  | .leaseWindowEnd => Sys2Proof.Machine.execLeaseWindowEnd s
  | .splitGafferReset ms => Sys2Proof.Machine.execSplitGafferReset ms s
  | .gwClaim => Sys2Proof.Machine.execGwClaim s
  | .geClaim heard => Sys2Proof.Machine.execGeClaim heard s
  | .splitSeenClear => Sys2Proof.Machine.execSplitSeenClear s
  | .passiveHoldRelease => Sys2Proof.Machine.execPassiveHoldRelease s
  | .aluAdd ch jc rd ra rb => Sys2Proof.Machine.execAluAdd ch jc rd ra rb s
  | .aluSub ch jc rd ra rb => Sys2Proof.Machine.execAluSub ch jc rd ra rb s
  | .aluAnd ch jc rd ra rb => Sys2Proof.Machine.execAluAnd ch jc rd ra rb s
  | .aluOr ch jc rd ra rb => Sys2Proof.Machine.execAluOr ch jc rd ra rb s
  | .aluXor ch jc rd ra rb => Sys2Proof.Machine.execAluXor ch jc rd ra rb s
  | .aluSll ch jc rd ra rb => Sys2Proof.Machine.execAluSll ch jc rd ra rb s
  | .aluSrl ch jc rd ra rb => Sys2Proof.Machine.execAluSrl ch jc rd ra rb s
  | .aluSra ch jc rd ra rb => Sys2Proof.Machine.execAluSra ch jc rd ra rb s
  | .aluSlt ch jc rd ra rb => Sys2Proof.Machine.execAluSlt ch jc rd ra rb s
  | .aluSltu ch jc rd ra rb => Sys2Proof.Machine.execAluSltu ch jc rd ra rb s
  | .aluMin ch jc rd ra rb => Sys2Proof.Machine.execAluMin ch jc rd ra rb s
  | .aluMax ch jc rd ra rb => Sys2Proof.Machine.execAluMax ch jc rd ra rb s
  | .aluMul ch jc rd ra rb => Sys2Proof.Machine.execAluMul ch jc rd ra rb s
  | .aluMulh ch jc rd ra rb => Sys2Proof.Machine.execAluMulh ch jc rd ra rb s
  | .aluMulhu ch jc rd ra rb => Sys2Proof.Machine.execAluMulhu ch jc rd ra rb s
  | .aluDiv ch jc rd ra rb => Sys2Proof.Machine.execAluDiv ch jc rd ra rb s
  | .aluDivu ch jc rd ra rb => Sys2Proof.Machine.execAluDivu ch jc rd ra rb s
  | .aluRem ch jc rd ra rb => Sys2Proof.Machine.execAluRem ch jc rd ra rb s
  | .aluRemu ch jc rd ra rb => Sys2Proof.Machine.execAluRemu ch jc rd ra rb s
  | .addi ch jc rd ra imm => Sys2Proof.Machine.execAddi ch jc rd ra imm s
  | .andi ch jc rd ra imm => Sys2Proof.Machine.execAndi ch jc rd ra imm s
  | .ori ch jc rd ra imm => Sys2Proof.Machine.execOri ch jc rd ra imm s
  | .xori ch jc rd ra imm => Sys2Proof.Machine.execXori ch jc rd ra imm s
  | .shi ch jc rd ra imm => Sys2Proof.Machine.execShi ch jc rd ra imm s
  | .slti ch jc rd ra imm => Sys2Proof.Machine.execSlti ch jc rd ra imm s
  | .movz ch jc rd hw rsv imm => Sys2Proof.Machine.execMovz ch jc rd hw rsv imm s
  | .movk ch jc rd hw rsv imm => Sys2Proof.Machine.execMovk ch jc rd hw rsv imm s
  | .ld ch jc rd ra imm => Sys2Proof.Machine.execLd ch jc rd ra imm s
  | .lw ch jc rd ra imm => Sys2Proof.Machine.execLw ch jc rd ra imm s
  | .lwu ch jc rd ra imm => Sys2Proof.Machine.execLwu ch jc rd ra imm s
  | .loadComplete ch jc ecc => Sys2Proof.Machine.execLoadComplete ch jc ecc s
  | .st ch jc rd ra imm => Sys2Proof.Machine.execSt ch jc rd ra imm s
  | .stw ch jc rd ra imm => Sys2Proof.Machine.execStw ch jc rd ra imm s
  | .ldl ch jc rd ra imm => Sys2Proof.Machine.execLdl ch jc rd ra imm s
  | .stl ch jc rd ra imm => Sys2Proof.Machine.execStl ch jc rd ra imm s
  | .beq ch jc ra rb off => Sys2Proof.Machine.execBeq ch jc ra rb off s
  | .bne ch jc ra rb off => Sys2Proof.Machine.execBne ch jc ra rb off s
  | .blt ch jc ra rb off => Sys2Proof.Machine.execBlt ch jc ra rb off s
  | .bge ch jc ra rb off => Sys2Proof.Machine.execBge ch jc ra rb off s
  | .bltu ch jc ra rb off => Sys2Proof.Machine.execBltu ch jc ra rb off s
  | .bgeu ch jc ra rb off => Sys2Proof.Machine.execBgeu ch jc ra rb off s
  | .jal ch jc off => Sys2Proof.Machine.execJal ch jc off s
  | .jalr ch jc rd ra imm => Sys2Proof.Machine.execJalr ch jc rd ra imm s
  | .tdld ch jc td ra imm => Sys2Proof.Machine.execTdld ch jc td ra imm s
  | .tdst ch jc td ra imm => Sys2Proof.Machine.execTdst ch jc td ra imm s
  | .tdset ch jc td ra w => Sys2Proof.Machine.execTdset ch jc td ra w s
  | .tdget ch jc td ra w => Sys2Proof.Machine.execTdget ch jc td ra w s
  | .wait ch jc sem count tg => Sys2Proof.Machine.execWait ch jc sem count tg s
  | .sig ch jc sem count tg => Sys2Proof.Machine.execSig ch jc sem count tg s
  | .claim ch jc ra sem => Sys2Proof.Machine.execClaim ch jc ra sem s
  | .free ch jc sem => Sys2Proof.Machine.execFree ch jc sem s
  | .read ch jc rd sem => Sys2Proof.Machine.execRead ch jc rd sem s
  | .csrr ch jc rd rsv num => Sys2Proof.Machine.execCsrr ch jc rd rsv num s
  | .fence ch jc imm => Sys2Proof.Machine.execFence ch jc imm s
  | .yield ch jc => Sys2Proof.Machine.execYield ch jc s
  | .halt ch jc => Sys2Proof.Machine.execHalt ch jc s
  | .trap ch jc imm => Sys2Proof.Machine.execTrap ch jc imm s
  | .semTimeout ch jc eng => Sys2Proof.Machine.execSemTimeout ch jc eng s
  | .chSemWrite ch sem val => Sys2Proof.Machine.execChSemWrite ch sem val s
  | .wideRetry ch jc => Sys2Proof.Machine.execWideRetry ch jc s
  | .entryStart ch eng b2b => Sys2Proof.Machine.execEntryStart ch eng b2b s
  | .passBoundary ch eng stall upsets ecc => Sys2Proof.Machine.execPassBoundary ch eng stall upsets ecc s
  | .entryComplete ch eng stall upsets ecc => Sys2Proof.Machine.execEntryComplete ch eng stall upsets ecc s
  | .cqBaseWrite ch jc hi val => Sys2Proof.Machine.execCqBaseWrite ch jc hi val s
  | .cqRdWrite ch jc val => Sys2Proof.Machine.execCqRdWrite ch jc val s
  | .tickBoundary => Sys2Proof.Machine.execTickBoundary s
  | .rwtLatch => Sys2Proof.Machine.execRwtLatch s
  | .tickInEdge err => Sys2Proof.Machine.execTickInEdge err s
  | .tickMessage ch link cell err => Sys2Proof.Machine.execTickMessage ch link cell err s
  | .tickHoldover => Sys2Proof.Machine.execTickHoldover s
  | .tickCfgWrite by_ val => Sys2Proof.Machine.execTickCfgWrite by_ val s
  | .tickNumRead => Sys2Proof.Machine.execTickNumRead s
  | .quantumBoundary ch => Sys2Proof.Machine.execQuantumBoundary ch s
  | .sqDoorbell ch q val => Sys2Proof.Machine.execSqDoorbell ch q val s
  | .sqBaseWrite ch q hi val => Sys2Proof.Machine.execSqBaseWrite ch q hi val s
  | .jcrRdWrite ch q val => Sys2Proof.Machine.execJcrRdWrite ch q val s
  | .jobKill ch val => Sys2Proof.Machine.execJobKill ch val s
  | .atomicLimit ch eng => Sys2Proof.Machine.execAtomicLimit ch eng s
  | .donationLimit ch jc => Sys2Proof.Machine.execDonationLimit ch jc s
  | .arbGrant ch cls inst reqs pt => Sys2Proof.Machine.execArbGrant ch cls inst reqs pt s
  | .resourceHang ch cls inst unit => Sys2Proof.Machine.execResourceHang ch cls inst unit s
  | .mxGemm ch jc w => Sys2Proof.Machine.execMxGemm ch jc w s
  | .mxGemv ch jc w => Sys2Proof.Machine.execMxGemv ch jc w s
  | .mxConv ch jc w => Sys2Proof.Machine.execMxConv ch jc w s
  | .averagePooling ch jc w => Sys2Proof.Machine.execAveragePooling ch jc w s
  | .maximumPooling ch jc w => Sys2Proof.Machine.execMaximumPooling ch jc w s
  | .arwsOwnWrite ch idx val => Sys2Proof.Machine.execArwsOwnWrite ch idx val s
  | .arwsClearDone ch slot => Sys2Proof.Machine.execArwsClearDone ch slot s
  | .atPrefill ch jc w => Sys2Proof.Machine.execAtPrefill ch jc w s
  | .atDecode ch jc w => Sys2Proof.Machine.execAtDecode ch jc w s
  | .atDecodeGq ch jc w => Sys2Proof.Machine.execAtDecodeGq ch jc w s
  | .epMapPass ch jc w => Sys2Proof.Machine.execEpMapPass ch jc w s
  | .epMapAdd ch jc w => Sys2Proof.Machine.execEpMapAdd ch jc w s
  | .epMapMul ch jc w => Sys2Proof.Machine.execEpMapMul ch jc w s
  | .smaxNorm ch jc w => Sys2Proof.Machine.execSmaxNorm ch jc w s
  | .rmsNorm ch jc w => Sys2Proof.Machine.execRmsNorm ch jc w s
  | .epReduceSum ch jc w => Sys2Proof.Machine.execEpReduceSum ch jc w s
  | .epReduceMax ch jc w => Sys2Proof.Machine.execEpReduceMax ch jc w s
  | .epReduceMin ch jc w => Sys2Proof.Machine.execEpReduceMin ch jc w s
  | .sumsq ch jc w => Sys2Proof.Machine.execSumsq ch jc w s
  | .amax ch jc w => Sys2Proof.Machine.execAmax ch jc w s
  | .argmax ch jc w => Sys2Proof.Machine.execArgmax ch jc w s
  | .lse ch jc w => Sys2Proof.Machine.execLse ch jc w s
  | .epSample ch jc w => Sys2Proof.Machine.execEpSample ch jc w s
  | .ftCtlWrite ch val => Sys2Proof.Machine.execFtCtlWrite ch val s
  | .ftReady ch => Sys2Proof.Machine.execFtReady ch s
  | .ftJcRangeWrite ch jc val => Sys2Proof.Machine.execFtJcRangeWrite ch jc val s
  | .ftHostRelease ch val => Sys2Proof.Machine.execFtHostRelease ch val s
  | .hostReleaseApply ch => Sys2Proof.Machine.execHostReleaseApply ch s
  | .ftFork ch jc w => Sys2Proof.Machine.execFtFork ch jc w s
  | .ftPrune ch jc w => Sys2Proof.Machine.execFtPrune ch jc w s
  | .ftLookupRead ch jc w => Sys2Proof.Machine.execFtLookupRead ch jc w s
  | .ftLookupReserve ch jc w => Sys2Proof.Machine.execFtLookupReserve ch jc w s
  | .ftLookupCommit ch jc w => Sys2Proof.Machine.execFtLookupCommit ch jc w s
  | .ftLookupInfo ch jc w => Sys2Proof.Machine.execFtLookupInfo ch jc w s
  | .ftPinPin ch jc w => Sys2Proof.Machine.execFtPinPin ch jc w s
  | .unpin ch jc w => Sys2Proof.Machine.execUnpin ch jc w s
  | .ftPinRelease ch jc w => Sys2Proof.Machine.execFtPinRelease ch jc w s
  | .detach ch jc w => Sys2Proof.Machine.execDetach ch jc w s
  | .adopt ch jc w => Sys2Proof.Machine.execAdopt ch jc w s
  | .setPunty ch jc w => Sys2Proof.Machine.execSetPunty ch jc w s
  | .rcCtlWrite ch val => Sys2Proof.Machine.execRcCtlWrite ch val s
  | .rcReady ch => Sys2Proof.Machine.execRcReady ch s
  | .rcChunk ch jc w => Sys2Proof.Machine.execRcChunk ch jc w s
  | .rcFlush ch jc w => Sys2Proof.Machine.execRcFlush ch jc w s
  | .rcStep ch jc w => Sys2Proof.Machine.execRcStep ch jc w s
  | .rcExportCopy ch jc w => Sys2Proof.Machine.execRcExportCopy ch jc w s
  | .rcExportMove ch jc w => Sys2Proof.Machine.execRcExportMove ch jc w s
  | .rcExportFree ch jc w => Sys2Proof.Machine.execRcExportFree ch jc w s
  | .rcImportRecord ch jc w => Sys2Proof.Machine.execRcImportRecord ch jc w s
  | .rcImportZero ch jc w => Sys2Proof.Machine.execRcImportZero ch jc w s
  | .chRcSwap ch val => Sys2Proof.Machine.execChRcSwap ch val s
  | .rcSwapped ch => Sys2Proof.Machine.execRcSwapped ch s
  | .memMmuWrite ch val => Sys2Proof.Machine.execMemMmuWrite ch val s
  | .inv ch val => Sys2Proof.Machine.execInv ch val s
  | .flush ch val => Sys2Proof.Machine.execFlush ch val s
  | .tcWbRetry ch ok => Sys2Proof.Machine.execTcWbRetry ch ok s
  | .promotionPeriod ch => Sys2Proof.Machine.execPromotionPeriod ch s
  | .windowCopyStart ch win => Sys2Proof.Machine.execWindowCopyStart ch win s
  | .windowCopyDone ch x => Sys2Proof.Machine.execWindowCopyDone ch x s
  | .windowLate ch win => Sys2Proof.Machine.execWindowLate ch win s
  | .swCfgWrite ch win val => Sys2Proof.Machine.execSwCfgWrite ch win val s
  | .regRefill inst reqs => Sys2Proof.Machine.execRegRefill inst reqs s
  | .regulatorTuning inst => Sys2Proof.Machine.execRegulatorTuning inst s
  | .regCfgWrite inst src val => Sys2Proof.Machine.execRegCfgWrite inst src val s
  | .t2LinkFail ch recovered => Sys2Proof.Machine.execT2LinkFail ch recovered s
  | .t2CompletionTimeout ch who va => Sys2Proof.Machine.execT2CompletionTimeout ch who va s
  | .nvmeTimeout ch who va second cycles => Sys2Proof.Machine.execNvmeTimeout ch who va second cycles s
  | .tierStall ch who cause cycles => Sys2Proof.Machine.execTierStall ch who cause cycles s
  | .kvPageMask ch page => Sys2Proof.Machine.execKvPageMask ch page s
  | .lsCopy ch jc ls w => Sys2Proof.Machine.execLsCopy ch jc ls w s
  | .writeback ch jc ls w => Sys2Proof.Machine.execWriteback ch jc ls w s
  | .prefetch ch jc ls w => Sys2Proof.Machine.execPrefetch ch jc ls w s
  | .lsFill ch jc ls w => Sys2Proof.Machine.execLsFill ch jc ls w s
  | .laserLow ch las slot power => Sys2Proof.Machine.execLaserLow ch las slot power s
  | .laserLost ch las slot power => Sys2Proof.Machine.execLaserLost ch las slot power s
  | .lossOfLight ch link => Sys2Proof.Machine.execLossOfLight ch link s
  | .laneFail ch lane ber => Sys2Proof.Machine.execLaneFail ch lane ber s
  | .ringLoop ch lane rx code temp slew advise => Sys2Proof.Machine.execRingLoop ch lane rx code temp slew advise s
  | .ringLockLost ch lane rx => Sys2Proof.Machine.execRingLockLost ch lane rx s
  | .fabRingMan ch val => Sys2Proof.Machine.execFabRingMan ch val s
  | .controlCodeword ch lane count stamp corr ber ann => Sys2Proof.Machine.execControlCodeword ch lane count stamp corr ber ann s
  | .spareSwitch ch grp => Sys2Proof.Machine.execSpareSwitch ch grp s
  | .cellReceive ch link c macOk => Sys2Proof.Machine.execCellReceive ch link c macOk s
  | .fabMsgLost ch src vc msg => Sys2Proof.Machine.execFabMsgLost ch src vc msg s
  | .fabVcStall ch link vc => Sys2Proof.Machine.execFabVcStall ch link vc s
  | .vcWeightTuning ch link => Sys2Proof.Machine.execVcWeightTuning ch link s
  | .macGroupClose ch link => Sys2Proof.Machine.execMacGroupClose ch link s
  | .keyRenewal ch link => Sys2Proof.Machine.execKeyRenewal ch link s
  | .linkTraining ch link t => Sys2Proof.Machine.execLinkTraining ch link t s
  | .linkTrainingRetry ch link => Sys2Proof.Machine.execLinkTrainingRetry ch link s
  | .linkDelayMeasure ch link delay => Sys2Proof.Machine.execLinkDelayMeasure ch link delay s
  | .fabLinkDown ch link => Sys2Proof.Machine.execFabLinkDown ch link s
  | .linkDarkEnd ch link => Sys2Proof.Machine.execLinkDarkEnd ch link s
  | .clSlotWrite ch slot word val => Sys2Proof.Machine.execClSlotWrite ch slot word val s
  | .clReduceAllreduce ch jc w => Sys2Proof.Machine.execClReduceAllreduce ch jc w s
  | .reduceScatter ch jc w => Sys2Proof.Machine.execReduceScatter ch jc w s
  | .clBcast ch jc w => Sys2Proof.Machine.execClBcast ch jc w s
  | .clAllgather ch jc w => Sys2Proof.Machine.execClAllgather ch jc w s
  | .clAlltoall ch jc w => Sys2Proof.Machine.execClAlltoall ch jc w s
  | .exDispatch ch jc w => Sys2Proof.Machine.execExDispatch ch jc w s
  | .exCombine ch jc w => Sys2Proof.Machine.execExCombine ch jc w s
  | .join ch m => Sys2Proof.Machine.execJoin ch m s
  | .abort ch m => Sys2Proof.Machine.execAbort ch m s
  | .orderTimeout ch ex jc => Sys2Proof.Machine.execOrderTimeout ch ex jc s
  | .clStall ch slot => Sys2Proof.Machine.execClStall ch slot s
  | .clPass ch => Sys2Proof.Machine.execClPass ch s
  | .up ch m => Sys2Proof.Machine.execUp ch m s
  | .down ch m => Sys2Proof.Machine.execDown ch m s
  | .block ch m => Sys2Proof.Machine.execBlock ch m s
  | .count ch m tk => Sys2Proof.Machine.execCount ch m tk s
  | .grant ch m => Sys2Proof.Machine.execGrant ch m s
  | .rows ch m => Sys2Proof.Machine.execRows ch m s
  | .done ch m => Sys2Proof.Machine.execDone ch m s
  | .ret ch m tk => Sys2Proof.Machine.execRet ch m tk s
  | .inrGo ch val => Sys2Proof.Machine.execInrGo ch val s
  | .reduce ch m down => Sys2Proof.Machine.execReduce ch m down s
  | .batch ch jc w => Sys2Proof.Machine.execBatch ch jc w s
  | .live ch jc w => Sys2Proof.Machine.execLive ch jc w s
  | .recordDecodeDone ch lane => Sys2Proof.Machine.execRecordDecodeDone ch lane s
  | .slowRecord ch lane => Sys2Proof.Machine.execSlowRecord ch lane s
  | .gtBusyUpdate ch busy => Sys2Proof.Machine.execGtBusyUpdate ch busy s
  | .gtSplitWrite ch val => Sys2Proof.Machine.execGtSplitWrite ch val s
  | .digestRound ch => Sys2Proof.Machine.execDigestRound ch s
  | .digestRegionDone ch => Sys2Proof.Machine.execDigestRegionDone ch s
  | .digest ch src region tick digest => Sys2Proof.Machine.execDigest ch src region tick digest s
  | .hbmRetrain ch pc ok recent => Sys2Proof.Machine.execHbmRetrain ch pc ok recent s
  | .historyCompaction => Sys2Proof.Machine.execHistoryCompaction s
  | .cperRdWrite val => Sys2Proof.Machine.execCperRdWrite val s
  | .copyEpoch ch => Sys2Proof.Machine.execCopyEpoch ch s
  | .pcCopyGo ch val => Sys2Proof.Machine.execPcCopyGo ch val s
  | .pcRestoreGo ch val => Sys2Proof.Machine.execPcRestoreGo ch val s
  | .copyData ch src epoch region off data => Sys2Proof.Machine.execCopyData ch src epoch region off data s
  | .manifest ch src epoch entries => Sys2Proof.Machine.execManifest ch src epoch entries s
  | .restoreReq ch src => Sys2Proof.Machine.execRestoreReq ch src s
  | .ack ch src epoch status => Sys2Proof.Machine.execAck ch src epoch status s
  | .pcAckTimeout ch => Sys2Proof.Machine.execPcAckTimeout ch s
  | .restoreFail ch => Sys2Proof.Machine.execRestoreFail ch s
  | .regWrite pf off be val => Sys2Proof.Machine.execRegWrite pf off be val s
  | .aliasWrite pf off b be val => Sys2Proof.Machine.execAliasWrite pf off b be val s
  | .readClear pf off => Sys2Proof.Machine.execReadClear pf off s
  | .serialRead => Sys2Proof.Machine.execSerialRead s
  | .voteCheck pf upsets => Sys2Proof.Machine.execVoteCheck pf upsets s
  | .eventIrq pf => Sys2Proof.Machine.execEventIrq pf s
  | .load by_ => Sys2Proof.Machine.execLoad by_ s
  | .mouldStaged => Sys2Proof.Machine.execMouldStaged s
  | .commit by_ => Sys2Proof.Machine.execCommit by_ s
  | .drainLimit => Sys2Proof.Machine.execDrainLimit s
  | .mouldCommit => Sys2Proof.Machine.execMouldCommit s
  | .abandon by_ => Sys2Proof.Machine.execAbandon by_ s
  | .store by_ => Sys2Proof.Machine.execStore by_ s
  | .currentSum ma mv => Sys2Proof.Machine.execCurrentSum ma mv s
  | .capCreditUpdate ch draw => Sys2Proof.Machine.execCapCreditUpdate ch draw s
  | .idleT ch => Sys2Proof.Machine.execIdleT ch s
  | .sleepT ch => Sys2Proof.Machine.execSleepT ch s
  | .deepT ch => Sys2Proof.Machine.execDeepT ch s
  | .powerEntryDone ch => Sys2Proof.Machine.execPowerEntryDone ch s
  | .powerExitDone ch => Sys2Proof.Machine.execPowerExitDone ch s
  | .pwrWake ch code => Sys2Proof.Machine.execPwrWake ch code s
  | .pwrCmd ch val => Sys2Proof.Machine.execPwrCmd ch val s
  | .hubPwrOff val => Sys2Proof.Machine.execHubPwrOff val s
  | .wakeN => Sys2Proof.Machine.execWakeN s
  | .alertN => Sys2Proof.Machine.execAlertN s
  | .stuckInput pin => Sys2Proof.Machine.execStuckInput pin s
  | .pinRearm pin => Sys2Proof.Machine.execPinRearm pin s
  | .secAlarm sensor ch slot => Sys2Proof.Machine.execSecAlarm sensor ch slot s
  | .secErased => Sys2Proof.Machine.execSecErased s
  | .secAlarmAck by_ val persist => Sys2Proof.Machine.execSecAlarmAck by_ val persist s
  | .secPolicyWrite by_ val => Sys2Proof.Machine.execSecPolicyWrite by_ val s
  | .i3cStatus => Sys2Proof.Machine.execI3cStatus s
  | .histCount => Sys2Proof.Machine.execHistCount s
  | .histRead idx => Sys2Proof.Machine.execHistRead idx s
  | .i3cPwrOff key force => Sys2Proof.Machine.execI3cPwrOff key force s
  | .i3cTemp hub => Sys2Proof.Machine.execI3cTemp hub s
  | .thermHold ch tj => Sys2Proof.Machine.execThermHold ch tj s
  | .thermHoldRelease ch tj => Sys2Proof.Machine.execThermHoldRelease ch tj s
  | .thermTrip ch tj => Sys2Proof.Machine.execThermTrip ch tj s
  | .thermTripRelease ch tj pass => Sys2Proof.Machine.execThermTripRelease ch tj pass s
  | .illegalOp ch jc w => Sys2Proof.Machine.execIllegalOp ch jc w s
  | .uncorrectableCodeword ch lane => Sys2Proof.Machine.execUncorrectableCodeword ch lane s
  | .alertNInactive => Sys2Proof.Machine.execAlertNInactive s
  | .laserReturn ch las slot power peak => Sys2Proof.Machine.execLaserReturn ch las slot power peak s
  | .storeDone => Sys2Proof.Machine.execStoreDone s
  | .writeBackComplete ch ok => Sys2Proof.Machine.execWriteBackComplete ch ok s
  | .copyReadDone ch => Sys2Proof.Machine.execCopyReadDone ch s
  | .inrFail ch => Sys2Proof.Machine.execInrFail ch s
  | .rowRemapDone ch row => Sys2Proof.Machine.execRowRemapDone ch row s
  | .requesterUnmasked ch cls inst req => Sys2Proof.Machine.execRequesterUnmasked ch cls inst req s
  | .flashRecoveryPortAccess wr addr data len => Sys2Proof.Machine.execFlashRecoveryPortAccess wr addr data len s
  | .jtagInstruction op => Sys2Proof.Machine.execJtagInstruction op s

end Sys2Proof.Machine
end

