-- ==== Sys2Proof/Safety.lean ====
section
/-! DEFINITION. What is true of every state that a run from a good state reaches, and what a command leaves as it was, in
the terms that statements use. -/

namespace Sys2Proof.Machine

open Sys2Proof

/-! ## Invariants -/

/-- The memories of one channel stand in canonical form. -/
def ChMem.canonical (m : ChMem) : Bool := Memory.wf m.t1 && Memory.wf m.t2 && Memory.wf m.ls && Memory.wf m.arws

/-- Every memory of the machine stands in canonical form: T1, T2, the local store and the array store of each channel, T3,
host memory and the flash. -/
def State.canonical (s : State) : Bool :=
  Memory.wf s.pkg.host && Memory.wf s.pkg.t3 && Memory.wf s.pkg.flash.bytes &&
    (List.finRange 8).all fun ch => (s.chan[ch]).mem.canonical

/-- A record that the hub never erases (R434). -/
def Hist.lasting (h : Hist) : Bool := h.cls == clsPermanent || h.cls == clsRetired

/-- Every lasting record of one state stands in another. -/
def State.keepsHistory (s t : State) : Prop := ∀ h ∈ s.pkg.hist.recs, h.lasting = true → h ∈ t.pkg.hist.recs

/-- No semaphore holds more than 65,535, nor would the end of a job leave it with more (R60, R64). -/
def State.semsBounded (s : State) : Bool :=
  (List.finRange 8).all fun ch => (List.finRange 256).all fun n =>
    ((s.chan[ch]).sem[n]).count ≤ 65535 && ((s.chan[ch]).sem[n]).init ≤ 65535

/-! ## Outcomes -/

/-- The command goes on, and what follows satisfies `P`. -/
def goesTo (o : Out) (P : State → Prop) : Prop := ∃ t, o = .next t ∧ P t

/-! ## What a command leaves as it was -/

/-- Two states that differ in one channel alone. -/
def State.onlyChan (s t : State) (ch : ChIdx) : Prop :=
  t.pkg = s.pkg ∧ t.free = s.free ∧ t.pending = s.pending ∧ ∀ c, c ≠ ch → t.chan[c] = s.chan[c]

/-- Two states that differ in the package alone. -/
def State.onlyPkg (s t : State) : Prop := t.chan = s.chan ∧ t.free = s.free ∧ t.pending = s.pending

/-- Two channels that differ in the registers at some offsets alone. -/
def Chan.differAt (offs : List Nat) (c d : Chan) : Prop :=
  { d with reg := c.reg } = c ∧ ∀ o, o ∉ offs → d.rd o = c.rd o

/-- Two packages that differ in the registers at some offsets alone. -/
def Pkg.differAt (offs : List Nat) (p q : Pkg) : Prop :=
  { q with reg := p.reg } = p ∧ ∀ o, o ∉ offs → q.rd o = p.rd o

/-- The registers that the event path of a function writes: EVT_CFG and EVT_PTR. -/
def eventRegs : List Nat := [0x88, 0x8C]

/-- The next sequence number of an event source. -/
def State.seqOf (s : State) (src : Nat) : Nat := Cells.get (fun _ => 0) s.pkg.evtSeq src

/-- Two states that differ in the event paths alone: the records held, the rings in host memory and their registers, the
sequence numbers, and the free values drawn for the records. -/
def State.butEvents (s t : State) : Prop :=
  t.pending = s.pending ∧
    { t.pkg with reg := s.pkg.reg, evt := s.pkg.evt, evtSeq := s.pkg.evtSeq, host := s.pkg.host } = s.pkg ∧
    (∀ o, o ∉ eventRegs → t.pkg.rd o = s.pkg.rd o) ∧ ∀ c : ChIdx, Chan.differAt eventRegs s.chan[c] t.chan[c]

/-- One source posted one event, and no other source any. -/
def State.postedBy (s t : State) (src : Nat) : Prop :=
  t.seqOf src = (s.seqOf src + 1) % 2 ^ 32 ∧ ∀ x, x ≠ src → t.seqOf x = s.seqOf x

/-! ## Host accesses -/

/-- A host write of an ordinary register of a function reaches the register: the function is present, its channel lives and
is out of reset, and no fence is up (R33, R35, R37, R489). -/
def State.reaches (s : State) (pf : Fin 9) : Prop :=
  s.present pf = true ∧ s.fenced = false ∧
    match pfChan pf with
    | none => True
    | some ch => s.live ch = true ∧ (s.chan[ch]).inReset = false

/-! ## The lease -/

/-- A gaffer took or renewed the lease under an epoch; no other register, no channel and no split changed. -/
def State.leased (s t : State) (g : Gaffer) (epoch : Nat) : Prop :=
  t.chan = s.chan ∧ t.pending = s.pending ∧ (∀ o, o ≠ 0x200 → o ≠ 0x204 → t.pkg.rd o = s.pkg.rd o) ∧
    t.pkg.fld R.GAF_LEASE_EPOCH = epoch ∧ t.holder = g ∧ t.leaseValid = true ∧ t.pkg.fld R.GAF_LEASE_STATUS_AGE = 0 ∧
    t.split = s.split ∧ t.pkg.fld R.GAF_LEASE_STATUS_GE_PASSIVE = s.pkg.fld R.GAF_LEASE_STATUS_GE_PASSIVE ∧
    t.pkg.fld R.GAF_LEASE_STATUS_SPLIT_TICKS = s.pkg.fld R.GAF_LEASE_STATUS_SPLIT_TICKS

/-! ## Scalar instructions -/

/-- The scalar thread of a context may issue, and the `n` bytes at its program counter can be read. -/
def State.fetches (s : State) (ch : ChIdx) (jc : JcIdx) (n : Nat) : Prop :=
  s.canIssue ch jc = true ∧ (s.vaRead ch (s.ctx ch jc).pc.toNat n).isOk = true

/-- The state after the fetch of an instruction: round robin has moved on, and its translation is held. -/
def State.begun (s : State) (ch : ChIdx) (jc : JcIdx) : State := (s.issued ch jc).tlbFill ch (s.ctx ch jc).pc.toNat

/-- An instruction changed its context, the round robin of issue, translations held, and nothing else. -/
def State.ranOnly (s t : State) (ch : ChIdx) (jc : JcIdx) : Prop :=
  s.onlyChan t ch ∧ (∀ j, j ≠ jc → t.ctx ch j = s.ctx ch j) ∧
    ∃ tlb, t.chan[ch] = { s.chan[ch] with
      ctx := (t.chan[ch]).ctx, sched := { (s.chan[ch]).sched with nextIssue := (jc.val + 1) % 16 },
      mem := { (s.chan[ch]).mem with tlb := tlb } }

/-- An instruction gave a general register a value and went on to the next word; g0 takes none (R42). -/
def State.sets (s t : State) (ch : ChIdx) (jc : JcIdx) (rd : Fin 32) (v : DWord) : Prop :=
  s.ranOnly t ch jc ∧
    t.ctx ch jc = { s.ctx ch jc with g := (t.ctx ch jc).g, pc := (s.ctx ch jc).pc + 4 } ∧
    (t.ctx ch jc).rg rd = (if rd = 0 then 0 else v) ∧ ∀ r, r ≠ rd → (t.ctx ch jc).rg r = (s.ctx ch jc).rg r

/-- A general register of a context. -/
def State.g (s : State) (ch : ChIdx) (jc : JcIdx) (r : Fin 32) : DWord := (s.ctx ch jc).rg r

/-- The program counter of a context. -/
def State.pcOf (s : State) (ch : ChIdx) (jc : JcIdx) : DWord := (s.ctx ch jc).pc

/-- Nothing waits on the semaphores of a channel but entries: no scalar thread is blocked in WAIT, and the copy mover does
not wait. -/
def State.noWaiters (s : State) (ch : ChIdx) : Prop :=
  (∀ j, (s.ctx ch j).st ≠ .waitSem) ∧ (s.chan[ch]).mover.phase ≠ .waiting

/-- A job stopped on a fault (R73): CH_JC_FAULT holds the status and the engine, its scalar thread issues nothing more, and
the context is FAULTED, or FREE again once the job has ended. -/
def State.stoppedBy (t : State) (ch : ChIdx) (jc : JcIdx) (status eng : Nat) : Prop :=
  (t.ctx ch jc).fStatus = status ∧ (t.ctx ch jc).fEng = eng ∧
    ((t.ctx ch jc).st = .faulted ∨ (t.ctx ch jc).st = .free)

/-- A state with one channel's record of who knows of which entry's completion, the model's own, as it was before. -/
def State.logOf (s t : State) (ch : ChIdx) : State := t.modC ch fun c => { c with log := (s.chan[ch]).log }

/-- A semaphore of a channel took a value, no other semaphore changed, and nothing but the contexts named, the round robin
of issue, translations held and the model's record of who knows of which entry. -/
def State.semOnly (s t : State) (ch : ChIdx) (jc : JcIdx) (n : Fin 256) (v : Sem) : Prop :=
  s.onlyChan t ch ∧ (∀ j, j ≠ jc → t.ctx ch j = s.ctx ch j) ∧ (t.chan[ch]).sem[n] = v ∧
    (∀ k : Fin 256, k ≠ n → (t.chan[ch]).sem[k] = (s.chan[ch]).sem[k]) ∧
    ∃ tlb, t.chan[ch] = { s.chan[ch] with
      ctx := (t.chan[ch]).ctx, sem := (t.chan[ch]).sem, log := (t.chan[ch]).log,
      sched := { (s.chan[ch]).sched with nextIssue := (jc.val + 1) % 16 }, mem := { (s.chan[ch]).mem with tlb := tlb } }

end Sys2Proof.Machine
end

