-- ==== Sys2Proof/Certificates/Slice0/Obligations.lean ====
section
/-! DEFINITION. What the model is claimed to do: the statements for the provers, in the order of OBLIGATIONS.json. -/

open Sys2Proof Sys2Proof.Machine

/-- For every floating-point element format, every code of it whose value is finite, zeros included, and every
rounding mode, converting the value to the format gives the code again and counts nothing. An MXINT8 code is a
two's-complement number of 64ths, 0x80 reading as -2, every code but 0x80 converts back to itself, and no element of a
block written in MXINT8 is 0x80. (R146, R148, R154, R155, 05_formats_arithmetic.md) -/
def Obligations.NumberFormats : Prop :=
  (∀ (d c : Nat) (f : Flt) (rnd : Rnd), fltOf d = some f → c < 2 ^ fmtBits d → (f.val c).isNan = false → (f.val c).isInf = false →
    f.conv rnd (f.val c) = (c, ⟨0, 0⟩)) ∧
  (∀ c : BitVec 8, elemVal 5 c.toNat = Num.ofRat ((c.toInt : Rat) / 64) ∧
    (c ≠ 0x80#8 → ∀ rnd, mxElem 5 rnd (elemVal 5 c.toNat) = (c.toNat, ⟨0, 0⟩))) ∧
  elemVal 5 0x80 = .fin (-2) ∧
  ∀ (rnd : Nat → Rnd) (xs : List Machine.Num), 0x80 ∉ (mxBlock 5 rnd xs).2.1

/-- With command c at the front of its queue and any commands behind it, a step answers what exec answers for c on the
state with the queue's rest; on an empty queue the block idles (the model's choice, log entry 1).
(02_sequencer_xol.md) -/
def Obligations.StepRunsTheFrontCommand : Prop :=
  (∀ (s : State) (c : Instr) (rest : List Instr),
    step { s with pending := c :: rest } = exec c { s with pending := rest }) ∧
  ∀ s : State, s.pending = [] → step s = .next s

/-- The ALU functions (R522; a zero divisor by R45). `ofInt` wraps, so that -2^63 DIV -1 is -2^63 and -2^63 REM -1 is
0. -/
def Obligations.AluResults : Prop :=
  ∀ (s : State) (ch : Fin 8) (jc : Fin 16) (rd ra rb : Fin 32), s.fetches ch jc 4 →
    goesTo (exec (.aluAdd ch jc rd ra rb) s) (fun t =>
      s.sets t ch jc rd (BitVec.ofNat 64 ((s.g ch jc ra).toNat + (s.g ch jc rb).toNat))) ∧
    goesTo (exec (.aluSub ch jc rd ra rb) s) (fun t =>
      s.sets t ch jc rd (BitVec.ofInt 64 ((s.g ch jc ra).toInt - (s.g ch jc rb).toInt))) ∧
    goesTo (exec (.aluAnd ch jc rd ra rb) s) (fun t => s.sets t ch jc rd (s.g ch jc ra &&& s.g ch jc rb)) ∧
    goesTo (exec (.aluOr ch jc rd ra rb) s) (fun t => s.sets t ch jc rd (s.g ch jc ra ||| s.g ch jc rb)) ∧
    goesTo (exec (.aluXor ch jc rd ra rb) s) (fun t => s.sets t ch jc rd (s.g ch jc ra ^^^ s.g ch jc rb)) ∧
    goesTo (exec (.aluSll ch jc rd ra rb) s) (fun t =>
      s.sets t ch jc rd (BitVec.ofNat 64 ((s.g ch jc ra).toNat * 2 ^ (s.g ch jc rb % 64#64).toNat))) ∧
    goesTo (exec (.aluSrl ch jc rd ra rb) s) (fun t =>
      s.sets t ch jc rd (BitVec.ofNat 64 ((s.g ch jc ra).toNat / 2 ^ (s.g ch jc rb % 64#64).toNat))) ∧
    goesTo (exec (.aluSra ch jc rd ra rb) s) (fun t =>
      s.sets t ch jc rd (BitVec.ofInt 64 ((s.g ch jc ra).toInt / (2 : Int) ^ (s.g ch jc rb % 64#64).toNat))) ∧
    goesTo (exec (.aluSlt ch jc rd ra rb) s) (fun t =>
      s.sets t ch jc rd (if (s.g ch jc ra).toInt < (s.g ch jc rb).toInt then 1 else 0)) ∧
    goesTo (exec (.aluSltu ch jc rd ra rb) s) (fun t =>
      s.sets t ch jc rd (if (s.g ch jc ra).toNat < (s.g ch jc rb).toNat then 1 else 0)) ∧
    goesTo (exec (.aluMin ch jc rd ra rb) s) (fun t => ∃ v, s.sets t ch jc rd v ∧
      v.toInt = min (s.g ch jc ra).toInt (s.g ch jc rb).toInt) ∧
    goesTo (exec (.aluMax ch jc rd ra rb) s) (fun t => ∃ v, s.sets t ch jc rd v ∧
      v.toInt = max (s.g ch jc ra).toInt (s.g ch jc rb).toInt) ∧
    goesTo (exec (.aluMul ch jc rd ra rb) s) (fun t =>
      s.sets t ch jc rd (BitVec.ofNat 64 ((s.g ch jc ra).toNat * (s.g ch jc rb).toNat))) ∧
    goesTo (exec (.aluMulh ch jc rd ra rb) s) (fun t => ∃ v : DWord, s.sets t ch jc rd v ∧
      ∃ low : Int, 0 ≤ low ∧ low < 2 ^ 64 ∧ (s.g ch jc ra).toInt * (s.g ch jc rb).toInt = v.toInt * 2 ^ 64 + low) ∧
    goesTo (exec (.aluMulhu ch jc rd ra rb) s) (fun t => ∃ v : DWord, s.sets t ch jc rd v ∧
      ∃ low : Nat, low < 2 ^ 64 ∧ (s.g ch jc ra).toNat * (s.g ch jc rb).toNat = v.toNat * 2 ^ 64 + low) ∧
    goesTo (exec (.aluDiv ch jc rd ra rb) s) (fun t => s.sets t ch jc rd
      (if s.g ch jc rb = 0 then BitVec.allOnes 64
       else BitVec.ofInt 64 (Int.tdiv (s.g ch jc ra).toInt (s.g ch jc rb).toInt))) ∧
    goesTo (exec (.aluDivu ch jc rd ra rb) s) (fun t => s.sets t ch jc rd
      (if s.g ch jc rb = 0 then BitVec.allOnes 64
       else BitVec.ofNat 64 ((s.g ch jc ra).toNat / (s.g ch jc rb).toNat))) ∧
    goesTo (exec (.aluRem ch jc rd ra rb) s) (fun t => s.sets t ch jc rd
      (if s.g ch jc rb = 0 then s.g ch jc ra
       else BitVec.ofInt 64 ((s.g ch jc ra).toInt -
        (s.g ch jc rb).toInt * Int.tdiv (s.g ch jc ra).toInt (s.g ch jc rb).toInt))) ∧
    goesTo (exec (.aluRemu ch jc rd ra rb) s) (fun t => s.sets t ch jc rd
      (if s.g ch jc rb = 0 then s.g ch jc ra
       else BitVec.ofNat 64 ((s.g ch jc ra).toNat -
        (s.g ch jc rb).toNat * ((s.g ch jc ra).toNat / (s.g ch jc rb).toNat)))) ∧
    (∀ n : Fin 64,
      goesTo (exec (.shi ch jc rd ra (BitVec.ofNat 16 n.val)) s) (fun t =>
        s.sets t ch jc rd (BitVec.ofNat 64 ((s.g ch jc ra).toNat * 2 ^ n.val))) ∧
      goesTo (exec (.shi ch jc rd ra (BitVec.ofNat 16 (64 + n.val))) s) (fun t =>
        s.sets t ch jc rd (BitVec.ofNat 64 ((s.g ch jc ra).toNat / 2 ^ n.val))) ∧
      goesTo (exec (.shi ch jc rd ra (BitVec.ofNat 16 (128 + n.val))) s) (fun t =>
        s.sets t ch jc rd (BitVec.ofInt 64 ((s.g ch jc ra).toInt / (2 : Int) ^ n.val))))

/-- In a context that may issue and whose program counter can be read, ADDI, ANDI, ORI, XORI and SLTI, and MOVZ and
MOVK with bits [18:16] zero, go on with the value of Table 2.3 in rd and change nothing else but the program counter.
(02_sequencer_xol.md Table 2.3, R46, R522) -/
def Obligations.Immediates : Prop :=
  ∀ (s : State) (ch : Fin 8) (jc : Fin 16) (rd ra : Fin 32) (imm : BitVec 16) (hw : Fin 4), s.fetches ch jc 4 →
    goesTo (exec (.addi ch jc rd ra imm) s) (fun t =>
      s.sets t ch jc rd (BitVec.ofInt 64 ((s.g ch jc ra).toInt + imm.toInt))) ∧
    goesTo (exec (.andi ch jc rd ra imm) s) (fun t =>
      s.sets t ch jc rd (s.g ch jc ra &&& BitVec.ofNat 64 imm.toNat)) ∧
    goesTo (exec (.ori ch jc rd ra imm) s) (fun t =>
      s.sets t ch jc rd (s.g ch jc ra ||| BitVec.ofNat 64 imm.toNat)) ∧
    goesTo (exec (.xori ch jc rd ra imm) s) (fun t =>
      s.sets t ch jc rd (s.g ch jc ra ^^^ BitVec.ofNat 64 imm.toNat)) ∧
    goesTo (exec (.slti ch jc rd ra imm) s) (fun t =>
      s.sets t ch jc rd (if (s.g ch jc ra).toInt < imm.toInt then 1 else 0)) ∧
    goesTo (exec (.movz ch jc rd hw 0 imm) s) (fun t =>
      s.sets t ch jc rd (BitVec.ofNat 64 (imm.toNat * 2 ^ (16 * hw.val)))) ∧
    goesTo (exec (.movk ch jc rd hw 0 imm) s) (fun t => ∃ v : DWord, s.sets t ch jc rd v ∧
      ∀ i < 64, v.getLsbD i =
        if 16 * hw.val ≤ i ∧ i < 16 * hw.val + 16 then imm.getLsbD (i - 16 * hw.val) else (s.g ch jc rd).getLsbD i)

/-- In a context that may issue and whose program counter can be read, BEQ, BNE, BLT, BGE, BLTU and BGEU add 4 x the
signed offset to the program counter when their comparison holds and 4 otherwise, and change no register; JAL puts pc
+ 4 into g31 and JALR into rd (g0 takes none) and go to pc + 4 x offset and to ra + imm with the low two bits cleared,
ra read before rd is written. (02_sequencer_xol.md Table 2.3, R42) -/
def Obligations.BranchesAndJumps : Prop :=
  ∀ (s : State) (ch : Fin 8) (jc : Fin 16) (rd ra rb : Fin 32) (off : BitVec 16) (far : BitVec 26),
    s.fetches ch jc 4 →
    let moved (c : Bool) (t : State) : Prop := s.ranOnly t ch jc ∧
      t.ctx ch jc = { s.ctx ch jc with pc := if c then s.pcOf ch jc + BitVec.ofInt 64 (4 * off.toInt) else s.pcOf ch jc + 4 }
    let linked (r : Fin 32) (dst : DWord) (t : State) : Prop := s.ranOnly t ch jc ∧
      t.ctx ch jc = { s.ctx ch jc with g := (t.ctx ch jc).g, pc := dst } ∧
      (t.ctx ch jc).rg r = (if r = 0 then 0 else s.pcOf ch jc + 4) ∧ ∀ q, q ≠ r → (t.ctx ch jc).rg q = s.g ch jc q
    goesTo (exec (.beq ch jc ra rb off) s) (moved (s.g ch jc ra = s.g ch jc rb)) ∧
    goesTo (exec (.bne ch jc ra rb off) s) (moved (s.g ch jc ra ≠ s.g ch jc rb)) ∧
    goesTo (exec (.blt ch jc ra rb off) s) (moved ((s.g ch jc ra).toInt < (s.g ch jc rb).toInt)) ∧
    goesTo (exec (.bge ch jc ra rb off) s) (moved ((s.g ch jc rb).toInt ≤ (s.g ch jc ra).toInt)) ∧
    goesTo (exec (.bltu ch jc ra rb off) s) (moved ((s.g ch jc ra).toNat < (s.g ch jc rb).toNat)) ∧
    goesTo (exec (.bgeu ch jc ra rb off) s) (moved ((s.g ch jc rb).toNat ≤ (s.g ch jc ra).toNat)) ∧
    goesTo (exec (.jal ch jc far) s) (linked 31 (s.pcOf ch jc + BitVec.ofInt 64 (4 * far.toInt))) ∧
    goesTo (exec (.jalr ch jc rd ra off) s) (fun t => ∃ dst : DWord, linked rd dst t ∧ dst.toNat % 4 = 0 ∧
      dst.toNat / 4 = (s.g ch jc ra + BitVec.ofInt 64 off.toInt).toNat / 4)

/-- In a context that may issue and whose program counter can be read, TDSET replaces one 64-bit word of one
descriptor with ra, TDGET copies one to a register, and CSRR with bits [20:16] zero reads a CSR of Table 2.4 into rd;
a CSR number that is not in the table reads as zero. They change nothing else but the program counter and, for CSRR,
the counter of free values (log entry 3). (R48) -/
def Obligations.DescriptorsAndCsrs : Prop :=
  ∀ (s : State) (ch : Fin 8) (jc : Fin 16) (rd ra : Fin 32) (td : Fin 64) (w : Fin 4) (num : BitVec 16),
    s.fetches ch jc 4 →
    goesTo (exec (.tdset ch jc td ra w) s) (fun t => s.ranOnly t ch jc ∧
      t.ctx ch jc = { s.ctx ch jc with td := (t.ctx ch jc).td, pc := s.pcOf ch jc + 4 } ∧
      (∀ k : Fin 64, k ≠ td → (t.ctx ch jc).td[k] = (s.ctx ch jc).td[k]) ∧
      ∀ v : Fin 4, tdWord (t.ctx ch jc).td[td] v = if v = w then s.g ch jc ra else tdWord (s.ctx ch jc).td[td] v) ∧
    goesTo (exec (.tdget ch jc td rd w) s) (fun t => s.sets t ch jc rd (tdWord (s.ctx ch jc).td[td] w)) ∧
    goesTo (exec (.csrr ch jc rd 0 num) s) (fun t => t.free = s.free + 1 ∧
      ∃ v : DWord, s.sets { t with free := s.free } ch jc rd v ∧
        (num = 0 → v = BitVec.ofNat 64 jc.val) ∧ (num = 1 → v = BitVec.ofNat 64 (s.ctx ch jc).job.client) ∧
        (num = 2 → v = s.pkg.tick.num) ∧ (num = 4 → v = BitVec.ofNat 64 (s.ctx ch jc).job.issued) ∧
        (num = 5 → v = BitVec.ofNat 64 (s.ctx ch jc).job.done) ∧ (num = 6 → v = (s.ctx ch jc).job.seed) ∧
        (num = 7 → v = BitVec.ofNat 64 (s.place ch)) ∧ (num = 8 → v = BitVec.ofNat 64 (s.node ch)) ∧
        (8 < num.toNat → v = 0))

/-- In a context that may issue, whose program counter can be read and whose store buffer is empty, LD at an address
that is a multiple of 8, LW and LWU at a multiple of 4 and TDLD at any address go on: the context waits for the data
of that address, and nothing else changes but the round robin of issue and translations held. With stores in the
buffer the load starts once they have gone to memory. (R47) -/
def Obligations.LoadsWait : Prop :=
  ∀ (s : State) (ch : Fin 8) (jc : Fin 16) (rd ra : Fin 32) (td : Fin 64) (imm : BitVec 16) (far : BitVec 15),
    s.fetches ch jc 4 →
    let va : DWord := s.g ch jc ra + BitVec.ofInt 64 imm.toInt
    let ta : DWord := s.g ch jc ra + BitVec.ofInt 64 (32 * far.toInt)
    let waits (l : PendLoad) (o : Out) : Prop :=
      ((s.ctx ch jc).stores = [] → goesTo o (fun t => s.ranOnly t ch jc ∧ t.ctx ch jc = { s.ctx ch jc with load := some l })) ∧
      ∀ u, (s.begun ch jc).drainStores ch jc = .ok u →
        goesTo o (fun t => t.ctx ch jc = { u.ctx ch jc with load := some l } ∧ u.onlyChan t ch ∧
          t.chan[ch] = { u.chan[ch] with ctx := (t.chan[ch]).ctx } ∧ ∀ j, j ≠ jc → t.ctx ch j = u.ctx ch j)
    (va.toNat % 8 = 0 → waits ⟨.ld, rd.val, va, false⟩ (exec (.ld ch jc rd ra imm) s)) ∧
    (va.toNat % 4 = 0 → waits ⟨.lw, rd.val, va, false⟩ (exec (.lw ch jc rd ra imm) s)) ∧
    (va.toNat % 4 = 0 → waits ⟨.lwu, rd.val, va, false⟩ (exec (.lwu ch jc rd ra imm) s)) ∧
    waits ⟨.tdld, td.val, ta, false⟩ (exec (.tdld ch jc td ra far) s)

/-- LOAD_COMPLETE of a pending load whose bytes can be read, without a memory error, not in a row that is being copied and
no output that the context may not read yet, goes on: LD gives the register the 8 bytes in little-endian order, LW the 4
bytes sign-extended, LWU zero-extended, TDLD the descriptor its 32 bytes; the program counter rises by 4 and no other
register changes. When every byte lies in T1 (and the translation cache is not full, so that none leaves it), nothing else
changes but translations held, the count of dirty granules, what the channel's partition is charged at T1, and the counter
of free values (log entry 3). (02_sequencer_xol.md Table 2.3, R11, R524) -/
def Obligations.LoadsComplete : Prop :=
  ∀ (s : State) (ch : Fin 8) (jc : Fin 16) (l : PendLoad) (bs : List Byte),
    (s.ctx ch jc).load = some l → s.vaRead ch l.va.toNat l.kind.size = .ok bs →
    s.waitsRow ch l.va.toNat l.kind.size = false → (∀ i, i < l.kind.size → s.unseen ch jc (l.va.toNat + i) = false) →
    let charged : List Nat := match s.partIdx ch with
      | none => []
      | some p => [instOff (.t1 ch) p.val + 4]
    goesTo (exec (.loadComplete ch jc []) s) (fun t =>
      (t.ctx ch jc).load = none ∧ (t.ctx ch jc).pc = s.pcOf ch jc + 4 ∧
      (l.kind = .tdld → (t.ctx ch jc).td[Fin.ofNat 64 l.dst] = BitVec.ofNat 256 (leNat bs) ∧
        (t.ctx ch jc).g = (s.ctx ch jc).g ∧
        ∀ k : Fin 64, k ≠ Fin.ofNat 64 l.dst → (t.ctx ch jc).td[k] = (s.ctx ch jc).td[k]) ∧
      (l.kind ≠ .tdld → (t.ctx ch jc).td = (s.ctx ch jc).td ∧
        (∀ r : Fin 32, r ≠ Fin.ofNat 32 l.dst → (t.ctx ch jc).rg r = s.g ch jc r) ∧
        (Fin.ofNat 32 l.dst ≠ (0 : Fin 32) → (t.ctx ch jc).rg (Fin.ofNat 32 l.dst) =
          if l.kind = .lw then BitVec.ofInt 64 (BitVec.ofNat 32 (leNat bs)).toInt else BitVec.ofNat 64 (leNat bs))) ∧
      ((s.chan[ch]).mem.tlb.length < 4096 → (∀ i, i < l.kind.size → ∃ f a, s.translate ch (l.va.toNat + i) = .ok (f, a) ∧ f.tier = .t1) →
        s.onlyChan { t with free := s.free } ch ∧ t.free = s.free + 1 ∧ (∀ j, j ≠ jc → t.ctx ch j = s.ctx ch j) ∧
        (∀ o, o ≠ 0x7014 → o ∉ charged → (t.chan[ch]).rd o = (s.chan[ch]).rd o) ∧
        ∃ tlb buckets, t.chan[ch] = { s.chan[ch] with
          ctx := (t.chan[ch]).ctx, reg := (t.chan[ch]).reg,
          mem := { (s.chan[ch]).mem with tlb := tlb, bucket := buckets, bad3 := [] } }))

/-- In a context that may issue and whose program counter can be read, ST, STW and TDST to a mapped address with its
alignment go on: the bytes to store join the context's buffer, the program counter rises by 4, and no byte of memory
changes yet. LDL and STL with an 8-byte aligned offset whose 8 bytes lie in 192 MiB read and write those 8 bytes of
the local store, and every other byte of it stays. (R47) -/
def Obligations.StoresAndLocalStore : Prop :=
  ∀ (s : State) (ch : Fin 8) (jc : Fin 16) (rd ra : Fin 32) (td : Fin 64) (imm : BitVec 16) (far : BitVec 15),
    s.fetches ch jc 4 →
    let va : DWord := s.g ch jc ra + BitVec.ofInt 64 imm.toInt
    let ta : DWord := s.g ch jc ra + BitVec.ofInt 64 (32 * far.toInt)
    let mapped (a : DWord) (n : Nat) : Prop := ((s.begun ch jc).vaPlaces ch a.toNat n).isOk = true
    let joins (st : PendStore) (o : Out) : Prop := goesTo o (fun t => s.ranOnly t ch jc ∧
      t.ctx ch jc = { s.ctx ch jc with pc := s.pcOf ch jc + 4, stores := (s.ctx ch jc).stores ++ [st] })
    (va.toNat % 8 = 0 → mapped va 8 →
      joins ⟨va, 8, BitVec.ofNat 256 (s.g ch jc rd).toNat⟩ (exec (.st ch jc rd ra imm) s)) ∧
    (va.toNat % 4 = 0 → mapped va 4 →
      joins ⟨va, 4, BitVec.ofNat 256 ((s.g ch jc rd).toNat % 2 ^ 32)⟩ (exec (.stw ch jc rd ra imm) s)) ∧
    (mapped ta 32 → joins ⟨ta, 32, (s.ctx ch jc).td[td]⟩ (exec (.tdst ch jc td ra far) s)) ∧
    (va.toNat % 8 = 0 → va.toNat + 8 ≤ 0x0C000000 →
      goesTo (exec (.ldl ch jc rd ra imm) s) (fun t => s.sets t ch jc rd
        (BitVec.ofNat 64 (leNat ((List.range 8).map fun i => (s.chan[ch]).mem.ls.byte (va.toNat + i))))) ∧
      goesTo (exec (.stl ch jc rd ra imm) s) (fun t =>
        s.onlyChan t ch ∧ (∀ j, j ≠ jc → t.ctx ch j = s.ctx ch j) ∧
        t.ctx ch jc = { s.ctx ch jc with pc := s.pcOf ch jc + 4 } ∧
        (∀ i, i < 8 → (t.chan[ch]).mem.ls.byte (va.toNat + i) = BitVec.ofNat 8 ((s.g ch jc rd).toNat / 256 ^ i)) ∧
        (∀ a, a < va.toNat ∨ va.toNat + 8 ≤ a → (t.chan[ch]).mem.ls.byte a = (s.chan[ch]).mem.ls.byte a) ∧
        ∃ tlb, t.chan[ch] = { s.chan[ch] with
          ctx := (t.chan[ch]).ctx, sched := { (s.chan[ch]).sched with nextIssue := (jc.val + 1) % 16 },
          mem := { (s.chan[ch]).mem with tlb := tlb, ls := (t.chan[ch]).mem.ls } }))

/-- With nothing else blocked on the channel's semaphores, SIG of a count from 1 adds it and stops at 65,535 with
SEM_SAT posted, SIG and WAIT of 0 stop the job with SEM_INVALID, and with TG = 1 ends the context's ownership; CLAIM
of a semaphore that no other context owns sets count and initial value to ra[15:0] and the owner; FREE ends the
context's ownership; READ gives the count; WAIT of a covered count subtracts it (TG = 1 makes the context the owner)
and goes on, and of one that is not covered leaves the context in WAIT_SEM. Every other semaphore and register stays.
(R60) -/
def Obligations.SemaphoreInstructions : Prop :=
  ∀ (s : State) (ch : Fin 8) (jc : Fin 16) (rd ra : Fin 32) (n : Fin 256) (k : BitVec 8) (tg : Bool),
    s.fetches ch jc 4 → s.noWaiters ch →
    let m := (s.chan[ch]).sem[n]
    let on : Ctx := { s.ctx ch jc with pc := s.pcOf ch jc + 4 }
    let freed (m : Sem) : Sem := if m.owner = some jc.val then { m with owner := none } else m
    (k ≠ 0 → m.count + k.toNat ≤ 65535 → goesTo (exec (.sig ch jc n k tg) s) (fun t =>
      s.semOnly t ch jc n (let v := { m with count := m.count + k.toNat }; if tg then freed v else v) ∧ t.ctx ch jc = on)) ∧
    (k ≠ 0 → 65535 < m.count + k.toNat → goesTo (exec (.sig ch jc n k tg) s) (fun t =>
      (t.chan[ch]).sem[n].count = 65535 ∧ (t.ctx ch jc) = on ∧ s.postedBy t (ch.val * 4096 + jc.val) ∧
      t.pkg = (s.post (ch.val * 4096 + jc.val) .semSat [n.val]).pkg ∧
      ∀ j : Fin 256, j ≠ n → (t.chan[ch]).sem[j] = (s.chan[ch]).sem[j])) ∧
    goesTo (exec (.sig ch jc n 0 tg) s) (fun t => t.stoppedBy ch jc 0x16 0xF) ∧
    goesTo (exec (.wait ch jc n 0 tg) s) (fun t => t.stoppedBy ch jc 0x16 0xF) ∧
    (m.owner = none ∨ m.owner = some jc.val → goesTo (exec (.claim ch jc ra n) s) (fun t =>
      s.semOnly t ch jc n ⟨(s.g ch jc ra).toNat % 65536, (s.g ch jc ra).toNat % 65536, some jc.val⟩ ∧ t.ctx ch jc = on)) ∧
    goesTo (exec (.free ch jc n) s) (fun t => s.semOnly t ch jc n (freed m) ∧ t.ctx ch jc = on) ∧
    goesTo (exec (.read ch jc rd n) s) (fun t => s.sets t ch jc rd (BitVec.ofNat 64 m.count)) ∧
    (k ≠ 0 → k.toNat + s.claimed ch n.val ≤ m.count → goesTo (exec (.wait ch jc n k tg) s) (fun t =>
      s.semOnly t ch jc n { m with count := m.count - k.toNat, owner := if tg then some jc.val else m.owner } ∧
      (t.ctx ch jc).pc = s.pcOf ch jc + 4 ∧ (t.ctx ch jc).st = .run ∧ (t.ctx ch jc).g = (s.ctx ch jc).g)) ∧
    (k ≠ 0 → m.count < k.toNat → goesTo (exec (.wait ch jc n k tg) s) (fun t =>
      s.semOnly t ch jc n m ∧ (t.ctx ch jc).pc = s.pcOf ch jc ∧ (t.ctx ch jc).st = .waitSem ∧
      (t.ctx ch jc).waitOn = .sem n.val k.toNat tg ∧ (t.ctx ch jc).g = (s.ctx ch jc).g))

/-- FENCE of 0xF or of an engine goes on at once when no entry it covers remains (their outputs are then known to the
context), and otherwise leaves the context in WAIT_FENCE; YIELD moves past itself and ends the context's slice, leaving it READY or PREEMPTED; HALT with an empty
store buffer and entries still queued leaves the context HALTED, with its registers. (R44, R46, R70, R99,
02_sequencer_xol.md Table 2.3) -/
def Obligations.ControlInstructions : Prop :=
  ∀ (s : State) (ch : Fin 8) (jc : Fin 16), s.fetches ch jc 4 →
    (∀ imm : BitVec 16, imm.toNat = 0xF ∨ imm.toNat ≤ 0xA →
      let covered := (s.entriesOf ch jc).any fun e => imm.toNat == 0xF || e.eng == imm.toNat
      goesTo (exec (.fence ch jc imm) s) (fun t => s.ranOnly (s.logOf t ch) ch jc ∧
        (covered = false → t.ctx ch jc = { s.ctx ch jc with pc := s.pcOf ch jc + 4 }) ∧
        (covered = true → (t.ctx ch jc).st = .waitFence ∧ (t.ctx ch jc).waitOn = .fence imm.toNat ∧
          (t.ctx ch jc).pc = s.pcOf ch jc ∧ (t.ctx ch jc).g = (s.ctx ch jc).g))) ∧
    goesTo (exec (.yield ch jc) s) (fun t => t.pkg = s.pkg ∧ (t.ctx ch jc).pc = s.pcOf ch jc + 4 ∧
      (t.ctx ch jc).g = (s.ctx ch jc).g ∧ (t.ctx ch jc).td = (s.ctx ch jc).td ∧ (t.ctx ch jc).sched.slice = false ∧
      ((s.ctx ch jc).sched.slice = true → (t.ctx ch jc).st = if (s.runningOf ch jc).isEmpty then .ready else .preempted) ∧
      ((s.ctx ch jc).sched.slice = false → (t.ctx ch jc).st = .run)) ∧
    ((s.ctx ch jc).stores = [] → s.entriesOf ch jc ≠ [] → goesTo (exec (.halt ch jc) s) (fun t =>
      s.ranOnly t ch jc ∧ t.ctx ch jc = { s.ctx ch jc with st := .halted }))

/-- In a context that may issue and whose program counter can be read, TRAP, a word of no instruction, a reserved
encoding (SHI, MOVZ, MOVK, CSRR, FENCE), a misaligned LD, LW, LWU, ST, STW, LDL or STL, an LDL or STL beyond 192 MiB,
WAIT or SIG of 0 and CLAIM of a semaphore that another context owns go on by stopping the job: CH_JC_FAULT holds the
status, with engine 0xF, and the context is FAULTED, or FREE when its job has ended. (R73) -/
def Obligations.ScalarThreadStops : Prop :=
  ∀ (s : State) (ch : Fin 8) (jc : Fin 16) (rd ra : Fin 32) (n : Fin 256) (hw : Fin 4) (imm : BitVec 16) (tg : Bool),
    s.fetches ch jc 4 →
    let va : DWord := s.g ch jc ra + BitVec.ofInt 64 imm.toInt
    let stops (c : Instr) (status : Nat) : Prop := goesTo (exec c s) (fun t => t.stoppedBy ch jc status 0xF)
    stops (.trap ch jc imm) 0x30 ∧
    (∀ w : BitVec 512, bits w.toNat 31 26 ≠ 0x3F → scalarIllegal (bits w.toNat 31 0) = true → stops (.illegalOp ch jc w) 0x12) ∧
    (bits imm.toNat 15 8 ≠ 0 ∨ bits imm.toNat 7 6 = 3 → stops (.shi ch jc rd ra imm) 0x12) ∧
    (∀ r : BitVec 3, r ≠ 0 → stops (.movz ch jc rd hw r imm) 0x12 ∧ stops (.movk ch jc rd hw r imm) 0x12) ∧
    (∀ r : BitVec 5, r ≠ 0 → stops (.csrr ch jc rd r imm) 0x12) ∧
    (16 ≤ imm.toNat ∨ (0xB ≤ imm.toNat ∧ imm.toNat ≤ 0xE) → stops (.fence ch jc imm) 0x12) ∧
    (va.toNat % 8 ≠ 0 → stops (.ld ch jc rd ra imm) 0x22 ∧ stops (.st ch jc rd ra imm) 0x22 ∧
      stops (.ldl ch jc rd ra imm) 0x22 ∧ stops (.stl ch jc rd ra imm) 0x22) ∧
    (va.toNat % 4 ≠ 0 → stops (.lw ch jc rd ra imm) 0x22 ∧ stops (.lwu ch jc rd ra imm) 0x22 ∧
      stops (.stw ch jc rd ra imm) 0x22) ∧
    (va.toNat % 8 = 0 → 0x0C000000 < va.toNat + 8 → stops (.ldl ch jc rd ra imm) 0x23 ∧ stops (.stl ch jc rd ra imm) 0x23) ∧
    stops (.wait ch jc n 0 tg) 0x16 ∧ stops (.sig ch jc n 0 tg) 0x16 ∧
    (∀ o, (s.chan[ch]).sem[n].owner = some o → o ≠ jc.val → stops (.claim ch jc ra n) 0x17)

/-- While CH_SEM_WAITLIM is not 0, SEM_TIMEOUT of a context blocked in a WAIT, in WAIT_SEM or while it is READY, stops its
job with SEM_TIMEOUT, and of one that is not blocked changes nothing, as it does with a limit of 0 and under the fence of
R489. A host write of CH_SEM that reaches its
register, with nothing waiting and the channel in RUN, sets the count to the low 16 bits and changes no owner, initial
value or other semaphore. (R65) -/
def Obligations.SemaphoreTimeoutAndHostWrite : Prop :=
  ∀ (s : State) (ch : Fin 8) (jc : Fin 16) (n : Fin 256) (val : BitVec 32),
    let blocked := ∃ n k tg, (s.ctx ch jc).waitOn = .sem n k tg ∧
      ((s.ctx ch jc).st = .waitSem ∨ ((s.ctx ch jc).st = .ready ∧ (s.semAt ch n).count < k))
    (s.f ch R.CH_SEM_WAITLIM_LIMIT ≠ 0 → s.fenced = false → blocked →
      goesTo (exec (.semTimeout ch jc none) s) (fun t => t.stoppedBy ch jc 0x18 0xF)) ∧
    (s.f ch R.CH_SEM_WAITLIM_LIMIT = 0 ∨ s.fenced = true ∨ ¬ blocked → exec (.semTimeout ch jc none) s = .next s) ∧
    (s.reaches (pfOf ch) → s.noWaiters ch → (s.chan[ch]).power.st = .run → (s.chan[ch]).power.move = .none →
      goesTo (exec (.chSemWrite ch n val) s) (fun t => (s.answer .ok 0).onlyChan t ch ∧
        (t.chan[ch]).sem[n] = { (s.chan[ch]).sem[n] with count := val.toNat % 65536 } ∧
        t.chan[ch] = { s.chan[ch] with sem := (t.chan[ch]).sem } ∧
        ∀ k : Fin 256, k ≠ n → (t.chan[ch]).sem[k] = (s.chan[ch]).sem[k]))

/-- From unpowered, the supply that completes the three begins start-up (START 0) with PERST# released; the loss of
VMAIN or VAUX leaves the package unpowered with no job in any context and the flash as it was; PERST# asserted while
the hub runs holds the package in reset, and its release with the supplies present begins start-up (START 1); FL_EN
falling lets a held start-up go on; an accepted edge of WAKE_N in Off begins start-up (START 2), and outside Off only
sets its ACT bit. (R470) -/
def Obligations.SuppliesAndPerst : Prop :=
  ∀ (s : State) (sup : Supply),
    (s.pkg.cond = .unpowered → (s.setSupply sup true).supplied = true → s.pkg.pins.perst = false →
      goesTo (exec (.supplyPresent sup) s) (fun t => t.pkg.cond = .starting ∧ t.pkg.fld R.HUB_WAKE_START = 0 ∧
        t.supplied = true ∧ t.chan = s.chan ∧ t.pkg.flash = s.pkg.flash ∧ t.pkg.hist = s.pkg.hist)) ∧
    (s.pkg.cond ≠ .unpowered → exec (.supplyPresent sup) s = .next (s.setSupply sup true)) ∧
    (sup ≠ .vstby → goesTo (exec (.supplyAbsent sup) s) (fun t => t.pkg.cond = .unpowered ∧ t.supplied = false ∧
        t.pkg.startFails = 0 ∧ t.pkg.flash = s.pkg.flash ∧ t.pkg.hist.recs = s.pkg.hist.recs ∧ t.pkg.sec = s.pkg.sec ∧
        ∀ (ch : Fin 8) (jc : Fin 16), (t.ctx ch jc).st = .free ∧ (t.chan[ch]).mem.t1 = [])) ∧
    goesTo (exec (.supplyAbsent .vstby) s) (fun t => t.pkg.vstby = false ∧ t.pkg.sec.memKey = false ∧
      t.pkg.cond = if s.pkg.cond = .off then .unpowered else s.pkg.cond) ∧
    goesTo (exec .perstAssert s) (fun t => t.pkg.pins.perst = true ∧ t.pkg.flash = s.pkg.flash ∧
      t.pkg.cond = (if s.hubOn then .inReset else s.pkg.cond) ∧
      (s.hubOn = true → ∀ (ch : Fin 8) (jc : Fin 16), (t.ctx ch jc).st = .free)) ∧
    goesTo (exec .perstRelease s) (fun t => t.pkg.pins.perst = false ∧ t.chan = s.chan ∧
      (s.pkg.cond = .inReset → s.supplied = true → t.pkg.cond = .starting ∧ t.pkg.fld R.HUB_WAKE_START = 1 ∧
        t.pkg.pins.held = s.pkg.pins.flEn) ∧
      (s.pkg.cond ≠ .inReset → t.pkg.cond = s.pkg.cond)) ∧
    goesTo (exec .flEnFall s) (fun t => s.onlyPkg t ∧
      t.pkg = { s.pkg with pins := { s.pkg.pins with flEn := false, held := false } }) ∧
    (s.pkg.vstby = true → s.pkg.fld R.HUB_PIN_STAT_WAKE_STUCK = 0 →
      goesTo (exec .wakeN s) (fun t => t.chan = s.chan ∧ t.pkg.fld R.HUB_PIN_STAT_WAKE_ACT = 1 ∧
        (s.pkg.cond = .off → s.pkg.pins.perst = false → t.pkg.cond = .starting ∧ t.pkg.fld R.HUB_WAKE_START = 2) ∧
        (s.pkg.cond ≠ .off → t.pkg.cond = s.pkg.cond)))

/-- A start-up that has begun, is held neither at step 3 nor after three failures and is supplied, ends: with a hub that
fails its self-test the package is failed, every channel stays as it was and the failure is counted; else the host port is
up, the tick started, and the package runs, or is SAFE, as it is when locked, and those channels live that are enabled,
have no RETIRED record and passed their self-test and the training of their HBM. A failed start-up repeats with START 3
while fewer than three have failed, and after three it stays. (R494) -/
def Obligations.StartUpEnds : Prop :=
  ∀ (s : State) (env : StartEnv),
    let started (t : State) : Prop := t.pkg.portUp = true ∧ (t.pkg.cond = .running ∨ t.pkg.cond = .safe) ∧
      (s.locked = true → t.pkg.cond = .safe) ∧ t.pkg.startFails = 0 ∧ t.pkg.tick.started = true ∧
      ∀ c : Fin 8, t.live c = (bit (s.pkg.rd 0x10).toNat c.val && !s.wasRetired c && env.selfTest.getLsbD c.val && env.hbm.getLsbD c.val)
    (s.pkg.cond = .starting → s.pkg.startFails < 3 → s.pkg.pins.held = false → s.supplied = true → s.pkg.pins.perst = false →
      (env.hubOk = false → goesTo (exec (.startUp env) s) (fun t => t.pkg.cond = .failed ∧ t.pkg.portUp = s.pkg.portUp ∧
        t.pkg.startFails = s.pkg.startFails + 1 ∧ t.chan = s.chan ∧ t.pkg.pins.faultN = false)) ∧
      (env.hubOk = true → goesTo (exec (.startUp env) s) started)) ∧
    (s.pkg.cond = .failed → s.pkg.startFails < 3 →
      goesTo (exec (.startupRepeat env) s) (fun t => t.pkg.fld R.HUB_WAKE_START = 3 ∧
        (env.hubOk = false → t.pkg.cond = .failed ∧ t.pkg.startFails = s.pkg.startFails + 1 ∧ t.pkg.portUp = false) ∧
        (env.hubOk = true → started t))) ∧
    (s.pkg.cond = .failed → 3 ≤ s.pkg.startFails → exec (.startupRepeat env) s = .next s)

/-- While the package runs, HOST_PORT_LINK_UP makes the port up with the functions of the live channels and their
configuration spaces, and posts ARI_ABSENT from the host port exactly when ARI forwarding is not enabled; PF8 answers only
with it, and the ARI next-function chain names the functions present in ascending order and ends in 0; otherwise nothing
changes. A configuration request to a function that is not present is answered with Unsupported Request and nothing else
changes. (R32) -/
def Obligations.HostPort : Prop :=
  ∀ (s : State) (fn : Nat),
    let live : BitVec 8 := BitVec.ofNat 8 (bits (s.pkg.rd 0x14).toNat 7 0)
    let up (ari : Bool) : Pkg :=
      { s.pkg with portUp := true, ari := ari, functions := live, cfg := cfgSpaces s.pkg.otp.stepping live }
    let here (n : Nat) : Prop := n = 0 ∨ (1 ≤ n ∧ n ≤ 8 ∧ live.getLsbD (n - 1) = true)
    let chain : Prop := ∀ x ∈ cfgSpaces s.pkg.otp.stepping live, here x.1 ∧ (x.2.next = 0 → ∀ n, here n → n ≤ x.1) ∧
      (x.2.next ≠ 0 → here x.2.next ∧ x.1 < x.2.next ∧ ∀ n, here n → x.1 < n → x.2.next ≤ n)
    (s.runs = true →
      goesTo (exec (.hostPortLinkUp true) s) (fun t => s.onlyPkg t ∧ t.pkg = up true ∧ chain) ∧
      goesTo (exec (.hostPortLinkUp false) s) (fun t => s.postedBy t 0x8005 ∧ t.pkg.ari = false ∧ t.present 8 = false ∧
        State.butEvents { s with pkg := up false } t)) ∧
    (s.runs = false → ∀ ari, exec (.hostPortLinkUp ari) s = .next s) ∧
    ((9 ≤ fn ∨ ∃ h : fn < 9, s.present ⟨fn, h⟩ = false) →
      goesTo (exec (.configRequestAbsent fn) s) (fun t => s.onlyPkg t ∧
        t.pkg = { s.pkg with out := { s.pkg.out with cpl := .unsupported, data := 0 } }))

/-- An FLR of a present channel that lives and is out of reset puts it in reset with every context FREE, every engine
queue empty and every link down, and leaves every other channel as it was; FLR_CHANNEL_DONE of a live channel in
reset, with the package running, not locked and no thermal trip, takes it out; an FLR of PF0 returns PF0's event-ring
and CPER-ring registers to their reset values and changes no other register and no channel. (R34) -/
def Obligations.FunctionLevelResets : Prop :=
  ∀ (s : State) (ch : Fin 8),
    (s.present (pfOf ch) = true → s.live ch = true → (s.chan[ch]).inReset = false →
      goesTo (exec (.flrChannel ch) s) (fun t => (t.chan[ch]).inReset = true ∧ t.pkg.out.cpl = .ok ∧
        (∀ jc : Fin 16, (t.ctx ch jc).st = .free) ∧ (∀ e : Fin 11, t.eq ch e = ⟨[], none, []⟩) ∧
        (∀ n : Fin 256, (t.chan[ch]).sem[n] = ⟨0, 0, none⟩) ∧ (∀ p : Fin 16, t.linkUp ch p = false) ∧
        ∀ c, c ≠ ch → (t.chan[c]).ctx = (s.chan[c]).ctx ∧ (t.chan[c]).mem = (s.chan[c]).mem ∧ (t.chan[c]).q = (s.chan[c]).q)) ∧
    (s.runs = true → s.live ch = true → (s.chan[ch]).inReset = true → (s.pwr ch).thermTrip = false → s.locked = false →
      goesTo (exec (.flrChannelDone ch) s) (fun t => (t.chan[ch]).inReset = false ∧
        bit (t.pkg.rd 0x14).toNat (16 + ch.val) = false ∧ t.live ch = true ∧ (∀ jc : Fin 16, t.ctx ch jc = s.ctx ch jc) ∧
        (t.chan[ch]).mem = (s.chan[ch]).mem ∧ ∀ c, c ≠ ch → t.chan[c] = s.chan[c])) ∧
    (s.present 0 = true → goesTo (exec .flrHub s) (fun t => t.chan = s.chan ∧ t.pkg.out.cpl = .ok ∧
      (∀ o, (0x30 ≤ o ∧ o < 0x3C) ∨ (0x80 ≤ o ∧ o < 0x90) → t.pkg.rd o = regReset true o) ∧
      (∀ o, ¬ ((0x30 ≤ o ∧ o < 0x3C) ∨ (0x80 ≤ o ∧ o < 0x90)) → t.pkg.rd o = s.pkg.rd o) ∧
      t.pkg.tick = s.pkg.tick ∧ t.pkg.lease = s.pkg.lease ∧ t.pkg.sec = s.pkg.sec))

/-- CHANNEL_RETIRE of a live channel clears LIVE, sets RETIRED, records it, takes every link of it down, the memory link
too, and leaves every other channel as it was; of one that is not live it changes nothing. HUB_FAULT of a live channel
takes every link of it down and marks its hub link lost; the package is lost, and the host port down, exactly when every
live channel has lost its link. (R37) -/
def Obligations.ChannelsLost : Prop :=
  ∀ (s : State) (ch : Fin 8),
    (s.live ch = true → goesTo (exec (.channelRetire ch) s) (fun t => t.live ch = false ∧
      bit (t.pkg.rd 0x14).toNat (8 + ch.val) = true ∧ (∀ p : Fin 16, t.linkUp ch p = false) ∧
      t.pkg.functions = s.pkg.functions ∧ t.f ch R.MEM_T2_STAT_LINK ≠ 2 ∧
      (∃ h ∈ t.pkg.hist.recs, h.cls = clsRetired ∧ h.key = ch.val ∧ h.action = 3 ∧ h.seq = s.pkg.hist.next) ∧ (∀ c, c ≠ ch → t.live c = s.live c ∧ t.chan[c] = s.chan[c]))) ∧
    (s.live ch = false → exec (.channelRetire ch) s = .next s) ∧
    (s.live ch = true → goesTo (exec (.hubFault ch) s) (fun t => (t.chan[ch]).hubLost = true ∧
      (∀ p : Fin 16, t.linkUp ch p = false) ∧ t.f ch R.MEM_T2_STAT_LINK ≠ 2 ∧ (∀ c, c ≠ ch → t.chan[c] = s.chan[c]) ∧
      let others := (List.finRange 8).any fun c => c != ch && s.live c && !(s.chan[c]).hubLost
      t.pkg.portUp = (s.pkg.portUp && others) ∧ t.pkg.cond = if others then s.pkg.cond else .lost))

/-- At 105 °C an up channel without a hold takes one, with THERM_N low, HOLD and TJ shown and THERM_HOLD posted; below
100 °C it ends. At 120 °C a live channel of a running package that has no trip is held in reset with every context
FREE, THERM_TRIP posted and THERM_N low; below 90 °C a trip ends, and with a passed self-test in a package that is not
locked the channel leaves reset. (R511) -/
def Obligations.ThermalLimits : Prop :=
  ∀ (s : State) (ch : Fin 8) (tj : BitVec 8),
    (s.up ch = true → (s.pwr ch).thermHold = false → 169 ≤ tj.toNat →
      goesTo (exec (.thermHold ch tj) s) (fun t => (t.pwr ch).thermHold = true ∧ t.pkg.pins.thermN = false ∧
        t.f ch R.CH_THERM_TJ = tj.toNat ∧ t.f ch R.CH_THERM_HOLD = 1 ∧ s.postedBy t (if ch.val < 4 then 0x8000 else 0x8001) ∧
        (∀ jc : Fin 16, t.ctx ch jc = s.ctx ch jc) ∧ ∀ c, c ≠ ch → t.chan[c] = s.chan[c])) ∧
    (s.up ch = true → (s.pwr ch).thermHold = true → tj.toNat < 164 →
      goesTo (exec (.thermHoldRelease ch tj) s) (fun t => (t.pwr ch).thermHold = false ∧ t.f ch R.CH_THERM_HOLD = 0 ∧
        t.f ch R.CH_THERM_TJ = tj.toNat ∧ (∀ jc : Fin 16, t.ctx ch jc = s.ctx ch jc) ∧ ∀ c, c ≠ ch → t.chan[c] = s.chan[c])) ∧
    (s.live ch = true → s.runs = true → (s.pwr ch).thermTrip = false → 184 ≤ tj.toNat → (s.chan[ch]).inReset = false →
      goesTo (exec (.thermTrip ch tj) s) (fun t => (t.pwr ch).thermTrip = true ∧ (t.chan[ch]).inReset = true ∧
        t.pkg.pins.thermN = false ∧ t.f ch R.CH_THERM_TJ = tj.toNat ∧ ∀ jc : Fin 16, (t.ctx ch jc).st = .free)) ∧
    (s.live ch = true → (s.pwr ch).thermTrip = true → tj.toNat < 154 → s.locked = false →
      goesTo (exec (.thermTripRelease ch tj true) s) (fun t => (t.pwr ch).thermTrip = false ∧ (t.chan[ch]).inReset = false ∧
        t.f ch R.CH_THERM_TJ = tj.toNat) ∧
      goesTo (exec (.thermTripRelease ch tj false) s) (fun t => (t.pwr ch).thermTrip = false ∧ t.live ch = false))

/-- An accepted ALERT_N of a package with its standby supply sets ACT, and posts ALERT_HOLD once while the hub runs;
its end clears ACT. A pin that stays active is masked: ACT clears, STUCK sets and STUCK_INPUT is posted while the hub
runs; re-arming clears STUCK. Nothing else changes but the event path. (R485) -/
def Obligations.InputPins : Prop :=
  ∀ (s : State) (pin : Pin), s.pkg.vstby = true → s.hubOn = true →
    (s.pkg.fld R.HUB_PIN_STAT_ALERT_STUCK = 0 → s.pkg.fld R.HUB_PIN_STAT_ALERT_ACT = 0 →
      goesTo (exec .alertN s) (fun t => State.butEvents (s.modP (·.setFld R.HUB_PIN_STAT_ALERT_ACT 1)) t ∧
        s.postedBy t 0x800A)) ∧
    goesTo (exec .alertNInactive s) (fun t => s.onlyPkg t ∧ Pkg.differAt [0x408] s.pkg t.pkg ∧
      t.pkg.fld R.HUB_PIN_STAT_ALERT_ACT = 0 ∧ t.pkg.fld R.HUB_PIN_STAT_ALERT_STUCK = s.pkg.fld R.HUB_PIN_STAT_ALERT_STUCK) ∧
    (s.pkg.fld (pinFlds pin).1 = 1 → goesTo (exec (.stuckInput pin) s) (fun t =>
      State.butEvents (s.modP fun p => (p.setFld (pinFlds pin).1 0).setFld (pinFlds pin).2 1) t ∧ s.postedBy t 0x800A ∧
      t.pkg.fld (pinFlds pin).1 = 0 ∧ t.pkg.fld (pinFlds pin).2 = 1)) ∧
    (s.pkg.fld (pinFlds pin).2 = 1 → goesTo (exec (.pinRearm pin) s) (fun t => s.onlyPkg t ∧ Pkg.differAt [0x408] s.pkg t.pkg ∧
      t.pkg.fld (pinFlds pin).1 = 0 ∧ t.pkg.fld (pinFlds pin).2 = 0))

/-- A write of GO with KEY 0x0FF0 that reaches HUB_PWR_OFF, and the I3C command with its key while the standby supply
is present, take a running package whose channels are all quiet Off: every context is FREE, the flash, the fault
history and the key store stay, and every supply stays present. With a wrong KEY a write of GO changes nothing; while
a channel is not quiet and FORCE is 0 the package stays on and PWR_REFUSED is posted. (R481) -/
def Obligations.PackageOff : Prop :=
  ∀ (s : State), s.reaches 0 → s.runs = true → s.pkg.vstby = true → s.mouldState ≠ mouldStoring →
    let quiet := (List.finRange 8).all fun c => !s.up c || s.quiet c
    let off (t : State) : Prop := t.pkg.cond = .off ∧ t.supplied = s.supplied ∧ t.pkg.flash = s.pkg.flash ∧
      t.pkg.hist.recs = s.pkg.hist.recs ∧ t.pkg.sec = s.pkg.sec ∧ ∀ (ch : Fin 8) (jc : Fin 16), (t.ctx ch jc).st = .free
    (∀ force : Bool, quiet = true →
      goesTo (exec (.hubPwrOff (if force then 0x800FF001#32 else 0x800FF000#32)) s) off) ∧
    (quiet = true → goesTo (exec (.i3cPwrOff 0x0FF0 0) s) off) ∧
    (quiet = false → goesTo (exec (.hubPwrOff 0x800FF000#32) s) (fun t => t.pkg.cond = s.pkg.cond ∧ s.postedBy t 0x800B ∧
      ∀ ch : Fin 8, (t.chan[ch]).ctx = (s.chan[ch]).ctx)) ∧
    ∀ val : BitVec 32, val.getLsbD 31 = true → bits val.toNat 23 8 ≠ 0x0FF0 →
      exec (.hubPwrOff val) s = .next (s.answer .ok 0)

/-- A renewal or claim of a gaffer that may lead (it is not in reset, does not wait out a split-driven reset and is no
passive GE) takes the lease when its epoch is above the gate's, or equal to it from the holder or from GW; with a lower
epoch, or an equal one from GE while GW holds it, no register changes, and that of a gaffer that may not lead changes
nothing. Epoch 0xFFFF_FFFF is never claimed. A gaffer that observes the lease expired and may lead claims the epoch above
the gate's, except from 0xFFFF_FFFE on; GW and GE claim so after a split-driven reset, GE only when it heard no renewal.
(R22, R23) -/
def Obligations.LeaseEpochs : Prop :=
  ∀ (s : State) (g : Gaffer) (epoch : BitVec 32),
    let now := s.pkg.fld R.GAF_LEASE_EPOCH
    let passive := s.pkg.fld R.GAF_LEASE_STATUS_GE_PASSIVE = 1
    let waits := (if g = .gw then s.pkg.lease.gwWaits else s.pkg.lease.geWaits) = true
    let leads := s.gafReset g = false ∧ ¬ waits ∧ (g = .ge → ¬ passive)
    let lost (t : State) : Prop := t.chan = s.chan ∧ ∀ o, t.pkg.rd o = s.pkg.rd o
    (leads → now < epoch.toNat ∨ (now = epoch.toNat ∧ (g = s.holder ∨ g = .gw)) →
      goesTo (exec (.leaseRenew g epoch) s) (fun t => s.leased t g epoch.toNat) ∧
      (epoch ≠ 0xFFFFFFFF#32 → goesTo (exec (.leaseClaim g epoch) s) (fun t => s.leased t g epoch.toNat))) ∧
    (¬ leads → exec (.leaseRenew g epoch) s = .next s ∧ exec (.leaseClaim g epoch) s = .next s ∧
      goesTo (exec (.leaseExpire g) s) (fun t => t.leaseValid = false ∧ t.pkg.fld R.GAF_LEASE_EPOCH = now)) ∧
    (epoch.toNat < now ∨ (now = epoch.toNat ∧ g = .ge ∧ s.holder = .gw) →
      goesTo (exec (.leaseRenew g epoch) s) lost ∧ goesTo (exec (.leaseClaim g epoch) s) lost) ∧
    exec (.leaseClaim g 0xFFFFFFFF#32) s = .next s ∧
    (now < 0xFFFFFFFE → (leads → goesTo (exec (.leaseExpire g) s) (fun t => s.leased t g (now + 1))) ∧
      (s.gafReset g = false → waits → (g = .ge → ¬ passive) →
        (g = .gw → goesTo (exec .gwClaim s) (fun t => s.leased t .gw (now + 1))) ∧
        (g = .ge → goesTo (exec (.geClaim false) s) (fun t => s.leased t .ge (now + 1))))) ∧
    goesTo (exec (.geClaim true) s) lost ∧
    goesTo (exec (.leaseExpire g) s) (fun t => 0xFFFFFFFE ≤ now → t.leaseValid = false ∧ t.pkg.fld R.GAF_LEASE_EPOCH = now)

/-- At the end of a renewal window the gate raises SPLIT_LEASE, with SPLIT_TICKS at 0 and SPLIT_SEEN set, when both
gaffers were heard in it and in the one before; it clears it after a window with one gaffer only; in every other case
SPLIT stays. At the 9th tick boundary of a split both gaffers reset, every change of power state is held, RESETS counts
and a held commit is abandoned, and before it nothing changes. The host's writes clear SPLIT_SEEN and FENCED_WRITES, and PASSIVE_HOLD with GE's passivity
and the count. (R29) -/
def Obligations.LeaseSplit : Prop :=
  ∀ (s : State) (ms : Nat),
    let l := s.pkg.lease
    goesTo (exec .leaseWindowEnd s) (fun t => t.chan = s.chan ∧
      t.pkg.lease = { l with gwSeen := false, geSeen := false, bothBefore := l.gwSeen && l.geSeen } ∧
      t.pkg.fld R.GAF_LEASE_EPOCH = s.pkg.fld R.GAF_LEASE_EPOCH ∧ t.holder = s.holder ∧ t.leaseValid = s.leaseValid ∧
      (s.split = false → l.gwSeen = true → l.geSeen = true → l.bothBefore = true →
        t.split = true ∧ t.pkg.fld R.GAF_LEASE_STATUS_SPLIT_TICKS = 0 ∧ t.pkg.fld R.GAF_SPLIT_SPLIT_SEEN = 1) ∧
      (s.split = true → l.gwSeen ≠ l.geSeen → t.split = false ∧ t.pkg.fld R.GAF_LEASE_STATUS_SPLIT_TICKS = 0) ∧
      (s.split = false → (l.gwSeen && l.geSeen && l.bothBefore) = false → t.split = false) ∧
      (s.split = true → l.gwSeen = l.geSeen → t.split = true)) ∧
    (s.split = true → 9 ≤ s.pkg.fld R.GAF_LEASE_STATUS_SPLIT_TICKS →
      goesTo (exec (.splitGafferReset ms) s) (fun t => t.pkg.gwReset = true ∧ t.pkg.geReset = true ∧
        t.pkg.fld R.GAF_SPLIT_RESETS = min 15 (s.pkg.fld R.GAF_SPLIT_RESETS + 1) ∧ t.pkg.lease.gwWaits = true ∧
        t.pkg.lease.geWaits = true ∧ t.pkg.lease.resets = (ms :: l.resets).take 3 ∧ t.mouldState ≠ mouldHeld ∧
        (∀ c : Fin 8, (t.pwr c).move = (s.pwr c).move ∧ (t.pwr c).st = (s.pwr c).st ∧
          ((s.pwr c).move ≠ .none → (t.pwr c).held = true)) ∧
        (∀ a b, (ms :: l.resets).take 3 = [ms, a, b] → ms ≤ a + 10000 → ms ≤ b + 10000 →
          t.pkg.fld R.GAF_LEASE_STATUS_GE_PASSIVE = 1 ∧ t.pkg.fld R.GAF_SPLIT_PASSIVE_HOLD = 1))) ∧
    (s.split = false ∨ s.pkg.fld R.GAF_LEASE_STATUS_SPLIT_TICKS < 9 → exec (.splitGafferReset ms) s = .next s) ∧
    (s.reaches 0 →
      goesTo (exec .splitSeenClear s) (fun t => t.chan = s.chan ∧ Pkg.differAt [0x208] (s.answer .ok 0).pkg t.pkg ∧
        t.pkg.fld R.GAF_SPLIT_SPLIT_SEEN = 0 ∧ t.pkg.fld R.GAF_SPLIT_FENCED_WRITES = 0 ∧
        t.pkg.fld R.GAF_SPLIT_PASSIVE_HOLD = s.pkg.fld R.GAF_SPLIT_PASSIVE_HOLD ∧
        t.pkg.fld R.GAF_SPLIT_RESETS = s.pkg.fld R.GAF_SPLIT_RESETS) ∧
      goesTo (exec .passiveHoldRelease s) (fun t => t.chan = s.chan ∧ t.pkg.fld R.GAF_SPLIT_PASSIVE_HOLD = 0 ∧
        t.pkg.fld R.GAF_LEASE_STATUS_GE_PASSIVE = 0 ∧ t.pkg.fld R.GAF_SPLIT_RESETS = 0 ∧ t.pkg.lease.resets = [] ∧
        t.pkg.fld R.GAF_SPLIT_SPLIT_SEEN = s.pkg.fld R.GAF_SPLIT_SPLIT_SEEN ∧
        ∀ o, o ≠ 0x204 → o ≠ 0x208 → t.pkg.rd o = s.pkg.rd o))

/-- While a gaffer is in reset, every change of power state of its half waits, no state of the other half's changes,
contexts and memories stay as they were, and a wake event of a sleeping channel of its half that is up and not PARKED
is held. Its return changes no context and no memory; with no wake event held for its half it changes no channel's power
state and lets waiting changes run, so that one that waits alone in its half runs; a wake event held alone for a sleeping
channel is acted on. (R20) -/
def Obligations.GaffersReset : Prop :=
  ∀ (s : State) (g : Gaffer) (code : Fin 8),
    goesTo (exec (.gafferReset g) s) (fun t => t.gafReset g = true ∧
      (∀ c : Fin 8, (t.chan[c]).ctx = (s.chan[c]).ctx ∧ (t.chan[c]).mem = (s.chan[c]).mem ∧ (t.pwr c).st = (s.pwr c).st ∧
        (t.pwr c).move = (s.pwr c).move) ∧
      (∀ c ∈ gafHalf g, (s.pwr c).move ≠ .none → (t.pwr c).held = true ∧ t.f c R.CH_PWR_STAT_TRANS = 0) ∧
      ∀ c, c ∉ gafHalf g → t.chan[c] = s.chan[c]) ∧
    (∀ c ∈ gafHalf g, s.gafReset g = true → code ≠ 0 → s.up c = true → s.fenced = false → s.place c ≠ 0xE →
      (s.pwr c).st ≠ .run → (s.pwr c).move = .none → (∀ x ∈ s.pkg.heldWakes, x.1 ≠ c.val) →
      goesTo (exec (.pwrWake c code) s) (fun t => t.chan = s.chan ∧
        t.pkg = { s.pkg with heldWakes := s.pkg.heldWakes ++ [(c.val, code.val)] })) ∧
    ((∀ c ∈ gafHalf g, ∀ x ∈ s.pkg.heldWakes, x.1 ≠ c.val) →
      goesTo (exec (.gafferReturn g) s) (fun t => t.gafReset g = false ∧ t.pkg.heldWakes = s.pkg.heldWakes ∧
        (∀ c : Fin 8, (t.chan[c]).ctx = (s.chan[c]).ctx ∧ (t.chan[c]).mem = (s.chan[c]).mem ∧ (t.pwr c).st = (s.pwr c).st ∧
          (t.pwr c).move = (s.pwr c).move) ∧
        ∀ c ∈ gafHalf g, (∀ d ∈ gafHalf g, d ≠ c → (s.pwr d).move = .none) → (t.pwr c).move ≠ .none → (t.pwr c).held = false)) ∧
    (∀ c ∈ gafHalf g, ∀ k, s.pkg.heldWakes = [(c.val, k)] → s.up c = true → s.fenced = false → s.place c ≠ 0xE →
      (s.pwr c).st ≠ .run → (s.pwr c).move = .none →
      goesTo (exec (.gafferReturn g) s) (fun t => t.gafReset g = false ∧ t.pkg.heldWakes = [] ∧ (t.pwr c).move = .exit .run ∧
        t.f c R.CH_PWR_STAT_LAST_WAKE = k % 16 ∧ ∀ d : Fin 8, (t.chan[d]).ctx = (s.chan[d]).ctx ∧ (t.chan[d]).mem = (s.chan[d]).mem))

/-- A boundary of a started tick raises the number by one, or adopts the master's; what was latched takes effect, and SRC_NOW
follows SRC; during a split the latched value of HUB_TICK_CFG waits. RWT_LATCH moves the staged values to the latched ones.
An accepted edge of TICK_IN under PIN within 10% of PERIOD ends holdover and sets LOCKED when its error is at most 100 ns,
and one outside counts in STRAY. TICK_HOLDOVER after two silent boundaries sets HOLDOVER and clears LOCKED, and after fewer
changes nothing. A host write of a legal HUB_TICK_CFG through an open gate is staged and one through a
closed gate is discarded and counted. Reading NUM_LO latches the high half. (R75, R77, R82, R83, R84, R453) -/
def Obligations.TickBoundaries : Prop :=
  ∀ (s : State) (err : Int) (val : BitVec 32),
    (s.pkg.tick.started = true → goesTo (exec .tickBoundary s) (fun t =>
      t.pkg.tick.num = (match s.pkg.tick.adopt with
        | none => s.pkg.tick.num + 1
        | some m => m) ∧ t.pkg.tick.adopt = none ∧
      t.pkg.fld R.HUB_TICK_STAT_SRC_NOW = t.pkg.fld R.HUB_TICK_CFG_SRC ∧ (s.split = false → t.pkg.tick.latched = []) ∧
      ∀ v, s.pkg.tick.latched = [⟨0, 0x100, v⟩] → (s.split = true → t.pkg.tick.latched = s.pkg.tick.latched) ∧
        (s.split = false → bits (t.pkg.rd 0x100).toNat 25 0 = bits v.toNat 25 0))) ∧
    (s.pkg.tick.started = false → exec .tickBoundary s = .next s) ∧
    goesTo (exec .rwtLatch s) (fun t => s.onlyPkg t ∧ t.pkg.reg = s.pkg.reg ∧ t.pkg.tick.staged = [] ∧
      (∀ r ∈ s.pkg.tick.staged, r ∈ t.pkg.tick.latched) ∧
      ∀ r ∈ s.pkg.tick.latched, (∀ x ∈ s.pkg.tick.staged, ¬ (x.pf = r.pf ∧ x.off = r.off)) → r ∈ t.pkg.tick.latched) ∧
    (s.pkg.fld R.HUB_PIN_STAT_TICK_STUCK = 0 → s.pkg.fld R.HUB_TICK_STAT_SRC_NOW = 1 → s.pkg.tick.acquiring = false →
      goesTo (exec (.tickInEdge err) s) (fun t => s.onlyPkg t ∧ t.pkg.fld R.HUB_PIN_STAT_TICK_ACT = 1 ∧
        t.pkg.tick.num = s.pkg.tick.num ∧
        (err.natAbs ≤ s.pkg.fld R.HUB_TICK_CFG_PERIOD → t.pkg.fld R.HUB_TICK_STAT_HOLDOVER = 0 ∧ t.pkg.tick.silent = 0 ∧
          t.pkg.fld R.HUB_TICK_STAT_LOCKED = if err.natAbs ≤ 100 then 1 else 0) ∧
        (s.pkg.fld R.HUB_TICK_CFG_PERIOD < err.natAbs → t.pkg.tick = s.pkg.tick ∧
          t.pkg.fld R.HUB_TICK_STAT_STRAY = min 255 (s.pkg.fld R.HUB_TICK_STAT_STRAY + 1)))) ∧
    (s.pkg.fld R.HUB_TICK_STAT_SRC_NOW ≠ 0 → 1 ≤ s.pkg.tick.silent → s.pkg.tick.met = false →
      s.pkg.fld R.HUB_TICK_STAT_HOLDOVER = 0 →
      goesTo (exec .tickHoldover s) (fun t => t.chan = s.chan ∧ t.pkg.fld R.HUB_TICK_STAT_HOLDOVER = 1 ∧
        t.pkg.fld R.HUB_TICK_STAT_LOCKED = 0 ∧ s.postedBy t 0x8003 ∧ t.pkg.tick = s.pkg.tick)) ∧
    (s.pkg.fld R.HUB_TICK_STAT_SRC_NOW = 0 ∨ s.pkg.tick.silent = 0 ∨ s.pkg.tick.met = true → exec .tickHoldover s = .next s) ∧
    (s.reaches 0 → 5000 ≤ bits val.toNat 23 0 → bits val.toNat 23 0 ≤ 10000000 → bits val.toNat 25 24 ≠ 3 →
      (s.leaseValid = true → s.split = false → goesTo (exec (.tickCfgWrite .host val) s) (fun t => t.chan = s.chan ∧
        t.pkg.rd 0x100 = s.pkg.rd 0x100 ∧ t.pkg.fld R.HUB_TICK_STAT_PENDING = 1 ∧
        ∃ r ∈ t.pkg.tick.staged, r.pf = 0 ∧ r.off = 0x100 ∧ bits r.val.toNat 25 0 = bits val.toNat 25 0 ∧
          bits r.val.toNat 26 26 = s.pkg.fld R.HUB_TICK_CFG_MASTER)) ∧
      (s.leaseValid = false ∨ s.split = true → goesTo (exec (.tickCfgWrite .host val) s) (fun t => t.chan = s.chan ∧
        t.pkg.tick = s.pkg.tick ∧
        t.pkg.fld R.GAF_SPLIT_FENCED_WRITES = min 255 (s.pkg.fld R.GAF_SPLIT_FENCED_WRITES + 1)))) ∧
    (s.pkg.portUp = true → goesTo (exec .tickNumRead s) (fun t => s.onlyPkg t ∧ t.pkg.reg = s.pkg.reg ∧
      t.pkg.out.data.toNat = s.pkg.tick.num.toNat % 2 ^ 32 ∧ t.pkg.tick.hiLatch.toNat = s.pkg.tick.num.toNat / 2 ^ 32))

/-- For every row that is a wide instruction, with the words the row fixes: in a context that may issue and whose 64
bytes can be read, when the checks of R58 pass, the context's stores reach memory, the operation's work at issue
succeeds and the queue has an entry free for the context, the instruction goes on: one entry with its words, its
snapshot of the descriptors and its sequence number joins the end of its engine's queue, ISSUED rises by one, the
program counter by 64, and no other queue or context changes after that. WIDE_RETRY does the same for a context in
WAIT_QUEUE of a clocked channel; without a free entry the context waits in WAIT_QUEUE. (R66) -/
def Obligations.WideJoinsItsQueue : Prop :=
  ∀ (i : Instr) (ch : Fin 8) (jc : Fin 16) (w : Wide) (r : WideRow) (s u v : State) (k : Iss) (aux : List Nat),
    (s.vaRead ch (s.ctx ch jc).pc.toNat 64).isOk = true →
    Iss.checks ⟨s.begun ch jc, ch, jc, w, (s.ctx ch jc).td, (s.pcOf ch jc).toNat % 2 ^ 32, []⟩ (formOf w) = .ok k →
    (s.begun ch jc).drainStores ch jc = .ok u → (formOf w).atIssue { k with s := u } = .ok (v, aux) →
    let eng : Fin 11 := engOf (bits w.toNat 23 20)
    let joined (t : State) : Prop := t.pkg = v.pkg ∧ (∀ c, c ≠ ch → t.chan[c] = v.chan[c]) ∧
      (∃ e : Entry, (t.eq ch eng).waiting = (v.eq ch eng).waiting ++ [e] ∧ e.jc = jc.val ∧ e.eng = eng.val ∧ e.word = w ∧
        e.td = (s.ctx ch jc).td ∧ e.size = k.size ∧ e.seq = (u.ctx ch jc).job.issued ∧ e.aux = aux ∧ e.pass = 0 ∧
        e.started = false) ∧
      (t.eq ch eng).run = (v.eq ch eng).run ∧ (∀ e, e ≠ eng → t.eq ch e = v.eq ch e) ∧
      (∀ j, j ≠ jc → t.ctx ch j = v.ctx ch j) ∧ (t.ctx ch jc).st = .run ∧ (t.ctx ch jc).pc = (v.ctx ch jc).pc + 64 ∧
      (t.ctx ch jc).job.issued = (v.ctx ch jc).job.issued + 1 ∧ (t.ctx ch jc).g = (v.ctx ch jc).g ∧
      (t.chan[ch]).sem = (v.chan[ch]).sem ∧ (t.chan[ch]).mem = (v.chan[ch]).mem ∧ (t.chan[ch]).reg = (v.chan[ch]).reg
    (i.wideRow = some (ch, jc, w, r) → r.fits w = true → s.canIssue ch jc = true →
      ((u.eq ch eng).room jc = true → goesTo (exec i s) joined) ∧
      ((u.eq ch eng).room jc = false → goesTo (exec i s) (fun t => (t.ctx ch jc).st = .waitQueue ∧ (t.ctx ch jc).wide = w ∧
        (t.ctx ch jc).pc = s.pcOf ch jc ∧ ∀ e : Fin 11, t.eq ch e = u.eq ch e))) ∧
    (s.clocked ch = true → (s.ctx ch jc).st = .waitQueue → (s.ctx ch jc).wide = w → (s.eq ch eng).room jc = true →
      (u.eq ch eng).room jc = true → goesTo (exec (.wideRetry ch jc) s) joined)

/-- For every row that is a wide instruction, and for the words of an illegal one: in a context that may issue and
whose 64 bytes can be read, a program counter that is no multiple of 64 stops the job with WIDE_ALIGN; at a multiple
of 64 an illegal encoding stops it with ILLEGAL_OP, and a legal encoding with an enabled wait or signal of 0 with
SEM_INVALID. CH_JC_FAULT names the instruction's engine. (R49, R58, R60, R73) -/
def Obligations.WideIssueFaults : Prop :=
  ∀ (i : Instr) (ch : Fin 8) (jc : Fin 16) (w : Wide) (r : WideRow) (s : State),
    s.canIssue ch jc = true → (s.vaRead ch (s.ctx ch jc).pc.toNat 64).isOk = true →
    (i.wideRow = some (ch, jc, w, r) ∧ r.fits w = true) ∨ (i = .illegalOp ch jc w ∧ bits w.toNat 31 26 = 0x3F) →
    let stops (status : Nat) : Prop := goesTo (exec i s) (fun t => t.stoppedBy ch jc status (bits w.toNat 23 20))
    let aligned := ((s.pcOf ch jc).toNat % 2 ^ 32) % 64 = 0
    (¬ aligned → stops 0x13) ∧
    (aligned → wideIllegal w = true → stops 0x12) ∧
    (aligned → wideIllegal w = false → semIllegal w = true → stops 0x16)

/-- On a clocked channel an idle engine without an entry that may start, and an engine that runs one, are left as they
are by ENTRY_START (MX to RC and LS). When an entry that has not started may start and hold what it needs, the engine
runs it: a ZERO_SHAPE no-op at once; an entry of the epilogue and load/store engines when the owner check passes; one of
another engine when its start checks pass too, and at once unless it holds the array and a pass start is held. The entry
has left the queue and, with no thread and no copy waiting on semaphores, these have lost its enabled waits and no more.
(R67) -/
def Obligations.EntriesStart : Prop :=
  ∀ (s : State) (ch : Fin 8) (eng : Fin 11) (b2b : Bool) (e : Entry), s.clocked ch = true → eng ≠ 4 → eng ≠ 5 → eng ≠ 10 →
    let goes (P : State → Prop) : Prop := goesTo (exec (.entryStart ch eng b2b) s) P
    ((s.eq ch eng).run.isSome = true → exec (.entryStart ch eng b2b) s = .next s) ∧
    ((s.eq ch eng).run = none → s.pick ch eng = none → exec (.entryStart ch eng b2b) s = .next s) ∧
    ((s.eq ch eng).run = none → s.pick ch eng = some e → s.mayHold ch e = true → e.stopped = false → e.eng = eng.val →
      s.noWaiters ch →
      let taken := ((s.noteStart ch e).pullEntry ch e).takeWaits ch e.waits
      let mine : Entry := { e with started := true }
      let gone (t : State) : Prop := ∀ x ∈ (t.eq ch eng).waiting, x.order ≠ e.order
      let runs (u t : State) (x : Entry) : Prop := gone t ∧ (t.chan[ch]).sem = (u.chan[ch]).sem ∧ (t.chan[ch]).mem = (u.chan[ch]).mem ∧
        ∃ y, (t.eq ch eng).run = some y ∧ y.order = x.order ∧ y.jc = x.jc ∧ y.word = x.word ∧ y.pass = x.pass ∧
          (x.array = false ∨ ((u.pwr ch).thermHold = false ∧ u.capHeld ch = false ∧ ∀ cls, u.currentHeld cls = false) → y.going = true)
      (e.zero.isSome = true → goes fun t => (t.eq ch eng).run = some { mine with going := true } ∧ gone t ∧
        (t.chan[ch]).sem = (taken.chan[ch]).sem ∧ (t.chan[ch]).mem = (s.chan[ch]).mem ∧
        ∀ jc : Fin 16, { t.ctx ch jc with sched := (s.ctx ch jc).sched } = s.ctx ch jc) ∧
      (e.zero = none → taken.ownerErr ch mine (formOf e.word) = none →
        (wEng e.word = eng.val → eng = 1 ∨ 6 ≤ eng.val → goes fun t => ∃ u, (u.chan[ch]).sem = (taken.chan[ch]).sem ∧
          (u.chan[ch]).mem = (taken.chan[ch]).mem ∧ runs u t mine) ∧
        ∀ u x, (runOf e.word).start taken ch mine = .ok (u, x) → x.eng = e.eng → x.order = e.order → goes fun t => runs u t x))

/-- On a clocked channel, PASS_BOUNDARY without errors of a running entry that is not the expert engine's, whose
context runs and whose pass is not its last, makes it the next pass of the same entry; for LS.FILL of bytes in the local
store, each pass fills its rows. ENTRY_COMPLETE of a ZERO_SHAPE no-op frees its engine and counts in DONE. ENTRY_COMPLETE
without errors of an entry in its last pass, whose work succeeds, frees the engine and counts in DONE. (R71) -/
def Obligations.PassesAndCompletion : Prop :=
  ∀ (s : State) (ch : Fin 8) (eng : Fin 11) (stall : Nat) (e : Entry), s.clocked ch = true → eng ≠ 4 → eng ≠ 5 → eng ≠ 10 →
    (s.eq ch eng).run = some e → e.eng = eng.val → e.jc < 16 →
    let op := runOf e.word
    let done (t : State) : Prop := (t.eq ch eng).run = none ∧
      (s.ctx ch (jcOf e.jc)).job.done + 1 ≤ (t.ctx ch (jcOf e.jc)).job.done
    (e.zero.isSome = true → exec (.passBoundary ch eng stall [] []) s = .next s ∧
      goesTo (exec (.entryComplete ch eng stall [] []) s) done) ∧
    (e.zero = none → 6 ≤ eng.val → wEng e.word = eng.val → e.op = 2 → e.going = true → (e.t 3).space = 1 →
      fmtBits (e.t 3).fmt = 8 → isBlock (e.t 3).fmt = false → e.pass + 1 < e.lsPasses.length → (s.ctx ch (jcOf e.jc)).st = .run →
      goesTo (exec (.passBoundary ch eng stall [] []) s) (fun t => ∃ y, (t.eq ch eng).run = some y ∧ y.order = e.order ∧
        y.pass = e.pass + 1 ∧ y.going = true ∧ (∀ jc : Fin 16, t.ctx ch jc = s.ctx ch jc) ∧
        ∀ x ∈ e.lsPasses.getD e.pass [], ∀ k, k < e.sz 0 →
          (t.chan[ch]).mem.ls.byte ((e.t 3).base + (e.t 3).rowOff (0, x) + k) = BitVec.ofNat 8 (wPar e.word 47 0))) ∧
    (e.zero = none → e.going = true → ∀ u x v y, op.before s ch e = .ok (u, x) → op.pass u ch x 0 = (v, y, none) →
      (x.pass + 1 < op.passes s ch e → e.pass + 1 < op.passes s ch e → (v.ctx ch (jcOf y.jc)).st = .run → y.eng = eng.val →
        y.array = false → goesTo (exec (.passBoundary ch eng stall [] []) s) (fun t =>
          (t.eq ch eng).run = some { y with pass := x.pass + 1, cyc := y.cyc + stall, going := true } ∧
          (t.chan[ch]).mem = { (v.chan[ch]).mem with bad3 := [] } ∧ ∀ jc : Fin 16, t.ctx ch jc = v.ctx ch jc)) ∧
      (op.passes s ch e ≤ x.pass + 1 → eng = 1 → y.eng = 1 → y.jc = e.jc →
        (v.ctx ch (jcOf e.jc)).job = (s.ctx ch (jcOf e.jc)).job →
        goesTo (exec (.entryComplete ch eng stall [] []) s) done))

/-- A host write that reaches CH_JC_CQ_LO or CH_JC_CQ_HI of a FREE context takes the value without its reserved bits;
one that would change it in another state is discarded with CQ_LOCKED. A host write of RD up to WR moves RD when no
record is held and the context is not ending, and changes nothing else; one past WR is discarded. (R72) -/
def Obligations.CompletionRing : Prop :=
  ∀ (s : State) (ch : Fin 8) (jc : Fin 16) (hi : Bool) (val : BitVec 32), s.reaches (pfOf ch) →
    let off := (if hi then 0x100C else 0x1008) + 0x40 * jc.val
    let new := val &&& (if hi then 0x8FFFFFFF#32 else 0xFFFFF000#32)
    let rd := bits val.toNat 31 16
    let unread := (s.f ch (R.CH_JC_CQ_PTR_WR jc) + 65536 - rd) % 65536
    ((s.ctx ch jc).st = .free → goesTo (exec (.cqBaseWrite ch jc hi val) s) (fun t => (s.answer .ok 0).onlyChan t ch ∧
      Chan.differAt [off] s.chan[ch] t.chan[ch] ∧ (t.chan[ch]).rd off = new)) ∧
    ((s.ctx ch jc).st ≠ .free → (s.chan[ch]).rd off ≠ new → goesTo (exec (.cqBaseWrite ch jc hi val) s) (fun t =>
      State.butEvents (s.answer .ok 0) t ∧ s.postedBy t (ch.val * 4096 + 0x71))) ∧
    (unread ≤ s.cqUnread ch jc → (s.ctx ch jc).held = [] → (s.ctx ch jc).st.stopping = false →
      goesTo (exec (.cqRdWrite ch jc val) s) (fun t => (s.answer .ok 0).onlyChan t ch ∧
        Chan.differAt [0x1010 + 0x40 * jc.val] s.chan[ch] t.chan[ch] ∧ t.f ch (R.CH_JC_CQ_PTR_RD jc) = rd ∧
        t.f ch (R.CH_JC_CQ_PTR_WR jc) = s.f ch (R.CH_JC_CQ_PTR_WR jc))) ∧
    (s.cqUnread ch jc < unread → exec (.cqRdWrite ch jc val) s = .next (s.answer .ok 0))

/-- A host write of TAIL of a channel in RUN that reaches its register sets TAIL and changes nothing else; a write of
CH_SQ_BASE_LO or of the address or size of CH_SQ_BASE_HI takes effect while EN is 0, and one that would change them
while EN is 1 is discarded; with the address and size as they are, EN can be cleared. RD of the job-completion ring
moves up to WR, and nothing else changes while no context is ending. (R89) -/
def Obligations.SubmissionQueues : Prop :=
  ∀ (s : State) (ch : Fin 8) (q : Fin 8) (hi : Bool) (val : BitVec 32), s.reaches (pfOf ch) →
    let at_ (off : Nat) (t : State) : Prop := (s.answer .ok 0).onlyChan t ch ∧ Chan.differAt [off] s.chan[ch] t.chan[ch]
    let lo := 0x800 + 16 * q.val
    let en := s.f ch (R.CH_SQ_BASE_HI_EN q)
    ((s.chan[ch]).power.st = .run → (s.chan[ch]).power.move = .none → goesTo (exec (.sqDoorbell ch q val) s) (fun t =>
      at_ (lo + 8) t ∧ t.f ch (R.CH_SQ_PTR_TAIL q) = bits val.toNat 31 16 ∧
      t.f ch (R.CH_SQ_PTR_HEAD q) = s.f ch (R.CH_SQ_PTR_HEAD q))) ∧
    (en = 0 → goesTo (exec (.sqBaseWrite ch q false val) s) (fun t => at_ lo t ∧
        t.f ch (R.CH_SQ_BASE_LO_BASE_LO q) = bits val.toNat 31 12) ∧
      goesTo (exec (.sqBaseWrite ch q true val) s) (fun t => at_ (lo + 4) t ∧
        t.f ch (R.CH_SQ_BASE_HI_BASE_HI q) = bits val.toNat 23 0 ∧ t.f ch (R.CH_SQ_BASE_HI_SIZE q) = bits val.toNat 27 24 ∧
        t.f ch (R.CH_SQ_BASE_HI_EN q) = bits val.toNat 31 31)) ∧
    (en = 1 → bits val.toNat 31 12 ≠ s.f ch (R.CH_SQ_BASE_LO_BASE_LO q) →
      exec (.sqBaseWrite ch q false val) s = .next (s.answer .ok 0)) ∧
    (en = 1 → bits val.toNat 23 0 ≠ s.f ch (R.CH_SQ_BASE_HI_BASE_HI q) ∨ bits val.toNat 27 24 ≠ s.f ch (R.CH_SQ_BASE_HI_SIZE q) →
      exec (.sqBaseWrite ch q true val) s = .next (s.answer .ok 0)) ∧
    (en = 1 → bits val.toNat 23 0 = s.f ch (R.CH_SQ_BASE_HI_BASE_HI q) → bits val.toNat 27 24 = s.f ch (R.CH_SQ_BASE_HI_SIZE q) →
      goesTo (exec (.sqBaseWrite ch q true val) s) (fun t => at_ (lo + 4) t ∧
        t.f ch (R.CH_SQ_BASE_HI_EN q) = bits val.toNat 31 31)) ∧
    let new := bits val.toNat 31 16
    let wr := s.f ch (R.CH_SQ_JPTR_WR q)
    ((wr + 65536 - new) % 65536 ≤ (wr + 65536 - s.f ch (R.CH_SQ_JPTR_RD q)) % 65536 →
      (∀ jc : Fin 16, (s.ctx ch jc).st.stopping = false) →
      goesTo (exec (.jcrRdWrite ch q val) s) (fun t => at_ (lo + 12) t ∧ t.f ch (R.CH_SQ_JPTR_RD q) = new ∧
        t.f ch (R.CH_SQ_JPTR_WR q) = wr)) ∧
    ((wr + 65536 - s.f ch (R.CH_SQ_JPTR_RD q)) % 65536 < (wr + 65536 - new) % 65536 →
      exec (.jcrRdWrite ch q val) s = .next (s.answer .ok 0))

/-- A host write of CH_JOB_KILL with GO kills the job of the context it names: the context enters KILLING, or is FREE
when the job has ended, and CH_JC_FAULT records 0x0003 once none of its entries remains; for a FREE context, or one that is
KILLING or FAULTED, no context changes. ATOMIC_LIMIT of the entry with P = 0 that an engine has started, with no fence up,
takes it off its engine and kills its job; without one it changes nothing. DONATION_LIMIT of a holder that a waiter still needs kills its job; without a
donation it changes nothing. (R105) -/
def Obligations.KillsAndLimits : Prop :=
  ∀ (s : State) (ch : Fin 8) (jc : Fin 16) (eng : Fin 11) (val : BitVec 32),
    let killed (t : State) : Prop := ((t.ctx ch jc).st = .killing ∨ (t.ctx ch jc).st = .free) ∧
      (t.entriesOf ch jc = [] → (t.ctx ch jc).fStatus = 3)
    let alive := (s.ctx ch jc).st ≠ .free ∧ (s.ctx ch jc).st ≠ .killing ∧ (s.ctx ch jc).st ≠ .faulted
    (s.reaches (pfOf ch) → val.getLsbD 31 = true → bits val.toNat 3 0 = jc.val →
      (alive → goesTo (exec (.jobKill ch val) s) killed) ∧
      (¬ alive → goesTo (exec (.jobKill ch val) s) (fun t => (∀ k : Fin 16, t.ctx ch k = s.ctx ch k) ∧
        ((s.pwr ch).st = .run → (s.pwr ch).move = .none → (s.answer .ok 0).onlyChan t ch ∧
          Chan.differAt [0x508] s.chan[ch] t.chan[ch])))) ∧
    let here := (s.eq ch eng).parked ++ (s.eq ch eng).run.toList
    (∀ e, here.find? (fun x => x.started && !x.p) = some e → e.jc = jc.val → e.eng = eng.val → s.fenced = false → alive →
      goesTo (exec (.atomicLimit ch eng) s) (fun t => killed t ∧
        ∀ x ∈ (t.eq ch eng).parked ++ (t.eq ch eng).run.toList, x.order ≠ e.order)) ∧
    ((∀ e ∈ here, e.started = false ∨ e.p = true) ∨ s.fenced = true → exec (.atomicLimit ch eng) s = .next s) ∧
    ((s.ctx ch jc).sched.donor.isSome = true → s.needed ch jc = true → s.fenced = false → alive →
      goesTo (exec (.donationLimit ch jc) s) killed) ∧
    ((s.ctx ch jc).sched.donor = none → exec (.donationLimit ch jc) s = .next s)

/-- A quantum boundary inside the tick makes the next quantum the present one, and on a channel that is not clocked changes
nothing else; past the last it changes nothing. An arbiter's grant stays while its owner asserts and has transfers left,
unless an emergency requester takes it from another requester, which counts in EMERG. Once it has ended, zeroise goes before
refresh, which HBM ports alone have, and that before debug; then, outside the routers and with none masked, a requester that
has waited WAITLIM decisions wins, which counts in FORCED, the lowest index first where none is noted before; else one of
latency-critical class where one asserts; without a requester nothing is granted. The winner holds BURST transfers and waits
anew. A masked requester is granted nothing. RESOURCE_HANG posts the event, revokes the grant, masks its owner and counts in
HANGS, a pending host request ends with Completer Abort, and the job of a started entry that it served is killed;
REQUESTER_UNMASKED unmasks it. (R93, R112, R113, R114, R116) -/
def Obligations.QuantaAndArbiters : Prop :=
  ∀ (s : State) (ch : Fin 8) (cls : Fin 4) (inst : Nat) (reqs : List Req) (ems : List Emerg) (made : Nat) (g : Grant),
    let a := s.arb ch cls inst
    let now (t : State) : Arb := t.arb ch cls inst
    let point (P : State → Prop) : Prop := goesTo (exec (.arbGrant ch cls inst reqs ⟨ems, made⟩) s) (fun t => s.onlyChan t ch ∧ P t)
    let ended : Bool := match a.grant with
      | none => true
      | some (.req j) => a.left ≤ made || reqs.all (·.idx != j)
      | some (.emerg e) => a.left ≤ made || !ems.contains e
    let first (e : Emerg) : Prop := e ∈ ems ∧ (e = .zeroise ∨ (e = .refresh ∧ cls = 0 ∧ .zeroise ∉ ems) ∨
      (e = .debug ∧ .zeroise ∉ ems ∧ (cls = 0 → .refresh ∉ ems)))
    let none_ : Prop := ∀ e, ¬ first e
    let lim := max 1 (s.f ch (R.CH_ARB_CFG_WAITLIM cls))
    let emerg (t : State) : Nat := t.f ch (R.CH_ARB_STAT_EMERG cls)
    let forced (t : State) : Nat := t.f ch (R.CH_ARB_STAT_FORCED cls)
    let won (t : State) (r : Req) : Prop := (now t).grant = some (.req r.idx) ∧ (now t).last = r.idx ∧ (now t).waits r.idx = 0 ∧
      (now t).left = max 1 (s.f ch (R.CH_ARB_CFG_BURST cls))
    let last := s.quanta ≤ (s.chan[ch]).sched.quantum + 1
    (¬ last → goesTo (exec (.quantumBoundary ch) s) (fun t => (t.chan[ch]).sched.quantum = (s.chan[ch]).sched.quantum + 1 ∧
      (s.clocked ch = false → s.onlyChan t ch ∧
        t.chan[ch] = { s.chan[ch] with sched := { (s.chan[ch]).sched with quantum := (s.chan[ch]).sched.quantum + 1 } }))) ∧
    (last → exec (.quantumBoundary ch) s = .next s) ∧
    (a.masked = [] →
      (∀ e, first e → (ended ∨ ∃ j, a.grant = some (.req j)) → point fun t => (now t).grant = some (.emerg e) ∧
        emerg t = if ended then emerg s else min 255 (emerg s + 1)) ∧
      (¬ ended → none_ ∨ (∃ e, a.grant = some (.emerg e)) → point fun t => (now t).grant = a.grant ∧ (now t).left = a.left - made ∧
        emerg t = emerg s) ∧
      (ended → none_ → reqs = [] → point fun t => (now t).grant = none) ∧
      (cls ≠ 2 → ended → none_ →
        ((∀ r ∈ reqs, a.waits r.idx < lim) → reqs ≠ [] → point fun t => forced t = forced s ∧
          ∃ r ∈ reqs, won t r ∧ ((∃ x ∈ reqs, s.reqLc ch x = true) → s.reqLc ch r = true)) ∧
        ((∃ r ∈ reqs, lim ≤ a.waits r.idx) → point fun t => forced t = min 255 (forced s + 1) ∧
          ∃ r ∈ reqs, won t r ∧ lim ≤ a.waits r.idx ∧
            (a.reached = [] → ∀ x ∈ reqs, lim ≤ a.waits x.idx → r.idx ≤ x.idx)))) ∧
    (a.grant = none → g ∈ a.masked → goesTo (exec (.arbGrant ch cls inst reqs ⟨ems, made⟩) s) (fun t => (now t).grant ≠ some g)) ∧
    (a.grant = none → exec (.resourceHang ch cls inst none) s = .next s) ∧
    (a.grant = some g → ∀ unit,
      let hung (t : State) : Prop := (now t).grant = none ∧ g ∈ (now t).masked ∧
        t.f ch (R.CH_ARB_STAT_HANGS cls) = min 255 (s.f ch (R.CH_ARB_STAT_HANGS cls) + 1)
      (unit = none ∨ (∀ jc, a.holder ≠ some (.ctx jc)) → goesTo (exec (.resourceHang ch cls inst unit) s) (fun t => hung t ∧
        s.postedBy t (ch.val * 4096 + 0x70) ∧ (a.holder = some .host → t.pkg.out.cpl = .abort))) ∧
      (∀ jc e x, a.holder = some (.ctx jc) → unit = some e → (s.eq ch e).run = some x → x.jc = jc.val → x.started = true →
        x.eng = e.val → (s.ctx ch jc).st = .run → goesTo (exec (.resourceHang ch cls inst unit) s) (fun t =>
          hung t ∧ (∀ y, (t.eq ch e).run = some y → y.order ≠ x.order) ∧ ((t.ctx ch jc).st = .killing ∨ (t.ctx ch jc).st = .free)))) ∧
    goesTo (exec (.requesterUnmasked ch cls inst g) s) (fun t => s.onlyChan t ch ∧ g ∉ (now t).masked ∧ (now t).grant = a.grant)

/-- A TICK message on the parent link of the image in force while it is up, or on the alternate while the parent is down,
goes on to the channel's children. While SRC_NOW is FABRIC, one within 10% of PERIOD ends holdover, and within 100 ns,
while the package acquires the master's phase, its number is adopted at the next boundary as one more; one outside counts
in STRAY. The number, the other channels, and the contexts and memories stay as they are; under another source the tick does.
With no image in force, or on another link, nothing changes. (R77, R80, R81, R369, 12_optical_fabric.md) -/
def Obligations.TickMessages : Prop :=
  ∀ (s : State) (ch : Fin 8) (link : Fin 16) (num : BitVec 64) (delay : BitVec 32) (resid : BitVec 16) (err : Int),
    let i := Instr.tickMessage ch link ⟨num, delay, resid⟩ err
    let serves (c : ImgChan) : Prop := s.linkUp ch link = true ∧
      (link.val = c.tickParent ∨ (link.val = c.tickAlt ∧ s.linkUp ch (Fin.ofNat 16 c.tickParent) = false))
    let frame (t : State) : Prop := (∀ d : Fin 8, d ≠ ch → t.chan[d] = s.chan[d]) ∧ (t.chan[ch]).ctx = (s.chan[ch]).ctx ∧
      (t.chan[ch]).mem = (s.chan[ch]).mem ∧ t.pkg.tick.num = s.pkg.tick.num
    (∀ c, s.imgCh ch = some c → serves c → s.pkg.fld R.HUB_TICK_STAT_SRC_NOW = 2 → goesTo (exec i s) (fun t => frame t ∧
      (err.natAbs ≤ s.pkg.fld R.HUB_TICK_CFG_PERIOD → t.pkg.fld R.HUB_TICK_STAT_HOLDOVER = 0 ∧ t.pkg.tick.silent = 0 ∧
        (s.pkg.tick.acquiring = true → err.natAbs ≤ 100 → t.pkg.tick.adopt = some (num + 1))) ∧
      (s.pkg.fld R.HUB_TICK_CFG_PERIOD < err.natAbs → t.pkg.tick = s.pkg.tick ∧
        t.pkg.fld R.HUB_TICK_STAT_STRAY = min 255 (s.pkg.fld R.HUB_TICK_STAT_STRAY + 1)))) ∧
    (∀ c, s.imgCh ch = some c → serves c → s.pkg.fld R.HUB_TICK_STAT_SRC_NOW ≠ 2 →
      goesTo (exec i s) (fun t => frame t ∧ t.pkg.tick = s.pkg.tick)) ∧
    (s.imgCh ch = none ∨ (∀ c, s.imgCh ch = some c → ¬ serves c) → exec i s = .next s)

/-- A write of MEM_MMU (INV writes it with INV = 1) that reaches its register and leaves ROOT and EN as they are, or
finds every context FREE, sets ROOT and EN, and with INV = 1 empties the translation cache; otherwise it is refused
with an event and changes nothing; with no dirty granule and no write-back in progress INV changes nothing but the
notes of what was issued before it. FLUSH with an empty write-back buffer and at most 64 dirty granules starts the
write-back of each. WRITE_BACK_COMPLETE frees the oldest one: its 4 KiB stand in its home, or it waits failed with
TC_WB_FAIL posted. TC_WB_RETRY that every home takes empties the failed ones. PROMOTION_PERIOD counts the candidates, and
under AUTO, with no region behind the 4,096 of the table, halves every count, demotes what counts below the cold limit, once
its granules are clean, and keeps the other promotions. (R306, R319, R320, R321, R322, 11_memory_tiers.md) -/
def Obligations.TranslationAndTierCache : Prop :=
  ∀ (s : State) (ch : Fin 8) (val : BitVec 32),
    (s.reaches (pfOf ch) → ∀ (i : Instr) (v : Nat),
      (i = .memMmuWrite ch val ∧ v = val.toNat) ∨ (i = .inv ch val ∧ v = (val ||| 0x10000000#32).toNat) →
      let same := bits v 24 0 = s.f ch R.MEM_MMU_ROOT ∧ bits v 31 31 = s.f ch R.MEM_MMU_EN
      let inv := bit v 28 = true
      (same ∨ s.allFree ch = true → goesTo (exec i s) (fun t =>
        t.f ch R.MEM_MMU_ROOT = bits v 24 0 ∧ t.f ch R.MEM_MMU_EN = bits v 31 31 ∧
        (∀ o, o ≠ 0x7000 → (t.chan[ch]).rd o = (s.chan[ch]).rd o) ∧ (inv → (t.chan[ch]).mem.tlb = []) ∧
        (∀ jc : Fin 16, t.ctx ch jc = { s.ctx ch jc with load := (t.ctx ch jc).load } ∧
          (t.ctx ch jc).load = (s.ctx ch jc).load.map fun l => if bit v 28 then { l with old := true } else l) ∧
        (¬ inv → (s.answer .ok 0).onlyChan t ch ∧ t.chan[ch] = { s.chan[ch] with reg := (t.chan[ch]).reg }) ∧
        (inv → (s.chan[ch]).mem.tc.wb = [] → (∀ l ∈ (s.chan[ch]).mem.tc.lines, l.dirty = false) →
          (s.answer .ok 0).onlyChan t ch ∧ t.chan[ch] = { s.chan[ch] with
            reg := (t.chan[ch]).reg, ctx := (t.chan[ch]).ctx,
            mem := { (s.chan[ch]).mem with tlb := [], inv := (t.chan[ch]).mem.inv, win := (t.chan[ch]).mem.win } }))) ∧
      (¬ same → s.allFree ch = false → goesTo (exec i s) (fun t => State.butEvents (s.answer .ok 0) t ∧
        s.postedBy t (ch.val * 4096 + 0x71)))) ∧
    (s.reaches (pfOf ch) →
      let ds := (s.chan[ch]).mem.tc.lines.filter (·.dirty)
      (val.getLsbD 0 = false → exec (.flush ch val) s = .next (s.answer .ok 0)) ∧
      (val.getLsbD 0 = true → (s.chan[ch]).mem.tc.wb = [] → ds.length ≤ 64 →
        goesTo (exec (.flush ch val) s) (fun t => (s.answer .ok 0).onlyChan t ch ∧
          (t.chan[ch]).mem.tc.wb = ds.map (fun l => ⟨l.tier, l.gran, l.way, l.bytes, false⟩) ∧
          (∀ l ∈ (t.chan[ch]).mem.tc.lines, l.dirty = false) ∧ t.f ch R.MEM_TC_CTL_DIRTY = 0 ∧
          t.f ch R.MEM_TC_CTL_FLUSH = (if ds = [] ∧ (s.chan[ch]).mem.tc.flush = [] then 0 else 1) ∧ (t.chan[ch]).mem.t2 = (s.chan[ch]).mem.t2))) ∧
    (∀ x, (s.chan[ch]).mem.tc.wb.find? (!·.failed) = some x → (x.tier = .t2 → s.f ch R.MEM_T2_STAT_LINK ≠ 1) →
      (s.canonical = true → s.takesWb ch x true = true → (x.tier = .t3 → ∃ img, s.pkg.mould.force = some img ∧
          (img.t3Form = 0 ∨ ∀ k, k < 4096 → (img.ssdAt (x.gran * 4096 + k)).isSome = true)) →
        goesTo (exec (.writeBackComplete ch true) s) (fun t => (t.chan[ch]).mem.tc.wb = (s.chan[ch]).mem.tc.wb.erase x ∧
          ∀ k, k < 4096 → t.home ch x.tier (x.gran * 4096 + k) = x.bytes.byte k)) ∧
      goesTo (exec (.writeBackComplete ch false) s) (fun t => s.postedBy t (ch.val * 4096 + 0x21) ∧
        (t.chan[ch]).mem.tc.wb = (s.chan[ch]).mem.tc.wb.erase x ++ [{ x with failed := true }] ∧
        t.f ch R.MEM_TC_CTL_WBFAIL = min 255 (s.f ch R.MEM_TC_CTL_WBFAIL + 1))) ∧
    ((s.chan[ch]).mem.tc.wb.find? (!·.failed) = none → ∀ ok, exec (.writeBackComplete ch ok) s = .next s) ∧
    ((∀ x ∈ (s.chan[ch]).mem.tc.wb, x.failed = true → s.takesWb ch x true = true ∧ (x.tier = .t2 → s.f ch R.MEM_T2_STAT_LINK ≠ 1)) →
      goesTo (exec (.tcWbRetry ch true) s) (fun t => (t.chan[ch]).mem.tc.wb = (s.chan[ch]).mem.tc.wb.filter (!·.failed))) ∧
    goesTo (exec (.tcWbRetry ch false) s) (fun t => (t.chan[ch]).mem.tc.wb = (s.chan[ch]).mem.tc.wb) ∧
    (∀ i, s.imgCh ch = some i →
      goesTo (exec (.promotionPeriod ch) s) (fun t => (∀ jc : Fin 16, t.ctx ch jc = s.ctx ch jc) ∧
        t.f ch R.MEM_PROMO_CANDIDATES = min 4095 ((s.chan[ch]).mem.promo.filter fun r => i.hot ≤ r.count).length ∧
        (s.policy ch (·.promo) ≠ 2 → (t.chan[ch]).mem = (s.chan[ch]).mem) ∧
        (s.policy ch (·.promo) = 2 → i.cold ≤ i.hot → (s.chan[ch]).mem.promo.length ≤ 4096 →
          ((s.chan[ch]).mem.promo.map (·.addr)).Nodup → ∃ p : Region → Bool,
          (t.chan[ch]).mem.promo = (s.chan[ch]).mem.promo.map (fun r => { r with count := r.count / 2, promoted := p r }) ∧
          (∀ r ∈ (s.chan[ch]).mem.promo, i.cold ≤ r.count → r.promoted = true → p r = true) ∧
          (∀ r ∈ (s.chan[ch]).mem.promo, r.count < i.cold → r.promoted = false → p r = false) ∧
          ((s.chan[ch]).mem.tc.wb = [] → (∀ l ∈ (s.chan[ch]).mem.tc.lines, l.dirty = false) →
            ∀ r ∈ (s.chan[ch]).mem.promo, r.count < i.cold → p r = false)))) ∧
    (s.imgCh ch = none → exec (.promotionPeriod ch) s = .next s)

/-- On a clocked channel a waiting window, with no copy running, no window of lower number known to be ready (log entry 90)
and a count of FREE_SEM that no starting entry needs, takes one from it and copies; a slot that does not lie in T1 abandons the entry: EN clears, FAULTS counts, the run
ends. Otherwise nothing happens. A copy whose bytes can be read and written ends with them in memory and the fill
semaphore one higher, and the window waits for its next entry, or ends its run after the last. A late entry counts
once. A write of MEM_SW_CFG that clears EN in a run lets the entry in progress be the last. (R323, R324, R325, R326,
11_memory_tiers.md) -/
def Obligations.StreamWindows : Prop :=
  ∀ (s : State) (ch : Fin 8) (win : Fin 4) (val : BitVec 32),
    let v := s.win ch win
    let x := s.winEnt ch win v.cur
    let others (t : State) : Prop := ∀ w, w ≠ win → t.win ch w = s.win ch w
    let given (t : State) (n : Fin 256) (c : Nat) : Prop := (t.chan[ch]).sem[n].count = c
    let abandoned (t : State) : Prop := t.win ch win = ⟨.idle, 0, false, false, 0, false⟩ ∧ t.f ch (R.MEM_SW_CFG_EN win) = 0 ∧
      t.f ch (R.MEM_SW_STAT_RUNNING win) = 0 ∧
      t.f ch (R.MEM_SW_STAT_FAULTS win) = min 255 (s.f ch (R.MEM_SW_STAT_FAULTS win) + 1) ∧ s.postedBy t (ch.val * 4096 + 0x22)
    let starts := s.clocked ch = true ∧ v.phase = .waiting ∧ (∀ w, (s.win ch w).phase ≠ .copying) ∧
      1 + s.claimed ch x.free ≤ (s.semAt ch x.free).count ∧ s.winBehind ch win = false
    (starts → s.slotBad ch x.dst x.bytes = none → goesTo (exec (.windowCopyStart ch win) s) (fun t => s.onlyChan t ch ∧
      t.win ch win = { v with phase := .copying } ∧ others t ∧
      given t (Fin.ofNat 256 x.free) ((s.semAt ch x.free).count - 1) ∧
      ∀ k, x.expert = some k → Cells.get (fun _ => ExpSt.resident) (t.chan[ch]).mem.experts k = if v.late then .late else .filling)) ∧
    (starts → (s.slotBad ch x.dst x.bytes).isSome = true → goesTo (exec (.windowCopyStart ch win) s) (fun t => abandoned t ∧ others t)) ∧
    (¬ starts → exec (.windowCopyStart ch win) s = .next s) ∧
    (v.phase = .copying → ∀ bs u, s.vaRead ch x.src x.bytes = .ok bs → (s.vaTouch ch x.src x.bytes).vaWrite ch x.dst bs = .ok u →
      s.noWaiters ch → goesTo (exec (.windowCopyDone ch ⟨win, []⟩) s) (fun t => (t.chan[ch]).mem.t1 = (u.chan[ch]).mem.t1 ∧ others t ∧
        given t (Fin.ofNat 256 x.fill) (min 65535 ((s.semAt ch x.fill).count + 1)) ∧
        (v.ending = true ∨ s.f ch (R.MEM_SW_CFG_ENTRIES win) ≤ v.cur + 1 → t.win ch win = ⟨.idle, 0, false, false, 0, false⟩ ∧
          t.f ch (R.MEM_SW_STAT_RUNNING win) = 0) ∧
        (v.ending = false → v.cur + 1 < s.f ch (R.MEM_SW_CFG_ENTRIES win) → t.win ch win = ⟨.waiting, v.cur + 1, false, false, v.age, false⟩ ∧
          t.f ch (R.MEM_SW_STAT_CUR win) = v.cur + 1))) ∧
    (v.phase = .copying → ∀ err, s.vaRead ch x.src x.bytes = .error err → err.waits = false →
      goesTo (exec (.windowCopyDone ch ⟨win, []⟩) s) (fun t => abandoned t ∧ others t ∧ (t.chan[ch]).mem.t1 = (s.chan[ch]).mem.t1)) ∧
    (v.phase ≠ .idle → v.late = false → x.deadline ≠ 0 → goesTo (exec (.windowLate ch win) s) (fun t =>
      t.win ch win = { v with late := true } ∧ others t ∧ s.postedBy t (ch.val * 4096 + 0x22) ∧
      t.f ch (R.MEM_SW_STAT_LATE win) = min 255 (s.f ch (R.MEM_SW_STAT_LATE win) + 1))) ∧
    (v.phase = .idle ∨ v.late = true ∨ x.deadline = 0 → exec (.windowLate ch win) s = .next s) ∧
    (s.reaches (pfOf ch) → goesTo (exec (.swCfgWrite ch win val) s) (fun t => (s.answer .ok 0).onlyChan t ch ∧
      (t.chan[ch]).rd (0x7400 + 8 * win.val) = val ∧ others t ∧
      t.win ch win = { v with ending := v.ending || (!val.getLsbD 31 && s.f ch (R.MEM_SW_CFG_EN win) == 1 && v.phase != .idle) }))

/-- With nothing waiting, REG_REFILL raises every bucket of an instance by its RATE up to its BURST (below 4 it counts
as 4); enabled transfers of 256 bytes that the tokens cover take them, and those that they do not wait and count. A write of
MEM_REG_CFG that reaches its register clamps RATE to the bounds of the image in force, takes BURST and EN and caps the
tokens. REGULATOR_TUNING sets a RATE only where the policy is AUTO; a bucket that stayed full and never waited is
lowered by an eighth of the way to RMIN, at least one. (R327, R328, R329, R336) -/
def Obligations.Regulators : Prop :=
  ∀ (s : State) (inst : BucketInst) (k : Fin 9) (bytes : Nat) (val : BitVec 32),
    let srcs := instSources inst
    let level := min (s.burst inst k) (s.bf inst (bktTok inst k) + s.bf inst (bktRate inst k))
    let n := ceilDiv bytes 64
    (k.val ∈ srcs → (∀ j ∈ srcs, (s.bucket inst j).waiting = []) →
      goesTo (exec (.regRefill inst []) s) (fun t => t.bf inst (bktTok inst k) = level ∧
        t.bf inst (bktWaits inst k) = s.bf inst (bktWaits inst k)) ∧
      goesTo (exec (.regRefill inst [(k.val, bytes)]) s) (fun t =>
        (∀ j ∈ srcs, j ≠ k.val → t.bf inst (bktTok inst j) = min (s.burst inst j) (s.bf inst (bktTok inst j) + s.bf inst (bktRate inst j))) ∧
        (s.bf inst (bktEn inst k) = 0 → t.bf inst (bktTok inst k) = level) ∧
        (s.bf inst (bktEn inst k) = 1 → n ≤ level → t.bf inst (bktTok inst k) = level - n ∧ (t.bucket inst k).waiting = []) ∧
        (s.bf inst (bktEn inst k) = 1 → level < n → let rest := n - level / 4 * 4
          t.bf inst (bktTok inst k) = level % 4 ∧ ((t.bucket inst k).waiting.map (·.2)) = [rest] ∧
          t.bf inst (bktWaits inst k) = min 65535 (s.bf inst (bktWaits inst k) + (rest + 3) / 4)))) ∧
    (k.val ∈ srcs → s.reaches (instPf inst) →
      let rate := bits val.toNat 15 0
      let clamped := clampRate (s.rateBounds inst k) rate % 65536
      goesTo (exec (.regCfgWrite inst k val) s) (fun t => t.bf inst (bktRate inst k) = clamped ∧
        t.bf inst (bktBurst inst k) = bits val.toNat 30 16 ∧ t.bf inst (bktEn inst k) = bits val.toNat 31 31 ∧
        t.bf inst (bktTok inst k) = min (max 4 (bits val.toNat 30 16)) (s.bf inst (bktTok inst k)) ∧
        (clampRate (s.rateBounds inst k) rate ≠ rate →
          s.postedBy t (match pfChan (instPf inst) with | none => 0x800B | some c => c.val * 4096 + 0x71)))) ∧
    (k.val ∉ srcs → exec (.regCfgWrite inst k val) s = .next s) ∧
    goesTo (exec (.regulatorTuning inst) s) (fun t =>
      (∀ j ∈ srcs, t.bf inst (bktTok inst j) = s.bf inst (bktTok inst j) ∧ (t.bucket inst j).waited = false ∧
        (s.tuneSetting inst j ≠ 2 → t.bf inst (bktRate inst j) = s.bf inst (bktRate inst j)) ∧
        (s.tuneSetting inst j = 2 → (s.bucket inst j).waited = false → ∀ b, s.rateBounds inst j = some b →
          t.bf inst (bktRate inst j) =
            if (s.bucket inst j).full = true ∧ b.1 ≤ s.bf inst (bktRate inst j) then lowered (s.bf inst (bktRate inst j)) b.1
            else s.bf inst (bktRate inst j))))

/-- A T2 link that fails and is neither absent nor failed counts a retraining and is up again when it recovers and its
fibers may be lit, else retraining (the recovery of one that retrains counts none); a completion timeout marks it failed
and counts poison. A stall of an engine or a scalar thread of an up channel adds its cycles to its cause in units of 1,024
(not to T2_RATE's and WINDOW's where R330 leaves them out), and an engine's that is longer than THRESH is reported; an NVMe
timeout adds to cause 6, and a second one ends a scalar thread's access with MEM_UE. A page that the attention entry which
runs in a G1 partition reads from a far tier is masked for it, counted and reported. A retraining of a live channel's pseudo-channel is recorded; the end of a row's copy lets its
accesses go on. (R311, R315, R330, R332, R333, R431, R435,
11_memory_tiers.md) -/
def Obligations.TierFailures : Prop :=
  ∀ (s : State) (ch : Fin 8) (jc : Fin 16) (eng : Fin 11) (cause : Fin 9) (cycles : Nat) (va : BitVec 56) (page : BitVec 32) (rec_ : Bool),
    let link := s.f ch R.MEM_T2_STAT_LINK
    let back := rec_ = true ∧ s.mayTrain ch = true
    let acc (c : Nat) : Nat := Cells.get (fun _ => 0) (s.chan[ch]).mem.stall c
    let stalls (t : State) (c : Nat) : Prop :=
      t.f ch (R.MEM_TIER_STALL_STALL c) = (s.f ch (R.MEM_TIER_STALL_STALL c) + (acc c + cycles) / 1024) % 2 ^ 32 ∧
      Cells.get (fun _ => 0) (t.chan[ch]).mem.stall c = (acc c + cycles) % 1024
    (link ≠ 0 → link ≠ 3 →
      goesTo (exec (.t2LinkFail ch rec_) s) (fun t =>
        (¬ (link = 1 ∧ back) → s.onlyChan t ch ∧ Chan.differAt [0x732C] s.chan[ch] t.chan[ch]) ∧ t.f ch R.MEM_T2_STAT_LINK = (if back then 2 else 1) ∧
        t.f ch R.MEM_T2_STAT_RETRAIN =
          if link = 1 ∧ back then s.f ch R.MEM_T2_STAT_RETRAIN else min 255 (s.f ch R.MEM_T2_STAT_RETRAIN + 1)) ∧
      goesTo (exec (.t2CompletionTimeout ch none va) s) (fun t => t.t2Failed ch = true ∧
        t.f ch R.MEM_T2_STAT_POISON = min 255 (s.f ch R.MEM_T2_STAT_POISON + 1) ∧
        ∃ h ∈ t.pkg.hist.recs, h.unit = 5 ∧ h.cls = clsUE ∧ h.key = ch.val ∧ h.arg = 0x21 ∧ h.seq = s.pkg.hist.next)) ∧
    (link = 0 ∨ link = 3 → exec (.t2LinkFail ch rec_) s = .next s ∧ exec (.t2CompletionTimeout ch none va) s = .next s) ∧
    (s.up ch = true → ∀ who : Agent, who = .engine eng ∨ who = .thread jc →
      let counts := s.g1 ch = false ∨ (cause.val ≠ 2 ∧ cause.val ≠ 5)
      let long := who = .engine eng ∧ s.f ch R.MEM_TIER_EVT_THRESH ≠ 0 ∧ 2000 * s.f ch R.MEM_TIER_EVT_THRESH < cycles
      goesTo (exec (.tierStall ch who cause cycles) s) (fun t => (counts → stalls t cause) ∧
        (¬ counts → (t.chan[ch]).mem = (s.chan[ch]).mem) ∧ (long → s.postedBy t (ch.val * 4096 + 0x10 + eng.val)) ∧
        (¬ long → s.onlyChan t ch)) ∧
      (∀ i, s.pkg.mould.force = some i → i.t3Form = 1 →
        goesTo (exec (.nvmeTimeout ch who va false cycles) s) (fun t => s.onlyChan t ch ∧ stalls t 6) ∧
        ((s.ctx ch jc).load.isSome = true → goesTo (exec (.nvmeTimeout ch (.thread jc) va true cycles) s) (fun t =>
          t.stoppedBy ch jc 0x21 0xF)))) ∧
    (s.up ch = false → ∀ who, exec (.tierStall ch who cause cycles) s = .next s ∧ exec (.nvmeTimeout ch who va rec_ cycles) s = .next s) ∧
    (let masks (e : Entry) (c : FtCfg) : Prop := s.g1 ch = true ∧ 0x10 ≤ e.op ∧ s.readsPage ch e page.toNat = true ∧
       (c.pageRuns page.toNat).any (s.runFar ch) = true
     (∀ e c, (s.eq ch 0).run = some e → (s.chan[ch]).ft.cfg = some c → masks e c →
       goesTo (exec (.kvPageMask ch page) s) (fun t => t.eq ch 0 = { s.eq ch 0 with run := some { e with masked := e.masked ++ [page.toNat] } } ∧
         t.f ch R.CH_AT_STAT_MASKED = min 255 (s.f ch R.CH_AT_STAT_MASKED + 1) ∧
         t.seqOf (ch.val * 4096 + 0x10) = (s.seqOf (ch.val * 4096 + 0x10) + 1) % 2 ^ 32 ∧ ∀ j : Fin 16, t.ctx ch j = s.ctx ch j)) ∧
     ((∀ e c, (s.eq ch 0).run = some e → (s.chan[ch]).ft.cfg = some c → ¬ masks e c) → exec (.kvPageMask ch page) s = .next s)) ∧
    (∀ pc : Fin 128, s.live ch = true → goesTo (exec (.hbmRetrain ch pc false false) s) (fun t =>
      ∃ h ∈ t.pkg.hist.recs, h.unit = 2 ∧ h.cls = clsUE ∧ h.key = keyPc ch pc ∧ h.seq = s.pkg.hist.next)) ∧
    (∀ row, row ∈ (s.chan[ch]).mem.copying → s.sparesOf row < 16 →
      goesTo (exec (.rowRemapDone ch row) s) (fun t => s.onlyChan t ch ∧
        (let rows := (s.chan[ch]).mem.copying.filter (· != row)
         t.chan[ch] = { s.chan[ch] with mem := { (s.chan[ch]).mem with copying := rows } }))) ∧
    (∀ row, row ∉ (s.chan[ch]).mem.copying → exec (.rowRemapDone ch row) s = .next s)

/-- A write of CH_ARWS_OWN gives each of four slots a legal tag, at once or, for a slot that waits for clearing, when
that ends; CLEAR_DONE of the slot next in order leaves it zero. FT_CTL and CH_RC_CTL change EN only while every
context is FREE, and then their store is empty; READY follows when they are enabled. A range of a FREE context is
taken when it stays inside the table and meets no other. At most 64 host releases wait; the oldest is applied when no
FT entry runs. CH_RC_SWAP moves an unused state out at once, and defers one that an entry uses. (R128, R130, R210,
R211, R222, R244, R278, R297, R298, R516) -/
def Obligations.EngineStores : Prop :=
  ∀ (s : State) (ch : Fin 8) (val : BitVec 32),
    let tag (u : State) (k : Nat) : Nat := Cells.get (fun _ => 0x10) (u.chan[ch]).arws.tags k
    let refused (o : Out) : Prop := goesTo o (fun t => State.butEvents (s.answer .ok 0) t ∧ s.postedBy t (ch.val * 4096 + 0x71))
    (∀ idx : Fin 128, s.reaches (pfOf ch) → goesTo (exec (.arwsOwnWrite ch idx val) s) (fun t =>
      (t.chan[ch]).mem = (s.chan[ch]).mem ∧ (t.chan[ch]).arws.clearing = (s.chan[ch]).arws.clearing ∧
      (∀ j, (j < 4 * idx.val ∨ 4 * idx.val + 4 ≤ j) → tag t j = tag s j) ∧
      ∀ k, k < 4 → let v := bits val.toNat (8 * k + 4) (8 * k)
        let j := 4 * idx.val + k
        if v < 0x12 ∧ j ∉ (s.chan[ch]).arws.clearing then tag t j = v
        else tag t j = tag s j ∧ (v < 0x12 → (j, v) ∈ (t.chan[ch]).arws.waiting))) ∧
    (∀ slot : Fin 512,
      ((s.chan[ch]).arws.clearing.head? = some slot.val → goesTo (exec (.arwsClearDone ch slot) s) (fun t =>
        (t.chan[ch]).arws.clearing = (s.chan[ch]).arws.clearing.tail ∧
        ∀ a, (t.chan[ch]).mem.arws.byte a =
          if 65536 * slot.val ≤ a ∧ a < 65536 * slot.val + 65536 then 0 else (s.chan[ch]).mem.arws.byte a)) ∧
      ((s.chan[ch]).arws.clearing.head? ≠ some slot.val → exec (.arwsClearDone ch slot) s = .next s)) ∧
    (s.reaches (pfOf ch) →
      let en := s.f ch R.FT_CTL_EN
      let rc := s.f ch R.CH_RC_CTL_EN
      let b := bits val.toNat 0 0
      (b = en → exec (.ftCtlWrite ch val) s = .next (s.answer .ok 0)) ∧
      (b ≠ en → s.allFree ch = false → refused (exec (.ftCtlWrite ch val) s)) ∧
      (b = 0 → en = 1 → s.allFree ch = true → goesTo (exec (.ftCtlWrite ch val) s) (fun t => t.f ch R.FT_CTL_EN = 0 ∧
        t.f ch R.FT_CTL_READY = 0 ∧ (t.chan[ch]).ft.ents = [] ∧ (t.chan[ch]).ft.blks = [] ∧ (t.chan[ch]).ft.cfg = none)) ∧
      (b = 1 → en = 0 → s.allFree ch = true → ∀ c, (s.answer .ok 0).readCfg ch = some c →
        goesTo (exec (.ftCtlWrite ch val) s) (fun t => t.f ch R.FT_CTL_EN = 1 ∧ t.f ch R.FT_CTL_READY = s.f ch R.FT_CTL_READY ∧
          (t.chan[ch]).ft.cfg = some c ∧ (t.chan[ch]).ft.ents = [] ∧ (t.chan[ch]).ft.blks = [])) ∧
      (b = rc → exec (.rcCtlWrite ch val) s = .next (s.answer .ok 0)) ∧
      (b ≠ rc → s.allFree ch = false → refused (exec (.rcCtlWrite ch val) s)) ∧
      (b ≠ rc → s.allFree ch = true → goesTo (exec (.rcCtlWrite ch val) s) (fun t => (s.answer .ok 0).onlyChan t ch ∧
        t.f ch R.CH_RC_CTL_EN = b ∧ t.f ch R.CH_RC_CTL_READY = 0 ∧ (t.chan[ch]).rc = [] ∧ t.f ch R.CH_RC_STAT_LIVE = 0)) ∧
      (∀ jc : Fin 16, let base := bits val.toNat 15 0
        let top := base + bits val.toNat 31 16
        ((s.ctx ch jc).st = .free → top ≤ 65535 → s.rangeMeets ch jc base (bits val.toNat 31 16 + 1) = false →
          goesTo (exec (.ftJcRangeWrite ch jc val) s) (fun t => (s.answer .ok 0).onlyChan t ch ∧
            Chan.differAt [0x6100 + 4 * jc.val] s.chan[ch] t.chan[ch] ∧
            t.ftRange ch jc = (base, bits val.toNat 31 16 + 1))) ∧
        ((s.ctx ch jc).st = .free → 65535 < top → refused (exec (.ftJcRangeWrite ch jc val) s)) ∧
        ((s.ctx ch jc).st ≠ .free → exec (.ftJcRangeWrite ch jc val) s = .next (s.answer .ok 0))) ∧
      ((s.chan[ch]).ft.hostReq.length < 64 → goesTo (exec (.ftHostRelease ch val) s) (fun t => (s.answer .ok 0).onlyChan t ch ∧
        (t.chan[ch]).ft = { (s.chan[ch]).ft with hostReq := (s.chan[ch]).ft.hostReq ++ [val.toNat] })) ∧
      (64 ≤ (s.chan[ch]).ft.hostReq.length → refused (exec (.ftHostRelease ch val) s)) ∧
      ((s.chan[ch]).power.st = .run → (s.chan[ch]).power.move = .none →
        (s.f ch R.CH_RC_SWAP_ST_STATUS = 1 → refused (exec (.chRcSwap ch val) s)) ∧
        (s.f ch R.CH_RC_SWAP_ST_STATUS ≠ 1 → s.rcNamed ch val.toNat = none →
          goesTo (exec (.chRcSwap ch val) s) (fun t => t.f ch R.CH_RC_SWAP_ST_STATUS = 3 ∧ (t.chan[ch]).rc = (s.chan[ch]).rc)) ∧
        (∀ i, s.f ch R.CH_RC_SWAP_ST_STATUS ≠ 1 → s.rcNamed ch val.toNat = some i → (s.rcEnt ch i).st = .live →
          (s.rcEnt ch i).pins ≠ 0 ∨ (s.rcEnt ch i).qref ≠ 0 → goesTo (exec (.chRcSwap ch val) s) (fun t =>
            t.f ch R.CH_RC_SWAP_ST_STATUS = 1 ∧ (t.rcEnt ch i).st = .pending ∧ (t.rcEnt ch i).host = true ∧
            (t.chan[ch]).mem = (s.chan[ch]).mem)))) ∧
    goesTo (exec (.ftReady ch) s) (fun t => s.onlyChan t ch ∧ Chan.differAt [0x6000] s.chan[ch] t.chan[ch] ∧
      (s.f ch R.FT_CTL_EN = 1 → t.f ch R.FT_CTL_READY = 1 ∧ t.f ch R.FT_CTL_EN = 1)) ∧
    goesTo (exec (.rcReady ch) s) (fun t => s.onlyChan t ch ∧ Chan.differAt [0x6800] s.chan[ch] t.chan[ch] ∧
      (s.f ch R.CH_RC_CTL_EN = 1 → t.f ch R.CH_RC_CTL_READY = 1 ∧ t.f ch R.CH_RC_CTL_EN = 1)) ∧
    (∀ h rest, (s.chan[ch]).ft.hostReq = h :: rest → (s.eq ch 2).run = none →
      let b := (s.chan[ch]).ft.ent (h % 65536)
      goesTo (exec (.hostReleaseApply ch) s) (fun t => (t.chan[ch]).ft.hostReq = rest ∧
        ((s.chan[ch]).ft.named h = true → b.st = .live → b.owner = 0x10 → ((t.chan[ch]).ft.ent (h % 65536)).st ≠ .live) ∧
        ((s.chan[ch]).ft.named h = false → s.postedBy t (ch.val * 4096 + 0x12) ∧ (t.chan[ch]).ft.ents = (s.chan[ch]).ft.ents))) ∧
    ((s.eq ch 2).run.isSome = true ∨ (s.chan[ch]).ft.hostReq = [] → exec (.hostReleaseApply ch) s = .next s) ∧
    (∀ i e u, ((s.chan[ch]).rc.filter fun x => x.2.st == .pending && x.2.pins == 0 && x.2.qref == 0) = [(i, e)] →
      s.rcMove ch i (s.rcEnt ch i).dst = .ok u → goesTo (exec (.rcSwapped ch) s) (fun t => (t.rcEnt ch i).st = .free ∧
        (t.chan[ch]).mem = (u.chan[ch]).mem ∧ t.seqOf (ch.val * 4096 + 0x13) = (s.seqOf (ch.val * 4096 + 0x13) + 1) % 2 ^ 32)) ∧
    ((∀ x ∈ (s.chan[ch]).rc, x.2.st = .pending → x.2.pins ≠ 0 ∨ x.2.qref ≠ 0) → exec (.rcSwapped ch) s = .next s)

/-- On a channel that is up, a laser slot shows its power; below the threshold LOW is set and reported once until re-armed
0.5 dB above it; below +10.0 dBm LOST is set and the slot failed on every fiber its laser feeds; a return clears LOW and LOST
at their levels. A lane that fails, and a ring that loses lock, mark their slot failed; a carried lane moves to a free W8
without its link going down, else its link goes down. The ring loop sets a heater of a link in use or in training or under
AUTO, and no heater of a down link under MANUAL, where FAB_RING_MAN sets one; elsewhere that write is refused and changes
nothing. On a channel that is not up, nothing happens. A control codeword brings count, timestamp, quality and the announcement of a switch, which SPARE_SWITCH carries out and
records as a correctable event of the slot; an uncorrectable codeword counts and asks for a resend, at once in an IDLE cell
where no other cell can go. (R342, R345, R346, R350, R364, R365, R370, R372,
12_optical_fabric.md) -/
def Obligations.LanesLasersAndRings : Prop :=
  ∀ (s : State) (ch : Fin 8) (las : Fin 2) (slot : Fin 9) (power peak : BitVec 12) (lane : Fin 85) (ber temp : BitVec 8) (rx : Bool)
    (code : BitVec 12) (slew : BitVec 16) (val : BitVec 32),
    let i := laserIdx las slot
    let g := (laneAt lane.val).1
    let w := (laneAt lane.val).2
    let spare (t : State) := (t.chan[ch]).fab.spare
    let failed (t : State) : Nat := t.f ch (R.FAB_LANE_STAT_FAILED lane)
    let heat (t : State) : Nat := t.f ch (heaterFld lane rx)
    let active := s.f ch (R.FAB_LANE_STAT_ACTIVE lane)
    let armed := (las.val, slot.val) ∉ (s.chan[ch]).fab.low
    let level := s.laserLevel ch las
    let below (x : Nat) : Bool := belowDbm power.toNat x
    let pow (t : State) : Prop := t.f ch (R.FAB_LASER_POWER i) = power.toNat
    let low (t : State) : Nat := t.f ch (R.FAB_LASER_LOW i)
    let lost (t : State) : Nat := t.f ch (R.FAB_LASER_LOST i)
    let lit := s.up ch = true
    (¬ lit → exec (.laserLow ch las slot power) s = .next s ∧ exec (.laserLost ch las slot power) s = .next s ∧
      exec (.laserReturn ch las slot power peak) s = .next s ∧ exec (.laneFail ch lane ber) s = .next s ∧
      exec (.ringLockLost ch lane rx) s = .next s ∧ ∀ adv, exec (.ringLoop ch lane rx code temp slew adv) s = .next s) ∧
    (lit → goesTo (exec (.laserLow ch las slot power) s) (fun t => pow t ∧
      (below level = true → low t = 1 ∧ (las.val, slot.val) ∈ (t.chan[ch]).fab.low ∧
        (armed → s.postedBy t (ch.val * 4096 + 0x40))) ∧
      (below level = false ∨ ¬ armed → s.onlyChan t ch ∧ Chan.differAt [0x8500 + 4 * i] s.chan[ch] t.chan[ch] ∧
        (below level = false → low t = low s) ∧ lost t = lost s))) ∧
    (lit → goesTo (exec (.laserReturn ch las slot power peak) s) (fun t => s.onlyChan t ch ∧ pow t ∧
      low t = (if below level then low s else 0) ∧ lost t = (if below 100 then lost s else 0) ∧
      (let rearmed := (s.chan[ch]).fab.low.filter (· != (las.val, slot.val))
       (t.chan[ch]).fab = { (s.chan[ch]).fab with low := if belowDbm (max power.toNat peak.toNat) (level + 5) then (s.chan[ch]).fab.low else rearmed }))) ∧
    (lit → below 100 = true → goesTo (exec (.laserLost ch las slot power) s) (fun t => pow t ∧ lost t = 1 ∧
      ∀ f ∈ laserFeeds ch las, f < 5 ∨ slot.val < 4 ∨ slot.val = 8 → t.f ch (R.FAB_LANE_STAT_FAILED (laneIdx f slot)) = 1)) ∧
    (lit → goesTo (exec (.laneFail ch lane ber) s) (fun t => failed t = 1 ∧ t.f ch (R.FAB_LANE_Q_BER_EXP lane) = ber.toNat ∧
      (failed s = 1 → s.onlyChan t ch ∧ Chan.differAt [0x8204 + 8 * lane.val] s.chan[ch] t.chan[ch]) ∧
      (failed s = 0 → active = 1 → w ≠ 8 → s.spareFree ch g = true → spare t = spare s ++ [(g, w)] ∧
        ∀ p : Fin 16, t.linkState ch p = s.linkState ch p) ∧
      (failed s = 0 → active = 1 → w = 8 ∨ s.spareFree ch g = false → ∀ p, s.laneOwner ch g w = some p → t.linkUp ch p = false))) ∧
    (∀ adv, lit → laneHere ch lane = true → goesTo (exec (.ringLoop ch lane rx code temp slew adv) s) (fun t =>
      t.f ch (R.FAB_LANE_Q_TEMP lane) = temp.toNat ∧ t.f ch R.FAB_RING_SLEW_SLEW = max slew.toNat (s.f ch R.FAB_RING_SLEW_SLEW) ∧
      heat t = (if s.slotAuto ch g w = true ∨ 2 ≤ s.f ch R.FAB_RING_CTL_POLICY then code.toNat else heat s) ∧
      (adv = true → s.slotAuto ch g w = false → s.f ch R.FAB_RING_CTL_POLICY ≠ 0 → s.postedBy t (ch.val * 4096 + 0x40)))) ∧
    (lit → laneHere ch lane = true → goesTo (exec (.ringLockLost ch lane rx) s) (fun t => failed t = 1 ∧
      t.f ch (if rx then R.FAB_LANE_STAT_RXLOCK lane else R.FAB_LANE_STAT_TXLOCK lane) = 0 ∧ heat t = heat s ∧
      t.f ch R.FAB_RING_CTL_LOCKLOSS = min 65535 (s.f ch R.FAB_RING_CTL_LOCKLOSS + 1))) ∧
    (s.reaches (pfOf ch) → (s.chan[ch]).power.st = .run → (s.chan[ch]).power.move = .none →
      bits val.toNat 6 0 = lane.val → (val.getLsbD 7 = rx) →
      let mine := laneHere ch lane = true ∧ s.slotUp ch g w = false ∧ s.f ch R.FAB_RING_CTL_POLICY = 0
      (mine → val.getLsbD 31 = true →
        goesTo (exec (.fabRingMan ch val) s) (fun t => (s.answer .ok 0).onlyChan t ch ∧ heat t = bits val.toNat 19 8)) ∧
      (¬ mine → goesTo (exec (.fabRingMan ch val) s) (fun t => (s.answer .ok 0).butEvents t ∧
        s.postedBy t (ch.val * 4096 + 0x71)))) ∧
    (∀ count stamp corr p, lit → s.laneOwner ch g w = some p →
      goesTo (exec (.controlCodeword ch lane count stamp corr ber none) s) (fun t => s.onlyChan t ch ∧
        t.f ch (R.FAB_LANE_Q_BER_EXP lane) = ber.toNat ∧
        t.link ch p = { s.link ch p with ctl := some (count.toNat, stamp.toNat), corr := ((s.link ch p).corr + corr) % 1024 } ∧
        t.f ch (R.FAB_PORT_ERR_CORR p) = min 4095 (s.f ch (R.FAB_PORT_ERR_CORR p) + ((s.link ch p).corr + corr) / 1024)) ∧
      (s.linkUp ch p = true → goesTo (exec (.uncorrectableCodeword ch lane) s) (fun t => s.onlyChan t ch ∧
        t.f ch (R.FAB_PORT_ERR_UNCORR p) = min 255 (s.f ch (R.FAB_PORT_ERR_UNCORR p) + 1) ∧ (t.link ch p).gap = true ∧
        ((s.link ch p).gap = true → t.link ch p = s.link ch p) ∧
        ((s.link ch p).gap = false → s.maySend ch p = false → (t.link ch p).nak = true) ∧
        ((s.link ch p).gap = false → s.maySend ch p = true → (s.link ch p).outq = [] → (s.link ch p).owed.sum = 0 →
          ∃ c, (t.link ch p).plain = some c ∧ c.nak = true))) ∧
      (s.linkUp ch p = false → exec (.uncorrectableCodeword ch lane) s = .next s)) ∧
    (∀ count stamp corr (a : Fin 9), lit → a.val ≠ 8 → s.spareFree ch g = true →
      goesTo (exec (.controlCodeword ch lane count stamp corr ber (some a)) s) (fun t => s.onlyChan t ch ∧
        t.f ch (R.FAB_LANE_STAT_FAILED (laneIdx g a)) = 1 ∧ t.f ch (R.FAB_LANE_STAT_ACTIVE (laneIdx g a)) = 0 ∧
        spare t = spare s ++ [(g, a.val)])) ∧
    (∀ (grp : Fin 13) (n : Nat), grp.val < 12 →
      ((spare s).find? (·.1 == grp.val) = some (grp.val, n) → ∀ p, slotLink grp.val n = some p →
        goesTo (exec (.spareSwitch ch grp) s) (fun t => (∀ c : Fin 8, c ≠ ch → t.chan[c] = s.chan[c]) ∧
          (∃ h ∈ t.pkg.hist.recs, h.cls = clsCE ∧ h.of 3 (keySlot ch (waveNo ch grp.val) n) = true ∧
            h.firstS = s.pkg.hist.seconds) ∧ t.f ch (R.FAB_LANE_STAT_ACTIVE (laneIdx grp.val 8)) = 1 ∧
          t.f ch (R.FAB_PORT_STAT_SPARE p) = 1 ∧ t.f ch (R.FAB_PORT_STAT_SPARE_LANE p) = n % 4 ∧
          spare t = (spare s).filter (·.1 != grp.val) ∧ ∀ q : Fin 16, t.linkState ch q = s.linkState ch q)) ∧
      ((spare s).find? (·.1 == grp.val) = none → exec (.spareSwitch ch grp) s = .next s))

/-- On a link that is up, a cell's link fields return credits and acknowledge; a sequenced cell on a plain link is
taken only as the next expected, then joins the queue of the output its route names, or completes its message in
order; a later one is discarded and one resend asked for, at once in an IDLE cell on a link with nothing else to send; an
earlier one is a duplicate. A reserved type is dropped
and counted. Nothing arrives on a link that is down. An incomplete message can be abandoned, counted and reported. A
stall is reported while credits are 0 and cells wait. Weights change only under AUTO, which posts an event, as ASSIST does. A
group is closed by one MAC cell, which waits for room in the replay buffer; keys are renewed on an encrypted link that is up. (R350, R351, R353, R355, R356, R358, R360, R362,
12_optical_fabric.md) -/
def Obligations.CellsAndMessages : Prop :=
  ∀ (s : State) (ch : Fin 8) (p : Fin 16) (c : Cell) (mac : Bool) (vc : BitVec 3),
    let l := s.link ch p
    let data := c.typ.toNat = 1 ∨ (3 ≤ c.typ.toNat ∧ c.typ.toNat ≤ 5)
    let credits := modAt l.credits c.crvc.toNat (· + c.crcnt.toNat)
    let left := l.replay.filter fun x => 2048 ≤ (c.lack.toNat + 4096 - x.1.lseq.toNat) % 4096
    let seen : Link := { l with credits := credits, replay := left }
    let inOrder := s.linkUp ch p = true ∧ l.due = false ∧ data ∧ s.linkEnc ch p = false ∧ c.nak = false ∧ c.lseq.toNat = l.rxNext
    let taken (t : State) : Prop := (t.link ch p).rxNext = (c.lseq.toNat + 1) % 4096 ∧ (t.link ch p).rxAck = c.lseq.toNat ∧
      (t.link ch p).gap = false
    let box (t : State) := (t.chan[ch]).fab.inbox
    (s.linkUp ch p = false → exec (.cellReceive ch p c mac) s = .next s ∧ exec (.fabVcStall ch p vc) s = .next s) ∧
    (s.linkUp ch p = true → l.due = false → c.typ.toNat = 0 ∨ c.typ.toNat = 2 → c.nak = false →
      goesTo (exec (.cellReceive ch p c mac) s) (fun t => s.onlyChan t ch ∧ t.link ch p = seen ∧ box t = box s)) ∧
    (s.linkUp ch p = true → 7 ≤ c.typ.toNat → goesTo (exec (.cellReceive ch p c mac) s) (fun t => s.onlyChan t ch ∧
      Chan.differAt [0x8620 + 4 * c.vc.toNat] s.chan[ch] t.chan[ch] ∧
      t.f ch (R.FAB_VC_STAT_DROPS c.vc.toNat) = min 4095 (s.f ch (R.FAB_VC_STAT_DROPS c.vc.toNat) + 1))) ∧
    (inOrder → ∀ q : Fin 16, s.way ch c.dst.toNat = .link q → goesTo (exec (.cellReceive ch p c mac) s) (fun t =>
      s.onlyChan t ch ∧ taken t ∧ (t.link ch q).outq = (s.link ch q).outq ++ [⟨p.val, c, none⟩] ∧ box t = box s)) ∧
    (inOrder → s.way ch c.dst.toNat = .here → c.last = true → c.offset = 0 → c.wire = false →
      (s.chan[ch]).fab.next c.src.toNat c.vc.toNat = c.msg.toNat →
      (∀ m ∈ (s.chan[ch]).fab.parts, ¬ (m.src = c.src.toNat ∧ m.vc = c.vc.toNat)) →
      goesTo (exec (.cellReceive ch p c mac) s) (fun t => taken t ∧
        box t = box s ++ [⟨c.src.toNat, c.vc.toNat, c.typ.toNat, c.data⟩] ∧
        (t.chan[ch]).fab.next c.src.toNat c.vc.toNat = (c.msg.toNat + 1) % 65536)) ∧
    (s.linkUp ch p = true → data → c.lseq.toNat ≠ l.rxNext →
      (2048 ≤ (l.rxNext + 4095 - c.lseq.toNat) % 4096 → goesTo (exec (.cellReceive ch p c mac) s) (fun t => s.onlyChan t ch ∧
        box t = box s ∧ (t.link ch p).gap = true ∧ (l.gap = true → t.link ch p = l) ∧
        (l.gap = false → s.maySend ch p = false → t.link ch p = { l with gap := true, nak := true }) ∧
        (l.gap = false → s.maySend ch p = true → l.outq = [] → l.owed.sum = 0 →
          ∃ x, (t.link ch p).plain = some x ∧ x.nak = true ∧ x.typ = 0))) ∧
      ((l.rxNext + 4095 - c.lseq.toNat) % 4096 < 2048 → exec (.cellReceive ch p c mac) s = .next s)) ∧
    (∀ (src : BitVec 24) (msg : BitVec 16),
      let mine (m : FabMsg) : Bool := m.src == src.toNat && m.vc == vc.toNat && m.msg == msg.toNat && !m.gone && !m.whole
      ((s.chan[ch]).fab.parts.find? mine = none → exec (.fabMsgLost ch src vc msg) s = .next s) ∧
      (((s.chan[ch]).fab.parts.find? mine).isSome = true → (∀ k : Fin 16, s.slotState ch k = 0) →
        goesTo (exec (.fabMsgLost ch src vc msg) s) (fun t => s.postedBy t (ch.val * 4096 + 0x70) ∧
          t.f ch (R.FAB_VC_STAT_LOST vc.toNat) = min 1023 (s.f ch (R.FAB_VC_STAT_LOST vc.toNat) + 1) ∧
          ∀ m ∈ (t.chan[ch]).fab.parts, mine m = false))) ∧
    (s.linkUp ch p = true → l.credits.getD vc.toNat 0 = 0 → (∃ q ∈ l.outq, q.cell.vc = vc) →
      goesTo (exec (.fabVcStall ch p vc) s) (fun t => s.butEvents t ∧ s.postedBy t (ch.val * 4096 + 0x30 + p.val))) ∧
    goesTo (exec (.vcWeightTuning ch p) s) (fun t => (t.link ch p).sent = List.replicate 8 0 ∧
      (t.chan[ch]).fab.unreach = (if p.val = 0 then [] else (s.chan[ch]).fab.unreach) ∧ (t.link ch p).outq = l.outq ∧
      (s.vcSetting ch = 1 ∨ (s.vcSetting ch = 2 ∧ ∃ v, v < 8 ∧ s.tunedWeight ch p v ≠ s.f ch (R.FAB_VC_CFG_WEIGHT v)) →
        s.postedBy t (ch.val * 4096 + 0x30 + p.val)) ∧ ∀ v, v < 8 → t.f ch (R.FAB_VC_CFG_WEIGHT v) =
        if s.vcSetting ch = 2 then s.tunedWeight ch p v else s.f ch (R.FAB_VC_CFG_WEIGHT v)) ∧
    (s.linkUp ch p = true → s.linkEnc ch p = true →
      (l.txGroup ≠ 0 → 1024 ≤ l.replay.length → goesTo (exec (.macGroupClose ch p) s) (fun t => s.onlyChan t ch ∧
        t.link ch p = { l with due := true })) ∧
      (l.txGroup ≠ 0 → l.replay.length < 1024 → goesTo (exec (.macGroupClose ch p) s) (fun t => t.pkg = s.pkg ∧ t.pending = s.pending ∧
        ∃ m : Cell, m.typ = 6 ∧ m.lseq.toNat = l.txSeq % 4096 ∧
          (let seq := (l.txSeq + 1) % 4096
           t.link ch p = { l with txGroup := 0, due := false, groups := l.groups + 1, txSeq := seq, replay := l.replay ++ [(m, 0)] }))) ∧
      (l.txGroup = 0 → exec (.macGroupClose ch p) s = .next s) ∧
      goesTo (exec (.keyRenewal ch p) s) (fun t => s.onlyChan t ch ∧ t.link ch p = { l with keys := l.keys + 1 })) ∧
    (s.linkUp ch p = false ∨ s.linkEnc ch p = false → exec (.macGroupClose ch p) s = .next s ∧ exec (.keyRenewal ch p) s = .next s)

/-- A link that trains with whole slots, none held failed by the history, and finds the peer, port and encryption that the image names is UP, with its
measured delay and the credits of its shares, and FAB_LINK_UP is posted; with another peer it is HELD and FAB_MISWIRE
posted; with a step that overran, no port in the image or two bad slots it is down. Loss of light and FAB_LINK_DOWN
take a link that is up down: it counts, is dark, has no replay and its routes have moved; a link that is not up stays.
After the dark time, or at a retry from down or HELD, a link that the image uses trains on a channel whose fibers may be lit.
The memory link trains with every slot whole to LINK 2, and takes the capacity its expander reports, 512 GiB at most, where the
channel has none yet; without an expander it is absent. (R40, R308, R310, R366,
R367, R368, R369, R371, 12_optical_fabric.md) -/
def Obligations.LinksTrainAndFall : Prop :=
  ∀ (s : State) (ch : Fin 8) (p : Fin 16) (tr : Training) (delay : BitVec 16),
    let whole := ∀ w ∈ (linkSlots p).2, (∀ b ∈ tr.bad, b.val ≠ w) ∧ s.slotHeld ch (linkSlots p).1 w = false
    let fits (c : PortCfg) : Prop := c.peer = tr.peer.toNat ∧ c.peerPort = tr.peerPort.val ∧ c.enc = tr.enc
    let link := ch.val * 4096 + 0x30 + p.val
    let posts (t : State) : Prop := t.seqOf link = (s.seqOf link + 1) % 2 ^ 32
    (s.linkState ch p = 1 → tr.ok = true → whole → ∀ c, s.portCfg ch p = some c →
      (fits c → goesTo (exec (.linkTraining ch (some p) tr) s) (fun t => t.linkState ch p = 2 ∧ posts t ∧
        t.f ch (R.FAB_PORT_STAT_DELAY p) = tr.delay.toNat ∧ t.f ch (R.FAB_PORT_STAT_ENC p) = (if tr.enc then 1 else 0) ∧
        t.f ch (R.FAB_PORT_PEER_PEER p) = tr.peer.toNat ∧ (t.link ch p).replay = [] ∧ (t.link ch p).txSeq = 0 ∧
        (t.link ch p).credits = (List.range 8).map (fun v => 8 * tr.share.getD v 0) ∧
        ∀ w ∈ (linkSlots p).2, t.f ch (R.FAB_LANE_STAT_ACTIVE (laneIdx (linkSlots p).1 w)) = 1)) ∧
      (¬ fits c → goesTo (exec (.linkTraining ch (some p) tr) s) (fun t => t.linkState ch p = 3 ∧ s.postedBy t link ∧
        t.link ch p = s.link ch p))) ∧
    (s.linkState ch p = 1 → tr.ok = false ∨ s.portCfg ch p = none ∨
        2 ≤ ((linkSlots p).2.filter fun w => tr.bad.any fun b => b.val == w).length →
      goesTo (exec (.linkTraining ch (some p) tr) s) (fun t => s.onlyChan t ch ∧ t.linkState ch p = 0 ∧ t.link ch p = s.link ch p)) ∧
    (s.linkState ch p ≠ 1 → exec (.linkTraining ch (some p) tr) s = .next s) ∧
    (let cap := s.f ch R.MEM_T2_STAT_CAP_GIB
     let trains := s.f ch R.MEM_T2_STAT_LINK = 1 ∧ s.mayTrain ch = true ∧ tr.ok = true
     (¬ trains → exec (.linkTraining ch none tr) s = .next s) ∧
     (trains → cap = 0 → tr.gib = 0 → goesTo (exec (.linkTraining ch none tr) s) (fun t => s.onlyChan t ch ∧
       Chan.differAt [R.MEM_T2_STAT_LINK.off] s.chan[ch] t.chan[ch] ∧ t.f ch R.MEM_T2_STAT_LINK = 0)) ∧
     (trains → cap ≠ 0 ∨ tr.gib ≠ 0 → tr.bad = [] → (∀ w, s.slotHeld ch 4 w = false) →
       goesTo (exec (.linkTraining ch none tr) s) (fun t => t.f ch R.MEM_T2_STAT_LINK = 2 ∧
         t.f ch R.MEM_T2_STAT_CAP_GIB = (if cap = 0 then min 512 tr.gib else cap) ∧
         ∀ w, w < 8 → t.f ch (R.FAB_LANE_STAT_ACTIVE (laneIdx 4 w)) = 1))) ∧
    (∀ i : Instr, i = .lossOfLight ch p ∨ i = .fabLinkDown ch p →
      (s.linkUp ch p = true → goesTo (exec i s) (fun t => t.linkState ch p = 0 ∧ posts t ∧
        t.f ch (R.FAB_PORT_STAT_DOWNS p) = min 255 (s.f ch (R.FAB_PORT_STAT_DOWNS p) + 1) ∧ (t.link ch p).dark = true ∧
        (t.link ch p).moved = true ∧ (t.link ch p).replay = [] ∧ (t.link ch p).outq = [] ∧
        ∀ q : Fin 16, q ≠ p → t.linkState ch q = s.linkState ch q)) ∧
      (s.linkUp ch p = false → exec i s = .next s)) ∧
    (s.linkState ch p = 0 ∨ s.linkState ch p = 3 → (s.link ch p).dark = false → s.linkUsed ch p = true → s.mayTrain ch = true →
      goesTo (exec (.linkTrainingRetry ch p) s) (fun t => s.onlyChan t ch ∧
        Chan.differAt [0x8000 + 16 * p.val] s.chan[ch] t.chan[ch] ∧ t.linkState ch p = 1)) ∧
    ((s.link ch p).dark = true ∨ s.linkUsed ch p = false ∨ s.mayTrain ch = false → exec (.linkTrainingRetry ch p) s = .next s) ∧
    ((s.link ch p).dark = true → goesTo (exec (.linkDarkEnd ch p) s) (fun t => s.onlyChan t ch ∧
      t.link ch p = { s.link ch p with dark := false } ∧ t.linkState ch p =
        if s.linkState ch p = 0 ∧ s.linkUsed ch p = true ∧ s.mayTrain ch = true then 1 else s.linkState ch p)) ∧
    ((s.link ch p).dark = false → exec (.linkDarkEnd ch p) s = .next s) ∧
    (s.linkUp ch p = true → goesTo (exec (.linkDelayMeasure ch p delay) s) (fun t => s.onlyChan t ch ∧
      Chan.differAt [0x8000 + 16 * p.val] s.chan[ch] t.chan[ch] ∧ t.f ch (R.FAB_PORT_STAT_DELAY p) = delay.toNat ∧
      t.linkState ch p = 2)) ∧
    (s.linkUp ch p = false → exec (.linkDelayMeasure ch p delay) s = .next s)

/-- JOIN, UP, DOWN, BLOCK, COUNT, GRANT, ROWS, DONE and RET that belong to no enabled slot, or to one that is ABORTED
and serves no started entry of their SEQ, are taken from the inbox and discarded. Else, while the slot serves no entry of their SEQ (UP, GRANT and DONE in any
case), they are held in it under their KIND, with the t and k values that come with COUNT and RET, and no other slot,
context or memory changes. ABORT makes the slot ABORTED, counts and ends a reduction. A REDUCE cell on its way up is
held while no reduction runs. (R378, R379, R380, R385, R387, R391, R396, R399, 13_collectives_experts.md) -/
def Obligations.CollectiveMessages : Prop :=
  ∀ (s : State) (ch : Fin 8) (m : CMsg) (tk : List Nat) (i : Instr) (kind : Nat),
    let rows : List (Instr × Nat × Bool × List Nat) := [(.join ch m, 0x01, false, []), (.up ch m, 0x02, true, []),
      (.down ch m, 0x03, false, []), (.block ch m, 0x04, false, []), (.count ch m tk, 0x10, false, [0x110]),
      (.grant ch m, 0x11, true, []), (.rows ch m, 0x12, false, []), (.done ch m, 0x13, true, []), (.ret ch m tk, 0x14, false, [0x114])]
    let others (k : Fin 16) (t : State) : Prop := ∀ j : Fin 16, j ≠ k → t.slot ch j = s.slot ch j
    (∀ any extra, (i, kind, any, extra) ∈ rows →
      (s.slotOf ch m = none → exec i s = .next (s.takeMsg ch m kind)) ∧
      (∀ k r, s.slotOf ch m = some (k, r) →
        let started := ∃ e, s.servedAt ch k m.seq.toNat = some e ∧ e.started = true
        (s.slotState ch k = 3 → ¬ started → exec i s = .next (s.takeMsg ch m kind)) ∧
        (s.slotState ch k ≠ 3 ∨ started → any = true ∨ s.servedAt ch k m.seq.toNat = none → goesTo (exec i s) (fun t => s.onlyChan t ch ∧
          t.slot ch k = { s.slot ch k with held := (s.slot ch k).held ++ (kind, m) :: extra.map fun x => (x, holdTk m tk) } ∧
          others k t ∧ (t.chan[ch]).mem = (s.chan[ch]).mem ∧ (∀ jc : Fin 16, t.ctx ch jc = s.ctx ch jc) ∧
          (t.chan[ch]).fab = ((s.takeMsg ch m kind).chan[ch]).fab)))) ∧
    (s.slotOf ch m = none → exec (.abort ch m) s = .next (s.takeMsg ch m 0x05) ∧
      exec (.reduce ch m true) s = .next (s.takeMsg ch m 0x03) ∧ exec (.reduce ch m false) s = .next (s.takeMsg ch m 0x02)) ∧
    (∀ k r, s.slotOf ch m = some (k, r) →
      ((∀ e ∈ s.slotEntries ch k, e.clSeq ≠ m.seq.toNat) → goesTo (exec (.abort ch m) s) (fun t => t.slotState ch k = 3 ∧
        t.f ch R.CH_CL_STAT_ABORTS = min 255 (s.f ch R.CH_CL_STAT_ABORTS + 1) ∧ (t.slot ch k).inr = none ∧
        (t.slot ch k).aborts = (s.slot ch k).aborts ++ [(m.seq.toNat, m.index.toNat)] ∧ others k t ∧
        (∀ jc : Fin 16, t.ctx ch jc = s.ctx ch jc) ∧
        ((s.slot ch k).inr.isSome = true → t.f ch R.CH_CL_INR_CTL_BUSY = 0 ∧ s.postedBy t (ch.val * 4096 + 0x14)))) ∧
      (s.slotState ch k ≠ 3 → (s.slot ch k).inr = none →
        goesTo (exec (.reduce ch m false) s) (fun t => s.onlyChan t ch ∧ others k t ∧
          t.slot ch k = { s.slot ch k with held := (s.slot ch k).held ++ [(0x22, m)] }) ∧
        exec (.reduce ch m true) s = .next (s.takeMsg ch m 0x03)))

/-- A write of a slot's registers while an entry of the slot is queued or started is refused if it would change them;
else ID and descriptor address are written, EN = 0 turns the slot off, and EN from 0 to 1 takes the descriptor read,
or is refused with CL_SLOT_BAD. The next pass of a parked atomic entry runs when its inputs are there. A stall, and a
start held back longer than ORDER_LIM, end the served entry, count, and leave the slot ABORTED. INR_GO outside its
conditions is refused; inside them BUSY reads 1 exactly while the reduction runs. INR_FAIL ends the reduction. (R375,
R376, R377, R379, R381, R392, R516, 13_collectives_experts.md) -/
def Obligations.CommunicatorSlots : Prop :=
  ∀ (s : State) (ch : Fin 8) (k : Fin 16) (val : BitVec 32),
    let v := val.toNat
    let busy (t : State) := t.f ch R.CH_CL_INR_CTL_BUSY
    (s.reaches (pfOf ch) →
      (s.slotEntries ch k = [] →
        goesTo (exec (.clSlotWrite ch k 0 val) s) (fun t => (s.answer .ok 0).onlyChan t ch ∧
          Chan.differAt [0x9000 + 32 * k.val] s.chan[ch] t.chan[ch] ∧ t.f ch (R.CH_CL_SLOT_ID_LO_ID_LO k) = v) ∧
        goesTo (exec (.clSlotWrite ch k 1 val) s) (fun t => (s.answer .ok 0).onlyChan t ch ∧
          Chan.differAt [0x9004 + 32 * k.val] s.chan[ch] t.chan[ch] ∧ t.f ch (R.CH_CL_SLOT_ID_HI_ID_HI k) = v) ∧
        goesTo (exec (.clSlotWrite ch k 2 val) s) (fun t => (s.answer .ok 0).onlyChan t ch ∧
          Chan.differAt [0x9008 + 32 * k.val] s.chan[ch] t.chan[ch] ∧ t.f ch (R.CH_CL_SLOT_DESC_LO_ADDR_LO k) = bits v 31 6) ∧
        goesTo (exec (.clSlotWrite ch k 3 val) s) (fun t => (s.answer .ok 0).onlyChan t ch ∧
          Chan.differAt [0x900C + 32 * k.val] s.chan[ch] t.chan[ch] ∧ t.f ch (R.CH_CL_SLOT_DESC_HI_ADDR_HI k) = bits v 23 0) ∧
        (val.getLsbD 31 = false → goesTo (exec (.clSlotWrite ch k 4 val) s) (fun t => (s.answer .ok 0).onlyChan t ch ∧
          t.f ch (R.CH_CL_SLOT_BUF_EN k) = 0 ∧ t.slotState ch k = 0 ∧ t.slot ch k = { ClSlot.new with inr := (s.slot ch k).inr })) ∧
        (let u := (((s.answer .ok 0).setF ch (R.CH_CL_SLOT_BUF_BASE k) (bits v 11 0)).setF ch (R.CH_CL_SLOT_BUF_SIZE k)
            (bits v 23 12)).setF ch (R.CH_CL_SLOT_BUF_PT k) (bits v 26 24)
         val.getLsbD 31 = true → s.f ch (R.CH_CL_SLOT_BUF_EN k) = 0 →
          (∀ c, u.readComm ch k = some c → goesTo (exec (.clSlotWrite ch k 4 val) s) (fun t => u.onlyChan t ch ∧
            t.slot ch k = { c with inr := (s.slot ch k).inr } ∧ t.slotState ch k = 1 ∧ t.f ch (R.CH_CL_SLOT_STAT_SEQ k) = 0 ∧
            t.f ch (R.CH_CL_SLOT_STAT_RANK k) = c.rank % 2 ^ 14 ∧ t.f ch (R.CH_CL_SLOT_BUF_EN k) = 1)) ∧
          (u.readComm ch k = none → goesTo (exec (.clSlotWrite ch k 4 val) s) (fun t => u.butEvents t ∧
            s.postedBy t (ch.val * 4096 + 0x14))))) ∧
      (s.slotEntries ch k ≠ [] → val ≠ (s.chan[ch]).rd (0x9000 + 32 * k.val) →
        goesTo (exec (.clSlotWrite ch k 0 val) s) (fun t => State.butEvents (s.answer .ok 0) t ∧
          s.postedBy t (ch.val * 4096 + 0x71)))) ∧
    (∀ e u x, s.clocked ch = true → s.first ch ((s.eq ch 4).parked.filter fun e => s.clGoes ch e && s.passReady ch e) = some e →
      s.clWork ch e = .ok (u, x) → x.p = false → goesTo (exec (.clPass ch) s) (fun t => (t.chan[ch]).mem = (u.chan[ch]).mem ∧
        t.pkg = u.pkg ∧ (∀ jc : Fin 16, t.ctx ch jc = u.ctx ch jc) ∧
        ((∃ y ∈ (u.eq ch 4).parked, y.order = x.order) → x.eng = 4 → x ∈ (t.eq ch 4).parked))) ∧
    (s.first ch ((s.eq ch 4).parked.filter fun e => s.clGoes ch e && s.passReady ch e) = none ∨ s.clocked ch = false →
      exec (.clPass ch) s = .next s) ∧
    (∀ e, s.served? ch k = some e → s.slotState ch k ≠ 0 → s.slotState ch k ≠ 3 →
      (e.eng = 4 → e.started = true → (s.ctx ch (jcOf e.jc)).st ≠ .preempted → s.clDone ch e = false →
        goesTo (exec (.clStall ch k) s) (fun t => t.slotState ch k = 3 ∧
          t.f ch R.CH_CL_STAT_STALLS = min 255 (s.f ch R.CH_CL_STAT_STALLS + 1))) ∧
      (∀ jc : Fin 16, (s.eq ch 4).heads.find? (·.jc == jc.val) = some e → s.waitsMet ch e.waits = true → s.clReady ch e = false →
        (s.ctx ch jc).st ≠ .preempted → goesTo (exec (.orderTimeout ch false jc) s) (fun t => t.slotState ch k = 3 ∧
          t.f ch R.CH_CL_STAT_ORDER_TO = min 255 (s.f ch R.CH_CL_STAT_ORDER_TO + 1)))) ∧
    (s.served? ch k = none → exec (.clStall ch k) s = .next s) ∧
    (∀ (jc : Fin 16) (ex : Bool), (∀ e ∈ (s.eq ch (if ex then 5 else 4)).waiting, e.jc ≠ jc.val) →
      exec (.orderTimeout ch ex jc) s = .next s) ∧
    (s.reaches (pfOf ch) → (s.chan[ch]).power.st = .run → (s.chan[ch]).power.move = .none → bits v 3 0 = k.val → val.getLsbD 31 = true →
      let ok := s.allFree ch = true ∧ s.slotView ch k = 1 ∧ bits v 5 4 ≠ 3 ∧ bits v 29 6 ≠ 0 ∧ busy s = 0
      (¬ ok → goesTo (exec (.inrGo ch val) s) (fun t => s.postedBy t (ch.val * 4096 + 0x71) ∧ busy t = busy s ∧
        (t.chan[ch]).cl = (s.chan[ch]).cl)) ∧
      (ok → goesTo (exec (.inrGo ch val) s) (fun t => (busy t = 1 ↔ (t.slot ch k).inr.isSome = true) ∧
        ∀ i, (t.slot ch k).inr = some i → i.func = bits v 5 4 ∧ i.n = 64 * bits v 29 6))) ∧
    (s.reaches (pfOf ch) → val.getLsbD 31 = false → goesTo (exec (.inrGo ch val) s) (fun t => (s.answer .ok 0).onlyChan t ch ∧
      Chan.differAt [0x9210] s.chan[ch] t.chan[ch] ∧ busy t = busy s ∧ t.f ch R.CH_CL_INR_CTL_SLOT = bits v 3 0 ∧
      t.f ch R.CH_CL_INR_CTL_FUNC = bits v 5 4 ∧ t.f ch R.CH_CL_INR_CTL_COUNT = bits v 29 6)) ∧
    ((slots.find? fun j => (s.slot ch j).inr.isSome) = some k → goesTo (exec (.inrFail ch) s) (fun t => (t.slot ch k).inr = none ∧
      busy t = 0 ∧ s.postedBy t (ch.val * 4096 + 0x14) ∧ ∀ j : Fin 16, j ≠ k → t.slot ch j = s.slot ch j)) ∧
    ((∀ j : Fin 16, (s.slot ch j).inr = none) → exec (.inrFail ch) s = .next s)

/-- RECORD_DECODE_DONE and SLOW_RECORD of a lane that holds nothing, or while no gather entry runs, or for a record
that ends the other way, do nothing; the one that fits the record's end does the batch work of that record, and the
lanes are dealt anew. GT_BUSY_UPDATE shows BUSY; with MODE 0 nothing else changes; under AUTO it moves SHARE up above
85 and down below 70 by one with an event; in a bound partition SHARE stays. GT_SPLIT_WRITE takes MODE and SHARE (at
most 16), and in a bound partition a change of SHARE is refused. (R408, R414, R417, R419, R420, R421, R422,
14_gather_input.md) -/
def Obligations.GatherDecoding : Prop :=
  ∀ (s : State) (ch : Fin 8) (lane : Fin 16) (busy : Nat) (val : BitVec 32),
    let row (slow : Bool) : Instr := if slow then .slowRecord ch lane else .recordDecodeDone ch lane
    let share (t : State) : Nat := t.f ch R.CH_GT_SPLIT_SHARE
    (∀ slow, (s.eq ch gtEng).run = none ∨ (∀ x ∈ (s.chan[ch]).lanes, x.1 ≠ lane.val) → exec (row slow) s = .next s) ∧
    (∀ e l i g r x d, (s.eq ch gtEng).run = some e → (s.chan[ch]).lanes.find? (fun y => y.1 == lane.val) = some (l, i) →
      s.gtKilled ch e = false → s.gtTab ch e = .ok g → g.rs[i]? = some r → g.ss[r.stream]? = some x → s.gtEval ch e x r = .ok d →
      (∀ slow, (d.out == gtSlow) ≠ slow ∨ gtWaits e g d r = true → exec (row slow) s = .next s) ∧
      (gtWaits e g d r = false → e.isLive = false → ∀ u y, s.gtBatchOne ch e g i = .ok (u, y) →
        goesTo (exec (row (d.out == gtSlow)) s) (fun t => (t.chan[ch]).mem = (u.chan[ch]).mem ∧ t.pkg = u.pkg ∧
          (∀ jc : Fin 16, t.ctx ch jc = u.ctx ch jc) ∧ ∀ c : Fin 8, c ≠ ch → t.chan[c] = u.chan[c]))) ∧
    (let new := if 85 < min 100 busy ∧ share s < 16 then share s + 1 else if min 100 busy < 70 ∧ 0 < share s then share s - 1 else share s
     goesTo (exec (.gtBusyUpdate ch busy) s) (fun t => t.f ch R.CH_GT_SPLIT_BUSY = min 100 busy ∧
      t.f ch R.CH_GT_SPLIT_MODE = s.f ch R.CH_GT_SPLIT_MODE ∧
      (s.f ch R.CH_GT_SPLIT_MODE = 0 ∨ new = share s → s.onlyChan t ch ∧ Chan.differAt [0xA000] s.chan[ch] t.chan[ch] ∧ share t = share s) ∧
      (s.f ch R.CH_GT_SPLIT_MODE = 1 → new ≠ share s → s.postedBy t (ch.val * 4096 + 0x1A) ∧
        share t = if s.bound ch then share s else new))) ∧
    (s.reaches (pfOf ch) →
      let want := min 16 (bits val.toNat 5 1)
      (s.bound ch = false ∨ want = share s → goesTo (exec (.gtSplitWrite ch val) s) (fun t => (s.answer .ok 0).onlyChan t ch ∧
        Chan.differAt [0xA000] s.chan[ch] t.chan[ch] ∧ share t = want ∧ t.f ch R.CH_GT_SPLIT_MODE = bits val.toNat 0 0 ∧
        t.f ch R.CH_GT_SPLIT_BUSY = s.f ch R.CH_GT_SPLIT_BUSY)) ∧
      (s.bound ch = true → want ≠ share s → goesTo (exec (.gtSplitWrite ch val) s) (fun t =>
        State.butEvents (s.answer .ok 0) t ∧ s.postedBy t (ch.val * 4096 + 0x71))))

/-- On an up channel in RUN, a round that falls due begins with the tick number, no digest and the first region, or is
skipped with an event while one runs; otherwise nothing happens. The digest of the next region joins the round's
digests under R425, a free value when a store met the region while it was read, and a region that cannot be read is passed
over. A peer's digest of the round's tick is kept
once; when every used peer of the region's entry has answered, those not yet compared are compared with the own one: equal
ones change nothing, each different one counts as a mismatch, and the first leaves a DIGEST record (log entry 66 gives the
time of the comparison). A digest of another round, or of a node that is no peer, is discarded. (R425, R426, R427, R428, R429, R432, 15_resilience.md) -/
def Obligations.WeightDigests : Prop :=
  ∀ (s : State) (ch : Fin 8), s.up ch = true →
    let due := s.f ch R.CH_DIG_CFG_EN = 1 ∧ s.pkg.tick.num.toNat % max 1 (s.f ch R.CH_DIG_CFG_PERIOD) = 0
    let busy (t : State) : Nat := t.f ch R.CH_DIG_STAT_BUSY
    (due → (s.pwr ch).st = .run → (s.pwr ch).move = .none →
      (busy s = 0 → goesTo (exec (.digestRound ch) s) (fun t => t.dig ch = ⟨s.pkg.tick.num.toNat, 0, [], []⟩ ∧
        busy t = (if t.prots ch 0 0 = [] then 0 else 1) ∧ (∀ jc : Fin 16, t.ctx ch jc = s.ctx ch jc) ∧
        (t.chan[ch]).mem = (s.chan[ch]).mem)) ∧
      (busy s = 1 → goesTo (exec (.digestRound ch) s) (fun t => t.dig ch = s.dig ch ∧ busy t = 1 ∧
        t.f ch R.CH_DIG_STAT_SKIPPED = min 255 (s.f ch R.CH_DIG_STAT_SKIPPED + 1) ∧ s.postedBy t (ch.val * 4096 + 0x50)))) ∧
    (¬ due → exec (.digestRound ch) s = .next s) ∧
    (busy s = 0 → exec (.digestRegionDone ch) s = .next s) ∧
    (busy s = 1 → ∀ i p rest, s.prots ch (s.dig ch).next 0 = (i, p) :: rest →
      (∀ bs, s.vaRead ch p.base p.len = .ok bs → goesTo (exec (.digestRegionDone ch) s) (fun t => ∃ x,
        ((∀ h, (s.chan[ch]).digHand = some h → h.torn = false) → x = regionDigest bs) ∧
        (t.dig ch).own = (s.dig ch).own ++ [⟨p.region, x, p.peers⟩] ∧ (t.dig ch).next = i + 1 ∧
        (t.dig ch).round = (s.dig ch).round)) ∧
      ((s.vaRead ch p.base p.len).isOk = false → goesTo (exec (.digestRegionDone ch) s) (fun t => s.onlyChan t ch ∧
        (t.dig ch).own = (s.dig ch).own ∧ (t.dig ch).next = i + 1))) ∧
    (∀ (src : BitVec 24) (region : BitVec 16) (tick : BitVec 64) (x : BitVec 256),
      let peer := (List.range 8).find? fun i => s.digPeer ch i && s.f ch (R.CH_DIG_PEER_NODE i) == src.toNat
      let msg := s.takeIn ch fun m => m.src == src.toNat && m.vc == 0 && m.data == digestMsg region.toNat tick.toNat x
      (peer = none ∨ tick.toNat ≠ (s.dig ch).round → exec (.digest ch src region tick x) s = .next msg) ∧
      (∀ i own, peer = some i → tick.toNat = (s.dig ch).round →
        (∀ y ∈ (s.dig ch).peers, ¬ (y.peer = i ∧ y.region = region.toNat)) →
        (s.dig ch).own.find? (fun r => r.region == region.toNat) = some own →
        let answered := ∀ k ∈ s.peersOf ch own.peers, k = i ∨ ∃ y ∈ (s.dig ch).peers, y.peer = k ∧ y.region = region.toNat
        let held := ((s.dig ch).peers.filter fun y => y.region == region.toNat && !y.seen).map (·.digest)
        let bad := ((held ++ [x]).filter (· != own.digest)).length
        goesTo (exec (.digest ch src region tick x) s) (fun t =>
          (∃ y ∈ (t.dig ch).peers, y.peer = i ∧ y.region = region.toNat ∧ y.digest = x) ∧
          (¬ answered ∨ bad = 0 → t.f ch R.CH_DIG_STAT_MISMATCH = s.f ch R.CH_DIG_STAT_MISMATCH ∧ t.pkg = s.pkg) ∧
          (answered → bad ≠ 0 → t.f ch R.CH_DIG_STAT_MISMATCH = min 255 (s.f ch R.CH_DIG_STAT_MISMATCH + bad) ∧
            ∃ h ∈ t.pkg.hist.recs, h.unit = 6 ∧ h.cls = clsDigest ∧ h.key = ch.val + 8 * region.toNat ∧ h.seq = s.pkg.hist.next))))

/-- On an up channel in RUN, COPY_EPOCH when due and PC_COPY_GO begin the next epoch of an idle mover, waiting for
WSEM when it is enabled and not covered, and otherwise count a failure. COPY_READ_DONE sends the regions to a remote
target and awaits the ACK, or fails when one cannot be read. An ACK of the epoch ends it; a status, a timeout or a
failed restore counts a failure and posts it. A restore request goes to the partner; an own area without a valid epoch
fails it. Chunks of the partner or of SRC land behind those before; a manifest of a restore ends it; those of other
nodes are discarded. (R440, R441, R442, R443, R444, 15_resilience.md) -/
def Obligations.PartnerCopies : Prop :=
  ∀ (s : State) (ch : Fin 8) (val : BitVec 32) (src : BitVec 24),
    let m := s.mov ch
    let at51 := ch.val * 4096 + 0x51
    let fails (t : State) : Prop := t.f ch R.CH_PC_STAT_FAILS = min 255 (s.f ch R.CH_PC_STAT_FAILS + 1)
    let failed (o : Out) : Prop := goesTo o (fun t => fails t ∧ (t.mov ch).phase = .idle ∧ s.postedBy t at51 ∧
      (t.mov ch).area0 = m.area0 ∧ (t.chan[ch]).mem = (s.chan[ch]).mem)
    let n := s.f ch R.CH_PC_CFG_PERIOD
    let due := s.f ch R.CH_PC_CFG_EN = 1 ∧ n ≠ 0 ∧ s.pkg.tick.num.toNat % n = 0
    let w := s.f ch R.CH_PC_CTL_WSEM
    s.up ch = true →
    (¬ due → exec (.copyEpoch ch) s = .next s) ∧
    ((s.pwr ch).st = .run → (s.pwr ch).move = .none → due →
      (m.phase ≠ .idle → goesTo (exec (.copyEpoch ch) s) (fun t => s.onlyChan t ch ∧ fails t ∧ t.mov ch = m)) ∧
      (m.phase = .idle → goesTo (exec (.copyEpoch ch) s) (fun t => s.onlyChan t ch ∧ t.f ch R.CH_PC_STAT_STATE = 1 ∧
        (t.mov ch).epoch = m.epoch + 1 ∧ (t.chan[ch]).mem = (s.chan[ch]).mem ∧
        (s.f ch R.CH_PC_CTL_WEN = 0 → (t.mov ch).phase = .reading ∧ (t.chan[ch]).sem = (s.chan[ch]).sem) ∧
        (s.f ch R.CH_PC_CTL_WEN = 1 → (s.semAt ch w).count < 1 + s.claimed ch w → (t.mov ch).phase = .waiting) ∧
        (s.f ch R.CH_PC_CTL_WEN = 1 → 1 + s.claimed ch w ≤ (s.semAt ch w).count → (t.mov ch).phase = .reading ∧
          (t.semAt ch w).count = (s.semAt ch w).count - 1)))) ∧
    (∀ i : Instr, i = .pcCopyGo ch val ∨ i = .pcRestoreGo ch val → s.reaches (pfOf ch) → (s.pwr ch).st = .run → (s.pwr ch).move = .none →
      (val.getLsbD 31 = false → goesTo (exec i s) (fun t => (s.answer .ok 0).onlyChan t ch ∧
        Chan.differAt [0xB018] s.chan[ch] t.chan[ch] ∧ (t.chan[ch]).rd 0xB018 = val &&& 0x7FFFF#32)) ∧
      (val.getLsbD 31 = true → m.phase ≠ .idle → goesTo (exec i s) (fun t => (s.answer .ok 0).onlyChan t ch ∧ fails t ∧ t.mov ch = m)) ∧
      (val.getLsbD 31 = true → m.phase = .idle →
        (val.getLsbD 18 = false → val.getLsbD 16 = false → goesTo (exec i s) (fun t => (s.answer .ok 0).onlyChan t ch ∧
          (t.mov ch).phase = .reading ∧ (t.mov ch).epoch = m.epoch + 1 ∧ t.f ch R.CH_PC_STAT_STATE = 1)) ∧
        (val.getLsbD 18 = true → s.f ch R.CH_PC_TGT_LOCAL = 0 → goesTo (exec i s) (fun t =>
          (t.mov ch).phase = .restoring ∧ (t.mov ch).landed = [] ∧ t.f ch R.CH_PC_STAT_STATE = 2 ∧ (t.mov ch).area0 = m.area0)) ∧
        (val.getLsbD 18 = true → s.f ch R.CH_PC_TGT_LOCAL = 1 → m.area1.best = none → failed (exec i s)))) ∧
    (m.phase ≠ .reading → exec (.copyReadDone ch) s = .next s) ∧
    (m.phase = .reading → s.copyRead ch 4096 (s.prots ch 0 1) = none → failed (exec (.copyReadDone ch) s)) ∧
    (m.phase = .reading → s.f ch R.CH_PC_TGT_LOCAL = 0 → (s.copyRead ch 4096 (s.prots ch 0 1)).isSome = true →
      goesTo (exec (.copyReadDone ch) s) (fun t => (t.mov ch).phase = .manifest ∧ (t.mov ch).epoch = m.epoch ∧
        t.f ch R.CH_PC_STAT_EPOCH = m.epoch % 2 ^ 20)) ∧
    (∀ (epoch : BitVec 32) (status : BitVec 32),
      let took := s.takeIn ch fun x => x.src == src.toNat && x.vc == 6 && x.data == copyHead epoch.toNat 0 0x33 0 status.toNat
      let mine := m.phase = .manifest ∧ s.f ch R.CH_PC_TGT_NODE = src.toNat ∧ m.epoch % 2 ^ 32 = epoch.toNat
      (¬ mine → exec (.ack ch src epoch status) s = .next took) ∧
      (mine → status = 0 → goesTo (exec (.ack ch src epoch status) s) (fun t => (t.mov ch).phase = .idle ∧ s.postedBy t at51 ∧
        t.f ch R.CH_PC_STAT_STATE = 0 ∧ t.f ch R.CH_PC_STAT_FAILS = s.f ch R.CH_PC_STAT_FAILS)) ∧
      (mine → status ≠ 0 → failed (exec (.ack ch src epoch status) s))) ∧
    (m.phase = .manifest → failed (exec (.pcAckTimeout ch) s)) ∧ (m.phase ≠ .manifest → exec (.pcAckTimeout ch) s = .next s) ∧
    (m.phase = .restoring → failed (exec (.restoreFail ch) s)) ∧ (m.phase ≠ .restoring → exec (.restoreFail ch) s = .next s) ∧
    goesTo (exec (.restoreReq ch src) s) (fun t => t.mov ch = m ∧ (t.chan[ch]).mem = (s.chan[ch]).mem ∧
      ∀ jc : Fin 16, t.ctx ch jc = s.ctx ch jc) ∧
    (∀ (epoch : BitVec 32) (region : BitVec 16) (off : BitVec 32) (data : List (BitVec 8)),
      let took := s.takeIn ch fun x => x.src == src.toNat && x.vc == 6 &&
        x.data.take 16 == copyHead epoch.toNat region.toNat 0x30 off.toNat 0
      (s.restoringFrom ch src.toNat = false → s.f ch R.CH_PAREA_SRC_SRC ≠ src.toNat →
        exec (.copyData ch src epoch region off data) s = .next took) ∧
      (s.restoringFrom ch src.toNat = true → ∀ p u, s.protOf ch region.toNat = some p →
        off.toNat * copyChunk + data.length ≤ p.len → took.movWrite ch (p.base + off.toNat * copyChunk) data = some u →
        goesTo (exec (.copyData ch src epoch region off data) s) (fun t => (t.chan[ch]).mem = (u.chan[ch]).mem ∧
          (t.mov ch).landed = m.landed ++ [⟨region.toNat, off.toNat, 0, data.length⟩])) ∧
      (s.restoringFrom ch src.toNat = false → s.f ch R.CH_PAREA_SRC_SRC = src.toNat → m.rx = some epoch.toNat →
        goesTo (exec (.copyData ch src epoch region off data) s) (fun t => (t.mov ch).rx = m.rx ∧ (t.mov ch).phase = m.phase ∧
          (t.mov ch).landed = m.landed ++ [⟨region.toNat, off.toNat, 4096 + (m.landed.map (·.len)).sum, data.length⟩])) ∧
      (s.restoringFrom ch src.toNat = false → s.f ch R.CH_PAREA_SRC_SRC = src.toNat → m.rx ≠ some epoch.toNat →
        goesTo (exec (.copyData ch src epoch region off data) s) (fun t => (t.mov ch).rx = some epoch.toNat ∧
          (t.mov ch).landed = [⟨region.toNat, off.toNat, 4096, data.length⟩] ∧
          ((t.mov ch).area0.gen m.area0.target).valid = false))) ∧
    (∀ (epoch : BitVec 64) (l : List ManEntry),
      let took := s.takeIn ch fun x => x.src == src.toNat && x.vc == 6 && x.data.take 16 == copyHead epoch.toNat 0 0x31 0 0
      (s.restoringFrom ch src.toNat = false → s.f ch R.CH_PAREA_SRC_SRC ≠ src.toNat → exec (.manifest ch src epoch l) s = .next took) ∧
      (s.restoringFrom ch src.toNat = true → s.restorable ch l = true → (∀ e ∈ l, m.complete e false = true) → s.restored ch l = true →
        goesTo (exec (.manifest ch src epoch l) s) (fun t => (t.mov ch).phase = .idle ∧ s.postedBy t at51 ∧
          t.f ch R.CH_PC_STAT_EPOCH = epoch.toNat % 2 ^ 20 ∧ t.f ch R.CH_PC_STAT_FAILS = s.f ch R.CH_PC_STAT_FAILS)) ∧
      (s.restoringFrom ch src.toNat = true → s.restorable ch l = false → goesTo (exec (.manifest ch src epoch l) s) (fun t =>
        (t.mov ch).phase = .idle ∧ fails t)))

/-- Compaction at 90% and more keeps every UE, PERMANENT, RETIRED and DIGEST record and every correctable one younger
than 86,400 powered seconds, and drops the rest; below it does nothing. A write of HUB_CPER_PTR that reaches it takes
SIZE and EN, and RD up to WR. With the standby supply outside Off, I3C_STATUS reads the condition; HIST_COUNT,
HIST_READ and I3C_TEMP are answered while the package runs or is SAFE, a record beyond the last as zeros; else they
are not acknowledged. The flash port acts only while PERST# is low: a write changes only the slots and the calibration
area. JTAG shifts out levels or the bypass bit; the debug port, when the image enables it, is refused. (R434, R439,
R481, R503, R504, R505, 18_pins_package.md) -/
def Obligations.HistoryAndPorts : Prop :=
  ∀ (s : State) (val idx : BitVec 32) (hub : BitVec 8) (addr len : Nat) (data : List (BitVec 8)),
    let answered (o : Out) (l : List Byte) : Prop := o = .next (s.modP fun p => { p with out := { p.out with i3cNack := false, i3c := l } })
    let nacked (o : Out) : Prop := o = .next (s.modP fun p => { p with out := { p.out with i3cNack := true, i3c := [] } })
    (90 ≤ s.pkg.fld R.HUB_FH_STAT_FILL → goesTo (exec .historyCompaction s) (fun t => s.onlyPkg t ∧
      ∀ h, h ∈ t.pkg.hist.recs ↔ h ∈ s.pkg.hist.recs ∧ ((clsUE ≤ h.cls ∧ h.cls ≤ clsDigest) ∨
        (h.cls = clsCE ∧ s.pkg.hist.seconds < h.firstS + 86400)))) ∧
    (s.pkg.fld R.HUB_FH_STAT_FILL < 90 → exec .historyCompaction s = .next s) ∧
    (s.reaches 0 → s.pkg.hist.held = [] → goesTo (exec (.cperRdWrite val) s) (fun t => s.onlyPkg t ∧ t.pkg.out.cpl = .ok ∧
      t.pkg.fld R.HUB_CPER_PTR_SIZE = bits val.toNat 23 20 ∧ t.pkg.fld R.HUB_CPER_PTR_EN = bits val.toNat 24 24 ∧
      t.pkg.fld R.HUB_CPER_PTR_WR = s.pkg.fld R.HUB_CPER_PTR_WR ∧ t.pkg.fld R.HUB_CPER_PTR_RD =
        if (s.pkg.fld R.HUB_CPER_PTR_WR + 1024 - bits val.toNat 19 10) % 1024 ≤ s.cperUnread then bits val.toNat 19 10
        else s.pkg.fld R.HUB_CPER_PTR_RD)) ∧
    (s.pkg.vstby = true → s.pkg.cond ≠ .off → answered (exec .i3cStatus s) (leBytes 1 s.statusCode)) ∧
    (s.pkg.vstby = false ∨ s.pkg.cond = .off → nacked (exec .i3cStatus s)) ∧
    (s.pkg.vstby = true → s.runs = true →
      answered (exec .histCount s) (leBytes 4 s.pkg.hist.recs.length) ∧
      (∀ h, s.pkg.hist.recs[idx.toNat]? = some h → answered (exec (.histRead idx) s) h.bytes) ∧
      (s.pkg.hist.recs.length ≤ idx.toNat → answered (exec (.histRead idx) s) (List.replicate 32 0)) ∧
      goesTo (exec (.i3cTemp hub) s) (fun t => s.onlyPkg t ∧ t.pkg.out.i3cNack = false ∧ t.pkg.out.i3c.length = 9 ∧
        t.pkg.out.i3c[0]? = some hub ∧ ∀ ch : Fin 8, t.pkg.out.i3c[ch.val + 1]? =
          some (if s.live ch then BitVec.ofNat 8 (s.f ch R.CH_THERM_TJ) else 0xFF#8))) ∧
    (s.pkg.vstby = false ∨ s.runs = false → nacked (exec .histCount s) ∧ nacked (exec (.histRead idx) s) ∧ nacked (exec (.i3cTemp hub) s)) ∧
    (s.pkg.vstby = true → s.pkg.pins.perst = true →
      goesTo (exec (.flashRecoveryPortAccess true addr data len) s) (fun t => s.onlyPkg t ∧ t.pkg.pins.flEn = true ∧
        (∀ a, t.pkg.flash.bytes.byte a = if addr ≤ a ∧ a < addr + data.length ∧ a < 0x4100000 then data.getD (a - addr) 0
          else s.pkg.flash.bytes.byte a)) ∧
      goesTo (exec (.flashRecoveryPortAccess false addr data len) s) (fun t => t.chan = s.chan ∧ t.pkg.flash = s.pkg.flash ∧
        t.pkg.out.spi.length = len ∧
        (addr + len ≤ 0x4100000 → ∀ k, k < len → t.pkg.out.spi[k]? = some (s.pkg.flash.bytes.byte (addr + k))))) ∧
    (s.pkg.vstby = false ∨ s.pkg.pins.perst = false → ∀ wr, exec (.flashRecoveryPortAccess wr addr data len) s = .next s) ∧
    (s.pkg.vaux = true → (∀ levels, goesTo (exec (.jtagInstruction (.scan levels)) s) (fun t => s.onlyPkg t ∧ t.pkg.out.jtag = levels)) ∧
      (∀ b, goesTo (exec (.jtagInstruction (.bypass b)) s) (fun t => s.onlyPkg t ∧ t.pkg.out.jtag = [b])) ∧
      (s.debugOn = true → exec (.jtagInstruction .debug) s = .refused .debugPort) ∧
      (s.debugOn = false → goesTo (exec (.jtagInstruction .debug) s) (fun t => s.onlyPkg t ∧ t.pkg.out.jtag = [false]))) ∧
    (s.pkg.vaux = false → ∀ op, exec (.jtagInstruction op) s = .next s)

/-- A whole write of a register with a command of its own is that command. A whole write of CH_CL_ORDER takes the
value, and a write of one of its alias words changes that one bit. An access outside both regions is an Unsupported
Request; a partial write that reaches its function is refused with REG_PARTIAL. A read that reaches its function
answers with the register's value, clears the bits that a read clears and leaves every other register of the function;
a read of HUB_MOULD_SERIAL_LO latches the upper half of the serial. (R447, R448, R449, R451, R452, R453,
16_registers_mould.md) -/
def Obligations.RegisterWindow : Prop :=
  ∀ (s : State) (ch : Fin 8) (pf : Fin 9) (off : Nat) (b : Fin 32) (be : BitVec 4) (val : BitVec 32),
    (∀ i o, (i, o) ∈ ([(.jobKill ch val, 0x508), (.ftCtlWrite ch val, 0x6000), (.ftHostRelease ch val, 0x600C),
        (.rcCtlWrite ch val, 0x6800), (.chRcSwap ch val, 0x680C), (.memMmuWrite ch val, 0x7000), (.flush ch val, 0x7014),
        (.fabRingMan ch val, 0x8684), (.inrGo ch val, 0x9210), (.gtSplitWrite ch val, 0xA000), (.pcCopyGo ch val, 0xB018),
        (.pwrCmd ch val, 0xC004), (.sqDoorbell ch 0 val, 0x808), (.cqRdWrite ch 0 val, 0x1010)] : List (Instr × Nat)) →
      exec (.regWrite (pfOf ch) o 0xF#4 val) s = exec i s) ∧
    (∀ n : Fin 256, exec (.regWrite (pfOf ch) (0x2000 + 4 * n.val) 0xF#4 val) s = exec (.chSemWrite ch n val) s) ∧
    (∀ i o, (i, o) ∈ ([(.cperRdWrite val, 0x38), (.tickCfgWrite .host val, 0x100), (.hubPwrOff val, 0x400),
        (.secPolicyWrite .host val, 0x480)] : List (Instr × Nat)) → exec (.regWrite 0 o 0xF#4 val) s = exec i s) ∧
    (s.reaches (pfOf ch) →
      goesTo (exec (.regWrite (pfOf ch) 0x9200 0xF#4 val) s) (fun t => (s.answer .ok 0).onlyChan t ch ∧
        Chan.differAt [0x9200] s.chan[ch] t.chan[ch] ∧ (t.chan[ch]).rd 0x9200 = val) ∧
      goesTo (exec (.aliasWrite (pfOf ch) 0x9200 b 0xF#4 val) s) (fun t => (s.answer .ok 0).onlyChan t ch ∧
        Chan.differAt [0x9200] s.chan[ch] t.chan[ch] ∧ ∀ j, j < 32 → ((t.chan[ch]).rd 0x9200).getLsbD j =
          if j = b.val then val.getLsbD 0 else ((s.chan[ch]).rd 0x9200).getLsbD j)) ∧
    (s.reaches pf → off < 0x80000 → be ≠ 0xF#4 → ∀ i, i = .regWrite pf off be val ∨ i = .aliasWrite pf off b be val →
      goesTo (exec i s) (fun t => State.butEvents (s.answer .ok 0) t ∧
        s.postedBy t (match pfChan pf with | none => 0x800B | some c => c.val * 4096 + 0x71))) ∧
    (0x80000 ≤ off → exec (.aliasWrite pf off b be val) s = .next (s.answer .unsupported 0)) ∧
    (0x80000 ≤ off → off < 0x4000000 ∨ 0x8000000 ≤ off → exec (.regWrite pf off be val) s = .next (s.answer .unsupported 0) ∧
      exec (.readClear pf off) s = .next (s.answer .unsupported 0)) ∧
    (s.present pf = true → (∀ c, pfChan pf = some c → s.live c = true ∧ (s.chan[c]).inReset = false) → off < 0x80000 → off % 4 = 0 →
      goesTo (exec (.readClear pf off) s) (fun t => t.pkg.out.cpl = .ok ∧ t.pkg.out.data = s.view pf off s.free ∧
        t.fnRd pf off = s.fnRd pf off &&& ~~~(clearMask (pf == 0) off) ∧ (∀ o, o ≠ off → t.fnRd pf o = s.fnRd pf o) ∧
        (∀ c : Fin 8, (t.chan[c]).ctx = (s.chan[c]).ctx ∧ (t.chan[c]).mem = (s.chan[c]).mem) ∧ t.free = s.free + 1)) ∧
    (s.present 0 = true → goesTo (exec .serialRead s) (fun t => t.chan = s.chan ∧ t.pkg.out.cpl = .ok ∧
      t.pkg.out.data = BitVec.ofNat 32 s.serial.toNat ∧ t.pkg.tick.serialHi = BitVec.ofNat 32 (s.serial.toNat / 2 ^ 32)))

/-- An event posted while its function's ring is enabled with room and nothing is held takes the next number of its
source and the slot WR, with the record of Table 16.2, and no other byte of host memory changes; while the ring is not
enabled it is held, and beyond 256 held it is dropped and counted. Vector 0 fires only with IRQ, an unread record and
no firing before. A check of the voter without a disagreement changes only its clock; one copy of a voted field that
disagrees is counted, named and reported, and one that disagrees again within 1 ms is marked stuck. (R454, R455, R456,
R457, 16_registers_mould.md) -/
def Obligations.EventRingsAndVoter : Prop :=
  ∀ (s : State) (src : Nat) (code : Ev) (arg : List Nat) (pf : Fin 9) (u : Upset),
    let f := srcPf src
    let held (t : State) := (t.pkg.evt[f]).held
    let r : EvRec := ⟨src, code, s.seqOf src, s.pkg.tick.num.toNat, s.free, arg⟩
    let wr := s.fnFld f R.EVT_PTR_WR
    let slot := s.fnFld f R.EVT_LO_BASE_LO * 4096 + s.fnFld f R.EVT_HI_BASE_HI * 2 ^ 32 + 32 * (wr % evtSlots (s.fnFld f R.EVT_CFG_SIZE))
    let t := s.post src code arg
    (s.butEvents t ∧ s.postedBy t src) ∧
    (held s = [] → s.fnFld f R.EVT_CFG_EN = 1 → s.evtUnread f < evtSlots (s.fnFld f R.EVT_CFG_SIZE) → arg.length ≤ 3 →
      held t = [] ∧ t.fnFld f R.EVT_PTR_WR = (wr + 1) % 65536 ∧ t.pkg.host.read slot 32 = r.bytes ∧
      (∀ a, a < slot ∨ slot + 32 ≤ a → t.pkg.host.byte a = s.pkg.host.byte a) ∧
      t.fnFld f R.EVT_CFG_DROPPED = s.fnFld f R.EVT_CFG_DROPPED) ∧
    (s.fnFld f R.EVT_CFG_EN = 0 → t.pkg.host = s.pkg.host ∧
      ((held s).length < 256 → held t = held s ++ [r] ∧ t.fnFld f R.EVT_CFG_DROPPED = s.fnFld f R.EVT_CFG_DROPPED) ∧
      ((held s).length = 256 → held t = held s ∧ t.fnFld f R.EVT_CFG_DROPPED = min 127 (s.fnFld f R.EVT_CFG_DROPPED + 1))) ∧
    (let quiet := ∃ c, pfChan pf = some c ∧ (s.chan[c]).inReset = true
     let fires := s.present pf = true ∧ ¬ quiet ∧ s.fnFld pf R.EVT_CFG_IRQ = 1 ∧ s.evtUnread pf ≠ 0 ∧ (s.pkg.evt[pf]).fired = false
     (fires → goesTo (exec (.eventIrq pf) s) (fun t => s.onlyPkg t ∧ (t.pkg.evt[pf]).fired = true ∧
       (t.pkg.evt[pf]).irqs = (s.pkg.evt[pf]).irqs + 1 ∧ t.pkg.reg = s.pkg.reg ∧ ∀ q, q ≠ pf → t.pkg.evt[q] = s.pkg.evt[q])) ∧
     (¬ fires → exec (.eventIrq pf) s = .next s)) ∧
    (let on := match pfChan pf with
      | none => s.hubOn
      | some c => s.up c
     let row : VoteRow := ⟨pf.val, u.off, u.bit.val, u.copy.val⟩
     (on = false → ∀ l, exec (.voteCheck pf l) s = .next s) ∧
     (on = true → exec (.voteCheck pf []) s = .next (s.modVote (·.tick pf)) ∧
      (votedAt pf u.off = true → (∀ x ∈ s.pkg.voter.stuck, x.field row = false) →
        goesTo (exec (.voteCheck pf [u]) s) (fun t => t.fnFld pf R.VOTE_ERRS = min 65535 (s.fnFld pf R.VOTE_ERRS + 1) ∧
          t.fnFld pf R.VOTE_LAST_OFFSET = u.off ∧ t.fnFld pf R.VOTE_LAST_BIT = u.bit.val ∧ t.fnFld pf R.VOTE_LAST_COPY = u.copy.val ∧
          ((∀ x ∈ s.pkg.voter.recent, x.1.same row = false) → s.postedBy t (srcVoter pf) ∧ t.pkg.voter.stuck = s.pkg.voter.stuck ∧
            (row, 99) ∈ t.pkg.voter.recent) ∧
          ((∃ x ∈ s.pkg.voter.recent, x.1.same row = true) → t.pkg.voter.stuck = s.pkg.voter.stuck ++ [row] ∧
            t.fnFld pf R.VOTE_STUCK = (s.fnFld pf R.VOTE_STUCK + 1) % 256)))))

/-- From the host through its register, or from a gaffer while the hub runs: LOAD with the lease gate open and the
loader not busy takes the image's bytes from host memory; a closed gate discards LOAD, COMMIT and ABANDON with ERR
0xB, a busy loader answers 0xA. MOULD_STAGED stages what verifies and names the error else. COMMIT of a staged image
drains; DRAIN_LIMIT marks the jobs killed once; MOULD_COMMIT, when the drain is complete and the tick reached, holds
under SPLIT_LEASE and else brings the image into force. ABANDON drops it. STORE refuses a sixteenth delta; STORE_DONE
makes the other slot active for a FULL image. (R24, R26, R28, R460, R462, R465, R466, R467, 16_registers_mould.md) -/
def Obligations.MouldImages : Prop :=
  ∀ (s : State) (w : Writer),
    let b := if w = .host then s.answer .ok 0 else s
    let arrives := if w = .host then s.reaches 0 else s.hubOn = true
    let free := s.mouldState = mouldIdle ∨ s.mouldState = mouldStaged
    let err (t : State) : Nat := t.pkg.fld R.HUB_MOULD_STAT_ERR
    let outcome (i : Instr) (cmd : Nat) (P : State → Prop) : Prop := goesTo (exec i s) (fun t => t.chan = s.chan ∧
      t.pkg.fld R.HUB_MOULD_CMD_CMD = cmd ∧ t.pkg.out = b.pkg.out ∧ P t)
    let same (t : State) : Prop := t.mouldState = s.mouldState ∧ t.pkg.mould = s.pkg.mould
    let addr := s.pkg.fld R.HUB_MOULD_ADDR_LO_ADDR_LO * 64 + s.pkg.fld R.HUB_MOULD_ADDR_HI_ADDR_HI * 2 ^ 32
    (arrives →
      (∀ i cmd, (i, cmd) ∈ ([(.load w, 1), (.commit w, 2), (.abandon w, 3)] : List (Instr × Nat)) → s.gateOpen w = false →
        outcome i cmd fun t => err t = 0xB ∧ same t ∧
          t.pkg.fld R.GAF_SPLIT_FENCED_WRITES = min 255 (s.pkg.fld R.GAF_SPLIT_FENCED_WRITES + 1)) ∧
      (¬ free → (s.gateOpen w = true → outcome (.load w) 1 (fun t => err t = 0xA ∧ same t) ∧
          outcome (.commit w) 2 (fun t => err t = 0xA ∧ same t)) ∧ outcome (.store w) 4 (fun t => err t = 0xA ∧ same t)) ∧
      (free → s.gateOpen w = true → outcome (.load w) 1 fun t => err t = 0 ∧ t.mouldState = mouldLoading ∧
        t.pkg.mould.staged = none ∧ t.pkg.mould.force = s.pkg.mould.force ∧
        t.pkg.mould.loadBytes = s.pkg.host.read addr (s.pkg.fld R.HUB_MOULD_LEN_LEN)) ∧
      (s.mouldState = mouldStaged → s.gateOpen w = true → s.pkg.fld R.HUB_MOULD_CFG_DRAIN_LIM ≠ 0 →
        goesTo (exec (.commit w) s) (fun t => t.mouldState = mouldDraining ∧ err t = 0 ∧ t.pkg.mould.boundaries = 0 ∧
          t.pkg.mould.staged = s.pkg.mould.staged ∧ t.pkg.mould.force = s.pkg.mould.force ∧
          (∀ c ∈ s.drains, (t.chan[c]).draining = true) ∧ ∀ (c : Fin 8) (jc : Fin 16), t.ctx c jc = s.ctx c jc)) ∧
      (s.mouldState = mouldIdle → s.gateOpen w = true → outcome (.commit w) 2 same ∧ outcome (.abandon w) 3 same) ∧
      (s.mouldState = mouldStaged ∨ s.mouldState = mouldDraining ∨ s.mouldState = mouldHeld → s.gateOpen w = true →
        goesTo (exec (.abandon w) s) (fun t => t.mouldState = mouldIdle ∧ err t = 0 ∧ t.pkg.mould.staged = none ∧
          t.pkg.mould.force = s.pkg.mould.force ∧ ∀ c : Fin 8, (t.chan[c]).draining = false ∧ (t.chan[c]).ctx = (s.chan[c]).ctx)) ∧
      (free → ∀ i, s.pkg.mould.force = some i →
        (i.delta = true → 15 ≤ s.pkg.fld R.HUB_MOULD_STAT_DELTAS → outcome (.store w) 4 fun t => err t = 0xC ∧ same t) ∧
        (i.delta = false ∨ s.pkg.fld R.HUB_MOULD_STAT_DELTAS < 15 →
          outcome (.store w) 4 fun t => err t = 0 ∧ t.mouldState = mouldStoring ∧ t.pkg.flash = s.pkg.flash))) ∧
    (s.mouldState ≠ mouldLoading → exec .mouldStaged s = .next s) ∧
    (s.mouldState = mouldLoading →
      (∀ i, verify s.pkg.otp s.fuses s.locked s.pkg.mould.force s.pkg.mould.loadBytes = .ok i →
        goesTo (exec .mouldStaged s) (fun t => s.onlyPkg t ∧ t.mouldState = mouldStaged ∧ t.pkg.mould.staged = some i ∧
          t.pkg.mould.force = s.pkg.mould.force)) ∧
      (∀ e, verify s.pkg.otp s.fuses s.locked s.pkg.mould.force s.pkg.mould.loadBytes = .error e →
        goesTo (exec .mouldStaged s) (fun t => s.onlyPkg t ∧ t.mouldState = mouldIdle ∧ err t = e.err % 16 ∧
          t.pkg.mould.force = s.pkg.mould.force))) ∧
    (s.mouldState = mouldDraining → s.pkg.mould.killed = false → s.pkg.fld R.HUB_MOULD_CFG_DRAIN_LIM ≤ s.pkg.mould.boundaries →
      goesTo (exec .drainLimit s) (fun t => t.pkg.mould.killed = true ∧ t.pkg.mould.staged = s.pkg.mould.staged)) ∧
    (s.mouldState ≠ mouldDraining ∨ s.pkg.mould.killed = true ∨ s.pkg.mould.boundaries < s.pkg.fld R.HUB_MOULD_CFG_DRAIN_LIM →
      exec .drainLimit s = .next s) ∧
    (let u := s.drainFlush
     (s.mouldState ≠ mouldDraining → s.mouldState ≠ mouldHeld → exec .mouldCommit s = .next s) ∧
     (s.mouldState = mouldDraining ∨ s.mouldState = mouldHeld → ∀ new, s.pkg.mould.staged = some new →
      (u.drained = false ∨ u.atReached = false → exec .mouldCommit s = .next u) ∧
      (u.drained = true → u.atReached = true → s.split = true → exec .mouldCommit s = .next (u.toMould mouldHeld)) ∧
      (u.drained = true → u.atReached = true → s.split = false → goesTo (exec .mouldCommit s) (fun t =>
        t.pkg.mould.force = some (s.withCal new) ∧ t.pkg.mould.staged = none ∧ t.pkg.mould.forceBytes = s.pkg.mould.loadBytes ∧
        t.seqOf 0x8006 = (s.seqOf 0x8006 + 1) % 2 ^ 32 ∧ ∀ c : Fin 8, (t.chan[c]).draining = false)))) ∧
    (s.mouldState = mouldStoring → ∀ i, s.pkg.mould.force = some i → i.delta = false →
      goesTo (exec .storeDone s) (fun t => s.onlyPkg t ∧ t.mouldState = mouldIdle ∧ t.pkg.flash.active = 1 - s.pkg.flash.active ∧
        t.pkg.fld R.HUB_MOULD_STAT_DELTAS = 0 ∧ t.pkg.flash.bytes.read (slotBase (1 - s.pkg.flash.active)) s.pkg.mould.forceBytes.length =
          s.pkg.mould.forceBytes)) ∧
    (s.mouldState ≠ mouldStoring → exec .storeDone s = .next s)

/-- A timer that runs out in its state on an up channel begins the entry of the next state under AUTO, only advises
under ASSIST, and does nothing in another state, during a change or while its gaffer is in reset. An entry that ends
enters the next deeper state and goes on towards its target, or exits when a wake came, on to a target that is less deep;
entering DEEP takes the links down. An exit that ends reaches RUN and counts, and a quiet or PARKED channel goes on to the
state that is to follow. A wake begins the exit and is named; during an entry it is kept. A
command to a deeper state begins it on a quiet channel and else is refused. The measured current starts the grants
anew; the credit moves by the share less the draw up to its limit. (R471, R474, R475, R476, R477, R478, R479, R480,
R482, R483, 17_power_security_startup.md) -/
def Obligations.PowerStates : Prop :=
  ∀ (s : State) (ch : Fin 8) (val : BitVec 32),
    let p := s.pwr ch
    let pw (t : State) : Power := t.pwr ch
    let gaf := if ch.val < 4 then 0x8000 else 0x8001
    let rows : List (Instr × PwrSt × PwrSt × Bool) := [(.idleT ch, .run, .idle, s.quiet ch), (.sleepT ch, .idle, .sleep, true),
      (.deepT ch, .sleep, .deep, s.f ch R.CH_PWR_CFG_DEEP_EN == 1 && !s.parked ch)]
    (∀ i now next ok, (i, now, next, ok) ∈ rows →
      (s.up ch = true → p.st = now → p.move = .none → ok = true →
        (s.pwrPolicy ch = 2 → s.gafferDown ch = false → goesTo (exec i s) (fun t => s.onlyChan t ch ∧
          pw t = { p with move := .entry next, held := decide (2 ≤ s.moving ch) })) ∧
        (s.pwrPolicy ch = 1 → goesTo (exec i s) (fun t => s.butEvents t ∧ s.postedBy t gaf)) ∧
        (s.pwrPolicy ch = 0 ∨ (s.pwrPolicy ch = 2 ∧ s.gafferDown ch = true) → exec i s = .next s)) ∧
      (s.up ch = false ∨ p.st ≠ now ∨ p.move ≠ .none ∨ ok = false → exec i s = .next s)) ∧
    (∀ tgt, p.move = .entry tgt → p.held = false → s.up ch = true → goesTo (exec (.powerEntryDone ch) s) (fun t =>
      (pw t).st = p.st.deeper ∧ (pw t).wake = none ∧
      (pw t).move = (match p.wake with
        | some _ => .exit (if tgt.code < p.st.deeper.code then tgt else .run)
        | none => if tgt.code ≤ p.st.deeper.code then .none else .entry tgt) ∧
      (p.wake = none → p.st.deeper = tgt → t.f ch R.CH_PWR_STAT_STATE = tgt.code ∧ t.f ch R.CH_PWR_STAT_TRANS = 0) ∧
      (∀ c, p.wake = some c → t.f ch R.CH_PWR_STAT_LAST_WAKE = c % 16) ∧
      (p.st.deeper = .deep → ∀ l : Fin 16, t.linkUp ch l = false) ∧ ∀ jc : Fin 16, t.ctx ch jc = s.ctx ch jc)) ∧
    (∀ aft, p.move = .exit aft → p.held = false → s.up ch = true → goesTo (exec (.powerExitDone ch) s) (fun t =>
      (pw t).st = .run ∧ t.f ch R.CH_PWR_STAT_REUP_PENDING = 0 ∧
      t.f ch R.CH_PWR_STAT_WAKES = min 255 (s.f ch R.CH_PWR_STAT_WAKES + 1) ∧
      (pw t).move = (let a := if s.parked ch then .sleep else aft; if a = .run ∨ (s.quiet ch = false ∧ s.parked ch = false) then .none
        else .entry a) ∧
      ∀ jc : Fin 16, t.ctx ch jc = s.ctx ch jc)) ∧
    (p.held = true ∨ s.up ch = false ∨ p.move = .none → exec (.powerEntryDone ch) s = .next s ∧ exec (.powerExitDone ch) s = .next s) ∧
    (∀ code : Fin 8, code.val ≠ 0 → s.up ch = true → s.fenced = false → s.parked ch = false ∨ code.val = 7 →
      (p.move = .none → p.st ≠ .run → s.gafferDown ch = false → goesTo (exec (.pwrWake ch code) s) (fun t =>
        pw t = { p with move := .exit .run, held := decide (2 ≤ s.moving ch) } ∧ t.f ch R.CH_PWR_STAT_LAST_WAKE = code.val ∧
        s.postedBy t gaf)) ∧
      (p.move = .none → p.st = .run → exec (.pwrWake ch code) s = .next s) ∧
      (∀ tgt, p.move = .entry tgt → p.wake = none → goesTo (exec (.pwrWake ch code) s) (fun t =>
        pw t = { p with wake := some code.val } ∧ t.f ch R.CH_PWR_STAT_REUP_PENDING = 1))) ∧
    (s.reaches (pfOf ch) →
      let t' := pwrOf (bits val.toNat 1 0)
      (val.getLsbD 31 = false → goesTo (exec (.pwrCmd ch val) s) (fun t => (s.answer .ok 0).onlyChan t ch ∧ pw t = p ∧
        Chan.differAt [0xC004] s.chan[ch] t.chan[ch] ∧ t.f ch R.CH_PWR_CMD_TARGET = bits val.toNat 1 0)) ∧
      (val.getLsbD 31 = true → p.move = .none → p.st.code < t'.code →
        let ok := s.quiet ch = true ∧ (t' = .deep → s.f ch R.CH_PWR_CFG_DEEP_EN = 1) ∧ s.parked ch = false
        (ok → goesTo (exec (.pwrCmd ch val) s) (fun t => (s.answer .ok 0).onlyChan t ch ∧ (pw t).move = .entry t' ∧ (pw t).st = p.st)) ∧
        (¬ ok → goesTo (exec (.pwrCmd ch val) s) (fun t => pw t = p ∧ s.postedBy t (ch.val * 4096 + 0x71)))) ∧
      (val.getLsbD 31 = true → p.move = .none → p.st.code = t'.code → goesTo (exec (.pwrCmd ch val) s) (fun t => pw t = p))) ∧
    (∀ ma mv, goesTo (exec (.currentSum ma mv) s) (fun t => t.pkg = { s.pkg with current := ma, granted := 0, vmainMv := mv } ∧
      ∀ c : Fin 8, Chan.differAt [0xC00C] s.chan[c] t.chan[c] ∧ (s.passHeld c = false → t.chan[c] = s.chan[c]))) ∧
    (∀ draw, goesTo (exec (.capCreditUpdate ch draw) s) (fun t => s.onlyChan t ch ∧
      t.f ch R.CH_PWR_CAP_CAPHOLD = (if s.passHeld ch && s.capHeld ch then min 65535 (s.f ch R.CH_PWR_CAP_CAPHOLD + 1)
        else s.f ch R.CH_PWR_CAP_CAPHOLD) ∧
      (s.capShare ch = none → pw t = { p with capped := false }) ∧
      (∀ share : Nat, s.capShare ch = some share →
        pw t = { p with capped := true, credit := min (p.credit + ((share : Int) - ((840 * draw : Nat) : Int))) ((100 * share : Nat) : Int) })))

/-- An alarm while the hub runs sets its bit, counts, is posted and recorded; under FENCE every link of an up channel
is down and the fence in force; under ERASE of a running package the memory key is gone and every link down until
SEC_ERASED, which leaves the stores of live channels zero and the package locked. Without a running hub only TAMPER is
taken, while VSTBY is present. An acknowledgement through the gate clears the bits written unless their condition
persists, and lifts the fence with the last. POLICY changes only from LOG to FENCE; through a closed gate a write is
counted and discarded. (R486, R487, R488, R489, R490, R491, R516, 17_power_security_startup.md) -/
def Obligations.SecurityAlarms : Prop :=
  ∀ (s : State) (sensor : Fin 5) (ch : Fin 8) (slot : Nat) (w : Writer) (val : BitVec 32) (persist : BitVec 5),
    let alarm (t : State) : Nat := bits (t.pkg.rd 0x484).toNat 4 0
    let policy (t : State) : Nat := t.pkg.fld R.HUB_SEC_POLICY_POLICY
    (s.hubOn = true → goesTo (exec (.secAlarm sensor ch slot) s) (fun t => bit (alarm t) sensor.val = true ∧
      t.pkg.fld R.HUB_SEC_ALARM_ALARMS = min 255 (s.pkg.fld R.HUB_SEC_ALARM_ALARMS + 1) ∧
      t.seqOf 0x8004 = (s.seqOf 0x8004 + 1) % 2 ^ 32 ∧ (∃ h ∈ t.pkg.hist.recs, h.arg = sensor.val ∧ h.seq = s.pkg.hist.next) ∧
      (s.alarmPolicy = 0 → t.fenced = s.fenced ∧ ∀ c : Fin 8, (t.chan[c]).ctx = (s.chan[c]).ctx ∧ (t.chan[c]).fab = (s.chan[c]).fab) ∧
      (s.alarmPolicy = 1 → t.fenced = true ∧ (s.fenced = false → ∀ c, s.up c = true → ∀ l : Fin 16, t.linkUp c l = false)) ∧
      (s.alarmPolicy = 2 → s.pkg.cond ≠ .starting → t.pkg.fld R.HUB_SEC_ALARM_ERASING = 1 ∧ t.pkg.sec.memKey = false ∧
        ∀ (c : Fin 8) (l : Fin 16), t.linkUp c l = false))) ∧
    (s.hubOn = false → s.pkg.vstby = true → sensor.val = 0 → goesTo (exec (.secAlarm sensor ch slot) s) (fun t =>
      (s.pkg.sec.stored = 2 → t.pkg.sec.memKey = false ∧ t.pkg.sec.locked = true) ∧
      (s.pkg.sec.stored ≠ 2 → s.onlyPkg t ∧ t.pkg = { s.pkg with sec := { s.pkg.sec with recorded := true } }))) ∧
    (s.hubOn = false → s.pkg.vstby = false ∨ sensor.val ≠ 0 → exec (.secAlarm sensor ch slot) s = .next s) ∧
    (s.pkg.fld R.HUB_SEC_ALARM_ERASING = 0 → exec .secErased s = .next s) ∧
    (s.pkg.fld R.HUB_SEC_ALARM_ERASING = 1 → goesTo (exec .secErased s) (fun t => t.pkg.fld R.HUB_SEC_ALARM_ERASING = 0 ∧
      t.pkg.fld R.HUB_SEC_POLICY_LOCKED = 1 ∧ t.locked = true ∧ (s.hubOn = true → t.pkg.pins.faultN = false) ∧ s.postedBy t 0x8004 ∧
      ∀ c : Fin 8, s.live c = true → (t.chan[c]).mem.t1 = [] ∧ (t.chan[c]).mem.ls = [] ∧ (t.chan[c]).mem.arws = [] ∧
        ∀ l ∈ (t.chan[c]).mem.tc.lines, l.bytes = [])) ∧
    ((if w = .host then s.present 0 = true else True) → s.hubOn = true →
      (s.gateOpen w = false → goesTo (exec (.secAlarmAck w val persist) s) (fun t => t.chan = s.chan ∧ alarm t = alarm s ∧
        t.pkg.fld R.GAF_SPLIT_FENCED_WRITES = min 255 (s.pkg.fld R.GAF_SPLIT_FENCED_WRITES + 1))) ∧
      (s.gateOpen w = true → goesTo (exec (.secAlarmAck w val persist) s) (fun t =>
        (∀ j, j < 5 → bit (alarm t) j = (persist.getLsbD j || (bit (alarm s) j && !val.getLsbD j))) ∧
        (s.fenced = true → alarm t = 0 → t.fenced = false) ∧ (alarm t ≠ 0 → t.fenced = s.fenced ∧ t.chan = s.chan)))) ∧
    ((if w = .host then s.reaches 0 else s.hubOn = true) →
      (s.gateOpen w = false → goesTo (exec (.secPolicyWrite w val) s) (fun t => t.chan = s.chan ∧ policy t = policy s ∧
        t.pkg.fld R.GAF_SPLIT_FENCED_WRITES = min 255 (s.pkg.fld R.GAF_SPLIT_FENCED_WRITES + 1))) ∧
      (s.gateOpen w = true →
        (policy s = 0 → bits val.toNat 1 0 = 1 → goesTo (exec (.secPolicyWrite w val) s) (fun t => t.chan = s.chan ∧ policy t = 1 ∧
          Pkg.differAt [0x480] { s.pkg with out := t.pkg.out } t.pkg)) ∧
        (bits val.toNat 1 0 = policy s → goesTo (exec (.secPolicyWrite w val) s) (fun t => s.onlyPkg t ∧ t.pkg.reg = s.pkg.reg)) ∧
        (bits val.toNat 1 0 ≠ policy s → ¬ (policy s = 0 ∧ bits val.toNat 1 0 = 1) →
          goesTo (exec (.secPolicyWrite w val) s) (fun t => policy t = policy s ∧ s.postedBy t 0x800B))))

/-- For an entry of one pass with EPI and predicates of zero whose D lies in the local store, ENTRY_COMPLETE frees the
engine and leaves in D: for MX.GEMM and MX.GEMV of one output the sum of R131 over the K stream; for EP.MAP of one
element x, x + y or x times y; for EP.REDUCE of one row the reduced value of Table 6.7; for LS.COPY of a row of bytes
X, for LS.FILL the low byte of PARAM. Every other byte of the local store keeps its value. (R131, R153, R182, R183,
R334, 06_epilogue_gates.md) -/
def Obligations.EngineResults : Prop :=
  ∀ (s : State) (ch : Fin 8) (eng : Fin 11) (stall : Nat) (e : Entry), s.canonical = true → s.clocked ch = true →
    (s.eq ch eng).run = some e → e.eng = eng.val → wEng e.word = eng.val → wOp e.word = e.op → e.jc < 16 → e.zero = none → e.going = true →
    e.pass = 0 → e.crec = false → (s.ctx ch (jcOf e.jc)).st = .run → wEpi e.word = 0 → wRpred e.word = 0 → wCpred e.word = 0 →
    (e.t 3).space = 1 →
    let d := e.t 3
    let ls (t : State) (a : Nat) : BitVec 8 := (t.chan[ch]).mem.ls.byte a
    let ends (P : State → Prop) : Prop := goesTo (exec (.entryComplete ch eng stall [] []) s) (fun t => (t.eq ch eng).run = none ∧ P t)
    let output (v : Machine.Num) : Prop := ends fun t => t.code ch d (0, 0, 0, 0) = .ok ((writeElem d.fmt rne v).1 % 2 ^ fmtBits d.fmt) ∧
      ∀ a, a < d.base ∨ d.base + fmtBits d.fmt / 8 ≤ a → ls t a = ls s a
    (eng = 0 → (e.op = 1 ∨ e.op = 2) → e.sz 0 = 1 → e.sz 1 = 1 → wTa e.word = false → wTb e.word = false → wAcc e.word = false →
      sideFmt d.fmt = true → ∀ as bs, s.stream ch e.td (e.t 0) (fun x => some (x, 0, 0, 0)) (e.sz 2) = .ok as →
      s.stream ch e.td (e.t 1) (fun x => some (0, x, 0, 0)) (e.sz 2) = .ok bs → output (accumulate (.zero false) as bs).1) ∧
    (eng = 1 → e.op = 1 → e.sz 0 = 1 → e.sz 1 = 1 → sideFmt d.fmt = true →
      ∀ x, s.lane ch e.td (e.t 0) (0, 0, 0, 0) = .ok x → (wPar e.word 3 0 = 0 → output x) ∧
      ∀ y, s.lane ch e.td (e.t 1) (0, 0, 0, 0) = .ok y → (wPar e.word 3 0 = 1 → output (rne32 (x.add y))) ∧
      (wPar e.word 3 0 = 2 → output (rne32 (x.mul y)))) ∧
    (eng = 1 → e.op = 2 → e.sz 0 = 1 → sideFmt d.fmt = true → ∀ xs, s.rowVals ch e (e.sz 1) 0 = .ok xs →
      let vs := xs.map (·.2)
      let nan := vs.any (·.isNan)
      (wPar e.word 3 0 = 0 → output (vs.foldl (fun a v => rne32 (a.add v)) (.zero false))) ∧
      (wPar e.word 3 0 = 1 → output (if nan then .nan else vs.foldl Num.max (.inf true))) ∧
      (wPar e.word 3 0 = 2 → output (if nan then .nan else vs.foldl Num.min (.inf false))) ∧
      (wPar e.word 3 0 = 3 → output (vs.foldl (fun a v => rne32 (a.add (rne32 (v.mul v)))) (.zero false))) ∧
      (wPar e.word 3 0 = 4 → output (if (vs.map Num.abs).any (·.isNan) then .nan else (vs.map Num.abs).foldl Num.max (.zero false)))) ∧
    (6 ≤ eng.val → eng.val ≤ 9 → e.sz 1 = 1 → e.sz 2 = 1 → e.sz 3 = 1 → fmtBits d.fmt = 8 → isBlock d.fmt = false →
      let row (f : Nat → BitVec 8) : Prop := ends fun t => ∀ a, ls t a = if d.base ≤ a ∧ a < d.base + e.sz 0 then f (a - d.base) else ls s a
      (e.op = 2 → row fun _ => BitVec.ofNat 8 (wPar e.word 47 0)) ∧
      (e.op = 1 → wPar e.word 1 0 = 0 → (e.t 0).space = 1 → (e.t 0).fmt = d.fmt →
        ((e.t 0).base + e.sz 0 ≤ d.base ∨ d.base + e.sz 0 ≤ (e.t 0).base) → row fun k => ls s ((e.t 0).base + k)))

/-- After reset every memory stands in canonical form, no semaphore is above 65,535, the fault history holds no
record, nothing waits in the queue of commands, every context of every channel is FREE and every engine queue is
empty. (01_overview.md, R12, R60, R434) -/
def Obligations.ResetIsGood : Prop :=
  State.reset.canonical = true ∧ State.reset.semsBounded = true ∧ State.reset.pkg.hist.recs = [] ∧ State.reset.pending = [] ∧
    (∀ (ch : Fin 8) (jc : Fin 16), (State.reset.ctx ch jc).st = .free) ∧ ∀ (ch : Fin 8) (e : Fin 11), State.reset.eq ch e = ⟨[], none, []⟩

/-- For every state whose memories (T1, T2, the local store and the array store of each channel, T3, host memory and
flash) stand in canonical form and every step that goes on, the memories after it do, so that equal memories are equal
data. (11_memory_tiers.md, R11) -/
def Obligations.StepKeepsMemoryCanonical : Prop :=
  ∀ s t : State, s.canonical = true → step s = .next t → t.canonical = true

/-- For every state and every step that goes on, each PERMANENT or RETIRED record of the fault history before it
stands in the history after it, unchanged. (R434, 15_resilience.md) -/
def Obligations.StepKeepsFaultHistory : Prop :=
  ∀ s t : State, step s = .next t → s.keepsHistory t

/-- For every state in which no semaphore's count or initial value is above 65,535 and every step that goes on, none
is above it after the step: signals saturate, waits subtract, claims and host writes take 16 bits, and the end of a
job returns initial values. (R60, R63, R64) -/
def Obligations.StepKeepsSemaphoresBounded : Prop :=
  ∀ s t : State, s.semsBounded = true → step s = .next t → t.semsBounded = true

/-- For every row that is a scalar instruction of channel ch, every state and every other channel: when the
instruction goes on, with whatever it completes, stops or ends, the contexts, semaphores, engine queues, memories,
stores and registers of the other channel are as they were. (R40, R43, 02_sequencer_xol.md) -/
def Obligations.ScalarStaysOnItsChannel : Prop :=
  ∀ (ch c : Fin 8) (jc : Fin 16) (i : Instr) (s t : State), i.scalarOf = some (ch, jc) → c ≠ ch → exec i s = .next t →
    t.chan[c] = s.chan[c]

/-- Every command, with every operand and in every state, answers a next state: no command stops, but the instruction of the
debug port through JTAG while the image in force enables the port and VAUX is present, whose tests the spec does not give
and which is refused. (R504, 18_pins_package.md) -/
def Obligations.EveryCommandGoesOn : Prop :=
  ∀ (i : Instr) (s : State),
    let port := i = .jtagInstruction .debug ∧ s.pkg.vaux = true ∧ s.debugOn = true
    (¬ port → ∃ t, exec i s = .next t) ∧ (port → exec i s = .refused .debugPort)
end

