-- ==== Sys2Proof/Laws/Memory.lean ====
section
/-! SUPPORT. Laws of the sparse tables: reading after writing, and the canonical form. -/

namespace Sys2Proof.Machine

open Sys2Proof

variable {α : Type}

theorem Cells.get_del_same (d : Nat → α) (m : Cells α) (a : Nat) : Cells.get d (Cells.del m a) a = d a := by
  induction m with
  | nil => rfl
  | cons x m ih =>
    obtain ⟨b, w⟩ := x
    by_cases h : a = b <;> simp [Cells.del, Cells.get, h] <;> simpa [h] using ih

theorem Cells.get_del_other (d : Nat → α) (m : Cells α) {a c : Nat} (h : c ≠ a) :
    Cells.get d (Cells.del m a) c = Cells.get d m c := by
  induction m with
  | nil => rfl
  | cons x m ih =>
    obtain ⟨b, w⟩ := x
    by_cases hb : a = b
    · subst hb; simp [Cells.del, Cells.get, h, ih]
    · simp [Cells.del, Cells.get, hb, ih]

theorem Cells.get_ins_same (d : Nat → α) (m : Cells α) (a : Nat) (v : α) (h : ∀ x ∈ m, x.1 ≠ a) :
    Cells.get d (Cells.ins a v m) a = v := by
  induction m with
  | nil => simp [Cells.ins, Cells.get]
  | cons x m ih =>
    obtain ⟨b, w⟩ := x
    have hb : a ≠ b := fun e => h (b, w) (by simp) e.symm
    by_cases hl : a < b
    · simp [Cells.ins, Cells.get, hl]
    · simp [Cells.ins, Cells.get, hl, hb]; exact ih fun x hx => h x (by simp [hx])

theorem Cells.get_ins_other (d : Nat → α) (m : Cells α) {a c : Nat} (v : α) (h : c ≠ a) :
    Cells.get d (Cells.ins a v m) c = Cells.get d m c := by
  induction m with
  | nil => simp [Cells.ins, Cells.get, h]
  | cons x m ih =>
    obtain ⟨b, w⟩ := x
    by_cases hl : a < b
    · simp [Cells.ins, Cells.get, hl, h]
    · simp [Cells.ins, Cells.get, hl, ih]

theorem Cells.del_no (m : Cells α) (a : Nat) : ∀ x ∈ Cells.del m a, x.1 ≠ a := by
  induction m with
  | nil => simp [Cells.del]
  | cons x m ih =>
    obtain ⟨b, w⟩ := x
    by_cases h : a = b
    · intro y hy; exact ih y (by simpa [Cells.del, h] using hy)
    · intro y hy
      simp only [Cells.del, h, if_false, List.mem_cons] at hy
      rcases hy with rfl | hy
      · exact fun e => h e.symm
      · exact ih y hy

/-- Reading a key after writing it gives the value written. -/
theorem Cells.get_set_same [DecidableEq α] (d : Nat → α) (m : Cells α) (a : Nat) (v : α) :
    Cells.get d (Cells.set d m a v) a = v := by
  unfold Cells.set
  split
  · rw [Cells.get_del_same]; exact Eq.symm ‹_›
  · exact Cells.get_ins_same d _ a v (Cells.del_no m a)

/-- Writing a key leaves every other key alone. -/
theorem Cells.get_set_other [DecidableEq α] (d : Nat → α) (m : Cells α) {a c : Nat} (v : α) (h : c ≠ a) :
    Cells.get d (Cells.set d m a v) c = Cells.get d m c := by
  unfold Cells.set
  split
  · exact Cells.get_del_other d m h
  · rw [Cells.get_ins_other d _ v h, Cells.get_del_other d m h]

theorem Cells.get_set [DecidableEq α] (d : Nat → α) (m : Cells α) (a c : Nat) (v : α) :
    Cells.get d (Cells.set d m a v) c = if c = a then v else Cells.get d m c := by
  split
  · subst_vars; exact Cells.get_set_same d m _ v
  · exact Cells.get_set_other d m v ‹_›

/-! ## The canonical form -/

theorem Cells.wfFrom_weaken [DecidableEq α] (d : Nat → α) {l k : Nat} {m : Cells α} (hk : k ≤ l)
    (h : Cells.wfFrom d (some l) m = true) : Cells.wfFrom d (some k) m = true := by
  cases m with
  | nil => rfl
  | cons x m =>
    obtain ⟨b, w⟩ := x
    simp only [Cells.wfFrom, Bool.and_eq_true, decide_eq_true_eq] at h ⊢
    exact ⟨⟨by omega, h.1.2⟩, h.2⟩

theorem Cells.wfFrom_del [DecidableEq α] (d : Nat → α) (a : Nat) {m : Cells α} {lo : Option Nat}
    (h : Cells.wfFrom d lo m = true) : Cells.wfFrom d lo (Cells.del m a) = true := by
  induction m generalizing lo with
  | nil => cases lo <;> rfl
  | cons x m ih =>
    obtain ⟨b, w⟩ := x
    simp only [Cells.wfFrom, Bool.and_eq_true] at h
    by_cases hb : a = b
    · simp only [Cells.del, hb, if_true]
      rw [← hb]
      have h2 := ih h.2
      cases lo with
      | none =>
        cases hm : Cells.del m a with
        | nil => rfl
        | cons y m' =>
          obtain ⟨c, z⟩ := y
          rw [hm] at h2
          simp only [Cells.wfFrom, Bool.and_eq_true] at h2 ⊢
          exact ⟨⟨trivial, h2.1.2⟩, h2.2⟩
      | some l =>
        have : l ≤ b := by have := h.1.1; simp at this; omega
        exact Cells.wfFrom_weaken d this h2
    · simp only [Cells.del, hb, if_false, Cells.wfFrom, Bool.and_eq_true]
      exact ⟨h.1, ih h.2⟩

theorem Cells.wfFrom_ins [DecidableEq α] (d : Nat → α) {a : Nat} {v : α} (hv : v ≠ d a) {m : Cells α} {lo : Option Nat}
    (hlo : ∀ l, lo = some l → l < a) (hm : ∀ x ∈ m, x.1 ≠ a) (h : Cells.wfFrom d lo m = true) :
    Cells.wfFrom d lo (Cells.ins a v m) = true := by
  induction m generalizing lo with
  | nil => cases lo <;> simp [Cells.ins, Cells.wfFrom, hv]; exact hlo _ rfl
  | cons x m ih =>
    obtain ⟨b, w⟩ := x
    have hb : b ≠ a := hm (b, w) (by simp)
    simp only [Cells.wfFrom, Bool.and_eq_true, decide_eq_true_eq] at h
    by_cases hl : a < b
    · simp only [Cells.ins, hl, if_true, Cells.wfFrom, Bool.and_eq_true, decide_eq_true_eq]
      refine ⟨⟨?_, hv⟩, ⟨trivial, h.1.2⟩, h.2⟩
      cases lo with
      | none => rfl
      | some l => simpa using hlo l rfl
    · simp only [Cells.ins, hl, if_false, Cells.wfFrom, Bool.and_eq_true, decide_eq_true_eq]
      refine ⟨h.1, ih ?_ (fun x hx => hm x (by simp [hx])) h.2⟩
      intro l hl'
      obtain rfl := Option.some.inj hl'
      omega

/-- A write keeps the canonical form. -/
theorem Cells.wf_set [DecidableEq α] (d : Nat → α) {m : Cells α} (a : Nat) (v : α) (h : Cells.wf d m = true) :
    Cells.wf d (Cells.set d m a v) = true := by
  unfold Cells.set
  split
  · exact Cells.wfFrom_del d a h
  · exact Cells.wfFrom_ins d ‹_› (by simp) (Cells.del_no m a) (Cells.wfFrom_del d a h)

theorem Memory.wf_put {m : Mem} (a : Nat) (b : Byte) (h : Memory.wf m = true) : Memory.wf (m.put a b) = true :=
  Cells.wf_set memDefault a b h

theorem Memory.wf_write {m : Mem} (a : Nat) (bs : List Byte) (h : Memory.wf m = true) :
    Memory.wf (m.write a bs) = true := by
  induction bs generalizing m a with
  | nil => exact h
  | cons b bs ih => exact ih (a + 1) (Memory.wf_put a b h)

theorem Cells.wfFrom_filter [DecidableEq α] (d : Nat → α) (p : Nat × α → Bool) {m : Cells α} {lo : Option Nat}
    (h : Cells.wfFrom d lo m = true) : Cells.wfFrom d lo (m.filter p) = true := by
  induction m generalizing lo with
  | nil => cases lo <;> rfl
  | cons x m ih =>
    obtain ⟨b, w⟩ := x
    simp only [Cells.wfFrom, Bool.and_eq_true, decide_eq_true_eq] at h
    by_cases hp : p (b, w) = true
    · simp only [List.filter_cons, hp, if_true, Cells.wfFrom, Bool.and_eq_true, decide_eq_true_eq]
      exact ⟨h.1, ih h.2⟩
    · simp only [List.filter_cons, hp, if_false, Bool.false_eq_true]
      have h2 := ih h.2
      cases lo with
      | none =>
        cases hm : m.filter p with
        | nil => rfl
        | cons y m' =>
          obtain ⟨c, z⟩ := y
          rw [hm] at h2
          simp only [Cells.wfFrom, Bool.and_eq_true] at h2 ⊢
          exact ⟨⟨trivial, h2.1.2⟩, h2.2⟩
      | some l =>
        have : l ≤ b := by have := h.1.1; simp at this; omega
        exact Cells.wfFrom_weaken d this h2

/-- Dropping entries keeps the canonical form. -/
theorem Cells.wf_filter [DecidableEq α] (d : Nat → α) (p : Nat × α → Bool) {m : Cells α} (h : Cells.wf d m = true) :
    Cells.wf d (m.filter p) = true := Cells.wfFrom_filter d p h

/-! ## Bytes -/

@[simp] theorem Mem.byte_put_same (m : Mem) (a : Nat) (b : Byte) : (m.put a b).byte a = b :=
  Cells.get_set_same memDefault m a b

theorem Mem.byte_put_other (m : Mem) {a c : Nat} (b : Byte) (h : c ≠ a) : (m.put a b).byte c = m.byte c :=
  Cells.get_set_other memDefault m b h

/-- A write changes no byte outside the bytes written. -/
theorem Mem.byte_write_other (m : Mem) (a : Nat) (bs : List Byte) {c : Nat} (h : c < a ∨ a + bs.length ≤ c) :
    (m.write a bs).byte c = m.byte c := by
  induction bs generalizing m a with
  | nil => rfl
  | cons b bs ih =>
    simp only [List.length_cons] at h
    rw [Mem.write, ih (m.put a b) (a + 1) (by omega), Mem.byte_put_other m b (by omega)]

/-- A write puts each byte at its address. -/
theorem Mem.byte_write (m : Mem) (a : Nat) (bs : List Byte) (i : Nat) (h : i < bs.length) :
    (m.write a bs).byte (a + i) = bs[i] := by
  induction bs generalizing m a i with
  | nil => simp at h
  | cons b bs ih =>
    cases i with
    | zero =>
      rw [Mem.write, Mem.byte_write_other _ _ _ (by omega)]
      simp
    | succ i =>
      have := ih (m.put a b) (a + 1) i (by simpa using h)
      rw [Mem.write]
      simpa [Nat.add_assoc, Nat.add_comm 1 i] using this

end Sys2Proof.Machine
end

