-- ==== Sys2Proof/Laws/Fields.lean ====
section
/-! SUPPORT. Laws of bit fields and of registers: what a field reads as after a field or a register is written. -/

namespace Sys2Proof.Machine

open Sys2Proof

/-- `putBits` in parts: what stands above the field, the field, and what stands below it. -/
theorem putBits_parts (v hi lo x : Nat) (h : lo ≤ hi) :
    putBits v hi lo x = v / 2 ^ (hi + 1) * 2 ^ (hi + 1) + (x % 2 ^ (hi + 1 - lo) * 2 ^ lo + v % 2 ^ lo) := by
  obtain ⟨n, rfl⟩ : ∃ n, hi = lo + n := ⟨hi - lo, by omega⟩
  have e : lo + n + 1 - lo = n + 1 := by omega
  have p : (2 : Nat) ^ (lo + n + 1) = 2 ^ lo * 2 ^ (n + 1) := by rw [Nat.add_assoc, Nat.pow_add]
  unfold putBits bits
  rw [e, p]
  have h1 : v / (2 ^ lo * 2 ^ (n + 1)) = v / 2 ^ lo / 2 ^ (n + 1) := by rw [Nat.div_div_eq_div_mul]
  rw [h1]
  have h2 := Nat.div_add_mod (v / 2 ^ lo) (2 ^ (n + 1))
  have h3 := Nat.div_add_mod v (2 ^ lo)
  generalize v / 2 ^ lo / 2 ^ (n + 1) = q at *
  generalize v / 2 ^ lo % 2 ^ (n + 1) = b at *
  generalize v % 2 ^ lo = r at *
  have : v = q * (2 ^ lo * 2 ^ (n + 1)) + b * 2 ^ lo + r := by
    rw [← h3, ← h2]; ring
  omega

/-- A field reads back as what was put into it. -/
theorem bits_putBits_same (v hi lo x : Nat) (h : lo ≤ hi) : bits (putBits v hi lo x) hi lo = x % 2 ^ (hi + 1 - lo) := by
  rw [putBits_parts v hi lo x h]
  unfold bits
  obtain ⟨n, rfl⟩ : ∃ n, hi = lo + n := ⟨hi - lo, by omega⟩
  have e : lo + n + 1 - lo = n + 1 := by omega
  have p : (2 : Nat) ^ (lo + n + 1) = 2 ^ lo * 2 ^ (n + 1) := by rw [Nat.add_assoc, Nat.pow_add]
  rw [e, p]
  have hlo : 0 < 2 ^ lo := Nat.two_pow_pos lo
  have hr : v % 2 ^ lo < 2 ^ lo := Nat.mod_lt _ hlo
  have : v / (2 ^ lo * 2 ^ (n + 1)) * (2 ^ lo * 2 ^ (n + 1)) + (x % 2 ^ (n + 1) * 2 ^ lo + v % 2 ^ lo) =
      v % 2 ^ lo + 2 ^ lo * (x % 2 ^ (n + 1) + 2 ^ (n + 1) * (v / (2 ^ lo * 2 ^ (n + 1)))) := by ring
  rw [this, Nat.add_mul_div_left _ _ hlo, Nat.div_eq_of_lt hr, Nat.zero_add, Nat.add_mul_mod_self_left, Nat.mod_mod]

/-- A field below the one written keeps its value. -/
theorem bits_putBits_below (v hi lo x a b : Nat) (h : lo ≤ hi) (hb : b ≤ a) (ha : a < lo) :
    bits (putBits v hi lo x) a b = bits v a b := by
  rw [putBits_parts v hi lo x h]
  have q : ∀ y z w : Nat, y * 2 ^ (hi + 1) + (z * 2 ^ lo + w) = w + 2 ^ (a + 1) * (y * 2 ^ (hi - a) + z * 2 ^ (lo - a - 1)) := by
    intro y z w
    have e1 : (2 : Nat) ^ (hi + 1) = 2 ^ (a + 1) * 2 ^ (hi - a) := by rw [← Nat.pow_add]; congr 1; omega
    have e2 : (2 : Nat) ^ lo = 2 ^ (a + 1) * 2 ^ (lo - a - 1) := by rw [← Nat.pow_add]; congr 1; omega
    rw [e1, e2]; ring
  rw [q]
  have hv : bits v a b = bits (v % 2 ^ lo) a b := by
    have e2 : (2 : Nat) ^ lo = 2 ^ (a + 1) * 2 ^ (lo - a - 1) := by rw [← Nat.pow_add]; congr 1; omega
    have hh : v = v % 2 ^ lo + 2 ^ (a + 1) * (2 ^ (lo - a - 1) * (v / 2 ^ lo)) := by
      rw [← Nat.mul_assoc, ← e2, Nat.add_comm, Nat.div_add_mod]
    have e3 : (2 : Nat) ^ (a + 1) = 2 ^ b * 2 ^ (a + 1 - b) := by rw [← Nat.pow_add]; congr 1; omega
    generalize v % 2 ^ lo = r at *
    generalize v / 2 ^ lo = k at *
    subst hh
    unfold bits
    rw [e3, Nat.mul_assoc, Nat.add_mul_div_left _ _ (Nat.two_pow_pos b), Nat.add_mul_mod_self_left]
  rw [hv]
  unfold bits
  have e3 : (2 : Nat) ^ (a + 1) = 2 ^ b * 2 ^ (a + 1 - b) := by rw [← Nat.pow_add]; congr 1; omega
  rw [e3, Nat.mul_assoc, Nat.add_mul_div_left _ _ (Nat.two_pow_pos b), Nat.add_mul_mod_self_left]

/-- A field above the one written keeps its value. -/
theorem bits_putBits_above (v hi lo x a b : Nat) (h : lo ≤ hi) (hb : hi < b) :
    bits (putBits v hi lo x) a b = bits v a b := by
  rw [putBits_parts v hi lo x h]
  unfold bits
  congr 1
  have e : (2 : Nat) ^ b = 2 ^ (hi + 1) * 2 ^ (b - hi - 1) := by rw [← Nat.pow_add]; congr 1; omega
  rw [e, ← Nat.div_div_eq_div_mul, ← Nat.div_div_eq_div_mul]
  congr 1
  rw [Nat.mul_comm, Nat.mul_add_div (Nat.two_pow_pos _)]
  have e2 : hi + 1 = (hi + 1 - lo) + lo := by omega
  have l1 : x % 2 ^ (hi + 1 - lo) < 2 ^ (hi + 1 - lo) := Nat.mod_lt _ (Nat.two_pow_pos _)
  have l2 : v % 2 ^ lo < 2 ^ lo := Nat.mod_lt _ (Nat.two_pow_pos _)
  have : x % 2 ^ (hi + 1 - lo) * 2 ^ lo + v % 2 ^ lo < 2 ^ (hi + 1) := by
    calc _ < x % 2 ^ (hi + 1 - lo) * 2 ^ lo + 2 ^ lo := by omega
      _ = (x % 2 ^ (hi + 1 - lo) + 1) * 2 ^ lo := by ring
      _ ≤ 2 ^ (hi + 1 - lo) * 2 ^ lo := Nat.mul_le_mul_right _ l1
      _ = 2 ^ (hi + 1) := by rw [← Nat.pow_add, ← e2]
  rw [Nat.div_eq_of_lt this, Nat.add_zero]

theorem putBits_lt (v hi lo x n : Nat) (h : lo ≤ hi) (hn : hi < n) (hv : v < 2 ^ n) : putBits v hi lo x < 2 ^ n := by
  rw [putBits_parts v hi lo x h]
  have e2 : hi + 1 = (hi + 1 - lo) + lo := by omega
  have l1 : x % 2 ^ (hi + 1 - lo) < 2 ^ (hi + 1 - lo) := Nat.mod_lt _ (Nat.two_pow_pos _)
  have l2 : v % 2 ^ lo < 2 ^ lo := Nat.mod_lt _ (Nat.two_pow_pos _)
  have l3 : x % 2 ^ (hi + 1 - lo) * 2 ^ lo + v % 2 ^ lo < 2 ^ (hi + 1) := by
    calc _ < x % 2 ^ (hi + 1 - lo) * 2 ^ lo + 2 ^ lo := by omega
      _ = (x % 2 ^ (hi + 1 - lo) + 1) * 2 ^ lo := by ring
      _ ≤ 2 ^ (hi + 1 - lo) * 2 ^ lo := Nat.mul_le_mul_right _ l1
      _ = 2 ^ (hi + 1) := by rw [← Nat.pow_add, ← e2]
  have e : (2 : Nat) ^ n = 2 ^ (n - hi - 1) * 2 ^ (hi + 1) := by rw [← Nat.pow_add]; congr 1; omega
  have l4 : v / 2 ^ (hi + 1) < 2 ^ (n - hi - 1) := by
    rw [Nat.div_lt_iff_lt_mul (Nat.two_pow_pos _), ← e]; exact hv
  rw [e]
  calc _ < v / 2 ^ (hi + 1) * 2 ^ (hi + 1) + 2 ^ (hi + 1) := by omega
    _ = (v / 2 ^ (hi + 1) + 1) * 2 ^ (hi + 1) := by ring
    _ ≤ _ := Nat.mul_le_mul_right _ l4

/-- Two fields of one word that share no bit. -/
def Fld.apart (f g : Fld) : Prop := f.hi < g.lo ∨ g.hi < f.lo

/-- A field of a register is in order: its bits lie in the word. -/
def Fld.ok (f : Fld) : Prop := f.lo ≤ f.hi ∧ f.hi < 32

theorem Fld.of_put_same (f : Fld) (w : Word) (v : Nat) (h : f.ok) : f.of (f.put w v) = v % 2 ^ (f.hi + 1 - f.lo) := by
  unfold Fld.of Fld.put
  rw [BitVec.toNat_ofNat, Nat.mod_eq_of_lt (putBits_lt _ _ _ _ 32 h.1 h.2 w.isLt), bits_putBits_same _ _ _ _ h.1]

theorem Fld.of_put_other (f g : Fld) (w : Word) (v : Nat) (h : f.ok) (hg : g.ok) (hd : f.apart g) :
    g.of (f.put w v) = g.of w := by
  unfold Fld.of Fld.put
  rw [BitVec.toNat_ofNat, Nat.mod_eq_of_lt (putBits_lt _ _ _ _ 32 h.1 h.2 w.isLt)]
  rcases hd with hd | hd
  · exact bits_putBits_above _ _ _ _ _ _ h.1 hd
  · exact bits_putBits_below _ _ _ _ _ _ h.1 hg.1 hd

theorem Fld.of_le (f : Fld) (w : Word) : f.of w < 2 ^ (f.hi + 1 - f.lo) := Nat.mod_lt _ (Nat.two_pow_pos _)

/-! ## Registers of a channel and of PF0 -/

@[simp] theorem Chan.rd_wr_same (c : Chan) (off : Nat) (v : Word) : (c.wr off v).rd off = v := Cells.get_set_same _ _ _ _

theorem Chan.rd_wr_other (c : Chan) {off o : Nat} (v : Word) (h : o ≠ off) : (c.wr off v).rd o = c.rd o :=
  Cells.get_set_other _ _ _ h

@[simp] theorem Pkg.rd_wr_same (p : Pkg) (off : Nat) (v : Word) : (p.wr off v).rd off = v := Cells.get_set_same _ _ _ _

theorem Pkg.rd_wr_other (p : Pkg) {off o : Nat} (v : Word) (h : o ≠ off) : (p.wr off v).rd o = p.rd o :=
  Cells.get_set_other _ _ _ h

theorem Chan.fld_setFld_same (c : Chan) (f : Fld) (v : Nat) (h : f.ok) :
    (c.setFld f v).fld f = v % 2 ^ (f.hi + 1 - f.lo) := by
  simp [Chan.setFld, Chan.fld, Fld.of_put_same f _ _ h]

theorem Chan.fld_setFld_other (c : Chan) (f g : Fld) (v : Nat) (h : f.ok) (hg : g.ok) (hd : f.off ≠ g.off ∨ f.apart g) :
    (c.setFld f v).fld g = c.fld g := by
  unfold Chan.setFld Chan.fld
  by_cases e : g.off = f.off
  · rw [e, Chan.rd_wr_same, Fld.of_put_other f g _ _ h hg (hd.resolve_left fun n => n e.symm), ← e]
  · rw [Chan.rd_wr_other _ _ e]

theorem Pkg.fld_setFld_same (p : Pkg) (f : Fld) (v : Nat) (h : f.ok) :
    (p.setFld f v).fld f = v % 2 ^ (f.hi + 1 - f.lo) := by
  simp [Pkg.setFld, Pkg.fld, Fld.of_put_same f _ _ h]

theorem Pkg.fld_setFld_other (p : Pkg) (f g : Fld) (v : Nat) (h : f.ok) (hg : g.ok) (hd : f.off ≠ g.off ∨ f.apart g) :
    (p.setFld f v).fld g = p.fld g := by
  unfold Pkg.setFld Pkg.fld
  by_cases e : g.off = f.off
  · rw [e, Pkg.rd_wr_same, Fld.of_put_other f g _ _ h hg (hd.resolve_left fun n => n e.symm), ← e]
  · rw [Pkg.rd_wr_other _ _ e]

end Sys2Proof.Machine
end

