-- ==== Sys2Proof/Laws/State.lean ====
section
/-! SUPPORT. What each update of the state does to each of its parts. -/

namespace Sys2Proof.Machine

open Sys2Proof

/-! ## The package -/

@[simp] theorem State.modP_pkg (s : State) (f : Pkg → Pkg) : (s.modP f).pkg = f s.pkg := rfl
@[simp] theorem State.modP_chan (s : State) (f : Pkg → Pkg) : (s.modP f).chan = s.chan := rfl
@[simp] theorem State.modP_free (s : State) (f : Pkg → Pkg) : (s.modP f).free = s.free := rfl
@[simp] theorem State.modP_pending (s : State) (f : Pkg → Pkg) : (s.modP f).pending = s.pending := rfl

/-! ## One channel -/

@[simp] theorem State.modC_pkg (s : State) (ch : ChIdx) (f : Chan → Chan) : (s.modC ch f).pkg = s.pkg := rfl
@[simp] theorem State.modC_free (s : State) (ch : ChIdx) (f : Chan → Chan) : (s.modC ch f).free = s.free := rfl
@[simp] theorem State.modC_pending (s : State) (ch : ChIdx) (f : Chan → Chan) : (s.modC ch f).pending = s.pending := rfl

theorem State.modC_same (s : State) (ch : ChIdx) (f : Chan → Chan) : (s.modC ch f).chan[ch] = f s.chan[ch] := by
  simp [State.modC]

@[simp] theorem State.modC_at (s : State) (ch : ChIdx) (f : Chan → Chan) : (s.modC ch f).chan[ch.val] = f s.chan[ch.val] :=
  State.modC_same s ch f

theorem State.modC_other (s : State) {ch c : ChIdx} (f : Chan → Chan) (h : c ≠ ch) :
    (s.modC ch f).chan[c] = s.chan[c] := by
  have : ch.val ≠ c.val := fun e => h (Fin.ext e.symm)
  simp [State.modC, Vector.getElem_set_ne, this]

/-- Two changes of one channel are one. -/
theorem State.modC_modC (s : State) (ch : ChIdx) (f g : Chan → Chan) : (s.modC ch f).modC ch g = s.modC ch fun c => g (f c) := by
  simp [State.modC]

@[simp] theorem State.modMem_pkg (s : State) (ch : ChIdx) (f : ChMem → ChMem) : (s.modMem ch f).pkg = s.pkg := rfl
@[simp] theorem State.modMem_free (s : State) (ch : ChIdx) (f : ChMem → ChMem) : (s.modMem ch f).free = s.free := rfl
@[simp] theorem State.modMem_pending (s : State) (ch : ChIdx) (f : ChMem → ChMem) : (s.modMem ch f).pending = s.pending := rfl
theorem State.modMem_same (s : State) (ch : ChIdx) (f : ChMem → ChMem) :
    (s.modMem ch f).chan[ch] = { s.chan[ch] with mem := f s.chan[ch].mem } := State.modC_same s ch _
@[simp] theorem State.modMem_at (s : State) (ch : ChIdx) (f : ChMem → ChMem) :
    (s.modMem ch f).chan[ch.val] = { s.chan[ch.val] with mem := f s.chan[ch.val].mem } := State.modC_same s ch _

/-! ## Registers -/

@[simp] theorem Chan.wr_ctx (c : Chan) (off : Nat) (v : Word) : (c.wr off v).ctx = c.ctx := rfl
@[simp] theorem Chan.wr_sem (c : Chan) (off : Nat) (v : Word) : (c.wr off v).sem = c.sem := rfl
@[simp] theorem Chan.wr_q (c : Chan) (off : Nat) (v : Word) : (c.wr off v).q = c.q := rfl
@[simp] theorem Chan.wr_mem (c : Chan) (off : Nat) (v : Word) : (c.wr off v).mem = c.mem := rfl
@[simp] theorem Chan.setFld_ctx (c : Chan) (f : Fld) (v : Nat) : (c.setFld f v).ctx = c.ctx := rfl
@[simp] theorem Chan.setFld_sem (c : Chan) (f : Fld) (v : Nat) : (c.setFld f v).sem = c.sem := rfl
@[simp] theorem Chan.setFld_q (c : Chan) (f : Fld) (v : Nat) : (c.setFld f v).q = c.q := rfl
@[simp] theorem Chan.setFld_mem (c : Chan) (f : Fld) (v : Nat) : (c.setFld f v).mem = c.mem := rfl
@[simp] theorem State.setF_pkg (s : State) (ch : ChIdx) (f : Fld) (v : Nat) : (s.setF ch f v).pkg = s.pkg := rfl
@[simp] theorem State.setF_free (s : State) (ch : ChIdx) (f : Fld) (v : Nat) : (s.setF ch f v).free = s.free := rfl
@[simp] theorem State.setF_pending (s : State) (ch : ChIdx) (f : Fld) (v : Nat) : (s.setF ch f v).pending = s.pending := rfl
theorem State.setF_same (s : State) (ch : ChIdx) (f : Fld) (v : Nat) :
    (s.setF ch f v).chan[ch] = s.chan[ch].setFld f v := State.modC_same s ch _
@[simp] theorem State.setF_at (s : State) (ch : ChIdx) (f : Fld) (v : Nat) :
    (s.setF ch f v).chan[ch.val] = s.chan[ch.val].setFld f v := State.modC_same s ch _
theorem State.setF_other (s : State) {ch c : ChIdx} (f : Fld) (v : Nat) (h : c ≠ ch) :
    (s.setF ch f v).chan[c] = s.chan[c] := State.modC_other s _ h

/-! ## Contexts -/

@[simp] theorem State.modX_pkg (s : State) (ch : ChIdx) (jc : JcIdx) (f : Ctx → Ctx) : (s.modX ch jc f).pkg = s.pkg := rfl
@[simp] theorem State.modX_free (s : State) (ch : ChIdx) (jc : JcIdx) (f : Ctx → Ctx) : (s.modX ch jc f).free = s.free := rfl
@[simp] theorem State.modX_pending (s : State) (ch : ChIdx) (jc : JcIdx) (f : Ctx → Ctx) :
    (s.modX ch jc f).pending = s.pending := rfl
theorem State.modX_same (s : State) (ch : ChIdx) (jc : JcIdx) (f : Ctx → Ctx) :
    (s.modX ch jc f).chan[ch] = { s.chan[ch] with ctx := s.chan[ch].ctx.set jc (f (s.ctx ch jc)) } := State.modC_same s ch _
@[simp] theorem State.modX_at (s : State) (ch : ChIdx) (jc : JcIdx) (f : Ctx → Ctx) :
    (s.modX ch jc f).chan[ch.val] = { s.chan[ch.val] with ctx := s.chan[ch.val].ctx.set jc (f (s.ctx ch jc)) } := State.modC_same s ch _
theorem State.modX_otherC (s : State) {ch c : ChIdx} (jc : JcIdx) (f : Ctx → Ctx) (h : c ≠ ch) :
    (s.modX ch jc f).chan[c] = s.chan[c] := State.modC_other s _ h

@[simp] theorem State.modX_ctx (s : State) (ch : ChIdx) (jc : JcIdx) (f : Ctx → Ctx) :
    (s.modX ch jc f).ctx ch jc = f (s.ctx ch jc) := by
  have := State.modX_same s ch jc f
  unfold State.ctx at *
  rw [this]
  simp

theorem State.modX_ctxOther (s : State) (ch : ChIdx) {jc j : JcIdx} (f : Ctx → Ctx) (h : j ≠ jc) :
    (s.modX ch jc f).ctx ch j = s.ctx ch j := by
  have hn : jc.val ≠ j.val := fun e => h (Fin.ext e.symm)
  have := State.modX_same s ch jc f
  unfold State.ctx at *
  rw [this]
  simp [Vector.getElem_set_ne, hn]

/-- A change of a channel that keeps its contexts keeps every context. -/
theorem State.modC_ctx (s : State) (ch c : ChIdx) (j : JcIdx) (f : Chan → Chan) (h : (f s.chan[ch]).ctx = s.chan[ch].ctx) :
    (s.modC ch f).ctx c j = s.ctx c j := by
  unfold State.ctx
  by_cases e : c = ch
  · subst e; rw [State.modC_same, h]
  · rw [State.modC_other s f e]

/-! ## General registers (R42) -/

/-- g0 reads as zero. -/
@[simp] theorem Ctx.rg_zero (c : Ctx) : c.rg 0 = 0 := rfl

theorem Ctx.rg_wg_same (c : Ctx) (r : Fin 32) (v : DWord) (h : r ≠ 0) : (c.wg r v).rg r = v := by
  have : r.val ≠ 0 := fun e => h (Fin.ext e)
  simp [Ctx.rg, Ctx.wg, this]

theorem Ctx.rg_wg_other (c : Ctx) {r q : Fin 32} (v : DWord) (h : q ≠ r) : (c.wg r v).rg q = c.rg q := by
  have hn : r.val ≠ q.val := fun e => h (Fin.ext e.symm)
  unfold Ctx.rg Ctx.wg
  by_cases hq : q.val = 0 <;> by_cases hr : r.val = 0 <;> simp [hq, hr, Vector.getElem_set_ne, hn]

@[simp] theorem Ctx.wg_zero (c : Ctx) (v : DWord) : c.wg 0 v = c := rfl

/-! ## Semaphores and queues -/

@[simp] theorem State.modSem_pkg (s : State) (ch : ChIdx) (n : Nat) (f : Sem → Sem) : (s.modSem ch n f).pkg = s.pkg := rfl
@[simp] theorem State.modSem_free (s : State) (ch : ChIdx) (n : Nat) (f : Sem → Sem) : (s.modSem ch n f).free = s.free := rfl
@[simp] theorem State.modSem_pending (s : State) (ch : ChIdx) (n : Nat) (f : Sem → Sem) :
    (s.modSem ch n f).pending = s.pending := rfl
theorem State.modSem_same (s : State) (ch : ChIdx) (n : Nat) (f : Sem → Sem) :
    (s.modSem ch n f).chan[ch] =
      { s.chan[ch] with sem := s.chan[ch].sem.set (Fin.ofNat 256 n) (f (s.semAt ch n)) } := State.modC_same s ch _
@[simp] theorem State.modSem_at (s : State) (ch : ChIdx) (n : Nat) (f : Sem → Sem) :
    (s.modSem ch n f).chan[ch.val] =
      { s.chan[ch.val] with sem := s.chan[ch.val].sem.set (Fin.ofNat 256 n) (f (s.semAt ch n)) } := State.modC_same s ch _
@[simp] theorem State.modSem_semAt (s : State) (ch : ChIdx) (n : Nat) (f : Sem → Sem) :
    (s.modSem ch n f).semAt ch n = f (s.semAt ch n) := by
  have := State.modSem_same s ch n f
  unfold State.semAt at *
  rw [this]
  simp

@[simp] theorem State.modQ_pkg (s : State) (ch : ChIdx) (e : Fin 11) (f : EngQ → EngQ) : (s.modQ ch e f).pkg = s.pkg := rfl
@[simp] theorem State.modQ_free (s : State) (ch : ChIdx) (e : Fin 11) (f : EngQ → EngQ) : (s.modQ ch e f).free = s.free := rfl
@[simp] theorem State.modQ_pending (s : State) (ch : ChIdx) (e : Fin 11) (f : EngQ → EngQ) :
    (s.modQ ch e f).pending = s.pending := rfl
theorem State.modQ_same (s : State) (ch : ChIdx) (e : Fin 11) (f : EngQ → EngQ) :
    (s.modQ ch e f).chan[ch] = { s.chan[ch] with q := s.chan[ch].q.set e (f (s.eq ch e)) } := State.modC_same s ch _
@[simp] theorem State.modQ_at (s : State) (ch : ChIdx) (e : Fin 11) (f : EngQ → EngQ) :
    (s.modQ ch e f).chan[ch.val] = { s.chan[ch.val] with q := s.chan[ch.val].q.set e (f (s.eq ch e)) } := State.modC_same s ch _
@[simp] theorem State.modQ_eq (s : State) (ch : ChIdx) (e : Fin 11) (f : EngQ → EngQ) :
    (s.modQ ch e f).eq ch e = f (s.eq ch e) := by
  have := State.modQ_same s ch e f
  unfold State.eq at *
  rw [this]
  simp

/-! ## States -/

/-- Two states with the same parts are one. -/
theorem State.ext_parts {s t : State} (hp : t.pkg = s.pkg) (hc : ∀ c : ChIdx, t.chan[c] = s.chan[c]) (hf : t.free = s.free)
    (hq : t.pending = s.pending) : t = s := by
  obtain ⟨p, c, f, q⟩ := s
  obtain ⟨p', c', f', q'⟩ := t
  simp only at hp hc hf hq
  subst hp hf hq
  congr
  exact Vector.ext fun i h => hc ⟨i, h⟩

end Sys2Proof.Machine
end

