-- ==== Sys2Proof/Laws/Events.lean ====
section
/-! SUPPORT. What posting an event can do, the induction over all channels, and semaphores within bounds. -/

namespace Sys2Proof.Machine

open Sys2Proof

/-- What holds before a change of every channel and is kept by the change of each holds after it. -/
theorem State.eachC_keeps {s : State} {f : State → ChIdx → State} {P : State → Prop} (h : P s)
    (hf : ∀ t c, P t → P (f t c)) : P (s.eachC f) := by
  unfold State.eachC
  generalize List.finRange 8 = l
  induction l generalizing s with
  | nil => exact h
  | cons c l ih => exact ih (hf s c h)

/-- Semaphores within their bounds, each looked at once. -/
theorem semsBounded_of {s : State}
    (h : (s.chan.toList.all fun c => c.sem.toList.all fun x => decide (x.count ≤ 65535) && decide (x.init ≤ 65535)) = true) :
    s.semsBounded = true := by
  simp only [List.all_eq_true, Vector.mem_toList_iff, Bool.and_eq_true, decide_eq_true_eq] at h
  simp only [State.semsBounded, List.all_eq_true, Bool.and_eq_true, decide_eq_true_eq]
  exact fun ch _ n _ => h _ (Vector.getElem_mem ch.isLt) _ (Vector.getElem_mem n.isLt)

/-! ## Events -/

theorem Chan.differAt_refl (offs : List Nat) (c : Chan) : Chan.differAt offs c c := ⟨rfl, fun _ _ => rfl⟩

theorem Chan.differAt_trans {offs : List Nat} {a b c : Chan} (h : Chan.differAt offs a b) (g : Chan.differAt offs b c) :
    Chan.differAt offs a c := by
  obtain ⟨h1, h2⟩ := h
  obtain ⟨g1, g2⟩ := g
  exact ⟨by rw [← h1, ← g1], fun o ho => (g2 o ho).trans (h2 o ho)⟩

theorem Chan.differAt_wr {offs : List Nat} (c : Chan) {off : Nat} (v : Word) (h : off ∈ offs) :
    Chan.differAt offs c (c.wr off v) :=
  ⟨rfl, fun _ ho => Chan.rd_wr_other c v fun e => ho (e ▸ h)⟩

theorem State.butEvents_refl (s : State) : s.butEvents s :=
  ⟨rfl, rfl, fun _ _ => rfl, fun _ => Chan.differAt_refl _ _⟩

theorem State.butEvents_trans {s t u : State} (h : s.butEvents t) (g : t.butEvents u) : s.butEvents u := by
  obtain ⟨h1, h2, h3, h4⟩ := h
  obtain ⟨g1, g2, g3, g4⟩ := g
  exact ⟨g1.trans h1, by rw [← h2, ← g2], fun o ho => (g3 o ho).trans (h3 o ho), fun c => Chan.differAt_trans (h4 c) (g4 c)⟩

/-- A register of the event path written by the device. -/
theorem State.butEvents_fnWr (s : State) (pf : Fin 9) {off : Nat} (v : Word) (h : off ∈ eventRegs) :
    s.butEvents (s.fnWr pf off v) := by
  unfold State.fnWr
  cases pfChan pf with
  | none => exact ⟨rfl, rfl, fun o ho => Pkg.rd_wr_other _ _ fun e => ho (e ▸ h), fun _ => Chan.differAt_refl _ _⟩
  | some ch =>
    refine ⟨rfl, rfl, fun _ _ => rfl, fun c => ?_⟩
    by_cases e : c = ch
    · subst e
      show Chan.differAt eventRegs (s.chan[c]) ((s.modC c _).chan[c])
      rw [State.modC_same]
      exact Chan.differAt_wr _ _ h
    · show Chan.differAt eventRegs (s.chan[c]) ((s.modC ch _).chan[c])
      rw [State.modC_other s _ e]
      exact Chan.differAt_refl _ _

/-- The sequence numbers stay with a register of the event path. -/
theorem State.fnWr_seq (s : State) (pf : Fin 9) (off : Nat) (v : Word) : (s.fnWr pf off v).pkg.evtSeq = s.pkg.evtSeq := by
  unfold State.fnWr
  cases pfChan pf <;> rfl

theorem State.evtWrite_butEvents (s : State) (pf : Fin 9) (r : EvRec) (rest : List EvRec) : s.butEvents (s.evtWrite pf r rest) := by
  unfold State.evtWrite
  extract_lets size wr base s1 s2
  have h1 : s.butEvents s1 := ⟨rfl, rfl, fun _ _ => rfl, fun _ => Chan.differAt_refl _ _⟩
  have h2 : s.butEvents s2 := State.butEvents_trans h1 (State.butEvents_fnWr s1 pf _ (by decide))
  have h3 : s2.butEvents (s2.irq pf) := by
    unfold State.irq
    split
    · exact State.butEvents_refl s2
    · exact ⟨rfl, rfl, fun _ _ => rfl, fun _ => Chan.differAt_refl _ _⟩
  split
  · exact State.butEvents_trans h2 h3
  · exact h2

theorem State.irq_seq (s : State) (pf : Fin 9) : (s.irq pf).pkg.evtSeq = s.pkg.evtSeq := by
  unfold State.irq; split <;> rfl

theorem State.evtWrite_seq (s : State) (pf : Fin 9) (r : EvRec) (rest : List EvRec) :
    (s.evtWrite pf r rest).pkg.evtSeq = s.pkg.evtSeq := by
  unfold State.evtWrite State.fnSet
  dsimp only
  split <;> simp only [State.irq_seq, State.modP_pkg, State.fnWr_seq]

theorem State.evtDrain_keeps (pf : Fin 9) (n : Nat) (s : State) :
    s.butEvents (s.evtDrain pf n) ∧ (s.evtDrain pf n).pkg.evtSeq = s.pkg.evtSeq := by
  induction n generalizing s with
  | zero => exact ⟨State.butEvents_refl s, rfl⟩
  | succ n ih =>
    unfold State.evtDrain
    split
    · exact ⟨State.butEvents_refl s, rfl⟩
    · split
      · obtain ⟨a, b⟩ := ih (s.evtWrite pf _ _)
        exact ⟨State.butEvents_trans (State.evtWrite_butEvents ..) a, b.trans (State.evtWrite_seq ..)⟩
      · exact ⟨State.butEvents_refl s, rfl⟩

/-- Posting an event changes the event paths alone, and moves the number of its source alone (R456). -/
theorem State.post_does (s : State) (src : Nat) (code : Ev) (arg : List Nat) :
    s.butEvents (s.post src code arg) ∧ s.postedBy (s.post src code arg) src := by
  unfold State.post
  dsimp only [State.draw]
  set s1 : State := State.modP { s with free := s.free + 1 } _ with h1
  obtain ⟨hd, hq⟩ := State.evtDrain_keeps (srcPf src) 257 s1
  have b1 : s.butEvents s1 := ⟨rfl, rfl, fun _ _ => rfl, fun _ => Chan.differAt_refl _ _⟩
  have q1 : s1.pkg.evtSeq = Cells.set (fun _ => 0) s.pkg.evtSeq src ((s.seqOf src + 1) % 2 ^ 32) := rfl
  have b2 := State.butEvents_trans b1 hd
  have q2 : ∀ t : State, t.pkg.evtSeq = s1.pkg.evtSeq → s.postedBy t src := fun t ht => by
    constructor
    · unfold State.seqOf; rw [ht, q1, Cells.get_set_same]; rfl
    · intro x hx
      unfold State.seqOf; rw [ht, q1, Cells.get_set_other _ _ _ hx]
  split
  · have b3 : (s1.evtDrain (srcPf src) 257).butEvents ((s1.evtDrain (srcPf src) 257).modP fun p =>
        { p with evt := p.evt.set (srcPf src) { p.evt[srcPf src] with held := (p.evt[srcPf src]).held.take 256 } }) :=
      ⟨rfl, rfl, fun _ _ => rfl, fun _ => Chan.differAt_refl _ _⟩
    exact ⟨State.butEvents_trans b2 (State.butEvents_trans b3 (State.butEvents_fnWr _ _ _ (by decide))),
      q2 _ (by unfold State.fnSet; rw [State.fnWr_seq]; exact hq)⟩
  · exact ⟨b2, q2 _ hq⟩

end Sys2Proof.Machine
end

