-- ==== Sys2Proof/Laws/Canonical.lean ====
section
/-! SUPPORT. The shared operations on memory keep every memory in canonical form. -/

namespace Sys2Proof.Machine

open Sys2Proof

/-- The memories of the package stand in canonical form. -/
def Pkg.canonical (p : Pkg) : Bool := Memory.wf p.host && Memory.wf p.t3 && Memory.wf p.flash.bytes

theorem State.canonical_iff (s : State) :
    s.canonical = true ↔ s.pkg.canonical = true ∧ ∀ ch : ChIdx, (s.chan[ch]).mem.canonical = true := by
  simp [State.canonical, Pkg.canonical]

theorem Pkg.canonical_iff (p : Pkg) : p.canonical = true ↔
    Memory.wf p.host = true ∧ Memory.wf p.t3 = true ∧ Memory.wf p.flash.bytes = true := by
  simp [Pkg.canonical, and_assoc]

theorem ChMem.canonical_iff (m : ChMem) : m.canonical = true ↔
    Memory.wf m.t1 = true ∧ Memory.wf m.t2 = true ∧ Memory.wf m.ls = true ∧ Memory.wf m.arws = true := by
  simp [ChMem.canonical, and_assoc]

/-- A change of the package that keeps its memories canonical. -/
theorem State.canonical_modP {s : State} {f : Pkg → Pkg} (h : s.canonical = true)
    (hf : s.pkg.canonical = true → (f s.pkg).canonical = true) : (s.modP f).canonical = true := by
  rw [State.canonical_iff] at *
  exact ⟨hf h.1, h.2⟩

/-- A change of a channel that keeps its memories canonical. -/
theorem State.canonical_modC {s : State} {ch : ChIdx} {f : Chan → Chan} (h : s.canonical = true)
    (hf : (s.chan[ch]).mem.canonical = true → (f s.chan[ch]).mem.canonical = true) : (s.modC ch f).canonical = true := by
  rw [State.canonical_iff] at *
  refine ⟨h.1, fun c => ?_⟩
  by_cases e : c = ch
  · subst e
    rw [State.modC_same]
    exact hf (h.2 c)
  · rw [State.modC_other s f e]
    exact h.2 c

/-- Registers and counters stand beside the memories. -/
theorem State.canonical_setF {s : State} {ch : ChIdx} {f : Fld} {v : Nat} (h : s.canonical = true) :
    (s.setF ch f v).canonical = true := State.canonical_modC h id

theorem State.canonical_satF {s : State} {ch : ChIdx} {f : Fld} {n : Nat} (h : s.canonical = true) :
    (s.satF ch f n).canonical = true := State.canonical_modC h id

theorem State.canonical_fnWr {s : State} {pf : Fin 9} {off : Nat} {v : Word} (h : s.canonical = true) :
    (s.fnWr pf off v).canonical = true := by
  unfold State.fnWr
  cases pfChan pf with
  | none => exact State.canonical_modP h id
  | some ch => exact State.canonical_modC h id

theorem State.canonical_fnSet {s : State} {pf : Fin 9} {f : Fld} {v : Nat} (h : s.canonical = true) :
    (s.fnSet pf f v).canonical = true := State.canonical_fnWr h

/-- The tier cache stands beside the memories. -/
theorem State.canonical_modTc {s : State} {ch : ChIdx} {f : TCache → TCache} (h : s.canonical = true) :
    (s.modTc ch f).canonical = true := State.canonical_modC h id

/-- A change of a channel's memories that leaves their bytes. -/
theorem State.canonical_modMem {s : State} {ch : ChIdx} {f : ChMem → ChMem} (h : s.canonical = true)
    (hf : ∀ m : ChMem, ((f m).t1, (f m).t2, (f m).ls, (f m).arws) = (m.t1, m.t2, m.ls, m.arws)) :
    (s.modMem ch f).canonical = true := State.canonical_modC h fun hm => by
  have e := hf (s.chan[ch]).mem
  simp only [Prod.mk.injEq] at e
  obtain ⟨e1, e2, e3, e4⟩ := e
  rw [ChMem.canonical_iff] at *
  simp only [e1, e2, e3, e4]
  exact hm

/-- A byte written to a tier. -/
theorem State.canonical_homePut {s : State} {ch : ChIdx} {t : Tier} {a : Nat} {b : Byte} (h : s.canonical = true) :
    (s.homePut ch t a b).canonical = true := by
  have pkgPut : ∀ f : Pkg → Pkg, ((f s.pkg).host = s.pkg.host ∨ ∃ x y, (f s.pkg).host = s.pkg.host.put x y) →
      ((f s.pkg).t3 = s.pkg.t3 ∨ ∃ x y, (f s.pkg).t3 = s.pkg.t3.put x y) → (f s.pkg).flash = s.pkg.flash →
      (s.modP f).canonical = true := fun f hh ht hl => State.canonical_modP h fun hp => by
    rw [Pkg.canonical_iff] at *
    rw [hl]
    refine ⟨?_, ?_, hp.2.2⟩
    · obtain e | ⟨x, y, e⟩ := hh <;> rw [e]
      · exact hp.1
      · exact Memory.wf_put _ _ hp.1
    · obtain e | ⟨x, y, e⟩ := ht <;> rw [e]
      · exact hp.2.1
      · exact Memory.wf_put _ _ hp.2.1
  unfold State.homePut
  split
  · refine State.canonical_modC h fun hm => ?_
    rw [ChMem.canonical_iff] at *
    exact ⟨Memory.wf_put _ _ hm.1, hm.2⟩
  · refine State.canonical_modC h fun hm => ?_
    rw [ChMem.canonical_iff] at *
    exact ⟨hm.1, Memory.wf_put _ _ hm.2.1, hm.2.2⟩
  · split
    · split
      · exact pkgPut _ (.inr ⟨_, _, rfl⟩) (.inl rfl) rfl
      · exact pkgPut _ (.inl rfl) (.inr ⟨_, _, rfl⟩) rfl
    · exact h

/-- A fold of changes that each keep the canonical form. -/
theorem State.canonical_foldl {α : Type} {f : State → α → State} (hf : ∀ t x, t.canonical = true → (f t x).canonical = true) :
    ∀ (l : List α) (s : State), s.canonical = true → (l.foldl f s).canonical = true
  | [], _, h => h
  | x :: l, s, h => State.canonical_foldl hf l (f s x) (hf s x h)

/-! ## What a transfer charges -/

theorem State.canonical_modBucket {s : State} {i : BucketInst} {k : Nat} {f : Bucket → Bucket} (h : s.canonical = true) :
    (s.modBucket i k f).canonical = true := by
  unfold State.modBucket
  cases i
  · exact State.canonical_modMem h fun _ => rfl
  · exact State.canonical_modMem h fun _ => rfl
  · exact State.canonical_modP h id

theorem State.canonical_transfer {s : State} {i : BucketInst} {k : Nat} {ch : ChIdx} {n : Nat} (h : s.canonical = true) :
    (s.transfer i k ch n).canonical = true := by
  unfold State.transfer State.setB
  split
  · exact h
  · extract_lets n t m s1
    have h1 : s1.canonical = true := State.canonical_modBucket (State.canonical_fnSet h)
    split
    · exact h1
    · exact State.canonical_fnSet (State.canonical_modBucket h1)

theorem State.canonical_charge {s : State} {ch : ChIdx} {t : Tier} {n : Nat} {host : Bool} (h : s.canonical = true) :
    (s.charge ch t n host).canonical = true := by
  unfold State.charge
  split <;> first | exact State.canonical_transfer h | exact h

theorem State.canonical_submit {s : State} {ch : ChIdx} {a n : Nat} (h : s.canonical = true) :
    (s.submit ch a n).canonical = true := by
  unfold State.submit
  split
  · exact h
  · split
    · exact State.canonical_modP h id
    · exact h

theorem State.canonical_moved {s : State} {ch : ChIdx} {t : Tier} {a n : Nat} {host : Bool} (h : s.canonical = true) :
    (s.moved ch t a n host).canonical = true := by
  unfold State.moved
  dsimp only
  split
  · exact State.canonical_submit (State.canonical_charge h)
  · exact State.canonical_charge h

theorem State.canonical_chargeRun {s : State} {ch : ChIdx} {r : Nat × Nat} {host : Bool} (h : s.canonical = true) :
    (s.chargeRun ch r host).canonical = true := by
  unfold State.chargeRun
  split
  · exact h
  · split
    · exact State.canonical_charge h
    · exact State.canonical_moved h

theorem State.canonical_tlbFill {s : State} {ch : ChIdx} {va : Nat} (h : s.canonical = true) :
    (s.tlbFill ch va).canonical = true := by
  unfold State.tlbFill
  split
  · exact h
  · split
    · exact h
    · exact State.canonical_modMem (f := fun m => { m with tlb := _ }) h fun _ => rfl

theorem State.canonical_toHome {s : State} {ch : ChIdx} {t : Tier} {g : Nat} {m : Mem} (h : s.canonical = true) :
    (s.toHome ch t g m).canonical = true := by
  unfold State.toHome
  extract_lets put s1 s2
  have h1 : s1.canonical = true := by
    unfold s1
    split <;> exact State.canonical_foldl (fun _ _ ht => State.canonical_homePut ht) _ s h
  have h2 : s2.canonical = true := State.canonical_moved h1
  split
  · exact State.canonical_modMem h2 fun _ => rfl
  · exact h2

/-! ## Events -/

theorem State.canonical_irq {s : State} {pf : Fin 9} (h : s.canonical = true) : (s.irq pf).canonical = true := by
  unfold State.irq
  split
  · exact h
  · exact State.canonical_modP h id

theorem State.canonical_evtWrite {s : State} {pf : Fin 9} {r : EvRec} {rest : List EvRec} (h : s.canonical = true) :
    (s.evtWrite pf r rest).canonical = true := by
  unfold State.evtWrite
  extract_lets size wr base s1 s2
  have h1 : s1.canonical = true := State.canonical_modP h fun hp => by
    rw [Pkg.canonical_iff] at *
    exact ⟨Memory.wf_write _ _ hp.1, hp.2⟩
  have h2 : s2.canonical = true := State.canonical_fnWr h1
  split
  · exact State.canonical_irq h2
  · exact h2

theorem State.canonical_evtDrain (pf : Fin 9) (n : Nat) {s : State} (h : s.canonical = true) :
    (s.evtDrain pf n).canonical = true := by
  induction n generalizing s with
  | zero => exact h
  | succ n ih =>
    unfold State.evtDrain
    split
    · exact h
    · split
      · exact ih (State.canonical_evtWrite h)
      · exact h

theorem State.canonical_post {s : State} {src : Nat} {code : Ev} {arg : List Nat} (h : s.canonical = true) :
    (s.post src code arg).canonical = true := by
  unfold State.post
  dsimp only [State.draw]
  have h1 : ∀ f : Pkg → Pkg, (f s.pkg).host = s.pkg.host → (f s.pkg).t3 = s.pkg.t3 → (f s.pkg).flash = s.pkg.flash →
      (State.evtDrain (State.modP { s with free := s.free + 1 } f) (srcPf src) 257).canonical = true := fun f a b c =>
    State.canonical_evtDrain _ _ (State.canonical_modP (show ({ s with free := s.free + 1 } : State).canonical = true from h)
      fun hp => by unfold Pkg.canonical at *; rw [a, b, c]; exact hp)
  split
  · exact State.canonical_fnWr (State.canonical_modP (h1 _ rfl rfl rfl) id)
  · exact h1 _ rfl rfl rfl

/-! ## The tier cache and device virtual memory -/

theorem State.canonical_flushOut {s : State} {ch : ChIdx} {t : Tier} {g : Nat} (h : s.canonical = true) :
    (s.flushOut ch t g).canonical = true := by
  unfold State.flushOut
  split
  · exact h
  · exact State.canonical_modTc h

theorem State.canonical_setDirty {s : State} {ch : ChIdx} {t : Tier} {g : Nat} {d : Bool} (h : s.canonical = true) :
    (s.setDirty ch t g d).canonical = true := State.canonical_modTc h

/-- A write-back that fails. -/
theorem State.canonical_wbFail {s : State} {ch : ChIdx} (h : s.canonical = true) : (s.wbFail ch).canonical = true :=
  State.canonical_post (State.canonical_satF h)

theorem State.canonical_wbEnd {s : State} {ch : ChIdx} {x : Wb} {ok : Bool} (h : s.canonical = true) :
    (s.wbEnd ch x ok).canonical = true := by
  unfold State.wbEnd
  split
  · exact h
  · extract_lets good s1 s2
    have h1 : s1.canonical = true := State.canonical_modTc h
    split
    · exact State.canonical_flushOut (State.canonical_toHome h1)
    · exact State.canonical_modTc (State.canonical_setDirty (State.canonical_wbFail h1))

theorem State.canonical_wbStart {s : State} {ch : ChIdx} {l : TcLine} (h : s.canonical = true) :
    (s.wbStart ch l).canonical = true := by
  have room : (s.wbRoom ch).canonical = true := by
    unfold State.wbRoom
    dsimp only
    split
    · exact h
    · split
      · exact h
      · exact State.canonical_wbEnd h
  unfold State.wbStart
  split
  · exact h
  · exact State.canonical_modTc (State.canonical_setDirty room)

theorem State.canonical_tcEvict {ch : ChIdx} (l : List TcLine) {s : State} (h : s.canonical = true) :
    (s.tcEvict ch l).canonical = true := by
  induction l with
  | nil => exact h
  | cons v more ih =>
    unfold State.tcEvict
    split
    · exact ih
    · exact State.canonical_modTc (State.canonical_wbStart h)

theorem State.canonical_tcFill {s : State} {ch : ChIdx} {t : Tier} {g way : Nat} (h : s.canonical = true) :
    (s.tcFill ch t g way).canonical = true := by
  unfold State.tcFill
  split
  rename_i e
  refine State.canonical_modMem ?_ fun _ => rfl
  split at e <;> cases e
  · exact h
  · exact State.canonical_moved h

theorem State.canonical_tcPut {s : State} {ch : ChIdx} {t : Tier} {a : Nat} {b : Byte} (h : s.canonical = true) :
    (s.tcPut ch t a b).canonical = true := State.canonical_modTc h

theorem State.canonical_tcTouch {s : State} {ch : ChIdx} {t : Tier} {g : Nat} (h : s.canonical = true) :
    (s.tcTouch ch t g).canonical = true := by
  unfold State.tcTouch
  split
  · exact State.canonical_modTc h
  · extract_lets set inSet held s1 used
    have h1 : s1.canonical = true := by
      unfold s1
      split
      · exact h
      · exact State.canonical_tcEvict _ h
    exact State.canonical_tcFill h1

/-- One byte stored at a translated place. -/
theorem State.canonical_putAt {s : State} {ch : ChIdx} {p : Nat × Leaf × Nat} {b : Byte} (h : s.canonical = true) :
    (s.putAt ch p b).canonical = true := by
  unfold State.putAt
  extract_lets s1
  have h1 : s1.canonical = true := by
    unfold s1
    split
    · exact State.canonical_tcPut (State.canonical_tcTouch h)
    · exact State.canonical_homePut h
  split
  · exact State.canonical_modMem (f := fun m => { m with poison := _ }) h1 fun _ => rfl
  · exact h1

theorem State.canonical_healT2 {s : State} {ch : ChIdx} {ps : List (Nat × Leaf × Nat)} (h : s.canonical = true) :
    (s.healT2 ch ps).canonical = true :=
  State.canonical_modMem (f := fun m => { m with poison2 := _ }) h fun _ => rfl

theorem State.canonical_tcCount {s : State} {ch : ChIdx} (h : s.canonical = true) : (s.tcCount ch).canonical = true :=
  State.canonical_setF (State.canonical_setF h)

theorem State.canonical_countPromo {s : State} {ch : ChIdx} {va n : Nat} (h : s.canonical = true) :
    (s.countPromo ch va n).canonical = true := by
  unfold State.countPromo
  refine State.canonical_foldl (fun t x ht => ?_) _ s h
  split
  · exact ht
  · split
    · exact State.canonical_modC ht id
    · exact ht

theorem State.canonical_digTear {s : State} {ch : ChIdx} {va n : Nat} (h : s.canonical = true) :
    (s.digTear ch va n).canonical = true := State.canonical_modC h id

/-- A store through translation. -/
theorem State.canonical_vaWrite {s t : State} {ch : ChIdx} {va : Nat} {bs : List Byte} {host : Bool} (h : s.canonical = true)
    (hw : s.vaWrite ch va bs host = .ok t) : t.canonical = true := by
  unfold State.vaWrite at hw
  split at hw
  · cases hw
  · split at hw
    · cases hw
    · split at hw
      · cases hw
      · cases hw
        refine State.canonical_digTear (State.canonical_countPromo (State.canonical_tcCount (State.canonical_foldl
          (fun t x ht => State.canonical_chargeRun (State.canonical_tlbFill ht)) _ _ ?_)))
        exact State.canonical_healT2 (State.canonical_foldl (fun _ _ ht => State.canonical_putAt ht) _ s h)

/-- A read through translation. -/
theorem State.canonical_vaTouch {s : State} {ch : ChIdx} {va n : Nat} (h : s.canonical = true) :
    (s.vaTouch ch va n).canonical = true := by
  unfold State.vaTouch
  refine State.canonical_countPromo (State.canonical_tcCount (State.canonical_foldl (fun t x ht => ?_) _ s h))
  refine State.canonical_chargeRun (State.canonical_tlbFill ?_)
  split
  · exact ht
  · split
    · exact State.canonical_tcTouch ht
    · exact ht

end Sys2Proof.Machine
end

