-- ==== Sys2Proof/Laws/Moves.lean ====
section
/-! SUPPORT. What the shared operations on memory leave alone: everything of a channel but its memories, its registers and the
mark of the digest engine. -/

namespace Sys2Proof.Machine

open Sys2Proof

/-- The channels of two states differ in memories, registers and the mark of the digest engine at most, and the queue of commands
not at all. -/
def State.MovesOnly (r s : State) : Prop :=
  s.pending = r.pending ∧ ∀ c : ChIdx,
    s.chan[c] = { r.chan[c] with mem := (s.chan[c]).mem, reg := (s.chan[c]).reg, digHand := (s.chan[c]).digHand }

theorem State.moves_refl (s : State) : s.MovesOnly s := ⟨rfl, fun _ => rfl⟩

/-- A change of the package. -/
theorem State.moves_modP {r s : State} {f : Pkg → Pkg} (h : r.MovesOnly s) : r.MovesOnly (s.modP f) := h

/-- A draw of a free value. -/
theorem State.moves_draw {r s : State} (h : r.MovesOnly s) : r.MovesOnly s.draw.2 := h

/-- A change of a channel's memories, registers and mark. -/
theorem State.moves_modC {r s : State} {ch : ChIdx} {f : Chan → Chan} (h : r.MovesOnly s)
    (hf : ∀ c : Chan, f c = { c with mem := (f c).mem, reg := (f c).reg, digHand := (f c).digHand }) :
    r.MovesOnly (s.modC ch f) := by
  refine ⟨h.1, fun c => ?_⟩
  by_cases e : c = ch
  · subst e
    rw [State.modC_same, hf, h.2 c]
  · rw [State.modC_other s f e]
    exact h.2 c

theorem State.moves_setF {r s : State} {ch : ChIdx} {f : Fld} {v : Nat} (h : r.MovesOnly s) : r.MovesOnly (s.setF ch f v) :=
  State.moves_modC h fun _ => rfl

theorem State.moves_satF {r s : State} {ch : ChIdx} {f : Fld} {n : Nat} (h : r.MovesOnly s) : r.MovesOnly (s.satF ch f n) :=
  State.moves_modC h fun _ => rfl

theorem State.moves_fnWr {r s : State} {pf : Fin 9} {off : Nat} {v : Word} (h : r.MovesOnly s) :
    r.MovesOnly (s.fnWr pf off v) := by
  unfold State.fnWr
  split
  · exact h
  · exact State.moves_modC h fun _ => rfl

theorem State.moves_modTc {r s : State} {ch : ChIdx} {f : TCache → TCache} (h : r.MovesOnly s) : r.MovesOnly (s.modTc ch f) :=
  State.moves_modC h fun _ => rfl

theorem State.moves_modMem {r s : State} {ch : ChIdx} {f : ChMem → ChMem} (h : r.MovesOnly s) : r.MovesOnly (s.modMem ch f) :=
  State.moves_modC h fun _ => rfl

theorem State.moves_homePut {r s : State} {ch : ChIdx} {t : Tier} {a : Nat} {b : Byte} (h : r.MovesOnly s) :
    r.MovesOnly (s.homePut ch t a b) := by
  unfold State.homePut
  split
  · exact State.moves_modC h fun _ => rfl
  · exact State.moves_modC h fun _ => rfl
  · split
    · split <;> exact h
    · exact h

theorem State.moves_foldl {r : State} {α : Type} {f : State → α → State} (hf : ∀ t x, r.MovesOnly t → r.MovesOnly (f t x)) :
    ∀ (l : List α) (s : State), r.MovesOnly s → r.MovesOnly (l.foldl f s)
  | [], _, h => h
  | x :: l, s, h => State.moves_foldl hf l (f s x) (hf s x h)

/-! ## What a transfer charges -/

theorem State.moves_modBucket {r s : State} {i : BucketInst} {k : Nat} {f : Bucket → Bucket} (h : r.MovesOnly s) :
    r.MovesOnly (s.modBucket i k f) := by
  unfold State.modBucket
  cases i
  · exact State.moves_modMem h
  · exact State.moves_modMem h
  · exact h

theorem State.moves_transfer {r s : State} {i : BucketInst} {k : Nat} {ch : ChIdx} {n : Nat} (h : r.MovesOnly s) :
    r.MovesOnly (s.transfer i k ch n) := by
  unfold State.transfer State.setB
  split
  · exact h
  · extract_lets n t m s1
    have h1 : r.MovesOnly s1 := State.moves_modBucket (State.moves_fnWr h)
    split
    · exact h1
    · exact State.moves_fnWr (State.moves_modBucket h1)

theorem State.moves_moved {r s : State} {ch : ChIdx} {t : Tier} {a n : Nat} {host : Bool} (h : r.MovesOnly s) :
    r.MovesOnly (s.moved ch t a n host) := by
  have charged : r.MovesOnly (s.charge ch t n host) := by
    unfold State.charge
    split <;> first | exact State.moves_transfer h | exact h
  unfold State.moved State.submit
  dsimp only
  split
  · split
    · exact charged
    · split <;> exact charged
  · exact charged

theorem State.moves_charge {r s : State} {ch : ChIdx} {t : Tier} {n : Nat} {host : Bool} (h : r.MovesOnly s) :
    r.MovesOnly (s.charge ch t n host) := by
  unfold State.charge
  split <;> first | exact State.moves_transfer h | exact h

theorem State.moves_chargeRun {r s : State} {ch : ChIdx} {x : Nat × Nat} {host : Bool} (h : r.MovesOnly s) :
    r.MovesOnly (s.chargeRun ch x host) := by
  unfold State.chargeRun
  split
  · exact h
  · split
    · exact State.moves_charge h
    · exact State.moves_moved h

theorem State.moves_tlbFill {r s : State} {ch : ChIdx} {va : Nat} (h : r.MovesOnly s) : r.MovesOnly (s.tlbFill ch va) := by
  unfold State.tlbFill
  split
  · exact h
  · split
    · exact h
    · exact State.moves_modC h fun _ => rfl

/-! ## Events -/

theorem State.moves_irq {r s : State} {pf : Fin 9} (h : r.MovesOnly s) : r.MovesOnly (s.irq pf) := by
  unfold State.irq
  split <;> exact h

theorem State.moves_evtDrain {r : State} (pf : Fin 9) (n : Nat) {s : State} (h : r.MovesOnly s) : r.MovesOnly (s.evtDrain pf n) := by
  induction n generalizing s with
  | zero => exact h
  | succ n ih =>
    unfold State.evtDrain
    split
    · exact h
    · split
      · refine ih ?_
        unfold State.evtWrite
        extract_lets size wr base s1 s2
        have h2 : r.MovesOnly s2 := State.moves_fnWr (State.moves_modP h)
        split
        · exact State.moves_irq h2
        · exact h2
      · exact h

theorem State.moves_post {r s : State} {src : Nat} {code : Ev} {arg : List Nat} (h : r.MovesOnly s) :
    r.MovesOnly (s.post src code arg) := by
  unfold State.post
  dsimp only [State.draw]
  have h1 : ∀ f : Pkg → Pkg, r.MovesOnly (State.evtDrain (State.modP { s with free := s.free + 1 } f) (srcPf src) 257) :=
    fun f => State.moves_evtDrain _ _ (State.moves_modP (show r.MovesOnly { s with free := s.free + 1 } from h))
  split
  · exact State.moves_fnWr (State.moves_modP (h1 _))
  · exact h1 _

/-! ## The tier cache and device virtual memory -/

theorem State.moves_toHome {r s : State} {ch : ChIdx} {t : Tier} {g : Nat} {m : Mem} (h : r.MovesOnly s) :
    r.MovesOnly (s.toHome ch t g m) := by
  unfold State.toHome
  extract_lets put s1 s2
  have h1 : r.MovesOnly s1 := by
    unfold s1
    split <;> exact State.moves_foldl (fun _ _ ht => State.moves_homePut ht) _ s h
  have h2 : r.MovesOnly s2 := State.moves_moved h1
  split
  · exact State.moves_modMem h2
  · exact h2

theorem State.moves_wbEnd {r s : State} {ch : ChIdx} {x : Wb} {ok : Bool} (h : r.MovesOnly s) : r.MovesOnly (s.wbEnd ch x ok) := by
  unfold State.wbEnd
  split
  · exact h
  · extract_lets good s1 s2
    have h1 : r.MovesOnly s1 := State.moves_modTc h
    split
    · unfold State.flushOut
      split
      · exact State.moves_toHome h1
      · exact State.moves_modTc (State.moves_toHome h1)
    · exact State.moves_modTc (State.moves_modTc (State.moves_post (State.moves_satF h1)))

theorem State.moves_wbStart {r s : State} {ch : ChIdx} {l : TcLine} (h : r.MovesOnly s) : r.MovesOnly (s.wbStart ch l) := by
  have room : r.MovesOnly (s.wbRoom ch) := by
    unfold State.wbRoom
    dsimp only
    split
    · exact h
    · split
      · exact h
      · exact State.moves_wbEnd h
  unfold State.wbStart
  split
  · exact h
  · exact State.moves_modTc (State.moves_modTc room)

theorem State.moves_tcEvict {r : State} {ch : ChIdx} (l : List TcLine) {s : State} (h : r.MovesOnly s) :
    r.MovesOnly (s.tcEvict ch l) := by
  induction l with
  | nil => exact h
  | cons v more ih =>
    unfold State.tcEvict
    split
    · exact ih
    · exact State.moves_modTc (State.moves_wbStart h)

theorem State.moves_tcTouch {r s : State} {ch : ChIdx} {t : Tier} {g : Nat} (h : r.MovesOnly s) : r.MovesOnly (s.tcTouch ch t g) := by
  unfold State.tcTouch
  split
  · exact State.moves_modTc h
  · extract_lets set inSet held s1 used
    have h1 : r.MovesOnly s1 := by
      unfold s1
      split
      · exact h
      · exact State.moves_tcEvict _ h
    unfold State.tcFill
    split
    rename_i e
    refine State.moves_modMem ?_
    split at e <;> cases e
    · exact h1
    · exact State.moves_moved h1

theorem State.moves_putAt {r s : State} {ch : ChIdx} {p : Nat × Leaf × Nat} {b : Byte} (h : r.MovesOnly s) :
    r.MovesOnly (s.putAt ch p b) := by
  unfold State.putAt
  extract_lets s1
  have h1 : r.MovesOnly s1 := by
    unfold s1
    split
    · exact State.moves_modTc (State.moves_tcTouch h)
    · exact State.moves_homePut h
  split
  · exact State.moves_modC h1 fun _ => rfl
  · exact h1

theorem State.moves_tcCount {r s : State} {ch : ChIdx} (h : r.MovesOnly s) : r.MovesOnly (s.tcCount ch) :=
  State.moves_setF (State.moves_setF h)

theorem State.moves_countPromo {r s : State} {ch : ChIdx} {va n : Nat} (h : r.MovesOnly s) : r.MovesOnly (s.countPromo ch va n) := by
  unfold State.countPromo
  refine State.moves_foldl (fun t x ht => ?_) _ s h
  split
  · exact ht
  · split
    · exact State.moves_modMem ht
    · exact ht

/-- A store through translation changes memories, registers and the mark of the digest engine. -/
theorem State.moves_vaWrite {r s t : State} {ch : ChIdx} {va : Nat} {bs : List Byte} {host : Bool} (h : r.MovesOnly s)
    (hw : s.vaWrite ch va bs host = .ok t) : r.MovesOnly t := by
  unfold State.vaWrite at hw
  split at hw
  · cases hw
  · split at hw
    · cases hw
    · split at hw
      · cases hw
      · cases hw
        refine State.moves_modC (State.moves_countPromo (State.moves_tcCount (State.moves_foldl
          (fun t x ht => State.moves_chargeRun (State.moves_tlbFill ht)) _ _ ?_))) fun _ => rfl
        exact State.moves_modC (State.moves_foldl (fun _ _ ht => State.moves_putAt ht) _ s h) fun _ => rfl

/-- A read through translation changes memories and registers. -/
theorem State.moves_vaTouch {r s : State} {ch : ChIdx} {va n : Nat} (h : r.MovesOnly s) : r.MovesOnly (s.vaTouch ch va n) := by
  unfold State.vaTouch
  refine State.moves_countPromo (State.moves_tcCount (State.moves_foldl (fun t x ht => ?_) _ s h))
  refine State.moves_chargeRun (State.moves_tlbFill ?_)
  split
  · exact ht
  · split
    · exact State.moves_tcTouch ht
    · exact ht

/-- What a read through translation leaves of a channel. -/
@[simp] theorem State.vaTouch_dig (s : State) (ch c : ChIdx) (va n : Nat) : ((s.vaTouch ch va n).chan[c]).dig = (s.chan[c]).dig := by
  rw [(State.moves_vaTouch (State.moves_refl s)).2 c]

@[simp] theorem State.vaTouch_ctx (s : State) (ch c : ChIdx) (va n : Nat) : ((s.vaTouch ch va n).chan[c]).ctx = (s.chan[c]).ctx := by
  rw [(State.moves_vaTouch (State.moves_refl s)).2 c]

end Sys2Proof.Machine
end

