-- ==== Sys2Proof/Laws/Scalar.lean ====
section
/-! SUPPORT. What the fetch of a scalar instruction does, and what writing a register through it does. -/

namespace Sys2Proof.Machine

open Sys2Proof

/-! ## Reads do not depend on the round robin of issue -/

/-- Two states that agree on what a read of device virtual memory looks at. -/
def State.sameSight (s t : State) (ch : ChIdx) : Prop :=
  t.pkg = s.pkg ∧ t.free = s.free ∧ (t.chan[ch]).reg = (s.chan[ch]).reg ∧ (t.chan[ch]).mem = (s.chan[ch]).mem ∧
    (t.chan[ch]).ft = (s.chan[ch]).ft ∧ (t.chan[ch]).rc = (s.chan[ch]).rc

theorem State.translate_congr {s t : State} {ch : ChIdx} (h : s.sameSight t ch) (va : Nat) :
    t.translate ch va = s.translate ch va := by
  obtain ⟨hp, -, hr, hm, -, -⟩ := h
  have hf : ∀ f, t.f ch f = s.f ch f := fun f => by unfold State.f Chan.fld Chan.rd; rw [hr]
  have hw : t.walk ch va = s.walk ch va := by unfold State.walk State.pte; rw [hm, hf]
  have hc : ∀ x, t.within ch x = s.within ch x := fun x => by funext a; cases x <;> simp only [State.within, hp, hf]
  unfold State.translate State.leaf
  simp only [hf, hm, hw, hc]

theorem State.byteAt_congr {s t : State} {ch : ChIdx} (h : s.sameSight t ch) (va : Nat) (l : Leaf) (a : Nat) :
    t.byteAt ch va l a = s.byteAt ch va l a := by
  obtain ⟨hp, -, hr, hm, -, -⟩ := h
  have hf : ∀ f, t.f ch f = s.f ch f := fun f => by unfold State.f Chan.fld Chan.rd; rw [hr]
  have hb : ∀ x a, t.bad ch x a = s.bad ch x a := fun x a => by
    cases x <;> simp only [State.bad, State.t2Failed, hf, hm]
  have hg : ∀ x g, t.granBad ch x g = s.granBad ch x g := fun x g => by
    cases x <;> simp only [State.granBad, State.t2Failed, hf, hm]
  have hh : ∀ x a, t.home ch x a = s.home ch x a := fun x a => by cases x <;> simp only [State.home, hp, hm]
  have ht : t.tcSets ch = s.tcSets ch := by simp only [State.tcSets, hf]
  have hc : t.cached ch va l = s.cached ch va l := by simp only [State.cached, State.promoted, ht, hm]
  have hl : ∀ x off, t.lineBad ch x off = s.lineBad ch x off := fun x off => by
    simp only [State.lineBad, State.tcPlace, ht, hf, hm]
  have hq : ∀ x g, t.tcLine ch x g = s.tcLine ch x g := fun x g => by simp only [State.tcLine, hm]
  have hw : ∀ x g, t.wbGran ch x g = s.wbGran ch x g := fun x g => by simp only [State.wbGran, hm]
  unfold State.byteAt
  simp only [State.t2Waits, hf, hb, hg, hh, hc, hl, hq, hw]
  rfl

theorem State.unread_congr {s t : State} {ch : ChIdx} (h : s.sameSight t ch) (va : Nat) (l : Leaf) (a : Nat) :
    t.unread ch va l a = s.unread ch va l a := by
  obtain ⟨-, -, hr, hm, hft, hrc⟩ := h
  have hf : ∀ f, t.f ch f = s.f ch f := fun f => by unfold State.f Chan.fld Chan.rd; rw [hr]
  have hw : t.walk ch va = s.walk ch va := by unfold State.walk State.pte; rw [hm, hf]
  have hh : t.rcHomes ch 0 = s.rcHomes ch 0 := by simp only [State.rcHomes, hf, hrc]
  unfold State.unread
  simp only [State.inTc, State.stale, hf, hm, hw, hft, hh]

theorem State.vaByte_congr {s t : State} {ch : ChIdx} (h : s.sameSight t ch) (va : Nat) : t.vaByte ch va = s.vaByte ch va := by
  unfold State.vaByte
  rw [State.translate_congr h va]
  simp only [State.unread_congr h, State.byteAt_congr h, h.2.1]

theorem State.vaRead_congr {s t : State} {ch : ChIdx} (h : s.sameSight t ch) (va n : Nat) :
    t.vaRead ch va n = s.vaRead ch va n := by
  unfold State.vaRead
  rw [show t.vaByte ch = s.vaByte ch from funext fun a => State.vaByte_congr h a]

theorem State.issued_sight (s : State) (ch : ChIdx) (jc : JcIdx) : s.sameSight (s.issued ch jc) ch := by
  refine ⟨rfl, rfl, ?_, ?_, ?_, ?_⟩ <;> rw [State.issued, State.modC_same]

/-! ## The fetch -/

theorem State.issued_ctx (s : State) (ch c : ChIdx) (jc j : JcIdx) : (s.issued ch jc).ctx c j = s.ctx c j :=
  State.modC_ctx s ch c j _ rfl

theorem State.tlbFill_cases (s : State) (ch : ChIdx) (va : Nat) :
    ∃ tlb, s.tlbFill ch va = s.modC ch fun c => { c with mem := { c.mem with tlb := tlb } } := by
  have h0 : s = s.modC ch fun c => { c with mem := { c.mem with tlb := (s.chan[ch]).mem.tlb } } := by
    refine (State.ext_parts rfl (fun c => ?_) rfl rfl)
    by_cases e : c = ch
    · subst e; rw [State.modC_same]
    · rw [State.modC_other s _ e]
  unfold State.tlbFill
  split
  · exact ⟨_, h0⟩
  · split
    · exact ⟨_, h0⟩
    · exact ⟨((⟨va / 4096, _⟩ : TlbRow) :: (s.chan[ch]).mem.tlb).take 4096, by
        refine State.ext_parts rfl (fun c => ?_) rfl rfl
        by_cases e : c = ch
        · subst e; rw [State.modC_same, State.modC_same]
        · rw [State.modC_other s _ e, State.modC_other s _ e]⟩

/-- What the fetch of an instruction changes. -/
theorem State.begun_cases (s : State) (ch : ChIdx) (jc : JcIdx) :
    ∃ tlb, s.begun ch jc = s.modC ch fun c =>
      { c with sched := { c.sched with nextIssue := (jc.val + 1) % 16 }, mem := { c.mem with tlb := tlb } } := by
  obtain ⟨tlb, h⟩ := State.tlbFill_cases (s.issued ch jc) ch (s.ctx ch jc).pc.toNat
  exact ⟨tlb, by rw [State.begun, h, State.issued, State.modC_modC]⟩

@[simp] theorem State.begun_ctx (s : State) (ch c : ChIdx) (jc j : JcIdx) : (s.begun ch jc).ctx c j = s.ctx c j := by
  obtain ⟨tlb, h⟩ := s.begun_cases ch jc
  rw [h]; exact State.modC_ctx s ch c j _ rfl

/-- A scalar instruction that fetches has its effect on the state after the fetch. -/
theorem State.scalar_eq {s : State} {ch : ChIdx} {jc : JcIdx} (h : s.fetches ch jc 4) (effect : State → State) :
    s.scalar ch jc effect = effect (s.begun ch jc) := by
  obtain ⟨h1, h2⟩ := h
  rw [← State.vaRead_congr (s.issued_sight ch jc)] at h2
  unfold State.scalar State.begun
  simp only [h1, Bool.not_true, Bool.false_eq_true, if_false]
  split
  · rename_i e he; rw [he] at h2; simp [Except.isOk, Except.toBool] at h2
  · rfl

/-- A change of one context after the fetch. -/
theorem State.ranOnly_modX (s : State) (ch : ChIdx) (jc : JcIdx) (f : Ctx → Ctx) :
    s.ranOnly ((s.begun ch jc).modX ch jc f) ch jc := by
  obtain ⟨tlb, h⟩ := s.begun_cases ch jc
  refine ⟨⟨by rw [h]; rfl, by rw [h]; rfl, by rw [h]; rfl, fun c hc => ?_⟩, fun j hj => ?_, tlb, ?_⟩
  · rw [State.modX_otherC _ _ _ hc, h, State.modC_other s _ hc]
  · rw [State.modX_ctxOther _ _ _ hj, State.begun_ctx]
  · rw [State.modX_same, h, State.modC_same]

theorem State.ranOnly_begun (s : State) (ch : ChIdx) (jc : JcIdx) : s.ranOnly (s.begun ch jc) ch jc := by
  obtain ⟨tlb, h⟩ := s.begun_cases ch jc
  refine ⟨⟨by rw [h]; rfl, by rw [h]; rfl, by rw [h]; rfl, fun c hc => ?_⟩, fun j _ => by simp, tlb, ?_⟩
  · rw [h, State.modC_other s _ hc]
  · rw [h, State.modC_same]

/-- The context after a change. -/
@[simp] theorem State.begun_modX_ctx (s : State) (ch : ChIdx) (jc : JcIdx) (f : Ctx → Ctx) :
    ((s.begun ch jc).modX ch jc f).ctx ch jc = f (s.ctx ch jc) := by simp

theorem Ctx.wg_eq (c : Ctx) (r : Fin 32) (v : DWord) : c.wg r v = { c with g := (c.wg r v).g } := by
  unfold Ctx.wg; split <;> rfl

/-- Writing a register through a scalar instruction. -/
theorem State.setRd_sets (s : State) (ch : ChIdx) (jc : JcIdx) (rd : Fin 32) (v : DWord) :
    s.sets ((s.begun ch jc).setRd ch jc rd v) ch jc rd v := by
  refine ⟨State.ranOnly_modX s ch jc _, ?_, ?_, fun r hr => ?_⟩
  · simp only [State.setRd, State.begun_modX_ctx, Ctx.next]
    rw [Ctx.wg_eq]
  · simp only [State.setRd, State.begun_modX_ctx]
    by_cases h : rd = 0
    · subst h; rfl
    · rw [if_neg h]; exact Ctx.rg_wg_same _ _ _ h
  · simp only [State.setRd, State.begun_modX_ctx]
    exact Ctx.rg_wg_other _ _ hr

/-- An ALU instruction. -/
theorem State.alu_sets {s : State} {ch : ChIdx} {jc : JcIdx} (h : s.fetches ch jc 4) (rd ra rb : Fin 32)
    (f : DWord → DWord → DWord) :
    goesTo (s.alu ch jc rd ra rb f) fun t => s.sets t ch jc rd (f (s.g ch jc ra) (s.g ch jc rb)) := by
  refine ⟨_, rfl, ?_⟩
  rw [State.scalar_eq h]
  simpa [State.g] using State.setRd_sets s ch jc rd (f ((s.ctx ch jc).rg ra) ((s.ctx ch jc).rg rb))

/-- An instruction with an immediate. -/
theorem State.aluImm_sets {s : State} {ch : ChIdx} {jc : JcIdx} (h : s.fetches ch jc 4) (rd ra : Fin 32)
    (f : DWord → DWord) :
    goesTo (s.aluImm ch jc rd ra f) fun t => s.sets t ch jc rd (f (s.g ch jc ra)) := by
  refine ⟨_, rfl, ?_⟩
  rw [State.scalar_eq h]
  simpa [State.g] using State.setRd_sets s ch jc rd (f ((s.ctx ch jc).rg ra))

end Sys2Proof.Machine
end

