-- ==== Sys2Proof/Tests/Slice0.lean ====
section
/-! SUPPORT. Tests: ill-formed commands that WellFormed refuses, states that meet the premises of each statement, and
small tests of single commands with the results the spec gives. -/

open Sys2Proof Sys2Proof.Machine

namespace Sys2Proof.Tests

set_option maxRecDepth 20000
set_option Elab.async false

/-! ## Small states -/

/-- A package that runs, with every channel present, live, out of reset, in no partition and in RUN. -/
def on : State :=
  let s := State.reset.modP fun p =>
    let p := { p with cond := .running, portUp := true, ari := true, functions := 0xFF }
    (p.wr 0x14 0xFF).wr 0x50 0xFFFFFFFF
  s.eachC fun s c => s.modC c fun x => { x with inReset := false }

/-- The lease is held by GW. -/
def leasedOn : State := on.modP fun p => p.setFld R.GAF_LEASE_STATUS_VALID 1

/-- Page 0 of channel 0 is mapped to the first page of T1, and its translation is held. -/
def mapped : State :=
  on.modC 0 fun c => { c.setFld R.MEM_MMU_EN 1 with mem := { c.mem with tlb := [⟨0, ⟨.t1, false, false, false, 0, 4096⟩⟩] } }

/-- A context of channel 0 of `mapped` with other content. -/
def job (f : Ctx → Ctx) : State := mapped.modX 0 0 fun c => f { c with st := .run }

/-- Context 0 of channel 0 may issue at address 0. -/
def code : State := job id

/-- A general register of that context. -/
def codeG (r : Fin 32) (v : DWord) : State := job fun c => { c with g := c.g.set r v }

/-- A semaphore of channel 0 of `code`. -/
def codeSem (n : Nat) (v : Sem) : State := code.modSem 0 n fun _ => v

/-- An entry of an engine with the first word of its instruction. -/
def ent (eng : Nat) (w : Wide) : Entry :=
  ⟨0, eng, w, Vector.replicate 64 0, [1, 1, 1, 1], 0, 0, none, [], 0, false, false, false, 0, false, false, none, [], 0, false, []⟩

theorem reaches_of {s : State} {pf : Fin 9} (h : (s.present pf && !s.fenced && match pfChan pf with
    | none => true
    | some ch => s.live ch && !(s.chan[ch]).inReset) = true) : s.reaches pf := by
  unfold State.reaches
  revert h
  cases pfChan pf
  · simp
  · simp; tauto

theorem fetches_of {s : State} {ch : ChIdx} {jc : JcIdx} {n : Nat}
    (h : (s.canIssue ch jc && (s.vaRead ch (s.ctx ch jc).pc.toNat n).isOk) = true) : s.fetches ch jc n := by
  simpa [State.fetches] using h

theorem noWaiters_of {s : State} {ch : ChIdx}
    (h : ((List.finRange 16).all (fun j => (s.ctx ch j).st != .waitSem) && (s.chan[ch]).mover.phase != .waiting) = true) :
    s.noWaiters ch := by
  simpa [State.noWaiters] using h

theorem on_reaches : on.reaches 0 ∧ on.reaches 1 ∧ on.runs = true ∧ on.up 0 = true ∧ on.clocked 0 = true :=
  ⟨reaches_of (by decide +kernel), reaches_of (by decide +kernel), by decide +kernel⟩

theorem code_fetches : code.fetches 0 0 4 ∧ code.noWaiters 0 := ⟨fetches_of (by decide +kernel), noWaiters_of (by decide +kernel)⟩

/-! ## Ill-formed commands are refused, one for each check; a good one is not -/

/-- The word of a wide instruction (Table 2.5): operand field `k` names descriptor `k` for each k of `opds`; `more` holds
what else is set. -/
def wide (eng op : Nat) (opds : List Nat) (par : Nat) (more : Nat := 0) : Wide :=
  BitVec.ofNat 512 (0x3F * 2 ^ 26 + 2 ^ 24 + eng * 2 ^ 20 + op * 2 ^ 12 + (opds.map fun k => (64 + k) * 2 ^ (48 + 7 * k)).sum +
    par * 2 ^ 392 + 0x3E * 2 ^ 506 + more)

/-- What start-up meets, with the given far-memory capacities. -/
def env (t2 : List Nat) : StartEnv := ⟨true, 0xFF, 0xFF, t2, [], true, 0⟩

/-- A cell with a payload. -/
def payload (n : Nat) : Cell := ⟨0, 0, 0, 0, true, false, false, 0, 0, List.replicate n 0, 0, 0, false, 0, 0⟩

/-- What link training meets, with the given credits. -/
def training (share : List Nat) : Training := ⟨true, [], 0, 0, false, true, 0, share, 0⟩

theorem wf_startUp : (Instr.startUp (env [512, 0])).wf = true ∧ (Instr.startUp (env [513])).wf = false ∧
    (Instr.startupRepeat (env (List.replicate 9 0))).wf = false := by decide
theorem wf_cells : (Instr.cellReceive 0 0 (payload 256) true).wf = true ∧ (Instr.cellReceive 0 0 (payload 260) true).wf = false ∧
    (Instr.cellReceive 0 0 (payload 6) true).wf = false := by decide +kernel
theorem wf_training : (Instr.linkTraining 0 (some 0) (training (List.replicate 8 16))).wf = true ∧
    (Instr.linkTraining 0 (some 0) (training [16])).wf = false := by decide
theorem wf_arbGrant : (Instr.arbGrant 0 0 0 [⟨1, .host⟩, ⟨2, .writeBack⟩] ⟨[.debug], 3⟩).wf = true ∧
    (Instr.arbGrant 0 0 0 [⟨1, .host⟩, ⟨1, .writeBack⟩] ⟨[], 0⟩).wf = false := by decide
theorem copyData_wf (n : Nat) : (Instr.copyData 0 0 0 0 0 (List.replicate n 0)).wf = decide (n ≤ 2 ^ 19) := by
  simp [Instr.wf, Instr.operandsOk, Instr.wideRow]
theorem wf_copyData : (Instr.copyData 0 0 0 0 0 (List.replicate (2 ^ 19) 0)).wf = true ∧
    (Instr.copyData 0 0 0 0 0 (List.replicate (2 ^ 19 + 1) 0)).wf = false :=
  ⟨(copyData_wf _).trans (by decide), (copyData_wf _).trans (by decide)⟩
theorem wf_manifest : (Instr.manifest 0 0 0 [⟨1, 0, 4096, 0, 0⟩]).wf = true ∧
    (Instr.manifest 0 0 0 (List.replicate 64 ⟨1, 0, 4096, 0, 0⟩)).wf = false := by decide +kernel
theorem wf_registers : (Instr.regWrite 0 4 15 0).wf = true ∧ (Instr.regWrite 0 6 15 0).wf = false ∧ (Instr.readClear 0 3).wf = false ∧
    (Instr.aliasWrite 0 0x7FFFC 31 15 1).wf = true ∧ (Instr.aliasWrite 0 0x80000 0 15 1).wf = false ∧
    (Instr.aliasWrite 0 2 0 15 1).wf = false ∧ (Instr.clSlotWrite 0 0 5 0).wf = false := by decide
theorem wf_alarms : (Instr.secAlarm 0 0 8).wf = true ∧ (Instr.secAlarm 0 0 9).wf = false := by decide
theorem wf_recovery : (Instr.flashRecoveryPortAccess true 0 [1] 1).wf = true ∧ (Instr.flashRecoveryPortAccess true 0 [1] 2).wf = false ∧
    (Instr.flashRecoveryPortAccess false 0 [1] 1).wf = false := by decide
theorem wf_config : (Instr.configRequestAbsent 255).wf = true ∧ (Instr.configRequestAbsent 256).wf = false := by decide

/-- Words of another engine, of another operation and of another mode; the last holds POOL = 1. -/
theorem wf_wide : (Instr.mxGemm 0 0 (wide 0 1 [0, 1, 3] 0)).wf = true ∧ (Instr.mxGemm 0 0 (wide 1 1 [0, 1, 3] 0)).wf = false ∧
    (Instr.mxGemm 0 0 (wide 0 2 [0, 1, 3] 0)).wf = false ∧ (Instr.mxConv 0 0 (wide 0 3 [0, 1, 3] (2 ^ 108))).wf = false ∧
    (Instr.averagePooling 0 0 (wide 0 3 [0, 1, 3] (2 ^ 108))).wf = true := by decide +kernel

/-! ## Results the spec's examples give -/

/-- The example behind R156: a block whose largest magnitude is 100 takes scale code 0x7D; 100 and 0.01 become 0x7C and
0x12. -/
theorem test_mxfp8_block : mxBlock 3 (fun _ => rne) [.fin 100, .fin (1 / 100)] = (0x7D, [0x7C, 0x12], ⟨0, 0⟩) := by decide +kernel

/-- The examples behind R157: amax 3.5 gives 0x30, amax 3.6 gives 0x31, and 1.2 becomes 2 in both. -/
theorem test_gk4_blocks : gkBlock (fun _ => rne) [.fin (7 / 2), .fin (6 / 5)] = (0x30, [7, 2], ⟨0, 0⟩) ∧
    (gkBlock (fun _ => rne) [.fin (18 / 5), .fin (6 / 5)]).1 = 0x31 ∧
    (gkBlock (fun _ => rne) [.fin (18 / 5), .fin (6 / 5)]).2.1 = [6, 2] := by decide +kernel

/-- The example behind R161: 1 + 2^-8 with the first draw of seed 0 becomes 0x3F81 in BF16, and 0x3F80 to nearest even. -/
theorem test_stochastic_rounding : drawWord 0 0 0 0 0 = 0x6627E8D5 ∧ (fBF16.conv ⟨2, drawWord 0 0 0 0 0⟩ (.fin (257 / 256))).1 = 0x3F81 ∧
    (fBF16.conv rne (.fin (257 / 256))).1 = 0x3F80 := by decide +kernel

/-- The example behind R383: R = 16, G1 = 8, G2 = 2. -/
theorem test_trees : let c : ClSlot := ⟨0, 16, 8, 2, 1, 1, 0, [], none, [], [], none⟩
    c.tree false 0 = (none, [1, 2, 3, 4, 5, 6, 7, 8]) ∧ c.tree true 15 = (none, [8, 9, 10, 11, 12, 13, 14, 7]) := by
  decide +kernel

/-- Table 13.6: three slot rows of expert 5, base row 3; ranks 0, 1 and 3 ask for 2, 2 and 1. -/
theorem test_grants : ((placeRows 1 3 3 false 0 [(0, 2), (1, 2), (2, 0), (3, 1)]).1.map fun g => (g.src, g.first, g.placed)) =
    [(0, 3, 2), (1, 5, 1), (2, 6, 0), (3, 6, 0)] := by decide +kernel

/-- The example behind R451: the alias word 0x448387C is bit 31 of the register at 0x9070. -/
theorem test_alias_word : placeOfOff 0x448387C = .alias_ 0x9070 31 := by decide +kernel

/-- The packed row behind R264: positions 0 to 3 carry segment 1, 4 to 8 segment 2, 9 carries PAD; CBLK is 1, then 4. -/
def keysOf (cb q : Nat) : List Nat :=
  let mark (p : Nat) : Option Nat := some (if p < 4 then 1 else if p < 9 then 2 else 0x80000000)
  (List.range 10).filter fun p => keyAdmitted (wide 0 0x10 [] (cb * 2 ^ 51)) 10 q p && marksMeet (mark p) (mark q)

theorem test_packed_row : keysOf 1 6 = [4, 5, 6] ∧ keysOf 1 3 = [0, 1, 2, 3] ∧ keysOf 1 9 = [] ∧ keysOf 4 6 = [4, 5, 6, 7] ∧
    keysOf 4 2 = [0, 1, 2, 3] := by decide +kernel

/-! ## States that meet the premises of the statements -/

/-- NumberFormats: in FP16, code 0 and the largest finite code. -/
theorem wit_NumberFormats : ∃ f, fltOf 9 = some f ∧ 0x7BFF < 2 ^ fmtBits 9 ∧
    (f.val 0).isNan = false ∧ (f.val 0).isInf = false ∧ (f.val 0x7BFF).isNan = false ∧ (f.val 0x7BFF).isInf = false := by
  exact ⟨_, rfl, by decide +kernel⟩

/-- StepRunsTheFrontCommand: an empty queue. -/
theorem wit_StepRunsTheFrontCommand : State.reset.pending = [] := by decide +kernel

/-- AluResults, Immediates, BranchesAndJumps and DescriptorsAndCsrs: a context that may issue; a zero divisor and another. -/
theorem wit_AluResults : code.fetches 0 0 4 ∧ code.g 0 0 1 = 0 ∧ (codeG 1 1).fetches 0 0 4 ∧ (codeG 1 1).g 0 0 1 ≠ 0 :=
  ⟨code_fetches.1, by decide +kernel, fetches_of (by decide +kernel), by decide +kernel⟩

theorem wit_Immediates : code.fetches 0 0 4 := code_fetches.1

/-- Equal registers, and a smaller one. -/
theorem wit_BranchesAndJumps : code.fetches 0 0 4 ∧ code.g 0 0 1 = code.g 0 0 2 ∧ (codeG 1 (-1)).fetches 0 0 4 ∧
    ((codeG 1 (-1)).g 0 0 1).toInt < ((codeG 1 (-1)).g 0 0 2).toInt :=
  ⟨code_fetches.1, by decide +kernel, fetches_of (by decide +kernel), by decide +kernel⟩

theorem wit_DescriptorsAndCsrs : code.fetches 0 0 4 := code_fetches.1

/-- LoadsWait: offsets 8 and 4 of a zero register; the store buffer empty, and one that reaches memory. -/
theorem wit_LoadsWait : code.fetches 0 0 4 ∧ (code.g 0 0 1 + BitVec.ofInt 64 (8 : BitVec 16).toInt).toNat % 8 = 0 ∧
    (code.g 0 0 1 + BitVec.ofInt 64 (4 : BitVec 16).toInt).toNat % 4 = 0 ∧ (code.ctx 0 0).stores = [] ∧
    (let s := job fun c => { c with stores := [⟨0x10, 8, 1⟩] }
     s.fetches 0 0 4 ∧ ∃ u, (s.begun 0 0).drainStores 0 0 = .ok u) :=
  ⟨code_fetches.1, by decide +kernel, by decide +kernel, by decide +kernel, fetches_of (by decide +kernel), ⟨_, rfl⟩⟩

/-- LoadsComplete: each kind of load, from T1, to g0 and to another register. -/
theorem wit_LoadsComplete : ∀ l ∈ ([⟨.ld, 0, 8, false⟩, ⟨.lw, 1, 4, false⟩, ⟨.lwu, 31, 4, false⟩, ⟨.tdld, 63, 32, false⟩] : List PendLoad),
    let s := job fun c => { c with load := some l }
    (s.ctx 0 0).load = some l ∧ (∃ bs, s.vaRead 0 l.va.toNat l.kind.size = .ok bs) ∧
      s.waitsRow 0 l.va.toNat l.kind.size = false ∧ (s.chan[(0 : Fin 8)]).mem.tlb.length < 4096 ∧
      ∀ i, i < l.kind.size → ∃ f a, s.translate 0 (l.va.toNat + i) = .ok (f, a) ∧ f.tier = .t1 := by
  intro l hl
  simp only [List.mem_cons, List.not_mem_nil, or_false] at hl
  have key : ∀ (s : State) (n : Nat) (va : Nat), (List.range n).all (fun i => match s.translate 0 (va + i) with
      | .ok (f, _) => f.tier == .t1
      | .error _ => false) = true → ∀ i, i < n → ∃ f a, s.translate 0 (va + i) = .ok (f, a) ∧ f.tier = .t1 := by
    intro s n va h i hi
    have := List.all_eq_true.1 h i (List.mem_range.2 hi)
    revert this
    cases hx : s.translate 0 (va + i) with
    | error e => simp
    | ok r => obtain ⟨f, a⟩ := r; intro h; exact ⟨f, a, rfl, by simpa using h⟩
  rcases hl with rfl | rfl | rfl | rfl <;>
    exact ⟨by decide +kernel, ⟨_, rfl⟩, by decide +kernel, by decide +kernel, key _ _ _ (by decide +kernel)⟩

/-- StoresAndLocalStore: a mapped address for each width; the last 8 bytes of the local store. -/
theorem wit_StoresAndLocalStore :
    let s := codeG 1 0x0BFFFFF8
    code.fetches 0 0 4 ∧ ((code.begun 0 0).vaPlaces 0 8 8).isOk = true ∧ ((code.begun 0 0).vaPlaces 0 4 4).isOk = true ∧
      ((code.begun 0 0).vaPlaces 0 32 32).isOk = true ∧ s.fetches 0 0 4 ∧ (s.g 0 0 1).toNat % 8 = 0 ∧
      (s.g 0 0 1).toNat + 8 ≤ 0x0C000000 :=
  ⟨code_fetches.1, by decide +kernel, by decide +kernel, by decide +kernel, fetches_of (by decide +kernel), by decide +kernel⟩

/-- SemaphoreInstructions: sums of 65,535 and 65,536, a semaphore without an owner and one of the context, a covered count
and one that is one short. -/
theorem wit_SemaphoreInstructions :
    (∀ m ∈ ([⟨65534, 0, none⟩, ⟨65535, 0, some 0⟩, ⟨1, 0, none⟩, ⟨0, 0, none⟩] : List Sem),
      (codeSem 7 m).fetches 0 0 4 ∧ (codeSem 7 m).noWaiters 0) ∧
    65534 + (1 : BitVec 8).toNat ≤ 65535 ∧ 65535 < 65535 + (1 : BitVec 8).toNat ∧
    (1 : BitVec 8).toNat + (codeSem 7 ⟨1, 0, none⟩).claimed 0 7 ≤ 1 ∧ 0 < (1 : BitVec 8).toNat := by
  refine ⟨?_, by decide +kernel, by decide +kernel, by decide +kernel, by decide +kernel⟩
  intro m hm
  simp only [List.mem_cons, List.not_mem_nil, or_false] at hm
  rcases hm with rfl | rfl | rfl | rfl <;> exact ⟨fetches_of (by decide +kernel), noWaiters_of (by decide +kernel)⟩

/-- ControlInstructions: nothing queued, and an entry of the context queued. -/
theorem wit_ControlInstructions :
    let s := code.modQ 0 6 fun q => { q with waiting := [ent 6 0] }
    code.fetches 0 0 4 ∧ code.entriesOf 0 0 = [] ∧ s.fetches 0 0 4 ∧ (s.ctx 0 0).stores = [] ∧ s.entriesOf 0 0 ≠ [] ∧
      (s.entriesOf 0 0).any (fun e => e.eng == 6) = true :=
  ⟨code_fetches.1, by decide +kernel, fetches_of (by decide +kernel), by decide +kernel⟩

/-- ScalarThreadStops: a word of no instruction, the first reserved encodings, misaligned addresses, the first offset past
the local store, and another context's semaphore. -/
theorem wit_ScalarThreadStops :
    let s := codeG 1 0x0C000000
    let o := codeSem 7 ⟨0, 0, some 15⟩
    code.fetches 0 0 4 ∧ bits (0 : BitVec 512).toNat 31 26 ≠ 0x3F ∧ scalarIllegal (bits (0x7C000000 : BitVec 512).toNat 31 0) = true ∧
      bits (0xC0 : BitVec 16).toNat 7 6 = 3 ∧ bits (0x100 : BitVec 16).toNat 15 8 ≠ 0 ∧
      (16 : Nat) ≤ (16 : BitVec 16).toNat ∧ 0xB ≤ (0xB : BitVec 16).toNat ∧ (0xE : BitVec 16).toNat ≤ 0xE ∧
      (code.g 0 0 1 + BitVec.ofInt 64 (4 : BitVec 16).toInt).toNat % 8 ≠ 0 ∧
      (code.g 0 0 1 + BitVec.ofInt 64 (2 : BitVec 16).toInt).toNat % 4 ≠ 0 ∧
      s.fetches 0 0 4 ∧ (s.g 0 0 1).toNat % 8 = 0 ∧ 0x0C000000 < (s.g 0 0 1).toNat + 8 ∧
      o.fetches 0 0 4 ∧ ((o.chan[(0 : Fin 8)]).sem[(7 : Fin 256)]).owner = some 15 ∧ (15 : Nat) ≠ (0 : Fin 16).val := by
  refine ⟨code_fetches.1, by decide +kernel, by decide +kernel, by decide +kernel, by decide +kernel, by decide +kernel,
    by decide +kernel, by decide +kernel, by decide +kernel, by decide +kernel, fetches_of (by decide +kernel), by decide +kernel,
    by decide +kernel, fetches_of (by decide +kernel), by decide +kernel, by decide +kernel⟩

/-- SemaphoreTimeoutAndHostWrite. -/
theorem wit_SemaphoreTimeoutAndHostWrite :
    let s := (on.setF 0 R.CH_SEM_WAITLIM_LIMIT 1).modX 0 0 fun c => { c with st := .waitSem }
    (s.f 0 R.CH_SEM_WAITLIM_LIMIT ≠ 0 ∧ s.fenced = false) ∧ (s.ctx 0 0).st = .waitSem ∧ on.f 0 R.CH_SEM_WAITLIM_LIMIT = 0 ∧
      (on.reaches 1 ∧ on.noWaiters 0) ∧ (on.chan[(0 : Fin 8)]).power.st = .run ∧ (on.chan[(0 : Fin 8)]).power.move = .none :=
  ⟨⟨by decide +kernel, by decide +kernel⟩, by decide +kernel, by decide +kernel, ⟨on_reaches.2.1, noWaiters_of (by decide +kernel)⟩,
    by decide +kernel⟩

/-- SuppliesAndPerst: the last supply that returns; Off; held in reset by PERST#. -/
theorem wit_SuppliesAndPerst :
    let s := State.reset.modP fun p => { p with cond := .unpowered, vaux := false }
    let o := State.reset.modP fun p => { p with cond := .off }
    let r := State.reset.modP fun p => { p with cond := .inReset, pins := { p.pins with perst := true } }
    (s.pkg.cond = .unpowered ∧ (s.setSupply .vaux true).supplied = true ∧ s.pkg.pins.perst = false) ∧
      on.pkg.cond ≠ .unpowered ∧ on.hubOn = true ∧ (r.pkg.cond = .inReset ∧ r.supplied = true) ∧
      (on.pkg.vstby = true ∧ on.pkg.fld R.HUB_PIN_STAT_WAKE_STUCK = 0 ∧ on.pkg.cond ≠ .off) ∧
      (o.pkg.vstby = true ∧ o.pkg.fld R.HUB_PIN_STAT_WAKE_STUCK = 0 ∧ o.pkg.cond = .off ∧ o.pkg.pins.perst = false) := by
  decide +kernel

/-- StartUpEnds: the state right after reset; two failures and three. -/
theorem wit_StartUpEnds :
    let f (n : Nat) := State.reset.modP fun p => { p with cond := .failed, startFails := n }
    (State.reset.pkg.cond = .starting ∧ State.reset.pkg.pins.held = false ∧ State.reset.supplied = true ∧
      State.reset.pkg.pins.perst = false ∧ State.reset.pkg.startFails < 3) ∧ ((f 2).pkg.cond = .failed ∧ (f 2).pkg.startFails < 3) ∧
      ((f 3).pkg.cond = .failed ∧ 3 ≤ (f 3).pkg.startFails) := by
  decide +kernel

/-- HostPort: a running package; the first number that is no function; a function that is not present before start-up. -/
theorem wit_HostPort : on.runs = true ∧ 9 ≤ 9 ∧ State.reset.present 8 = false := by decide +kernel

/-- FunctionLevelResets. -/
theorem wit_FunctionLevelResets :
    let r := on.modC 0 fun c => { c with inReset := true }
    (on.present (pfOf 0) = true ∧ on.live 0 = true ∧ (on.chan[(0 : Fin 8)]).inReset = false) ∧
      (r.runs = true ∧ r.live 0 = true ∧ (r.chan[(0 : Fin 8)]).inReset = true ∧ (r.pwr 0).thermTrip = false ∧ r.locked = false) ∧
      on.present 0 = true := by
  decide +kernel

/-- ChannelsLost: a live channel, and one that is not. -/
theorem wit_ChannelsLost : on.live 7 = true ∧ (on.modP (·.wr 0x14 0)).live 7 = false := by decide +kernel

/-- ThermalLimits: the four bounds (64 codes are 0 degrees). -/
theorem wit_ThermalLimits :
    let h := on.modC 0 fun c => { c with power := { c.power with thermHold := true } }
    let t := on.modC 0 fun c => { c with inReset := true, power := { c.power with thermTrip := true } }
    (on.up 0 = true ∧ (on.pwr 0).thermHold = false ∧ 169 ≤ (169 : BitVec 8).toNat) ∧
      (h.up 0 = true ∧ (h.pwr 0).thermHold = true ∧ (163 : BitVec 8).toNat < 164) ∧
      (on.live 0 = true ∧ on.runs = true ∧ (on.pwr 0).thermTrip = false ∧ 184 ≤ (184 : BitVec 8).toNat ∧
        (on.chan[(0 : Fin 8)]).inReset = false) ∧
      (t.live 0 = true ∧ (t.pwr 0).thermTrip = true ∧ (153 : BitVec 8).toNat < 154 ∧ t.locked = false) := by
  decide +kernel

/-- InputPins: an idle pin, one that is active and one that is stuck. -/
theorem wit_InputPins :
    (on.pkg.vstby = true ∧ on.hubOn = true) ∧ on.pkg.fld R.HUB_PIN_STAT_ALERT_STUCK = 0 ∧ on.pkg.fld R.HUB_PIN_STAT_ALERT_ACT = 0 ∧
      ∀ pin ∈ ([.wakeN, .tickIn, .alertN] : List Pin),
        (let a := on.modP (·.setFld (pinFlds pin).1 1)
         (a.pkg.vstby = true ∧ a.hubOn = true) ∧ a.pkg.fld (pinFlds pin).1 = 1) ∧
        (let a := on.modP (·.setFld (pinFlds pin).2 1)
         (a.pkg.vstby = true ∧ a.hubOn = true) ∧ a.pkg.fld (pinFlds pin).2 = 1) := by
  decide +kernel

/-- PackageOff: all channels quiet, and one with a running context. -/
theorem wit_PackageOff :
    let quiet (s : State) : Bool := (List.finRange 8).all fun c => !s.up c || s.quiet c
    (on.reaches 0 ∧ code.reaches 0) ∧ (∀ s ∈ [on, code], s.runs = true ∧ s.pkg.vstby = true ∧ s.mouldState ≠ mouldStoring) ∧
      quiet on = true ∧ quiet code = false ∧ (0x80000000 : BitVec 32).getLsbD 31 = true ∧
      bits (0x80000000 : BitVec 32).toNat 23 8 ≠ 0x0FF0 :=
  ⟨⟨on_reaches.1, reaches_of (by decide +kernel)⟩, by decide +kernel⟩

/-- LeaseEpochs: the gate's epoch 5 held by GW: above, equal from the holder, equal from GE, below; a passive GE and the
last epoch but one; gaffers that wait out a split. -/
theorem wit_LeaseEpochs :
    let s := on.modP fun p => (p.setFld R.GAF_LEASE_EPOCH 5).setFld R.GAF_LEASE_STATUS_HOLDER 0
    let w := s.modP fun p => { p with lease := { p.lease with gwWaits := true, geWaits := true } }
    let top := on.modP (·.setFld R.GAF_LEASE_EPOCH 0xFFFFFFFE)
    let pv := s.modP (·.setFld R.GAF_LEASE_STATUS_GE_PASSIVE 1)
    (pv.gafReset .ge = false ∧ pv.pkg.fld R.GAF_LEASE_STATUS_GE_PASSIVE = 1) ∧ (s.gafReset .gw = false ∧ s.gafReset .ge = false ∧ w.gafReset .gw = false ∧ w.gafReset .ge = false ∧ top.gafReset .gw = false) ∧
      s.pkg.fld R.GAF_LEASE_EPOCH < (6 : BitVec 32).toNat ∧ s.pkg.fld R.GAF_LEASE_EPOCH = (5 : BitVec 32).toNat ∧
      s.holder = .gw ∧ (4 : BitVec 32).toNat < s.pkg.fld R.GAF_LEASE_EPOCH ∧ s.pkg.fld R.GAF_LEASE_STATUS_GE_PASSIVE ≠ 1 ∧
      s.pkg.lease.gwWaits = false ∧ s.pkg.lease.geWaits = false ∧ w.pkg.lease.gwWaits = true ∧ w.pkg.lease.geWaits = true ∧
      0xFFFFFFFE ≤ top.pkg.fld R.GAF_LEASE_EPOCH := by
  decide +kernel

/-- LeaseSplit: two windows with both gaffers; a split with one gaffer heard; the 9th boundary and the one before; resets
10,000 ms apart. -/
theorem wit_LeaseSplit :
    let b := on.modP fun p => { p with lease := { p.lease with gwSeen := true, geSeen := true, bothBefore := true } }
    let sp (n : Nat) (g : Bool) := on.modP fun p =>
      let p := { p with lease := { p.lease with gwSeen := true, geSeen := g, resets := [5000, 0] } }
      (p.setFld R.GAF_LEASE_STATUS_SPLIT 1).setFld R.GAF_LEASE_STATUS_SPLIT_TICKS n
    (b.split = false ∧ b.pkg.lease.gwSeen = true ∧ b.pkg.lease.geSeen = true ∧ b.pkg.lease.bothBefore = true) ∧
      ((sp 0 false).split = true ∧ (sp 0 false).pkg.lease.gwSeen ≠ (sp 0 false).pkg.lease.geSeen) ∧
      (on.split = false ∧ (on.pkg.lease.gwSeen && on.pkg.lease.geSeen && on.pkg.lease.bothBefore) = false) ∧
      ((sp 0 true).split = true ∧ (sp 0 true).pkg.lease.gwSeen = (sp 0 true).pkg.lease.geSeen) ∧
      ((sp 9 true).split = true ∧ 9 ≤ (sp 9 true).pkg.fld R.GAF_LEASE_STATUS_SPLIT_TICKS) ∧
      ((10000 :: (sp 9 true).pkg.lease.resets).take 3 = [10000, 5000, 0] ∧ 10000 ≤ 0 + 10000) ∧
      (sp 8 true).pkg.fld R.GAF_LEASE_STATUS_SPLIT_TICKS < 9 ∧ on.reaches 0 :=
  ⟨by decide +kernel, by decide +kernel, by decide +kernel, by decide +kernel, by decide +kernel, by decide +kernel,
    by decide +kernel, on_reaches.1⟩

/-- GaffersReset: a channel of GW's half that changes state, alone, and one asleep while its gaffer is in reset, with and
without a wake event held. -/
theorem wit_GaffersReset :
    let m := on.modC 3 fun c => { c with power := { c.power with st := .idle, move := .entry .sleep } }
    let z := (on.modC 3 fun c => { c with power := { c.power with st := .sleep } }).modP fun p => { p with gwReset := true }
    let k := z.modP fun p => { p with heldWakes := [((3 : Fin 8).val, 5)] }
    (k.pkg.heldWakes = [((3 : Fin 8).val, 5)] ∧ k.up 3 = true ∧ k.fenced = false ∧ k.place 3 ≠ 0xE ∧ (k.pwr 3).st ≠ .run ∧
      (k.pwr 3).move = .none) ∧
    (∀ d ∈ gafHalf .gw, d ≠ 3 → (m.pwr d).move = .none) ∧ ((3 : Fin 8) ∈ gafHalf .gw ∧ (m.pwr 3).move ≠ .none ∧ (4 : Fin 8) ∉ gafHalf .gw) ∧
      (z.gafReset .gw = true ∧ (1 : Fin 8) ≠ 0 ∧ z.up 3 = true ∧ z.fenced = false ∧ z.place 3 ≠ 0xE ∧ (z.pwr 3).st ≠ .run ∧
        (z.pwr 3).move = .none ∧ ∀ x ∈ z.pkg.heldWakes, x.1 ≠ (3 : Fin 8).val) ∧
      ∀ c ∈ gafHalf .gw, ∀ x ∈ z.pkg.heldWakes, x.1 ≠ c.val := by
  decide +kernel

/-! ### Wide instructions -/

/-- A tensor descriptor (Table 2.8) with rows of 64 bytes. -/
def desc (space fmt : Nat) (base : Nat) (ext : List Nat) (seg : Bool := false) : Desc :=
  let rank := ext.length - 1
  let e (d : Nat) := ext.getD d 0
  BitVec.ofNat 256 (1 + space * 2 + fmt * 8 + rank * 128 + (if seg then 2048 else 0) + base / 64 * 2 ^ 14 + e 0 * 2 ^ 64 +
    e 1 * 2 ^ 84 + e 2 * 2 ^ 104 + e 3 * 2 ^ 128 + (if space != 3 && 1 ≤ rank then 2 ^ 160 else 0) +
    (if space != 3 && 2 ≤ rank then 2 ^ 192 else 0) + if space != 3 && 3 ≤ rank then 2 ^ 224 else 0)

/-- Descriptors from number 0 on. -/
def descs (l : List Desc) : Vector Desc 64 := Vector.ofFn fun n : Fin 64 => l.getD n.val 0

/-- A 32-bit tensor of the local store at a base; one in BF16. -/
def ints (base : Nat) (ext : List Nat) (seg : Bool := false) : Desc := desc 1 0xD base ext seg
def halfs (base : Nat) (ext : List Nat) : Desc := desc 1 8 base ext

/-- For each row that is a wide instruction: a command of it, and descriptors. ARR is 2^8; SHP1 with the immediate 1 is
2^142 + 2^120; STAT of descriptor 6 is 2^294 + 6 * 2^288. -/
def wideRows : List ((Wide → Instr) × Wide × List Desc) :=
  let ab : List Desc := [halfs 0 [1, 1], halfs 64 [1, 1], 0, halfs 128 [1, 1]]
  let conv : List Desc := [halfs 0 [1, 1, 1], halfs 64 [1, 1, 1], 0, halfs 128 [1, 1, 1]]
  let at_ : List Desc := [halfs 0 [1, 1, 1, 1], desc 3 8 64 [1, 1], 0, halfs 128 [1, 1, 1, 1]]
  let scale := 0x3F800000 + 2 ^ 51
  let stat := 2 ^ 294 + 6 * 2 ^ 288
  let stats : List Desc := [halfs 0 [1, 1], 0, 0, halfs 128 [1, 1], 0, 0, desc 1 0xA 256 [4, 1]]
  let argm : List Desc := [halfs 0 [1, 1], ints 64 [1], 0, ints 128 [1, 1]]
  let i1 : List Desc := [ints 0 [1], ints 64 [1], ints 128 [1], ints 192 [1]]
  let i2 : List Desc := [ints 0 [1], ints 64 [1], 0, ints 192 [1, 1]]
  let vec : List Desc := [halfs 0 [1], 0, 0, halfs 128 [1]]
  let gt : List Desc := [ints 0 [4, 1], ints 64 [16, 1], 0, halfs 128 [1, 1, 1], ints 192 [1, 1] true]
  [(.mxGemm 0 0, wide 0 1 [0, 1, 3] 0, ab), (.mxGemv 0 0, wide 0 2 [0, 1, 3] 0 (2 ^ 8), ab),
   (.mxConv 0 0, wide 0 3 [0, 1, 3] 0x010101, conv), (.averagePooling 0 0, wide 0 3 [0, 3] (0x010101 + 2 ^ 108), conv),
   (.maximumPooling 0 0, wide 0 3 [0, 3] (0x010101 + 2 * 2 ^ 108), conv),
   (.atPrefill 0 0, wide 0 0x10 [0, 1, 3] scale, at_), (.atDecode 0 0, wide 0 0x11 [0, 1, 3] scale (2 ^ 8), at_),
   (.atDecodeGq 0 0, wide 0 0x12 [0, 1, 3] scale (2 ^ 8), at_),
   (.epMapPass 0 0, wide 1 1 [0, 3] 0, ab), (.epMapAdd 0 0, wide 1 1 [0, 1, 3] 1, ab), (.epMapMul 0 0, wide 1 1 [0, 1, 3] 2, ab),
   (.smaxNorm 0 0, wide 1 1 [0, 3] 3 stat, stats), (.rmsNorm 0 0, wide 1 1 [0, 3] 4 stat, stats),
   (.epReduceSum 0 0, wide 1 2 [0, 3] 0, ab), (.epReduceMax 0 0, wide 1 2 [0, 3] 1, ab), (.epReduceMin 0 0, wide 1 2 [0, 3] 2, ab),
   (.sumsq 0 0, wide 1 2 [0, 3] 3, ab), (.amax 0 0, wide 1 2 [0, 3] 4, ab), (.argmax 0 0, wide 1 2 [0, 3] 5, argm),
   (.lse 0 0, wide 1 2 [0, 3] 6, ab), (.epSample 0 0, wide 1 3 [0, 1, 3] 0, argm),
   (.ftFork 0 0, wide 2 1 [0, 3] 0, i2), (.ftPrune 0 0, wide 2 2 [0, 1, 3] 1, [ints 0 [1], halfs 64 [1], 0, ints 192 [1]]),
   (.ftLookupRead 0 0, wide 2 3 [0, 3] 0, [ints 0 [1], 0, 0, desc 3 8 64 [1, 1]]),
   (.ftLookupReserve 0 0, wide 2 3 [0, 1, 2] 1, [ints 0 [1], ints 64 [1, 1], ints 128 [1]]),
   (.ftLookupCommit 0 0, wide 2 3 [0] 2 (2 ^ 142 + 2 ^ 120), i1), (.ftLookupInfo 0 0, wide 2 3 [0, 3] 3, [ints 0 [1], 0, 0, ints 192 [16, 1]]),
   (.ftPinPin 0 0, wide 2 4 [0] 0, i1), (.unpin 0 0, wide 2 4 [0] 1, i1), (.ftPinRelease 0 0, wide 2 4 [0] 2, i1),
   (.detach 0 0, wide 2 4 [0] 3, i1), (.adopt 0 0, wide 2 4 [0] 4, i1), (.setPunty 0 0, wide 2 4 [0, 1] 5, i1),
   (.rcChunk 0 0, wide 3 1 [0, 2] 0, [ints 0 [1], 0, halfs 64 [1, 1, 1]]), (.rcFlush 0 0, wide 3 5 [0, 2] 0, [ints 0 [1], 0, halfs 64 [1, 1, 1]]),
   (.rcStep 0 0, wide 3 2 [0, 2] 0, [ints 0 [1], 0, halfs 64 [1, 1, 1]]),
   (.rcExportCopy 0 0, wide 3 3 [0, 3] 0, i2), (.rcExportMove 0 0, wide 3 3 [0, 3] 1, i2), (.rcExportFree 0 0, wide 3 3 [0] 2, i2),
   (.rcImportRecord 0 0, wide 3 4 [0, 2, 3] 0, [ints 0 [1, 1], 0, desc 1 0xC 64 [1, 1], ints 128 [1]]),
   (.rcImportZero 0 0, wide 3 4 [2, 3] 1, [0, 0, desc 1 0xC 64 [1, 1], ints 128 [1]]),
   (fun w => .lsCopy 0 0 0 w, wide 6 1 [0, 3] 0, ab), (fun w => .writeback 0 0 1 w, wide 7 1 [0] 1, ab),
   (fun w => .prefetch 0 0 2 w, wide 8 1 [0] 2, ab), (fun w => .lsFill 0 0 3 w, wide 9 2 [3] 0, ab),
   (.clReduceAllreduce 0 0, wide 4 1 [0, 3] (2 ^ 8), vec), (.reduceScatter 0 0, wide 4 1 [0, 3] (2 ^ 8 + 2 ^ 4), vec),
   (.clBcast 0 0, wide 4 2 [0, 3] (2 ^ 8), vec), (.clAllgather 0 0, wide 4 3 [0, 3] (2 ^ 8), vec),
   (.clAlltoall 0 0, wide 4 4 [0, 3] (2 ^ 8), vec),
   (.exDispatch 0 0, wide 5 1 [0, 1, 2, 3, 4, 5] (2 ^ 4 + 2 ^ 16),
     [halfs 0 [1, 1], ints 64 [1, 1], ints 128 [1, 1], halfs 192 [1, 1], ints 256 [2, 1], ints 320 [1]]),
   (.exCombine 0 0, wide 5 2 [0, 1, 2, 3, 4, 5] (2 ^ 4 + 2 ^ 16),
     [halfs 0 [1, 1], ints 64 [2, 1], desc 1 0xA 128 [1, 1], halfs 192 [1, 1], ints 256 [1, 1], halfs 320 [1, 1]]),
   (.batch 0 0, wide 0xA 1 [0, 1, 3, 4] 0, gt), (.live 0 0, wide 0xA 1 [0, 1, 3, 4] 1, gt)]

/-- The premises of WideJoinsItsQueue for a row: its words fit it, every check of R58 passes, the work at issue succeeds and
the queue has room. -/
def joins (x : (Wide → Instr) × Wide × List Desc) : Bool :=
  let w := x.2.1
  let s := job fun c => { c with td := descs x.2.2 }
  match (x.1 w).wideRow with
  | none => false
  | some (ch, jc, v, r) =>
    (ch, jc, v) == (0, 0, w) && r.fits w && s.canIssue 0 0 && (s.vaRead 0 0 64).isOk &&
      match Iss.checks ⟨s.begun 0 0, 0, 0, w, (s.ctx 0 0).td, 0, []⟩ (formOf w), (s.begun 0 0).drainStores 0 0 with
      | .ok k, .ok u => ((formOf w).atIssue { k with s := u }).isOk && (u.eq 0 (engOf (bits w.toNat 23 20))).room 0
      | _, _ => false

theorem wideRows_all : (wideRows.map fun x => (x.1 x.2.1).wideRow.map (·.2.2.2)).Nodup ∧ wideRows.length = 54 := by decide +kernel

/-- WideJoinsItsQueue: every row that is a wide instruction, with room. -/
theorem wit_WideJoinsItsQueue : wideRows.all joins = true := by decide +kernel

/-- An entry's own place in the order of issue. -/
def nth (n jc : Nat) : Entry := { ent 6 0 with order := n, jc := jc }

/-- WideJoinsItsQueue without room (32 shared entries and 2 of its own), and a context in WAIT_QUEUE. -/
theorem wit_WideJoinsItsQueue_full :
    let w := wide 6 1 [0, 3] 0
    let s := (job fun c => { c with td := descs [halfs 0 [1, 1], 0, 0, halfs 128 [1, 1]] }).modQ 0 6 fun q =>
      { q with waiting := (List.range 34).map fun n => nth n 0 }
    let r := job fun c => { c with st := .waitQueue, wide := w, td := descs [halfs 0 [1, 1], 0, 0, halfs 128 [1, 1]] }
    s.canIssue 0 0 = true ∧ (s.eq 0 (engOf (bits w.toNat 23 20))).room 0 = false ∧
      ((r.clocked 0 = true ∧ (r.ctx 0 0).st = .waitQueue ∧ (r.ctx 0 0).wide = w ∧ (r.eq 0 (engOf (bits w.toNat 23 20))).room 0 = true) ∧
        (r.vaRead 0 (r.ctx 0 0).pc.toNat 64).isOk = true) := by
  decide +kernel

/-- WideIssueFaults: an address that is no multiple of 64; SRC 3; a signal of 0; illegal words. -/
theorem wit_WideIssueFaults :
    let s := job fun c => { c with pc := 4 }
    let w := wide 6 2 [3] 0
    (s.canIssue 0 0 = true ∧ (s.vaRead 0 (s.ctx 0 0).pc.toNat 64).isOk = true ∧ ((s.pcOf 0 0).toNat % 2 ^ 32) % 64 ≠ 0) ∧
      (code.canIssue 0 0 = true ∧ (code.vaRead 0 (code.ctx 0 0).pc.toNat 64).isOk = true ∧
        ((code.pcOf 0 0).toNat % 2 ^ 32) % 64 = 0) ∧
      ((⟨6, 2, none⟩ : WideRow).fits w = true ∧ wideIllegal w = false) ∧
      (let v := wide 6 2 [3] 0 (3 * 2 ^ 118)
       (⟨6, 2, none⟩ : WideRow).fits v = true ∧ wideIllegal v = true) ∧
      (let v := wide 6 2 [3] 0 (2 ^ 336)
       (⟨6, 2, none⟩ : WideRow).fits v = true ∧ wideIllegal v = false ∧ semIllegal v = true) ∧
      (bits (wide 0xB 1 [] 0).toNat 31 26 = 0x3F ∧ wideIllegal (wide 0xB 1 [] 0) = true) := by
  decide +kernel

/-! ### Ticks, queues and scheduling -/

/-- TickBoundaries: a started tick; an edge at 10% of PERIOD and one past it; two silent boundaries; PERIOD at both bounds
through an open gate, a closed gate and a split. -/
theorem wit_TickBoundaries :
    let p := on.pkg.fld R.HUB_TICK_CFG_PERIOD
    let t := on.modP fun x => { x with tick := { x.tick with started := true } }
    let e := on.modP (·.setFld R.HUB_TICK_STAT_SRC_NOW 1)
    let h := on.modP fun x => { x.setFld R.HUB_TICK_STAT_SRC_NOW 1 with tick := { x.tick with silent := 2, met := false } }
    let m := t.modP fun x => { x with tick := { x.tick with adopt := some 77, latched := [⟨0, 0x100, 0x3001388⟩] } }
    (t.pkg.tick.started = true ∧ t.pkg.tick.adopt = none ∧ State.reset.pkg.tick.started = false) ∧
      (m.pkg.tick.started = true ∧ m.pkg.tick.adopt = some 77 ∧ m.pkg.tick.latched = [⟨0, 0x100, 0x3001388⟩] ∧ m.split = false ∧
        (m.modP (·.setFld R.GAF_LEASE_STATUS_SPLIT 1)).split = true) ∧
      (e.pkg.fld R.HUB_PIN_STAT_TICK_STUCK = 0 ∧ e.pkg.fld R.HUB_TICK_STAT_SRC_NOW = 1 ∧ e.pkg.tick.acquiring = false ∧
        (p : Int).natAbs ≤ e.pkg.fld R.HUB_TICK_CFG_PERIOD ∧ e.pkg.fld R.HUB_TICK_CFG_PERIOD < ((p : Int) + 1).natAbs) ∧
      (h.pkg.fld R.HUB_TICK_STAT_SRC_NOW ≠ 0 ∧ 1 ≤ h.pkg.tick.silent ∧ h.pkg.tick.met = false ∧ h.pkg.fld R.HUB_TICK_STAT_HOLDOVER = 0) ∧
      (on.pkg.fld R.HUB_TICK_STAT_SRC_NOW = 0 ∧ e.pkg.tick.silent = 0) ∧
      (on.reaches 0 ∧ leasedOn.reaches 0) ∧
      (bits (5000 : BitVec 32).toNat 23 0 = 5000 ∧ bits (10000000 : BitVec 32).toNat 23 0 = 10000000 ∧
        bits (0x2001388 : BitVec 32).toNat 25 24 ≠ 3) ∧
      (leasedOn.leaseValid = true ∧ leasedOn.split = false) ∧ on.leaseValid = false ∧ on.pkg.portUp = true := by
  exact ⟨by decide +kernel, by decide +kernel, by decide +kernel, by decide +kernel, by decide +kernel,
    ⟨on_reaches.1, reaches_of (by decide +kernel)⟩, by decide +kernel, by decide +kernel, by decide +kernel⟩

/-- A queue of LS0 of channel 0 with entries waiting. -/
def lsQ (l : List Entry) : State := code.modQ 0 6 fun q => { q with waiting := l }

/-- LS.FILL of one element of the local store. -/
def fill : Entry := { ent 6 (wide 6 2 [3] 0x5A) with td := descs [0, 0, 0, desc 1 6 128 [1]] }

/-- A started operation keeps the entry's words and engine. -/
def startsAs (s : State) (ch : ChIdx) (e : Entry) : Bool :=
  match (runOf e.word).start s ch e with
  | .ok (_, x) => x.word == e.word && !x.array && x.eng == e.eng
  | .error _ => false

/-- EntriesStart: a running entry, an empty queue, a no-op and an LS.FILL. -/
theorem wit_EntriesStart :
    let z : Entry := { fill with zero := some 0 }
    let run := mapped.modQ 0 6 fun q => { q with run := some fill }
    let may (s : State) (e : Entry) : Bool := s.clocked 0 && (s.eq 0 6).run.isNone && s.pick 0 6 == some e && s.mayHold 0 e &&
      !e.stopped && e.eng == 6
    (run.clocked 0 = true ∧ (run.eq 0 6).run.isSome = true) ∧ ((lsQ []).clocked 0 = true ∧ (lsQ []).pick 0 6 = none) ∧
      (may (lsQ [z]) z = true ∧ z.zero.isSome = true) ∧
      (may (lsQ [fill]) fill = true ∧ fill.zero = none ∧ fill.array = false ∧
        (let taken := (((lsQ [fill]).noteStart 0 fill).pullEntry 0 fill).takeWaits 0 fill.waits
         taken.ownerErr 0 { fill with started := true } (formOf fill.word) = none ∧ startsAs taken 0 { fill with started := true } = true)) := by
  decide +kernel

/-- EP.MAP of 17 rows of one element in the local store: two passes. -/
def map17 : Entry :=
  { ent 1 (wide 1 1 [0, 3] 0) with
      td := descs [halfs 0 [1, 17], 0, 0, halfs 2048 [1, 17]], size := [17, 1, 1, 1], started := true, going := true }

/-- A running EP entry of a running context. -/
def epRun (e : Entry) : State := code.modQ 0 1 fun q => { q with run := some e }

/-- PassesAndCompletion: a no-op, the first of two passes, the last; a fill of two passes. -/
theorem wit_PassesAndCompletion :
    let z : Entry := { map17 with zero := some 0 }
    let last : Entry := { map17 with pass := 1 }
    let ok (e : Entry) (more : Bool) : Bool :=
      let s := epRun e
      match (runOf e.word).before s 0 e with
      | .error _ => false
      | .ok (u, x) => match (runOf e.word).pass u 0 x 0 with
        | (v, y, none) => s.clocked 0 && e.eng == 1 && decide (e.jc < 16) && e.zero.isNone && e.going &&
            (if more then decide (x.pass + 1 < (runOf e.word).passes s 0 e) && decide (e.pass + 1 < (runOf e.word).passes s 0 e) &&
                (v.ctx 0 (jcOf y.jc)).st == .run && y.eng == 1 && !y.array
             else decide ((runOf e.word).passes s 0 e ≤ x.pass + 1) && y.eng == 1 && y.jc == e.jc &&
                decide ((v.ctx 0 (jcOf e.jc)).job = (s.ctx 0 (jcOf e.jc)).job))
        | (_, _, some _) => false
    let big : Entry := { fill with td := descs [0, 0, 0, desc 1 6 128 [2 ^ 20, 2]], size := [2 ^ 20, 2, 1, 1], started := true, going := true }
    let r := code.modQ 0 6 fun q => { q with run := some big }
    (r.clocked 0 = true ∧ (r.eq 0 6).run = some big ∧ big.eng = 6 ∧ big.jc < 16 ∧ big.zero = none ∧ wEng big.word = 6 ∧ big.op = 2 ∧
      (big.t 3).space = 1 ∧ fmtBits (big.t 3).fmt = 8 ∧ isBlock (big.t 3).fmt = false ∧ big.pass + 1 < big.lsPasses.length ∧
      (r.ctx 0 (jcOf big.jc)).st = .run) ∧
    ((epRun z).clocked 0 = true ∧ ((epRun z).eq 0 1).run = some z ∧ z.zero.isSome = true) ∧ ok map17 true = true ∧ ok last false = true := by
  decide +kernel

/-- CompletionRing: a FREE context and one that runs; RD up to WR and past it. -/
theorem wit_CompletionRing :
    let s := on.setF 0 (R.CH_JC_CQ_PTR_WR 0) 3
    (on.reaches 1 ∧ (on.ctx 0 0).st = .free) ∧ (code.reaches 1 ∧ (code.ctx 0 0).st ≠ .free ∧ (code.chan[(0 : Fin 8)]).rd 0x1008 ≠ 0x1000) ∧
      s.reaches 1 ∧
      (s.f 0 (R.CH_JC_CQ_PTR_WR 0) + 65536 - bits (0x30000 : BitVec 32).toNat 31 16) % 65536 ≤ s.cqUnread 0 0 ∧
      ((s.ctx 0 0).held = [] ∧ (s.ctx 0 0).st.stopping = false) ∧
      s.cqUnread 0 0 < (s.f 0 (R.CH_JC_CQ_PTR_WR 0) + 65536 - bits (0x40000 : BitVec 32).toNat 31 16) % 65536 := by
  exact ⟨⟨on_reaches.2.1, by decide +kernel⟩, ⟨reaches_of (by decide +kernel), by decide +kernel⟩, reaches_of (by decide +kernel),
    by decide +kernel, by decide +kernel, by decide +kernel⟩

/-- SubmissionQueues: a queue that is not enabled and one that is; RD up to WR and past it. -/
theorem wit_SubmissionQueues :
    let e := on.setF 0 (R.CH_SQ_BASE_HI_EN 0) 1
    let s := on.setF 0 (R.CH_SQ_JPTR_WR 0) 3
    let gap (v : BitVec 32) := (s.f 0 (R.CH_SQ_JPTR_WR 0) + 65536 - bits v.toNat 31 16) % 65536
    (on.reaches 1 ∧ e.reaches 1 ∧ s.reaches 1) ∧ (on.chan[(0 : Fin 8)]).power.st = .run ∧ (on.chan[(0 : Fin 8)]).power.move = .none ∧
      on.f 0 (R.CH_SQ_BASE_HI_EN 0) = 0 ∧ e.f 0 (R.CH_SQ_BASE_HI_EN 0) = 1 ∧
      bits (0x1000 : BitVec 32).toNat 31 12 ≠ e.f 0 (R.CH_SQ_BASE_LO_BASE_LO 0) ∧
      bits (1 : BitVec 32).toNat 23 0 ≠ e.f 0 (R.CH_SQ_BASE_HI_BASE_HI 0) ∧
      (bits (0 : BitVec 32).toNat 23 0 = e.f 0 (R.CH_SQ_BASE_HI_BASE_HI 0) ∧ bits (0 : BitVec 32).toNat 27 24 = e.f 0 (R.CH_SQ_BASE_HI_SIZE 0)) ∧
      gap 0x30000 ≤ (s.f 0 (R.CH_SQ_JPTR_WR 0) + 65536 - s.f 0 (R.CH_SQ_JPTR_RD 0)) % 65536 ∧
      (∀ jc : Fin 16, (s.ctx 0 jc).st.stopping = false) ∧
      (s.f 0 (R.CH_SQ_JPTR_WR 0) + 65536 - s.f 0 (R.CH_SQ_JPTR_RD 0)) % 65536 < gap 0x40000 := by
  exact ⟨⟨on_reaches.2.1, reaches_of (by decide +kernel), reaches_of (by decide +kernel)⟩, by decide +kernel⟩

/-- KillsAndLimits: a running job with GO; a FREE context; running entries with P = 0 and P = 1; a donation still needed. -/
theorem wit_KillsAndLimits :
    let e (p : Nat) : Entry := ent 6 (wide 6 2 [3] 0 (p * 2 ^ 11))
    let g (p : Nat) : Entry := { e p with started := true }
    let r (p : Nat) := code.modQ 0 6 fun q => { q with run := some (g p) }
    let here (s : State) := (s.eq 0 6).parked ++ (s.eq 0 6).run.toList
    let d := ((code.modX 0 0 fun c => { c with sched := { c.sched with donor := some 1 } }).modX 0 1 fun c =>
      { c with st := .waitSem, job := { c.job with lc := true }, sched := { c.sched with lc := true }, waitOn := .sem 7 1 false }).modSem 0 7
      fun _ => ⟨0, 0, some 0⟩
    let alive (s : State) := (s.ctx 0 0).st ≠ .free ∧ (s.ctx 0 0).st ≠ .killing ∧ (s.ctx 0 0).st ≠ .faulted
    (code.reaches 1 ∧ on.reaches 1) ∧
      ((0x80000000 : BitVec 32).getLsbD 31 = true ∧ bits (0x80000000 : BitVec 32).toNat 3 0 = (0 : Fin 16).val ∧ alive code ∧ ¬ alive on ∧
        (on.pwr 0).st = .run ∧ (on.pwr 0).move = .none) ∧
      ((here (r 0)).find? (fun x => x.started && !x.p) = some (g 0) ∧ (g 0).jc = 0 ∧ (g 0).eng = 6 ∧ (r 0).fenced = false ∧ alive (r 0)) ∧
      (here (r 1) = [g 1] ∧ (g 1).p = true) ∧
      ((d.ctx 0 0).sched.donor.isSome = true ∧ d.needed 0 0 = true ∧ d.fenced = false ∧ alive d) ∧ (code.ctx 0 0).sched.donor = none := by
  exact ⟨⟨reaches_of (by decide +kernel), on_reaches.2.1⟩, by decide +kernel, by decide +kernel, by decide +kernel, by decide +kernel,
    by decide +kernel⟩

/-- QuantaAndArbiters: a quantum inside the tick and the last; a grant that stays, one whose burst is over and one whose owner no
longer asserts, each with and without an emergency; requesters below WAITLIM and at it, of both classes; a masked one; a
grant that serves an entry. -/
theorem wit_QuantaAndArbiters :
    let lastQ := on.modC 0 fun c => { c with sched := { c.sched with quantum := on.quanta - 1 } }
    let a := on.arb 0 0 0
    let w (gr : Option Grant) (h : Option ReqBy) (masked : List Grant) := (on.setF 0 (R.CH_ARB_CFG_WAITLIM 0) 4).modC 0 fun c =>
      { c with sched := { c.sched with arb := [⟨0, 0, gr, h, 4, 3, [(1, 5), (2, 3)], [], masked⟩] } }
    let g := w (some (.req 3)) (some .host) []
    let e := w (some (.emerg .debug)) none []
    let x : Entry := { fill with started := true }
    let hung := (code.modC 0 fun c => { c with sched := { c.sched with arb := [⟨0, 0, some (.req 1), some (.ctx 0), 4, 3, [], [], []⟩] } }).modQ 0 6
      fun q => { q with run := some x }
    (on.clocked 0 = true ∧ (on.chan[(0 : Fin 8)]).sched.quantum + 1 < on.quanta) ∧
      on.quanta ≤ (lastQ.chan[(0 : Fin 8)]).sched.quantum + 1 ∧
      (a.masked = [] ∧ a.grant = none ∧ a.reached = [] ∧ (0 : Fin 4) ≠ 2) ∧
      ((g.arb 0 0 0).grant = some (.req 3) ∧ (g.arb 0 0 0).left = 4 ∧ (g.arb 0 0 0).holder = some .host ∧
        (([⟨3, .host⟩] : List Req).all (·.idx != 3)) = false ∧ (([⟨1, .host⟩] : List Req).all (·.idx != 3)) = true) ∧
      ((e.arb 0 0 0).grant = some (.emerg .debug) ∧ Emerg.debug ∈ ([.debug] : List Emerg)) ∧
      (((w none none []).arb 0 0 0).waits 1 = 5 ∧ ((w none none []).arb 0 0 0).waits 2 = 3 ∧ (w none none []).f 0 (R.CH_ARB_CFG_WAITLIM 0) = 4) ∧
      (code.reqLc 0 ⟨1, .port true⟩ = true ∧ code.reqLc 0 ⟨2, .host⟩ = false) ∧
      (((w none none [.req 1]).arb 0 0 0).grant = none ∧ Grant.req 1 ∈ ((w none none [.req 1]).arb 0 0 0).masked) ∧
      ((hung.arb 0 0 0).grant = some (.req 1) ∧ (hung.arb 0 0 0).holder = some (.ctx 0) ∧ (hung.eq 0 6).run = some x ∧ x.jc = 0 ∧
        x.started = true ∧ x.eng = 6 ∧ (hung.ctx 0 0).st = .run) := by
  decide +kernel

/-! ### Memory tiers and engine stores -/

/-- An image with one port configuration on every channel and one setting of every policy. -/
def image (port : PortCfg) (setting : Nat) : Image :=
  let part : Part := ⟨true, 0, 0, [0], 0, 0, false, 0, 0⟩
  let ch : ImgChan := ⟨some false, List.replicate 16 port, 0, 31, 0, [], false, 1, 8, 2, 16, List.replicate 18 (16, 64), [], 0⟩
  ⟨1, false, 0, false, 0, 1, 0, 4096, false, [2 ^ 32], [], 1000000, 0, false, 0, Vector.replicate 8 part, Vector.replicate 8 ch, [],
    List.replicate 8 (16, 64), 0, 0, false, Vector.replicate 8 ⟨setting, setting, setting, setting⟩, setting, false⟩

/-- `s` under an image, its channels in partition 0. -/
def under (i : Image) (s : State) : State := s.modP fun p => { p.wr 0x50 0 with mould := { p.mould with force := some i } }

/-- AUTO, with every link used towards node 9. -/
def auto : State := under (image ⟨1, false, 9, 0⟩ 2) on

/-- TickMessages: the parent link of the image is up; it is down and the alternate is up. -/
theorem wit_TickMessages :
    let s := (auto.modP fun p => { p.setFld R.HUB_TICK_STAT_SRC_NOW 2 with tick := { p.tick with acquiring := true } }).setF 0 (R.FAB_PORT_STAT_STATE 0) 2
    let alt := under (let i := image ⟨1, false, 9, 0⟩ 0; { i with chans := i.chans.map fun c => { c with tickAlt := 1 } })
      (on.setF 0 (R.FAB_PORT_STAT_STATE 1) 2)
    (alt.linkUp 0 1 = true ∧ (alt.imgCh 0).any (fun c => c.tickAlt == 1 && !alt.linkUp 0 (Fin.ofNat 16 c.tickParent)) = true) ∧
    (((s.imgCh 0).map (·.tickParent)) = some 0 ∧ s.linkUp 0 0 = true ∧ s.pkg.fld R.HUB_TICK_STAT_SRC_NOW = 2 ∧
      (100 : Int).natAbs ≤ s.pkg.fld R.HUB_TICK_CFG_PERIOD ∧ s.pkg.tick.acquiring = true) ∧
      on.imgCh 0 = none ∧ auto.pkg.fld R.HUB_TICK_STAT_SRC_NOW ≠ 2 := by
  decide +kernel

/-- A dirty granule and a write-back of T2. -/
def dirty : State := on.modMem 0 fun m =>
  { m with tc := { m.tc with lines := [⟨.t2, 3, 0, true, [(5, 7)]⟩], wb := [] } }
def wbs (t : Tier) (failed : Bool) : State := (on.modMem 0 fun m => { m with tc := { m.tc with wb := [⟨t, 3, 0, [(5, 7)], failed⟩] } })

/-- Four regions, hot and cold, promoted and not. -/
def hotRegions : State := auto.modMem 0 fun m => { m with promo := [⟨1, 3, false⟩, ⟨2, 100, true⟩, ⟨3, 0, true⟩, ⟨5, 50, false⟩] }

/-- TranslationAndTierCache. -/
theorem wit_TranslationAndTierCache :
    let same (s : State) (v : Nat) := bits v 24 0 = s.f 0 R.MEM_MMU_ROOT ∧ bits v 31 31 = s.f 0 R.MEM_MMU_EN
    (on.reaches 1 ∧ code.reaches 1 ∧ dirty.reaches 1) ∧ (same on 0 ∧ on.allFree 0 = true) ∧ (¬ same code 0 ∧ code.allFree 0 = false) ∧
      (dirty.chan[(0 : Fin 8)]).mem.tc.wb = [] ∧ ((dirty.chan[(0 : Fin 8)]).mem.tc.lines.filter (·.dirty)).length ≤ 64 ∧
      ((1 : BitVec 32).getLsbD 0 = true ∧ (2 : BitVec 32).getLsbD 0 = false) ∧
      (((wbs .t2 false).chan[(0 : Fin 8)]).mem.tc.wb.find? (!·.failed)).any (fun x => (wbs .t2 false).takesWb 0 x true && x.tier == .t2) = true ∧
      (wbs .t2 false).f 0 R.MEM_T2_STAT_LINK ≠ 1 ∧ (wbs .t2 false).canonical = true ∧
      (let s := under (image ⟨1, false, 9, 0⟩ 2) (wbs .t3 false)
       (s.chan[(0 : Fin 8)]).mem.tc.wb.any (fun x => s.takesWb 0 x true && x.tier == .t3) = true ∧ 
        s.pkg.mould.force.any (fun i => (List.range 4096).all fun k => (i.ssdAt (3 * 4096 + k)).isSome) = true) ∧
      ((wbs .t2 true).chan[(0 : Fin 8)]).mem.tc.wb.find? (!·.failed) = none ∧
      (∀ x ∈ ((wbs .t2 true).chan[(0 : Fin 8)]).mem.tc.wb, x.failed = true → (wbs .t2 true).takesWb 0 x true = true ∧
        (wbs .t2 true).f 0 R.MEM_T2_STAT_LINK ≠ 1) ∧
      ((auto.imgCh 0).any (fun i => i.cold ≤ i.hot) = true ∧ auto.policy 0 (·.promo) = 2 ∧
        (hotRegions.chan[(0 : Fin 8)]).mem.promo.length ≤ 4096 ∧ ((hotRegions.chan[(0 : Fin 8)]).mem.promo.map (·.addr)).Nodup ∧
        (hotRegions.chan[(0 : Fin 8)]).mem.tc.wb = [] ∧ (hotRegions.chan[(0 : Fin 8)]).mem.tc.lines = []) ∧
      ((under (image ⟨1, false, 9, 0⟩ 0) on).imgCh 0).isSome = true ∧ (under (image ⟨1, false, 9, 0⟩ 0) on).policy 0 (·.promo) ≠ 2 ∧
      on.imgCh 0 = none := by
  exact ⟨⟨on_reaches.2.1, reaches_of (by decide +kernel), reaches_of (by decide +kernel)⟩, by decide +kernel⟩

/-- A window of channel 0 whose entry copies 8 bytes from 0 to 8, with DEADLINE 1. -/
def windowed (w : Win) (n : Nat) : State :=
  ((mapped.modMem 0 fun m => { m with ls := [(8, 8), (16, 8), (24, 1)], win := m.win.set 0 w }).setF 0 (R.MEM_SW_CFG_ENTRIES 0) n).modSem 0 0
    fun _ => ⟨1, 0, none⟩

/-- StreamWindows: a start, a slot out of T1, a copy that ends its run and one that does not, a source that cannot be read, a
late entry. -/
theorem wit_StreamWindows :
    let starts (s : State) : Bool := s.clocked 0 && (s.win 0 0).phase == .waiting && (List.finRange 4).all (fun w => (s.win 0 w).phase != .copying) &&
      decide (1 + s.claimed 0 (s.winEnt 0 0 (s.win 0 0).cur).free ≤ (s.semAt 0 (s.winEnt 0 0 (s.win 0 0).cur).free).count) && !s.winBehind 0 0
    let x (s : State) := s.winEnt 0 0 (s.win 0 0).cur
    let w := windowed ⟨.waiting, 0, false, false, 0, false⟩ 1
    let out := (w.modMem 0 fun m => { m with tlb := [] }).setF 0 R.MEM_MMU_EN 0
    let c (n : Nat) := windowed ⟨.copying, 0, false, false, 0, false⟩ n
    let copies (s : State) : Bool := match s.vaRead 0 (x s).src (x s).bytes with
      | .ok bs => ((s.vaTouch 0 (x s).src (x s).bytes).vaWrite 0 (x s).dst bs).isOk
      | .error _ => false
    (starts w = true ∧ w.slotBad 0 (x w).dst (x w).bytes = none) ∧ (starts out = true ∧ (out.slotBad 0 (x out).dst (x out).bytes).isSome = true) ∧
      starts on = false ∧
      (((c 1).win 0 0).phase = .copying ∧ copies (c 1) = true ∧ (c 1).f 0 (R.MEM_SW_CFG_ENTRIES 0) ≤ ((c 1).win 0 0).cur + 1) ∧
      (copies (c 2) = true ∧ ((c 2).win 0 0).ending = false ∧ ((c 2).win 0 0).cur + 1 < (c 2).f 0 (R.MEM_SW_CFG_ENTRIES 0)) ∧
      (let s := ((c 1).modMem 0 fun m => { m with tlb := [] }).setF 0 R.MEM_MMU_EN 0
       (s.win 0 0).phase = .copying ∧ (match s.vaRead 0 (x s).src (x s).bytes with
        | .ok _ => false
        | .error e => !e.waits) = true) ∧
      ((w.win 0 0).phase ≠ .idle ∧ (w.win 0 0).late = false ∧ (x w).deadline ≠ 0) ∧ (on.win 0 0).phase = .idle ∧
      ((c 1).noWaiters 0 ∧ on.reaches 1) := by
  exact ⟨by decide +kernel, by decide +kernel, by decide +kernel, by decide +kernel, by decide +kernel, by decide +kernel,
    by decide +kernel, by decide +kernel, noWaiters_of (by decide +kernel), on_reaches.2.1⟩

/-- Regulators: each instance; tokens that just cover a transfer and that do not; a RATE below and inside the bounds; a
source that an instance does not have; AUTO and MANUAL. -/
theorem wit_Regulators :
    let b (en : Nat) := (on.setF 0 (bktEn (.t1 0) 8) en).setF 0 (bktTok (.t1 0) 8) 2
    let level (s : State) := min (s.burst (.t1 0) 8) (s.bf (.t1 0) (bktTok (.t1 0) 8) + s.bf (.t1 0) (bktRate (.t1 0) 8))
    (8 ∈ instSources (.t1 0) ∧ 8 ∈ instSources (.t2 7) ∧ 7 ∈ instSources .t3 ∧ 8 ∉ instSources .t3) ∧
      (∀ j ∈ instSources (.t1 0), (on.bucket (.t1 0) j).waiting = []) ∧
      ((b 1).bf (.t1 0) (bktEn (.t1 0) 8) = 1 ∧ ceilDiv (64 * level (b 1)) 64 ≤ level (b 1) ∧ level (b 1) < ceilDiv (64 * level (b 1) + 1) 64) ∧
      (b 0).bf (.t1 0) (bktEn (.t1 0) 8) = 0 ∧ (auto.reaches (instPf (.t1 0)) ∧ auto.reaches (instPf .t3)) ∧
      (clampRate (auto.rateBounds (.t1 0) 8) 15 ≠ 15 ∧ clampRate (auto.rateBounds (.t1 0) 8) 16 = 16) ∧
      (auto.tuneSetting (.t1 0) 0 = 2 ∧ (auto.bucket (.t1 0) 0).waited = false ∧ (auto.rateBounds (.t1 0) 0).isSome = true) ∧
      on.tuneSetting (.t1 0) 0 ≠ 2 := by
  exact ⟨by decide +kernel, by decide +kernel, by decide +kernel, by decide +kernel,
    ⟨reaches_of (by decide +kernel), reaches_of (by decide +kernel)⟩, by decide +kernel, by decide +kernel, by decide +kernel⟩

/-- A partition in G1 mode. -/
def g1On : State :=
  let i := image ⟨1, false, 9, 0⟩ 0
  under { i with parts := i.parts.set 0 { i.parts[0] with g1 := true } } on

/-- AT.PREFILL of one row whose list names page 0. -/
def atFar : Entry := { ent 0 (wide 0 0x10 [] 0) with aux := [0, 64], started := true }

/-- It runs in that partition with the data of page 0 in T2. -/
def farPage : State :=
  (((g1On.setF 0 R.MEM_T2_STAT_LINK 2).setF 0 R.MEM_T2_STAT_CAP_GIB 16).modC 0 fun c => { c.setFld R.MEM_MMU_EN 1 with
    mem := { c.mem with tlb := [⟨0, ⟨.t1, false, false, false, 0, 4096⟩⟩, ⟨1, ⟨.t2, false, false, false, 0, 4096⟩⟩] },
    ft := { c.ft with cfg := some ⟨4096, 0, 1, 1, 0, 0, 0, 0, 0, 1⟩ } }).modQ 0 0 fun q => { q with run := some atFar }

/-- TierFailures: each state of the link; a long stall; a scalar thread's access under FLASH; the page that an attention entry
reads from T2; a row that is copied and one that is not. -/
theorem wit_TierFailures :
    let l (n : Nat) := on.setF 0 R.MEM_T2_STAT_LINK n
    let ev := on.setF 0 R.MEM_TIER_EVT_THRESH 1
    let fl := under (let i := image ⟨1, false, 9, 0⟩ 0; { i with t3Form := 1 }) (job fun c => { c with load := some ⟨.ld, 1, 8, false⟩ })
    let row := on.modMem 0 fun m => { m with copying := [5] }
    ((l 2).mayTrain 0 = true ∧ (l 2).f 0 R.MEM_T2_STAT_LINK ≠ 0 ∧ (l 2).f 0 R.MEM_T2_STAT_LINK ≠ 3) ∧ ((l 0).f 0 R.MEM_T2_STAT_LINK = 0 ∧ (l 3).f 0 R.MEM_T2_STAT_LINK = 3) ∧
      (ev.up 0 = true ∧ ev.g1 0 = false ∧ ev.f 0 R.MEM_TIER_EVT_THRESH ≠ 0 ∧ 2000 * ev.f 0 R.MEM_TIER_EVT_THRESH < 2001) ∧
      (fl.up 0 = true ∧ fl.g1 0 = false ∧ (fl.pkg.mould.force.any fun i => i.t3Form == 1) = true ∧ (fl.ctx 0 0).load.isSome = true) ∧
      State.reset.up 0 = false ∧ (g1On.up 0 = true ∧ g1On.g1 0 = true) ∧
      ((farPage.eq 0 0).run = some atFar ∧ farPage.g1 0 = true ∧ 0x10 ≤ atFar.op ∧ farPage.readsPage 0 atFar 0 = true ∧
        (farPage.chan[(0 : Fin 8)]).ft.cfg.any (fun c => (c.pageRuns 0).any (farPage.runFar 0)) = true) ∧
      (on.eq 0 0).run = none ∧ on.live 0 = true ∧
      (5 ∈ (row.chan[(0 : Fin 8)]).mem.copying ∧ row.sparesOf 5 < 16 ∧ 6 ∉ (row.chan[(0 : Fin 8)]).mem.copying) := by
  decide +kernel

/-- EngineStores. -/
theorem wit_EngineStores :
    let clr := on.modC 0 fun c => { c with arws := { c.arws with clearing := [3, 4] } }
    let cfg := mapped.modMem 0 fun m => { m with t1 := [(12, 1), (16, 1), (20, 1), (28, 2), (36, 3), (44, 4), (50, 1)] }
    let en := (on.setF 0 R.FT_CTL_EN 1).setF 0 R.CH_RC_CTL_EN 1
    let br : Branch := ⟨1, .live, 0x10, 0, false, 0, 0, 0, 0, 0, 0, 0, 0, 0, none⟩
    let rel := on.modC 0 fun c => { c with ft := { c.ft with hostReq := [0x10005, 0x20005], ents := [(5, br)] } }
    let full := on.modC 0 fun c => { c with ft := { c.ft with hostReq := List.replicate 64 0 } }
    let st (s : RcState) (p : Nat) : RcEnt := ⟨1, s, 0, 0, 1, 32, 16, p, 0, 1, 0, 0, 2 ^ 56 + 4096, false⟩
    let rc (s : RcState) (p : Nat) := on.modC 0 fun c => { c with rc := [(2, st s p)] }
    (on.reaches 1 ∧ code.reaches 1 ∧ en.reaches 1 ∧ cfg.reaches 1 ∧ full.reaches 1 ∧ (rc .live 1).reaches 1) ∧
      ((clr.chan[(0 : Fin 8)]).arws.clearing.head? = some 3 ∧ (clr.chan[(0 : Fin 8)]).arws.clearing.head? ≠ some 4) ∧
      (bits (0 : BitVec 32).toNat 0 0 = on.f 0 R.FT_CTL_EN ∧ on.allFree 0 = true) ∧
      (bits (1 : BitVec 32).toNat 0 0 ≠ code.f 0 R.FT_CTL_EN ∧ code.allFree 0 = false) ∧
      (en.f 0 R.FT_CTL_EN = 1 ∧ en.f 0 R.CH_RC_CTL_EN = 1 ∧ en.allFree 0 = true) ∧
      (cfg.f 0 R.FT_CTL_EN = 0 ∧ cfg.allFree 0 = true ∧ ((cfg.answer .ok 0).readCfg 0).isSome = true) ∧
      ((on.ctx 0 15).st = .free ∧ 65535 + 0 ≤ 65535 ∧ on.rangeMeets 0 15 65535 1 = false ∧ (code.ctx 0 0).st ≠ .free) ∧
      ((on.chan[(0 : Fin 8)]).ft.hostReq.length < 64 ∧ 64 ≤ (full.chan[(0 : Fin 8)]).ft.hostReq.length) ∧
      (on.f 0 R.CH_RC_SWAP_ST_STATUS ≠ 1 ∧ on.rcNamed 0 0 = none ∧ (on.chan[(0 : Fin 8)]).power.st = .run ∧
        (on.chan[(0 : Fin 8)]).power.move = .none ∧ (on.setF 0 R.CH_RC_SWAP_ST_STATUS 1).f 0 R.CH_RC_SWAP_ST_STATUS = 1) ∧
      ((rc .live 1).f 0 R.CH_RC_SWAP_ST_STATUS ≠ 1 ∧ (rc .live 1).rcNamed 0 0x10002 = some 2 ∧ ((rc .live 1).rcEnt 0 2).st = .live ∧
        ((rc .live 1).rcEnt 0 2).pins ≠ 0) ∧
      ((rel.chan[(0 : Fin 8)]).ft.hostReq = 0x10005 :: [0x20005] ∧ (rel.eq 0 2).run = none ∧ (rel.chan[(0 : Fin 8)]).ft.named 0x10005 = true ∧
        ((rel.chan[(0 : Fin 8)]).ft.ent 5).st = .live ∧ ((rel.chan[(0 : Fin 8)]).ft.ent 5).owner = 0x10 ∧
        (rel.chan[(0 : Fin 8)]).ft.named 0x20005 = false) ∧
      (on.chan[(0 : Fin 8)]).ft.hostReq = [] ∧
      ((((rc .pending 0).chan[(0 : Fin 8)]).rc.filter fun x => x.2.st == .pending && x.2.pins == 0 && x.2.qref == 0) = [(2, st .pending 0)] ∧
        ((rc .pending 0).rcMove 0 2 ((rc .pending 0).rcEnt 0 2).dst).isOk = true) ∧
      ∀ x ∈ ((rc .pending 1).chan[(0 : Fin 8)]).rc, x.2.st = .pending → x.2.pins ≠ 0 ∨ x.2.qref ≠ 0 := by
  exact ⟨⟨on_reaches.2.1, reaches_of (by decide +kernel), reaches_of (by decide +kernel), reaches_of (by decide +kernel),
    reaches_of (by decide +kernel), reaches_of (by decide +kernel)⟩, by decide +kernel⟩

/-! ### Fabric, collectives and gather -/

/-- A link of channel 0 in a state of FAB_PORT_STAT (2 is UP), under `auto`. -/
def linked (p n : Nat) : State := auto.setF 0 (R.FAB_PORT_STAT_STATE p) n

/-- LanesLasersAndRings: a slot reported and one that is not; lanes idle, carried with W8 free, carried without, of the
memory fiber; rings of up and down links; both policies; a codeword that announces a switch; a switch in progress. -/
theorem wit_LanesLasersAndRings :
    let lo := on.modFab 0 fun b => { b with low := [(0, 0)] }
    let up := (linked 0 2).setF 0 (R.FAB_LANE_STAT_ACTIVE 0) 1
    let no := up.setF 0 (R.FAB_LANE_STAT_FAILED (laneIdx 0 8)) 1
    let bad := on.setF 0 (R.FAB_LANE_STAT_FAILED 0) 1
    let man := on.setF 0 R.FAB_RING_CTL_POLICY 0
    let aut := on.setF 0 R.FAB_RING_CTL_POLICY 2
    let sw := up.modFab 0 fun b => { b with spare := [(0, 3)] }
    let v : BitVec 32 := 0x80000000
    (on.up 0 = true ∧ lo.up 0 = true ∧ State.reset.up 0 = false) ∧
      (on.laserLevel 0 0 = 150 ∧ belowDbm 1581 150 = true ∧ belowDbm 1582 150 = false ∧ belowDbm 1774 155 = true ∧ belowDbm 1775 155 = false ∧
        belowDbm 499 100 = true ∧ belowDbm 500 100 = false) ∧
      (laneHere 0 44 = true ∧ laneHere 0 84 = true ∧ laneHere 7 84 = false) ∧ (up.slotAuto 0 0 0 = true ∧ man.slotAuto 0 0 0 = false) ∧
      (up.maySend 0 0 = true ∧ (up.link 0 0).gap = false ∧ (up.link 0 0).outq = [] ∧ (up.link 0 0).owed.sum = 0) ∧
      (sw.linkUp 0 0 = true ∧ sw.maySend 0 0 = false) ∧ ((0, 0) ∈ (lo.chan[(0 : Fin 8)]).fab.low ∧ (0, 0) ∉ (on.chan[(0 : Fin 8)]).fab.low) ∧ (laneAt 0 = (0, 0) ∧ laneAt 84 = (12, 8)) ∧
      (7 ∈ laserFeeds 0 1 ∧ 4 ∈ laserFeeds 0 0) ∧ bad.f 0 (R.FAB_LANE_STAT_FAILED 0) = 1 ∧
      (up.f 0 (R.FAB_LANE_STAT_FAILED 0) = 0 ∧ up.f 0 (R.FAB_LANE_STAT_ACTIVE 0) = 1 ∧ up.spareFree 0 0 = true ∧ up.laneOwner 0 0 0 = some 0) ∧
      (no.f 0 (R.FAB_LANE_STAT_ACTIVE 0) = 1 ∧ no.spareFree 0 0 = false) ∧ (up.slotUp 0 0 0 = true ∧ man.slotUp 0 0 0 = false) ∧
      (man.f 0 R.FAB_RING_CTL_POLICY = 0 ∧ 2 ≤ aut.f 0 R.FAB_RING_CTL_POLICY) ∧ (man.reaches 1 ∧ up.reaches 1) ∧
      ((man.chan[(0 : Fin 8)]).power.st = .run ∧ (man.chan[(0 : Fin 8)]).power.move = .none ∧ v.getLsbD 31 = true ∧ bits v.toNat 6 0 = 0 ∧
        v.getLsbD 7 = false) ∧ (up.linkUp 0 0 = true ∧ man.linkUp 0 0 = false) ∧
      (((sw.chan[(0 : Fin 8)]).fab.spare.find? (·.1 == 0)) = some (0, 3) ∧ slotLink 0 3 = some 0 ∧
        (up.chan[(0 : Fin 8)]).fab.spare.find? (·.1 == 0) = none) := by
  exact ⟨by decide +kernel, by decide +kernel, by decide +kernel, by decide +kernel, by decide +kernel, by decide +kernel,
    by decide +kernel, by decide +kernel, by decide +kernel, by decide +kernel, by decide +kernel, by decide +kernel, by decide +kernel,
    by decide +kernel, ⟨reaches_of (by decide +kernel), reaches_of (by decide +kernel)⟩, by decide +kernel⟩

/-- A cell to node 9 or to this node. -/
def cell (dst typ lseq : Nat) : Cell :=
  ⟨BitVec.ofNat 24 dst, 9, 0, BitVec.ofNat 4 typ, true, false, false, 0, 0, [1, 2, 3, 4], BitVec.ofNat 12 lseq, 0, false, 0, 0⟩

/-- CellsAndMessages: cells of each kind in order, ahead and behind; a route to a link and one to the channel; an incomplete
message; waiting cells without credits; an encryption group. -/
theorem wit_CellsAndMessages :
    let s := ((linked 0 2).setF 0 (R.FAB_PORT_STAT_STATE 1) 2).modC 0 fun c => (c.wr (0x8800 + 4 * 9) 0x21).wr 0x8800 (8 + 32 * 8)
    let ok (c : Cell) : Bool := s.linkUp 0 0 && ((c.typ.toNat == 1) || (3 ≤ c.typ.toNat && c.typ.toNat ≤ 5)) && !s.linkEnc 0 0 && !c.nak &&
      c.lseq.toNat == (s.link 0 0).rxNext
    let part := s.modFab 0 fun b => { b with parts := [⟨9, 0, 3, 1, [], none, false⟩] }
    let stall := s.modLink 0 0 fun l => { l with outq := [⟨16, cell 9 1 0, none⟩] }
    let enc (n : Nat) := (s.setF 0 (R.FAB_PORT_STAT_ENC 0) 1).modLink 0 0 fun l => { l with txGroup := n }
    let sw := s.modFab 0 fun b => { b with spare := [(0, 3)] }
    let full := (enc 5).modLink 0 0 fun l => { l with replay := List.replicate 1024 (cell 9 1 0, 0) }
    ((s.link 0 0).due = false ∧ (s.link 0 0).gap = false ∧ s.maySend 0 0 = true ∧ (s.link 0 0).outq = [] ∧ (s.link 0 0).owed.sum = 0) ∧
      (sw.linkUp 0 0 = true ∧ sw.maySend 0 0 = false ∧ (sw.link 0 0).gap = false) ∧
      (1024 ≤ (full.link 0 0).replay.length ∧ (full.link 0 0).txGroup ≠ 0 ∧ ((enc 5).link 0 0).replay.length < 1024) ∧
    on.linkUp 0 0 = false ∧ s.linkUp 0 0 = true ∧ (7 ≤ (cell 9 7 0).typ.toNat ∧ (cell 9 2 0).nak = false) ∧
      (ok (cell 9 1 0) = true ∧ s.way 0 (cell 9 1 0).dst.toNat = .link 1) ∧
      (ok (cell 0 5 0) = true ∧ s.way 0 (cell 0 5 0).dst.toNat = .here ∧ (s.chan[(0 : Fin 8)]).fab.next 9 0 = 0 ∧ (s.chan[(0 : Fin 8)]).fab.parts = []) ∧
      ((cell 9 1 1).lseq.toNat ≠ (s.link 0 0).rxNext ∧ 2048 ≤ ((s.link 0 0).rxNext + 4095 - (cell 9 1 2047).lseq.toNat) % 4096 ∧
        ((s.link 0 0).rxNext + 4095 - (cell 9 1 2048).lseq.toNat) % 4096 < 2048) ∧
      (((part.chan[(0 : Fin 8)]).fab.parts.find? fun m => m.src == 9 && m.vc == 0 && m.msg == 3 && !m.gone && !m.whole).isSome = true ∧
        ∀ k : Fin 16, part.slotState 0 k = 0) ∧
      (((stall.link 0 0).credits.getD 0 0) = 0 ∧ ∃ q ∈ (stall.link 0 0).outq, q.cell.vc = 0) ∧
      (s.vcSetting 0 = 2 ∧ on.vcSetting 0 ≠ 2) ∧
      ((enc 5).linkUp 0 0 = true ∧ (enc 5).linkEnc 0 0 = true ∧ ((enc 5).link 0 0).txGroup ≠ 0 ∧ ((enc 0).link 0 0).txGroup = 0) := by
  decide +kernel

/-- LinksTrainAndFall: a training link with the peer of the image and another, with 1 bad slot and 2; a dark link; a down one. -/
theorem wit_LinksTrainAndFall :
    let t (peer : Nat) (bad : List (Fin 9)) (ok : Bool) : Training := ⟨ok, bad, BitVec.ofNat 24 peer, 0, false, true, 100, [2, 2, 2, 2, 2, 2, 2, 2], 0⟩
    let dark := (linked 0 0).modLink 0 0 fun l => { l with dark := true }
    let held := (linked 0 1).modP fun q => { q with hist := { q.hist with recs := [⟨0, 0, 3, clsRetired, 1, keySlot 0 (waveNo 0 0) 0, 0, 0⟩] } }
    let mem (cap : Nat) := (auto.setF 0 R.MEM_T2_STAT_LINK 1).setF 0 R.MEM_T2_STAT_CAP_GIB cap
    let fits (x : Training) (c : PortCfg) : Bool := c.peer == x.peer.toNat && c.peerPort == x.peerPort.val && c.enc == x.enc
    (∀ w ∈ (linkSlots 0).2, (linked 0 1).slotHeld 0 (linkSlots 0).1 w = false) ∧ held.slotHeld 0 0 0 = true ∧
      ((mem 0).f 0 R.MEM_T2_STAT_LINK = 1 ∧ (mem 0).mayTrain 0 = true ∧ (mem 0).f 0 R.MEM_T2_STAT_CAP_GIB = 0 ∧
        (mem 16).f 0 R.MEM_T2_STAT_CAP_GIB ≠ 0 ∧ auto.f 0 R.MEM_T2_STAT_LINK ≠ 1 ∧
        (mem 16).pkg.hist.recs = []) ∧
    (linked 0 1).linkState 0 0 = 1 ∧ ((linked 0 1).portCfg 0 0).any (fits (t 9 [] true)) = true ∧
      ((linked 0 1).portCfg 0 0).any (fun c => !fits (t 8 [] true) c) = true ∧ (∀ w ∈ (linkSlots 0).2, ∀ b ∈ (t 9 [8] true).bad, b.val ≠ w) ∧
      2 ≤ ((linkSlots 0).2.filter fun w => (t 9 [0, 3] true).bad.any fun b => b.val == w).length ∧ (linked 0 2).linkState 0 0 ≠ 1 ∧
      (linked 0 2).linkUp 0 0 = true ∧ ((linked 0 0).linkState 0 0 = 0 ∧ ((linked 0 0).link 0 0).dark = false ∧
        (linked 0 0).linkUsed 0 0 = true ∧ (linked 0 0).mayTrain 0 = true) ∧ (linked 0 3).linkState 0 0 = 3 ∧ (dark.link 0 0).dark = true ∧
      on.linkUsed 0 0 = false := by
  decide +kernel

/-- Communicator slot 0 of channel 0 with this node and node 9, under `auto`, in a state. -/
def comm (st : Nat) : State :=
  (auto.setF 0 (R.CH_CL_SLOT_STAT_STATE 0) st).modSlot 0 0 fun c => { c with id := 7, r := 2, g1 := 1, g2 := 2, g3 := 1, g4 := 1, nodes := [0, 9] }

/-- A message of that communicator. -/
def msg : CMsg := ⟨9, 7, 0, false, 0, []⟩

/-- CL.ALLTOALL of two elements, its SEQ taken. -/
def toAll : Entry :=
  { ent 4 (wide 4 4 [0, 3] (2 ^ 8)) with td := descs [halfs 0 [2], 0, 0, halfs 128 [2]], size := [2, 1, 1, 1], aux := [0], started := true }

/-- CollectiveMessages: no slot of the message; a ready slot; an aborted one that serves nothing, and one that serves a started
entry. -/
theorem wit_CollectiveMessages :
    let busy := (comm 3).modQ 0 4 fun q => { q with parked := [toAll] }
    (busy.slotOf 0 msg = some (0, 1) ∧ busy.slotState 0 0 = 3 ∧ busy.servedAt 0 0 msg.seq.toNat = some toAll ∧ toAll.started = true) ∧
    on.slotOf 0 msg = none ∧ (comm 1).slotOf 0 msg = some (0, 1) ∧ (comm 3).slotOf 0 msg = some (0, 1) ∧ (comm 3).slotState 0 0 = 3 ∧
      (comm 3).servedAt 0 0 msg.seq.toNat = none ∧
      ((comm 1).slotState 0 0 ≠ 3 ∧ (comm 1).servedAt 0 0 msg.seq.toNat = none ∧ ((comm 1).slot 0 0).inr = none ∧
        ∀ e ∈ (comm 1).slotEntries 0 0, e.clSeq ≠ msg.seq.toNat) := by
  decide +kernel

/-- CommunicatorSlots: free registers; a communicator in memory and none; an entry of the slot queued; a parked entry; a
served entry that waits for its partners; GO inside and outside its conditions; a reduction that runs. -/
theorem wit_CommunicatorSlots :
    let parked := ((comm 1).modX 0 0 fun c => { c with st := .run }).modQ 0 4 fun q => { q with parked := [toAll] }
    let queued := ((comm 1).modX 0 0 fun c => { c with st := .run }).modQ 0 4 fun q => { q with waiting := [{ toAll with started := false }] }
    let desc := under (image ⟨1, false, 9, 0⟩ 2) (mapped.modMem 0 fun m =>
      { m with t1 := [(8, 2), (12, 1), (14, 2), (16, 1), (18, 1), (68, 9)] })
    let inr := (comm 1).modSlot 0 0 fun c => { c with inr := some ⟨0, 64, 0, 0, [], []⟩ }
    let go : BitVec 32 := 0x80000040
    (on.reaches 1 ∧ queued.reaches 1 ∧ desc.reaches 1 ∧ (comm 1).reaches 1) ∧ on.slotEntries 0 0 = [] ∧ on.f 0 (R.CH_CL_SLOT_BUF_EN 0) = 0 ∧
      ((desc.answer .ok 0).readComm 0 0).isSome = true ∧ (on.answer .ok 0).readComm 0 0 = none ∧
      (queued.slotEntries 0 0 ≠ [] ∧ 1 ≠ (queued.chan[(0 : Fin 8)]).rd 0x9000) ∧
      (parked.clocked 0 = true ∧ (parked.first 0 ((parked.eq 0 4).parked.filter fun e => parked.clGoes 0 e && parked.passReady 0 e)) = some toAll ∧
        (match parked.clWork 0 toAll with
        | .ok (_, x) => !x.p && x.eng == 4
        | .error _ => false) = true) ∧
      (parked.served? 0 0 = some toAll ∧ toAll.eng = 4 ∧ (parked.ctx 0 0).st ≠ .preempted ∧ parked.clDone 0 toAll = false ∧
        parked.slotState 0 0 ≠ 0 ∧ parked.slotState 0 0 ≠ 3) ∧
      ((queued.served? 0 0).any (fun e => (queued.eq 0 4).heads.find? (·.jc == 0) == some e && queued.waitsMet 0 e.waits && !queued.clReady 0 e) = true) ∧
      (on.served? 0 0 = none ∧ ∀ e ∈ (on.eq 0 4).waiting, e.jc ≠ 0) ∧
      ((comm 1).allFree 0 = true ∧ (comm 1).slotView 0 0 = 1 ∧ bits go.toNat 5 4 ≠ 3 ∧ bits go.toNat 29 6 ≠ 0 ∧ bits go.toNat 3 0 = 0 ∧
        go.getLsbD 31 = true ∧ (comm 1).f 0 R.CH_CL_INR_CTL_BUSY = 0 ∧ ((comm 1).chan[(0 : Fin 8)]).power.st = .run ∧
        ((comm 1).chan[(0 : Fin 8)]).power.move = .none) ∧ on.slotView 0 0 ≠ 1 ∧
      (slots.find? fun j => (inr.slot 0 j).inr.isSome) = some 0 ∧ ∀ j : Fin 16, (on.slot 0 j).inr = none := by
  exact ⟨⟨on_reaches.2.1, reaches_of (by decide +kernel), reaches_of (by decide +kernel), reaches_of (by decide +kernel)⟩, by decide +kernel⟩

/-- A BATCH entry that runs with a record in lane 0. -/
def gathering : State :=
  let e : Entry := { ent 10 (wide 0xA 1 [0, 1, 3, 4] 0) with
    td := descs [ints 0 [4, 1], ints 64 [16, 1], 0, halfs 128 [1, 1, 1], ints 192 [1, 1] true], started := true, going := true }
  (code.modQ 0 10 fun q => { q with run := some e }).modC 0 fun c => { c with lanes := [(0, 0)] }

/-- The premises of the batch clause of GatherDecoding for lane 0. -/
def laneReady (s : State) : Bool :=
  match (s.eq 0 gtEng).run, (s.chan[(0 : Fin 8)]).lanes.find? (fun y => y.1 == 0) with
  | some e, some (_, i) =>
    !s.gtKilled 0 e && !e.isLive && match s.gtTab 0 e with
      | .error _ => false
      | .ok g => match g.rs[i]? with
        | none => false
        | some r => match g.ss[r.stream]? with
          | none => false
          | some x => match s.gtEval 0 e x r with
            | .error _ => false
            | .ok d => !gtWaits e g d r && (s.gtBatchOne 0 e g i).isOk
  | _, _ => false

/-- GatherDecoding: an idle lane and one with a record; BUSY at 86 and 69; MANUAL and AUTO; a bound partition. -/
theorem wit_GatherDecoding :
    let d := image ⟨1, false, 9, 0⟩ 0
    let b := (under { d with parts := d.parts.set 0 { d.parts[0] with mode := 1 } } code)
    let m := on.setF 0 R.CH_GT_SPLIT_MODE 1
    ((on.eq 0 gtEng).run = none ∧ laneReady gathering = true) ∧ (85 < min 100 86 ∧ min 100 69 < 70) ∧
      (on.f 0 R.CH_GT_SPLIT_MODE = 0 ∧ m.f 0 R.CH_GT_SPLIT_MODE = 1 ∧ m.f 0 R.CH_GT_SPLIT_SHARE < 16) ∧ (on.reaches 1 ∧ b.reaches 1) ∧
      (on.bound 0 = false ∧ b.bound 0 = true ∧ min 16 (bits (0x22 : BitVec 32).toNat 5 1) = 16) := by
  exact ⟨by decide +kernel, by decide +kernel, by decide +kernel, ⟨on_reaches.2.1, reaches_of (by decide +kernel)⟩, by decide +kernel⟩

/-! ### Images -/

/-- The bytes of a FULL image of serial 1 before its signature: one CHANNEL section for the eight channels. -/
def imgBody : List Byte :=
  padTo 128 (leBytes 4 0x444C4D51 ++ leBytes 2 1 ++ leBytes 2 0 ++ leBytes 8 1 ++ leBytes 16 0 ++ leBytes 2 1 ++ leBytes 2 0 ++
    leBytes 4 456 ++ leBytes 4 1) ++ padTo 64 (leBytes 1 3 ++ leBytes 1 0xFF ++ leBytes 2 0 ++ leBytes 4 192 ++ leBytes 4 8) ++ leBytes 8 0

/-- Its SHA-384, computed outside; it is the x coordinate of a point R of the curve. -/
def imgHash : Nat := 0xE338A903902BE3B00818CF0B0FFBC6A4D2BEBE78284B269341BABD368A0AC99617C35B20E31C2C3EAD5D448FCE31571A

/-- A signature block that holds over it: r and s are the hash, and the key is R - G, so that both multiples are 1. -/
def imgSig : List Byte :=
  padTo 112 (leBytes 1 4 ++
    leBytes 48 0xB36B5DD6A3F58A493384FFD96DF8862C1BD8DBE38AAEB1D11BD0772DF46C96B1C20EDA8984C2B949C7D17F759658C3F7 ++
    leBytes 48 0x3DA2B9352351CBD543567E1F46664150E7EA302C381CEF631483C3FB61540650B850C836EA3C7E4780182C217C5AB829) ++
    padTo 144 (leBytes 48 imgHash ++ leBytes 48 imgHash)

/-- OTP with the key's hash in slot 0. -/
def imgOtp : Otp := ⟨0, 1, #v[sha384 (sigKey imgSig), 0, 0, 0], Vector.replicate 4 false, 0, 0, [], [], []⟩

/-- The published SHA-384 agrees with the model's, and the image verifies. -/
theorem test_image_verifies : (sha384 imgBody).toNat = imgHash ∧
    (match verify imgOtp ⟨0xFF, 0xFF⟩ false none (imgBody ++ imgSig) with
    | .ok i => i.serial == 1
    | .error _ => false) = true := by
  decide +kernel

/-- SHA-256 of the empty message, as published. -/
theorem test_sha256 : (sha256 []).toNat = 0xE3B0C44298FC1C149AFBF4C8996FB92427AE41E4649B934CA495991B7852B855 := by decide +kernel

/-! ### Resilience, registers, moulds, power and security -/

/-- A protection table in the first page of T1 with one region: 64 bytes at 2,048, identifier 5, digested and copied, peer 0. -/
def protectedOn : State :=
  mapped.modMem 0 fun m => { m with t1 := [(1, 8), (8, 64), (16, 5), (19, 3), (20, 1)] }

/-- WeightDigests: a round due, one that runs, a region that can be read and one that cannot, a peer's digest,
of an entry that names it alone and of one that waits for another. -/
theorem wit_WeightDigests :
    let due (b : Nat) := (protectedOn.setF 0 R.CH_DIG_CFG_EN 1).setF 0 R.CH_DIG_STAT_BUSY b
    let far := (protectedOn.modMem 0 fun m => { m with t1 := [(2, 1), (8, 64), (16, 5), (19, 1)] }).setF 0 R.CH_DIG_STAT_BUSY 1
    let own : DigRow := ⟨5, 77, 1⟩
    let peer := (((due 1).setF 0 (R.CH_DIG_PEER_VALID 0) 1).setF 0 (R.CH_DIG_PEER_NODE 0) 9).modC 0 fun c => { c with dig := ⟨0, 1, [own], []⟩ }
    ((due 0).up 0 = true ∧ (due 0).f 0 R.CH_DIG_CFG_EN = 1 ∧ (due 0).pkg.tick.num.toNat % max 1 ((due 0).f 0 R.CH_DIG_CFG_PERIOD) = 0 ∧
      ((due 0).pwr 0).st = .run ∧ ((due 0).pwr 0).move = .none ∧ (due 0).f 0 R.CH_DIG_STAT_BUSY = 0 ∧ (due 1).f 0 R.CH_DIG_STAT_BUSY = 1) ∧
      (on.up 0 = true ∧ on.f 0 R.CH_DIG_CFG_EN ≠ 1) ∧
      ((((due 1).prots 0 ((due 1).dig 0).next 0).head?).any (fun x => x.2.region == 5 && ((due 1).vaRead 0 x.2.base x.2.len).isOk) = true ∧
        ((due 1).chan[(0 : Fin 8)]).digHand = none) ∧
      (far.up 0 = true ∧ ((far.prots 0 (far.dig 0).next 0).head?).any (fun x => !(far.vaRead 0 x.2.base x.2.len).isOk) = true) ∧
      ((List.range 8).find? (fun i => peer.digPeer 0 i && peer.f 0 (R.CH_DIG_PEER_NODE i) == (9 : BitVec 24).toNat) = some 0 ∧ peer.up 0 = true ∧
        peer.peersOf 0 1 = [0] ∧ (peer.setF 0 (R.CH_DIG_PEER_VALID 1) 1).peersOf 0 3 = [0, 1] ∧ (peer.dig 0).round = (0 : BitVec 64).toNat ∧ (peer.dig 0).peers = [] ∧ (peer.dig 0).own.find? (fun r => r.region == (5 : BitVec 16).toNat) = some own) ∧
      (List.range 8).find? (fun i => on.digPeer 0 i && on.f 0 (R.CH_DIG_PEER_NODE i) == (9 : BitVec 24).toNat) = none := by
  decide +kernel

/-- The copy mover of channel 0 in a phase, its target node 9, over one region. -/
def mover (p : MoverPhase) : State :=
  (protectedOn.setF 0 R.CH_PC_TGT_NODE 9).modC 0 fun c => { c with mover := { c.mover with phase := p, epoch := 3 } }

/-- PartnerCopies. -/
theorem wit_PartnerCopies :
    let due (w n : Nat) := ((((mover .idle).setF 0 R.CH_PC_CFG_EN 1).setF 0 R.CH_PC_CFG_PERIOD 1).setF 0 R.CH_PC_CTL_WEN w).modSem 0 0 fun _ => ⟨n, 0, none⟩
    let isDue (s : State) : Bool := s.f 0 R.CH_PC_CFG_EN == 1 && s.f 0 R.CH_PC_CFG_PERIOD != 0 && s.pkg.tick.num.toNat % s.f 0 R.CH_PC_CFG_PERIOD == 0 &&
      s.up 0 && (s.pwr 0).st == .run && (s.pwr 0).move == .none
    let sem (s : State) := (s.semAt 0 (s.f 0 R.CH_PC_CTL_WSEM)).count
    let need (s : State) := 1 + s.claimed 0 (s.f 0 R.CH_PC_CTL_WSEM)
    let bad := ((mover .reading).modMem 0 fun m => { m with t1 := [(2, 1), (8, 64), (16, 5), (19, 2)] })
    let go : BitVec 32 := 0x80000000
    let back : BitVec 32 := 0x80040000
    let r := mover .restoring
    let rcv := ((mover .idle).setF 0 R.CH_PAREA_SRC_SRC 9).modC 0 fun c => { c with mover := { c.mover with rx := some 4 } }
    (isDue (due 0 0) = true ∧ isDue on = false ∧ (mover .reading).up 0 = true) ∧
      ((due 1 0).f 0 R.CH_PC_CTL_WEN = 1 ∧ sem (due 1 0) < need (due 1 0) ∧ need (due 1 1) ≤ sem (due 1 1) ∧ (due 0 0).f 0 R.CH_PC_CTL_WEN = 0) ∧
      ((mover .idle).reaches 1 ∧ go.getLsbD 31 = true ∧ go.getLsbD 18 = false ∧ go.getLsbD 16 = false ∧ back.getLsbD 18 = true) ∧
      ((mover .idle).f 0 R.CH_PC_TGT_LOCAL = 0 ∧ ((mover .idle).setF 0 R.CH_PC_TGT_LOCAL 1).f 0 R.CH_PC_TGT_LOCAL = 1 ∧ ((mover .idle).mov 0).area1.best = none) ∧
      (((mover .reading).mov 0).phase = .reading ∧ (bad.mov 0).phase = .reading ∧ bad.copyRead 0 4096 (bad.prots 0 0 1) = none) ∧
      ((mover .reading).copyRead 0 4096 ((mover .reading).prots 0 0 1)).isSome = true ∧
      (((mover .manifest).mov 0).phase = .manifest ∧ (mover .manifest).f 0 R.CH_PC_TGT_NODE = (9 : BitVec 24).toNat ∧
        ((mover .manifest).mov 0).epoch % 2 ^ 32 = (3 : BitVec 32).toNat) ∧
      (r.restoringFrom 0 9 = true ∧ (r.protOf 0 5).any (fun p => decide (0 * copyChunk + 64 ≤ p.len) &&
        ((r.takeIn 0 fun _ => false).movWrite 0 (p.base + 0 * copyChunk) (List.replicate 64 1)).isSome) = true ∧ (r.mov 0).phase = .restoring) ∧
      (rcv.restoringFrom 0 9 = false ∧ rcv.f 0 R.CH_PAREA_SRC_SRC = (9 : BitVec 24).toNat ∧ (rcv.mov 0).rx = some (4 : BitVec 32).toNat ∧
        (rcv.mov 0).rx ≠ some (5 : BitVec 32).toNat ∧ on.restoringFrom 0 9 = false ∧ on.f 0 R.CH_PAREA_SRC_SRC ≠ (9 : BitVec 24).toNat) ∧
      (r.restorable 0 [] = true ∧ r.restored 0 [] = true ∧ r.restorable 0 [⟨6, 0, 1, 0, 0⟩] = false) := by
  exact ⟨by decide +kernel, by decide +kernel, ⟨reaches_of (by decide +kernel), by decide +kernel⟩, by decide +kernel⟩

/-- HistoryAndPorts: FILL at 90% and below; RD up to WR and past it; a record and an index beyond the last; the supplies; PERST#
low; the debug port enabled and not. -/
theorem wit_HistoryAndPorts :
    let f (n : Nat) := on.modP (·.setFld R.HUB_FH_STAT_FILL n)
    let h := on.modP fun p => { p with hist := { p.hist with recs := [⟨0, 0, 2, clsUE, 1, 0, 0, 0⟩] } }
    let d := under { image ⟨1, false, 9, 0⟩ 0 with debug := true } on
    let l := on.modP fun p => { p with pins := { p.pins with perst := true } }
    (90 ≤ (f 90).pkg.fld R.HUB_FH_STAT_FILL ∧ (f 89).pkg.fld R.HUB_FH_STAT_FILL < 90) ∧ (on.reaches 0 ∧ on.pkg.hist.held = []) ∧
      (on.pkg.vstby = true ∧ on.pkg.cond ≠ .off ∧ on.runs = true) ∧ (State.reset.runs = false) ∧
      (h.pkg.hist.recs[(0 : BitVec 32).toNat]?.isSome = true ∧ h.pkg.hist.recs.length ≤ (1 : BitVec 32).toNat) ∧
      (l.pkg.vstby = true ∧ l.pkg.pins.perst = true ∧ on.pkg.pins.perst = false ∧ 0x40FFFFF + 1 ≤ 0x4100000) ∧
      (d.pkg.vaux = true ∧ d.debugOn = true ∧ on.pkg.vaux = true ∧ on.debugOn = false) := by
  exact ⟨by decide +kernel, ⟨on_reaches.1, by decide +kernel⟩, by decide +kernel⟩

/-- RegisterWindow: the last offsets of both regions and the first outside; a partial write. -/
theorem wit_RegisterWindow :
    on.reaches 1 ∧ on.reaches 0 ∧ 0x7FFFC < 0x80000 ∧ (0xE : BitVec 4) ≠ 0xF#4 ∧ 0x80000 ≤ 0x3FFFFFC ∧ 0x3FFFFFC < 0x4000000 ∧
      0x8000000 ≤ 0x8000000 ∧ (on.present 1 = true ∧ on.live 0 = true ∧ (on.chan[(0 : Fin 8)]).inReset = false ∧ 0x7FFFC % 4 = 0) ∧
      on.present 0 = true :=
  ⟨on_reaches.2.1, on_reaches.1, by decide +kernel⟩

/-- EventRingsAndVoter: an enabled ring with room, one that is not enabled, 255 and 256 records held; an unread record; the
voter on and off; a copy rewritten before. -/
theorem wit_EventRingsAndVoter :
    let ring := on.setF 0 R.EVT_CFG_EN 1
    let held (n : Nat) := on.modP fun p => { p with evt := p.evt.set 1 ⟨List.replicate n ⟨0, .semSat, 0, 0, 0, []⟩, false, 0⟩ }
    let fire := (on.setF 0 R.EVT_CFG_IRQ 1).setF 0 R.EVT_PTR_WR 1
    let again := on.modP fun p => { p with voter := { p.voter with recent := [(⟨1, 0x7100, 3, 2⟩, 50)] } }
    (srcPf 0 = 1 ∧ (ring.pkg.evt[(1 : Fin 9)]).held = [] ∧ ring.fnFld 1 R.EVT_CFG_EN = 1 ∧ ring.evtUnread 1 < evtSlots (ring.fnFld 1 R.EVT_CFG_SIZE)) ∧
      (on.fnFld 1 R.EVT_CFG_EN = 0 ∧ (((held 255).pkg.evt[(1 : Fin 9)]).held).length < 256 ∧ (((held 256).pkg.evt[(1 : Fin 9)]).held).length = 256) ∧
      (fire.present 1 = true ∧ (fire.chan[(0 : Fin 8)]).inReset = false ∧ fire.fnFld 1 R.EVT_CFG_IRQ = 1 ∧ fire.evtUnread 1 ≠ 0 ∧
        (fire.pkg.evt[(1 : Fin 9)]).fired = false) ∧ on.fnFld 1 R.EVT_CFG_IRQ ≠ 1 ∧
      (on.up 0 = true ∧ (State.reset.modC 0 fun c => { c with inReset := true }).up 0 = false) ∧
      (votedAt 1 0x7100 = true ∧ ∀ x ∈ on.pkg.voter.stuck, x.field ⟨1, 0x7100, 3, 2⟩ = false) ∧
      ((∀ x ∈ on.pkg.voter.recent, x.1.same ⟨1, 0x7100, 3, 2⟩ = false) ∧ ∃ x ∈ again.pkg.voter.recent, x.1.same ⟨1, 0x7100, 3, 2⟩ = true) := by
  decide +kernel

/-- A loader state of a package whose lease GW holds, with an image in force and one staged. -/
def loader (n : Nat) (i : Image) : State :=
  (leasedOn.modP fun p => { p with mould := { p.mould with force := some i, staged := some i } }).toMould n

/-- MouldImages: an open gate and a closed one; each state of the loader; an image that verifies and one that does not; the
limit reached; a FULL image and a sixteenth delta; a drain that is complete, with and without a split. -/
theorem wit_MouldImages :
    let i := image ⟨1, false, 9, 0⟩ 0
    let l (n : Nat) := loader n i
    let good := (l mouldLoading).modP fun p => { p with otp := imgOtp, mould := { p.mould with loadBytes := imgBody ++ imgSig } }
    let full := (loader mouldIdle { i with delta := true }).modP (·.setFld R.HUB_MOULD_STAT_DELTAS 15)
    let lim := (l mouldDraining).modP fun p => { p with mould := { p.mould with boundaries := (l 0).pkg.fld R.HUB_MOULD_CFG_DRAIN_LIM } }
    let split := (l mouldDraining).modP (·.setFld R.GAF_LEASE_STATUS_SPLIT 1)
    let busy := ((l mouldDraining).modP fun p => { p with mould := { p.mould with force := none } }).modX 0 0 fun c => { c with st := .run }
    (on.reaches 0 ∧ (l mouldIdle).reaches 0 ∧ full.reaches 0) ∧ (on.gateOpen .host = false ∧ (l mouldIdle).gateOpen .host = true ∧
      (l mouldIdle).gateOpen (.gaffer .gw) = true ∧ (l mouldIdle).hubOn = true) ∧
      ((l mouldIdle).mouldState = mouldIdle ∧ (l mouldStaged).mouldState = mouldStaged ∧ (l mouldDraining).mouldState = mouldDraining ∧
        (l mouldHeld).mouldState = mouldHeld ∧ (l mouldLoading).mouldState = mouldLoading ∧ (l mouldStoring).mouldState = mouldStoring) ∧
      (good.mouldState = mouldLoading ∧ (match verify good.pkg.otp good.fuses good.locked good.pkg.mould.force good.pkg.mould.loadBytes with
        | .ok _ => true
        | .error _ => false) = true) ∧
      (match verify (l mouldLoading).pkg.otp (l mouldLoading).fuses (l mouldLoading).locked (l mouldLoading).pkg.mould.force (l mouldLoading).pkg.mould.loadBytes with
        | .ok _ => false
        | .error _ => true) = true ∧
      (i.delta = false ∧ 15 ≤ full.pkg.fld R.HUB_MOULD_STAT_DELTAS ∧ (l mouldIdle).pkg.fld R.HUB_MOULD_STAT_DELTAS < 15) ∧
      (l mouldStaged).pkg.fld R.HUB_MOULD_CFG_DRAIN_LIM ≠ 0 ∧
      (lim.mouldState = mouldDraining ∧ lim.pkg.mould.killed = false ∧ lim.pkg.fld R.HUB_MOULD_CFG_DRAIN_LIM ≤ lim.pkg.mould.boundaries ∧
        (l mouldDraining).pkg.mould.boundaries < (l mouldDraining).pkg.fld R.HUB_MOULD_CFG_DRAIN_LIM) ∧
      ((l mouldDraining).drainFlush.drained = true ∧ (l mouldDraining).drainFlush.atReached = true ∧ (l mouldDraining).split = false ∧
        split.drainFlush.drained = true ∧ split.split = true ∧ busy.mouldState = mouldDraining ∧ busy.drainFlush.drained = false) := by
  exact ⟨⟨on_reaches.1, reaches_of (by decide +kernel), reaches_of (by decide +kernel)⟩, by decide +kernel⟩

/-- A power state of channel 0, under a policy. -/
def powered (st : PwrSt) (m : PwrMove) (setting : Nat) : State :=
  (under (image ⟨1, false, 9, 0⟩ setting) on).modC 0 fun c => { c with power := { c.power with st := st, move := m } }

/-- PowerStates: each timer in its state under each policy; an entry with and without a wake; an exit; a wake; commands to a
deeper state on a quiet channel and on one that is not. -/
theorem wit_PowerStates :
    let deep := (powered .sleep .none 2).setF 0 R.CH_PWR_CFG_DEEP_EN 1
    let woken := (powered .run (.entry .idle) 2).modC 0 fun c => { c with power := { c.power with wake := some 3 } }
    let eff := let i := image ⟨1, false, 9, 0⟩ 0
      under { i with parts := i.parts.set 0 { i.parts[0] with mode := 2, cap := 30 } } on
    ((powered .run .none 2).quiet 0 = true ∧ (powered .run .none 2).up 0 = true ∧ (powered .run .none 2).pwrPolicy 0 = 2 ∧
      (powered .run .none 1).pwrPolicy 0 = 1 ∧ (powered .run .none 0).pwrPolicy 0 = 0 ∧ (powered .run .none 2).gafferDown 0 = false) ∧
      (((powered .idle .none 2).pwr 0).st = .idle ∧ (deep.pwr 0).st = .sleep ∧ deep.f 0 R.CH_PWR_CFG_DEEP_EN = 1 ∧ deep.parked 0 = false) ∧
      (((powered .run (.entry .idle) 2).pwr 0).move = .entry .idle ∧ (woken.pwr 0).wake = some 3 ∧ (woken.pwr 0).held = false) ∧
      (((powered .deep (.exit .run) 2).pwr 0).move = .exit .run ∧ (powered .deep (.exit .run) 2).up 0 = true) ∧
      ((powered .sleep .none 2).fenced = false ∧ (powered .sleep .none 2).gafferDown 0 = false ∧ (1 : Fin 8).val ≠ 0) ∧
      ((powered .run .none 2).reaches 1 ∧ code.reaches 1) ∧
      ((0x80000002 : BitVec 32).getLsbD 31 = true ∧ ((powered .run .none 2).pwr 0).st.code < (pwrOf (bits (0x80000002 : BitVec 32).toNat 1 0)).code) ∧
      (code.quiet 0 = false ∧ (code.pwr 0).move = .none) ∧ ((eff.capShare 0).isSome = true ∧ on.capShare 0 = none) := by
  exact ⟨by decide +kernel, by decide +kernel, by decide +kernel, by decide +kernel, by decide +kernel,
    ⟨reaches_of (by decide +kernel), reaches_of (by decide +kernel)⟩, by decide +kernel⟩

/-- SecurityAlarms: each policy; a hub that does not run; an erase that runs; an open gate and a closed one. -/
theorem wit_SecurityAlarms :
    let p (n : Nat) := leasedOn.modP fun x => (x.setFld R.HUB_SEC_POLICY_POLICY n).wr 0x484 0x3
    let off := on.modP fun x => { x with cond := .off, sec := { x.sec with stored := 2 } }
    let fence := (p 1).modP fun x => x.setFld R.HUB_SEC_ALARM_FENCED 1
    let erasing := on.modP fun x => x.setFld R.HUB_SEC_ALARM_ERASING 1
    ((p 0).hubOn = true ∧ (p 0).alarmPolicy = 0 ∧ (p 1).alarmPolicy = 1 ∧ (p 2).alarmPolicy = 2 ∧ (p 2).pkg.cond ≠ .starting) ∧
      (off.hubOn = false ∧ off.pkg.vstby = true ∧ off.pkg.sec.stored = 2 ∧ (0 : Fin 5).val = 0 ∧ (1 : Fin 5).val ≠ 0) ∧
      (erasing.pkg.fld R.HUB_SEC_ALARM_ERASING = 1 ∧ on.pkg.fld R.HUB_SEC_ALARM_ERASING = 0) ∧
      ((p 0).present 0 = true ∧ (p 0).gateOpen .host = true ∧ on.gateOpen .host = false ∧ fence.fenced = true ∧ fence.gateOpen .host = true) ∧
      ((p 0).reaches 0 ∧ (p 0).pkg.fld R.HUB_SEC_POLICY_POLICY = 0 ∧ bits (1 : BitVec 32).toNat 1 0 = 1 ∧ bits (2 : BitVec 32).toNat 1 0 ≠ 0) := by
  exact ⟨by decide +kernel, by decide +kernel, by decide +kernel, by decide +kernel, reaches_of (by decide +kernel), by decide +kernel⟩

/-- A running entry of one pass in the state EngineResults asks for. -/
def resultReady (eng : Fin 11) (e : Entry) : Bool :=
  let s := code.modQ 0 eng fun q => { q with run := some e }
  s.canonical && s.clocked 0 && (s.eq 0 eng).run == some e && e.eng == eng.val && wEng e.word == eng.val && wOp e.word == e.op && decide (e.jc < 16) &&
    e.zero.isNone && e.going && e.pass == 0 && !e.crec && (s.ctx 0 (jcOf e.jc)).st == .run && wEpi e.word == 0 && wRpred e.word == 0 &&
    wCpred e.word == 0 && (e.t 3).space == 1

/-- An entry that runs. -/
def going (eng : Nat) (w : Wide) (td : List Desc) : Entry := { ent eng w with td := descs td, started := true, going := true }

/-- EngineResults: an entry of each operation, with readable operands in the local store. -/
theorem wit_EngineResults :
    let ab : List Desc := [halfs 0 [1, 1], halfs 64 [1, 1], 0, halfs 128 [1, 1]]
    let g (op : Nat) := going 0 (wide 0 op [0, 1, 3] 0 (if op = 2 then 256 else 0)) ab
    let m (f : Nat) := going 1 (wide 1 1 [0, 1, 3] f) ab
    let r (f : Nat) := going 1 (wide 1 2 [0, 3] f) ab
    let cp := going 6 (wide 6 1 [0, 3] 0) [desc 1 6 0 [1], 0, 0, desc 1 6 128 [1]]
    let fl := going 9 (wide 9 2 [3] 0x5A) [0, 0, 0, desc 1 6 128 [1]]
    (∀ op ∈ [1, 2], resultReady 0 (g op) = true ∧ (g op).op = op ∧ sideFmt ((g op).t 3).fmt = true ∧
      (code.stream 0 (g op).td ((g op).t 0) (fun x => some (x, 0, 0, 0)) ((g op).sz 2)).isOk = true ∧
      (code.stream 0 (g op).td ((g op).t 1) (fun x => some (0, x, 0, 0)) ((g op).sz 2)).isOk = true) ∧
      (∀ f ∈ [0, 1, 2], resultReady 1 (m f) = true ∧ wPar (m f).word 3 0 = f ∧ (code.lane 0 (m f).td ((m f).t 0) (0, 0, 0, 0)).isOk = true ∧
        (code.lane 0 (m f).td ((m f).t 1) (0, 0, 0, 0)).isOk = true) ∧
      (∀ f ∈ [0, 1, 2, 3, 4], resultReady 1 (r f) = true ∧ wPar (r f).word 3 0 = f ∧ (code.rowVals 0 (r f) ((r f).sz 1) 0).isOk = true) ∧
      (resultReady 6 cp = true ∧ wPar cp.word 1 0 = 0 ∧ (cp.t 0).space = 1 ∧ fmtBits (cp.t 3).fmt = 8 ∧ isBlock (cp.t 3).fmt = false ∧
        (cp.t 0).base + cp.sz 0 ≤ (cp.t 3).base) ∧ (resultReady 9 fl = true ∧ fl.op = 2) := by
  decide +kernel

/-- A step that goes on from a state with host memory, a lasting record and a saturated semaphore. -/
def keep : State :=
  { ((codeSem 7 ⟨65535, 65535, none⟩).modP fun p =>
      { p with host := [(3, 1)], hist := { p.hist with recs := [⟨0, 0, 2, clsPermanent, 1, 0, 0, 0⟩] } }) with pending := [.rwtLatch] }

/-- StepKeepsMemoryCanonical, StepKeepsFaultHistory and StepKeepsSemaphoresBounded. -/
theorem wit_invariants : (keep.canonical = true ∧ keep.semsBounded = true ∧ ∃ h ∈ keep.pkg.hist.recs, h.lasting = true) ∧
    ∃ t, step keep = .next t :=
  ⟨⟨by decide +kernel, semsBounded_of (by decide +kernel), by decide +kernel⟩, ⟨_, rfl⟩⟩

/-- EveryCommandGoesOn: a command that is no debug instruction; the debug port enabled. -/
theorem wit_EveryCommandGoesOn :
    let d := under { image ⟨1, false, 9, 0⟩ 0 with debug := true } on
    Instr.rwtLatch ≠ .jtagInstruction .debug ∧ d.pkg.vaux = true ∧ d.debugOn = true := by
  decide +kernel

/-- ScalarStaysOnItsChannel. -/
theorem wit_ScalarStaysOnItsChannel :
    (Instr.addi 0 0 1 1 1).scalarOf = some (0, 0) ∧ (1 : Fin 8) ≠ 0 ∧ ∃ t, exec (.addi 0 0 1 1 1) code = .next t :=
  ⟨by decide, by decide, ⟨_, rfl⟩⟩

end Sys2Proof.Tests
end

section
/-! SUPPORT. What every change of the state keeps: memories in canonical form, semaphores within their bounds, and the lasting
records of the fault history. One relation carries all three, so that each operation of the model is looked at once. -/

namespace Sys2Proof.Machine

open Sys2Proof

-- One declaration after the other: a side condition that a lemma below proves by itself waits for all before it, and each such
-- wait would hold a thread and its stack.
set_option Elab.async false

/-- A state after changes that keep memories canonical, semaphores within their bounds, and lasting records. -/
structure State.Evolves (r s : State) : Prop where
  canonical : r.canonical = true → s.canonical = true
  bounded : r.semsBounded = true → s.semsBounded = true
  history : r.keepsHistory s

/-- A semaphore whose count and initial value fit in 16 bits. -/
def Sem.bounded (m : Sem) : Prop := m.count ≤ 65535 ∧ m.init ≤ 65535

/-- What `State.Evolves` looks at in a channel. -/
abbrev Chan.kept (c : Chan) : (Mem × Mem × Mem × Mem) × Vector Sem 256 := ((c.mem.t1, c.mem.t2, c.mem.ls, c.mem.arws), c.sem)

/-- What `State.Evolves` looks at in the package. -/
abbrev Pkg.kept (p : Pkg) : Mem × Mem × Mem × List Hist := (p.host, p.t3, p.flash.bytes, p.hist.recs)

variable {r s : State} {ch : ChIdx} {jc : JcIdx}

theorem State.Evolves.refl (s : State) : s.Evolves s := ⟨id, id, fun _ hm _ => hm⟩

theorem State.Evolves.trans {t : State} (h : r.Evolves s) (g : s.Evolves t) : r.Evolves t :=
  ⟨fun hr => g.canonical (h.canonical hr), fun hr => g.bounded (h.bounded hr),
    fun x hx hl => g.history x (h.history x hx hl) hl⟩

/-! ## The parts looked at -/

theorem State.semsBounded_iff (s : State) : s.semsBounded = true ↔
    ∀ (ch : ChIdx) (n : Fin 256), ((s.chan[ch]).sem[n]).bounded := by
  simp [State.semsBounded, Sem.bounded]

theorem ChMem.canonical_congr {c d : Chan} (h : d.kept = c.kept) (hc : c.mem.canonical = true) : d.mem.canonical = true := by
  simp only [Chan.kept, Prod.mk.injEq] at h
  obtain ⟨⟨h1, h2, h3, h4⟩, -⟩ := h
  rw [ChMem.canonical_iff] at *
  rwa [h1, h2, h3, h4]

theorem Chan.sem_of_kept {c d : Chan} (h : d.kept = c.kept) : d.sem = c.sem := congrArg Prod.snd h

/-- A change of a channel, by what it does to its memories and semaphores. -/
theorem State.Evolves.modC_of {f : Chan → Chan} (h : r.Evolves s)
    (hm : (s.chan[ch]).mem.canonical = true → (f s.chan[ch]).mem.canonical = true)
    (hs : ∀ n : Fin 256, ((s.chan[ch]).sem[n]).bounded → ((f s.chan[ch]).sem[n]).bounded) :
    r.Evolves (s.modC ch f) := by
  refine h.trans ⟨fun hc => State.canonical_modC hc hm, fun hb => ?_, fun _ hx _ => hx⟩
  rw [State.semsBounded_iff] at *
  intro c n
  by_cases e : c = ch
  · subst e
    rw [State.modC_same]
    exact hs n (hb c n)
  · rw [State.modC_other s f e]
    exact hb c n

/-- A change of a channel beside its memories and semaphores. -/
theorem State.Evolves.modC {f : Chan → Chan} (h : r.Evolves s) (hf : ∀ c, (f c).kept = c.kept := by exact fun _ => rfl) :
    r.Evolves (s.modC ch f) :=
  h.modC_of (ChMem.canonical_congr (hf _)) fun n hn => by rwa [Chan.sem_of_kept (hf _)]

/-- A change of a channel's memories. -/
theorem State.Evolves.modMem {f : ChMem → ChMem} (h : r.Evolves s)
    (hf : ∀ m, m.canonical = true → (f m).canonical = true := by exact fun _ hm => hm) : r.Evolves (s.modMem ch f) :=
  h.modC_of (hf _) fun _ hn => hn

/-- A change of the package, by what it does to its memories and to the fault history. -/
theorem State.Evolves.modP_of {f : Pkg → Pkg} (h : r.Evolves s) (hm : s.pkg.canonical = true → (f s.pkg).canonical = true)
    (hh : ∀ x ∈ s.pkg.hist.recs, x.lasting = true → x ∈ (f s.pkg).hist.recs) : r.Evolves (s.modP f) :=
  h.trans ⟨fun hc => State.canonical_modP hc hm, id, hh⟩

/-- Two changes of the package that differ beside its memories and the records of the fault history. -/
theorem State.Evolves.modP_congr {f g : Pkg → Pkg} (h : r.Evolves (s.modP g)) (hf : ∀ p, (f p).kept = (g p).kept) :
    r.Evolves (s.modP f) := by
  have hk := hf s.pkg
  simp only [Pkg.kept, Prod.mk.injEq] at hk
  obtain ⟨h1, h2, h3, h4⟩ := hk
  refine ⟨fun hc => ?_, h.bounded, fun x hx hl => ?_⟩
  · have hg := h.canonical hc
    rw [State.canonical_iff] at *
    simp only [State.modP_pkg, Pkg.canonical_iff] at hg ⊢
    rwa [h1, h2, h3]
  · rw [State.modP_pkg, h4]
    exact h.history x hx hl

/-- A change of the package beside its memories and the records of the fault history. -/
theorem State.Evolves.modP {f : Pkg → Pkg} (h : r.Evolves s) (hf : ∀ p, (f p).kept = p.kept := by exact fun _ => rfl) :
    r.Evolves (s.modP f) := State.Evolves.modP_congr (g := id) h hf

/-- Free values drawn and commands queued stand beside all three. -/
theorem State.Evolves.draw (h : r.Evolves s) : r.Evolves s.draw.2 := h.trans ⟨id, id, fun _ hx _ => hx⟩

/-! ## Branches and folds -/

theorem State.Evolves.ite {c : Prop} {_ : Decidable c} {a b : State} (ha : r.Evolves a) (hb : r.Evolves b) :
    r.Evolves (if c then a else b) := by
  split
  · exact ha
  · exact hb

theorem State.Evolves.foldl {α : Type} {f : State → α → State} (hf : ∀ t x, r.Evolves t → r.Evolves (f t x)) :
    ∀ {l : List α} {s : State}, r.Evolves s → r.Evolves (l.foldl f s)
  | [], _, h => h
  | x :: l, s, h => (hf s x h).foldl hf (l := l)

theorem State.Evolves.eachC {f : State → ChIdx → State} (hf : ∀ t c, r.Evolves t → r.Evolves (f t c)) (h : r.Evolves s) :
    r.Evolves (s.eachC f) := State.eachC_keeps h hf

/-! ## The fault history beside memory

What the shared operations on memory and the event paths leave of the fault history: all of it. -/

theorem State.foldl_hist {α : Type} {f : State → α → State} (hf : ∀ t x, (f t x).pkg.hist = t.pkg.hist) :
    ∀ (l : List α) (s : State), (l.foldl f s).pkg.hist = s.pkg.hist
  | [], _ => rfl
  | x :: l, s => (State.foldl_hist hf l (f s x)).trans (hf s x)

@[simp] theorem State.fnWr_hist (pf : Fin 9) (off : Nat) (v : Word) : (s.fnWr pf off v).pkg.hist = s.pkg.hist := by
  unfold State.fnWr
  split <;> rfl

@[simp] theorem State.setB_hist (i : BucketInst) (f : Fld) (v : Nat) : (s.setB i f v).pkg.hist = s.pkg.hist := State.fnWr_hist ..

@[simp] theorem State.modBucket_hist (i : BucketInst) (k : Nat) (f : Bucket → Bucket) :
    (s.modBucket i k f).pkg.hist = s.pkg.hist := by cases i <;> rfl

@[simp] theorem State.transfer_hist (i : BucketInst) (k n : Nat) : (s.transfer i k ch n).pkg.hist = s.pkg.hist := by
  unfold State.transfer
  split
  · rfl
  · extract_lets n t m s1
    split <;> simp [s1]

@[simp] theorem State.charge_hist (t : Tier) (n : Nat) (host : Bool) : (s.charge ch t n host).pkg.hist = s.pkg.hist := by
  unfold State.charge
  split <;> simp

theorem Pkg.nvTail_hist (p : Pkg) (x : Cells Nat) : ({ p with nvTail := x } : Pkg).hist = p.hist := rfl

@[simp] theorem State.submit_hist (a n : Nat) : (s.submit ch a n).pkg.hist = s.pkg.hist := by
  unfold State.submit
  split
  · rfl
  · split
    · exact Pkg.nvTail_hist ..
    · rfl

@[simp] theorem State.moved_hist (t : Tier) (a n : Nat) (host : Bool) : (s.moved ch t a n host).pkg.hist = s.pkg.hist := by
  unfold State.moved
  dsimp only
  split <;> simp

@[simp] theorem State.chargeRun_hist (x : Nat × Nat) (host : Bool) : (s.chargeRun ch x host).pkg.hist = s.pkg.hist := by
  unfold State.chargeRun
  split
  · rfl
  · split <;> simp

@[simp] theorem State.tlbFill_hist (va : Nat) : (s.tlbFill ch va).pkg.hist = s.pkg.hist := by
  obtain ⟨tlb, h⟩ := s.tlbFill_cases ch va
  rw [h, State.modC_pkg]

@[simp] theorem State.homePut_hist (t : Tier) (a : Nat) (b : Byte) : (s.homePut ch t a b).pkg.hist = s.pkg.hist := by
  unfold State.homePut
  split
  · rfl
  · rfl
  · split
    · split <;> rfl
    · rfl

@[simp] theorem State.toHome_hist (t : Tier) (g : Nat) (m : Mem) : (s.toHome ch t g m).pkg.hist = s.pkg.hist := by
  unfold State.toHome
  extract_lets put s1 s2
  have h1 : s1.pkg.hist = s.pkg.hist := by
    unfold s1
    split
    · exact State.foldl_hist (f := put) (fun _ _ => State.homePut_hist ..) _ s
    · exact State.foldl_hist (f := put) (fun _ _ => State.homePut_hist ..) _ s
  have h2 : s2.pkg.hist = s.pkg.hist := (State.moved_hist ..).trans h1
  split <;> exact h2

/-! Events. -/

@[simp] theorem State.irq_hist (pf : Fin 9) : (s.irq pf).pkg.hist = s.pkg.hist := by
  unfold State.irq
  split <;> rfl

theorem State.butEvents.hist {t : State} (h : s.butEvents t) : t.pkg.hist = s.pkg.hist := by
  obtain ⟨-, hp, -⟩ := h
  exact hp ▸ rfl

@[simp] theorem State.post_hist (src : Nat) (code : Ev) (arg : List Nat) : (s.post src code arg).pkg.hist = s.pkg.hist :=
  (State.post_does s src code arg).1.hist

@[simp] theorem State.evtDrain_hist (pf : Fin 9) (n : Nat) : (s.evtDrain pf n).pkg.hist = s.pkg.hist :=
  (State.evtDrain_keeps pf n s).1.hist

/-! The tier cache and device virtual memory. -/

@[simp] theorem State.wbFail_hist : (s.wbFail ch).pkg.hist = s.pkg.hist := State.post_hist ..

@[simp] theorem State.flushOut_hist (t : Tier) (g : Nat) : (s.flushOut ch t g).pkg.hist = s.pkg.hist := by
  unfold State.flushOut
  split <;> rfl

@[simp] theorem State.wbEnd_hist (x : Wb) (ok : Bool) : (s.wbEnd ch x ok).pkg.hist = s.pkg.hist := by
  unfold State.wbEnd State.setDirty State.modTc
  dsimp only
  split
  · rfl
  · split <;> simp

@[simp] theorem State.wbStart_hist (l : TcLine) : (s.wbStart ch l).pkg.hist = s.pkg.hist := by
  have room : (s.wbRoom ch).pkg.hist = s.pkg.hist := by
    unfold State.wbRoom
    dsimp only
    split
    · rfl
    · split
      · rfl
      · exact State.wbEnd_hist ..
  unfold State.wbStart
  split
  · rfl
  · exact room

@[simp] theorem State.tcEvict_hist (l : List TcLine) : (s.tcEvict ch l).pkg.hist = s.pkg.hist := by
  induction l with
  | nil => rfl
  | cons v more ih =>
    unfold State.tcEvict
    split
    · exact ih
    · exact State.wbStart_hist v

@[simp] theorem State.tcFill_hist (t : Tier) (g way : Nat) : (s.tcFill ch t g way).pkg.hist = s.pkg.hist := by
  unfold State.tcFill
  split
  rename_i e
  split at e <;> cases e
  · rfl
  · exact State.moved_hist ..

@[simp] theorem State.tcTouch_hist (t : Tier) (g : Nat) : (s.tcTouch ch t g).pkg.hist = s.pkg.hist := by
  unfold State.tcTouch
  split
  · rfl
  · dsimp only
    split <;> simp

@[simp] theorem State.putAt_hist (p : Nat × Leaf × Nat) (b : Byte) : (s.putAt ch p b).pkg.hist = s.pkg.hist := by
  have put : (if s.cached ch p.1 p.2.1 then (s.tcTouch ch p.2.1.tier (p.2.2 / 4096)).tcPut ch p.2.1.tier p.2.2 b
      else s.homePut ch p.2.1.tier p.2.2 b).pkg.hist = s.pkg.hist := by
    split
    · exact State.tcTouch_hist ..
    · exact State.homePut_hist ..
  unfold State.putAt
  dsimp only
  split <;> exact put

@[simp] theorem State.countPromo_hist (va n : Nat) : (s.countPromo ch va n).pkg.hist = s.pkg.hist := by
  unfold State.countPromo
  refine State.foldl_hist (fun t x => ?_) _ s
  split
  · rfl
  · split <;> rfl

theorem State.vaWrite_hist {t : State} {va : Nat} {bs : List Byte} {host : Bool} (h : s.vaWrite ch va bs host = .ok t) :
    t.pkg.hist = s.pkg.hist := by
  unfold State.vaWrite at h
  split at h
  · cases h
  · split at h
    · cases h
    · split at h
      · cases h
      · cases h
        refine (State.countPromo_hist ..).trans ((State.foldl_hist (fun t x => ?_) _ _).trans
          (State.foldl_hist (fun _ _ => State.putAt_hist ..) _ s))
        simp

@[simp] theorem State.vaTouch_hist (va n : Nat) : (s.vaTouch ch va n).pkg.hist = s.pkg.hist := by
  unfold State.vaTouch
  refine (State.countPromo_hist ..).trans (State.foldl_hist (fun t x => ?_) _ s)
  dsimp only
  split
  · simp
  · split <;> simp

/-! ## Registers, events and memory -/

/-- A change that moves within memories, registers and the mark of the digest engine, keeps memories canonical and leaves the
fault history. -/
theorem State.Evolves.of_moves {t : State} (h : r.Evolves s) (hc : s.canonical = true → t.canonical = true) (hm : s.MovesOnly t)
    (hh : t.pkg.hist = s.pkg.hist) : r.Evolves t := by
  refine h.trans ⟨hc, fun hb => ?_, fun x hx _ => by rwa [hh]⟩
  rw [State.semsBounded_iff] at *
  intro c n
  rw [hm.2 c]
  exact hb c n

theorem State.Evolves.setF {f v} (h : r.Evolves s) : r.Evolves (s.setF ch f v) := h.modC

theorem State.Evolves.satF {f n} (h : r.Evolves s) : r.Evolves (s.satF ch f n) := h.modC

theorem State.Evolves.incF {f n} (h : r.Evolves s) : r.Evolves (s.incF ch f n) := h.modC

theorem State.Evolves.fnWr {pf off v} (h : r.Evolves s) : r.Evolves (s.fnWr pf off v) :=
  h.of_moves State.canonical_fnWr (State.moves_fnWr (State.moves_refl s)) (State.fnWr_hist ..)

theorem State.Evolves.fnSet {pf f v} (h : r.Evolves s) : r.Evolves (s.fnSet pf f v) := h.fnWr

theorem State.Evolves.setB {i f v} (h : r.Evolves s) : r.Evolves (s.setB i f v) := h.fnWr

theorem State.Evolves.modBucket {i k f} (h : r.Evolves s) : r.Evolves (s.modBucket i k f) :=
  h.of_moves State.canonical_modBucket (State.moves_modBucket (State.moves_refl s)) (State.modBucket_hist ..)

theorem State.Evolves.transfer {i k n} (h : r.Evolves s) : r.Evolves (s.transfer i k ch n) :=
  h.of_moves State.canonical_transfer (State.moves_transfer (State.moves_refl s)) (State.transfer_hist ..)

theorem State.Evolves.irq {pf} (h : r.Evolves s) : r.Evolves (s.irq pf) :=
  h.of_moves State.canonical_irq (State.moves_irq (State.moves_refl s)) (State.irq_hist ..)

theorem State.Evolves.evtDrain {pf n} (h : r.Evolves s) : r.Evolves (s.evtDrain pf n) :=
  h.of_moves (State.canonical_evtDrain pf n) (State.moves_evtDrain pf n (State.moves_refl s)) (State.evtDrain_hist ..)

theorem State.Evolves.post {src code arg} (h : r.Evolves s) : r.Evolves (s.post src code arg) :=
  h.of_moves State.canonical_post (State.moves_post (State.moves_refl s)) (State.post_hist ..)

theorem State.Evolves.tlbFill {va} (h : r.Evolves s) : r.Evolves (s.tlbFill ch va) :=
  h.of_moves State.canonical_tlbFill (State.moves_tlbFill (State.moves_refl s)) (State.tlbFill_hist ..)

theorem State.Evolves.modTc {f} (h : r.Evolves s) : r.Evolves (s.modTc ch f) := h.modC

theorem State.Evolves.tcCount (h : r.Evolves s) : r.Evolves (s.tcCount ch) := h.setF.setF

theorem State.Evolves.toHome {t g m} (h : r.Evolves s) : r.Evolves (s.toHome ch t g m) :=
  h.of_moves State.canonical_toHome (State.moves_toHome (State.moves_refl s)) (State.toHome_hist ..)

theorem State.Evolves.wbFail (h : r.Evolves s) : r.Evolves (s.wbFail ch) := h.satF.post

theorem State.Evolves.setDirty {t g d} (h : r.Evolves s) : r.Evolves (s.setDirty ch t g d) := by
  unfold State.setDirty
  exact h.modTc

theorem State.Evolves.flushOut {t g} (h : r.Evolves s) : r.Evolves (s.flushOut ch t g) := h.ite h.modTc

theorem State.Evolves.wbEnd {x ok} (h : r.Evolves s) : r.Evolves (s.wbEnd ch x ok) :=
  h.of_moves State.canonical_wbEnd (State.moves_wbEnd (State.moves_refl s)) (State.wbEnd_hist ..)

theorem State.Evolves.wbStart {l} (h : r.Evolves s) : r.Evolves (s.wbStart ch l) :=
  h.of_moves State.canonical_wbStart (State.moves_wbStart (State.moves_refl s)) (State.wbStart_hist ..)

theorem State.Evolves.tcTouch {t g} (h : r.Evolves s) : r.Evolves (s.tcTouch ch t g) :=
  h.of_moves State.canonical_tcTouch (State.moves_tcTouch (State.moves_refl s)) (State.tcTouch_hist ..)

theorem State.Evolves.vaTouch {va n} (h : r.Evolves s) : r.Evolves (s.vaTouch ch va n) :=
  h.of_moves State.canonical_vaTouch (State.moves_vaTouch (State.moves_refl s)) (State.vaTouch_hist ..)

/-! ## Operations that can fault -/

/-- What an operation that can fault leaves when it does not. -/
def Gives {ε α : Type} (P : α → Prop) : Except ε α → Prop
  | .ok a => P a
  | .error _ => True

section
variable {ε α β : Type} {P : α → Prop} {Q : β → Prop}

theorem Gives.of_ok {x : Except ε α} {a : α} (h : Gives P x) (e : x = .ok a) : P a := by subst e; exact h

theorem gives_of {x : Except ε α} (h : ∀ a, x = .ok a → P a) : Gives P x := by
  cases x with
  | error e => trivial
  | ok a => exact h a rfl

/-- A value that says nothing of the state comes first. -/
theorem gives_bind {x : Except ε α} {f : α → Except ε β} (hf : ∀ a, Gives Q (f a)) : Gives Q (x >>= f) := by
  cases x with
  | error e => trivial
  | ok a => exact hf a

theorem Gives.bind {x : Except ε α} {f : α → Except ε β} (hx : Gives P x) (hf : ∀ a, P a → Gives Q (f a)) : Gives Q (x >>= f) := by
  cases x with
  | error e => trivial
  | ok a => exact hf a hx

theorem Gives.imp {Q : α → Prop} {x : Except ε α} (h : ∀ a, P a → Q a) (hx : Gives P x) : Gives Q x := by
  cases x with
  | error e => trivial
  | ok a => exact h a hx

theorem gives_map {Q : β → Prop} {x : Except ε α} {f : α → β} (hx : Gives (fun a => Q (f a)) x) : Gives Q (x.map f) := by
  cases x with
  | error e => trivial
  | ok a => exact hx

theorem gives_ite {c : Prop} {_ : Decidable c} {x y : Except ε α} (hx : Gives P x) (hy : Gives P y) :
    Gives P (if c then x else y) := by
  split
  · exact hx
  · exact hy

theorem gives_tryFold {f : α → β → Try α} (hf : ∀ a x, P a → Gives P (f a x)) : ∀ {l : List β} {a : α}, P a → Gives P (tryFold f a l)
  | [], _, h => h
  | x :: l, a, h => by
    unfold tryFold
    split
    · trivial
    · next t ht => exact gives_tryFold hf ((hf a x h).of_ok ht)

end

theorem State.Evolves.vaWrite {va bs host} (h : r.Evolves s) : Gives r.Evolves (s.vaWrite ch va bs host) :=
  gives_of fun _ e => h.of_moves (fun hc => State.canonical_vaWrite hc e) (State.moves_vaWrite (State.moves_refl s) e)
    (State.vaWrite_hist e)

/-! ## Outcomes of a command -/

/-- What a command leaves, when it goes on. -/
def State.Leads (r : State) : Out → Prop
  | .next s => r.Evolves s
  | _ => True

theorem State.leads_ite {c : Prop} {_ : Decidable c} {a b : Out} (ha : r.Leads a) (hb : r.Leads b) :
    r.Leads (if c then a else b) := by
  split
  · exact ha
  · exact hb

theorem State.Evolves.ite₁ {α : Type} {c : Prop} {_ : Decidable c} {a b : State × α} (ha : r.Evolves a.1) (hb : r.Evolves b.1) :
    r.Evolves (if c then a else b).1 := by
  split
  · exact ha
  · exact hb

theorem State.Evolves.ite₂ {α : Type} {c : Prop} {_ : Decidable c} {a b : α × State} (ha : r.Evolves a.2) (hb : r.Evolves b.2) :
    r.Evolves (if c then a else b).2 := by
  split
  · exact ha
  · exact hb

/-! A state beside other results. -/

theorem State.Evolves.pair {α : Type} {x : α} (h : r.Evolves s) : r.Evolves (s, x).1 := h

theorem State.Evolves.pair₂ {α : Type} {x : α} (h : r.Evolves s) : r.Evolves (x, s).2 := h

theorem State.Evolves.fst {α : Type} {p : State × α} {x : α} (h : r.Evolves p.1) (e : p = (s, x)) : r.Evolves s := by
  subst e
  exact h

theorem State.Evolves.snd {α : Type} {p : α × State} {x : α} (h : r.Evolves p.2) (e : p = (x, s)) : r.Evolves s := by
  subst e
  exact h

theorem State.Evolves.foldl₁ {α β : Type} {f : State × β → α → State × β} (hf : ∀ t x, r.Evolves t.1 → r.Evolves (f t x).1) :
    ∀ {l : List α} {p : State × β}, r.Evolves p.1 → r.Evolves (l.foldl f p).1
  | [], _, h => h
  | x :: l, p, h => (hf p x h).foldl₁ hf (l := l)

/-- A fold that stops at the first fault. -/
theorem gives_foldl {ε α β : Type} {P : α → Prop} {f : Except ε α → β → Except ε α} (hf : ∀ x b, Gives P x → Gives P (f x b)) :
    ∀ {l : List β} {x : Except ε α}, Gives P x → Gives P (l.foldl f x)
  | [], _, h => h
  | b :: l, x, h => gives_foldl hf (l := l) (hf x b h)

/-! ## Bytes written straight into a memory -/

theorem ChMem.canonical_ls {m : ChMem} {a bs} (h : m.canonical = true) :
    ({ m with ls := m.ls.write a bs } : ChMem).canonical = true := by
  rw [ChMem.canonical_iff] at *
  exact ⟨h.1, h.2.1, Memory.wf_write _ _ h.2.2.1, h.2.2.2⟩

theorem ChMem.canonical_arws {m : ChMem} {a bs} (h : m.canonical = true) :
    ({ m with arws := m.arws.write a bs } : ChMem).canonical = true := by
  rw [ChMem.canonical_iff] at *
  exact ⟨h.1, h.2.1, h.2.2.1, Memory.wf_write _ _ h.2.2.2⟩

theorem Pkg.canonical_host {p : Pkg} {a bs} (h : p.canonical = true) :
    ({ p with host := p.host.write a bs } : Pkg).canonical = true := by
  rw [Pkg.canonical_iff] at *
  exact ⟨Memory.wf_write _ _ h.1, h.2⟩

theorem Pkg.canonical_flash {p : Pkg} {a bs} (h : p.canonical = true) :
    ({ p with flash := { p.flash with bytes := p.flash.bytes.write a bs } } : Pkg).canonical = true := by
  rw [Pkg.canonical_iff] at *
  exact ⟨h.1, h.2.1, Memory.wf_write _ _ h.2.2⟩

/-- Bytes written into the flash. -/
theorem State.Evolves.flash {a bs} (h : r.Evolves s) :
    r.Evolves (s.modP fun p => { p with flash := { p.flash with bytes := p.flash.bytes.write a bs } }) :=
  h.modP_of Pkg.canonical_flash fun _ hx _ => hx

/-- A change of a semaphore that keeps it within its bounds. -/
theorem State.Evolves.modSem {n f} (h : r.Evolves s) (hf : ∀ m : Sem, m.bounded → (f m).bounded) :
    r.Evolves (s.modSem ch n f) := by
  refine h.modC_of (fun hc => hc) fun k hk => ?_
  by_cases e : n % 256 = k.val
  · simpa [e] using hf _ hk
  · simpa [Vector.getElem_set, e] using hk

/-! ## Operations that may give no state -/

theorem State.Evolves.getD {x : Option State} (hx : ∀ t ∈ x, r.Evolves t) (h : r.Evolves s) : r.Evolves (x.getD s) := by
  cases x with
  | none => exact h
  | some t => exact hx t rfl

/-! ## Fields of registers -/

theorem Pkg.kept_wr (p : Pkg) (off : Nat) (v : Word) : (p.wr off v).kept = p.kept := rfl

theorem Pkg.kept_setFld (p : Pkg) (f : Fld) (v : Nat) : (p.setFld f v).kept = p.kept := rfl

theorem Pkg.kept_satFld (p : Pkg) (f : Fld) (n : Nat) : (p.satFld f n).kept = p.kept := rfl

theorem Chan.kept_setFld (c : Chan) (f : Fld) (v : Nat) : (c.setFld f v).kept = c.kept := rfl

theorem Chan.kept_incFld (c : Chan) (f : Fld) (n : Nat) : (c.incFld f n).kept = c.kept := rfl

theorem State.Evolves.satP {f n} (h : r.Evolves s) : r.Evolves (s.modP (·.satFld f n)) := h.modP fun p => Pkg.kept_satFld p f n

end Sys2Proof.Machine
end

section
/-! SUPPORT. The state after reset. -/

namespace Sys2Proof.Machine

open Sys2Proof

/-- Every semaphore of a new channel is 0. -/
theorem Chan.new_bounded (n : Fin 256) : (Chan.new.sem[n]).bounded := by
  simp [Chan.new, Sem.bounded]

theorem State.reset_chan (ch : ChIdx) : State.reset.chan[ch] = Chan.new := by
  simp [State.reset]

theorem State.reset_canonical : State.reset.canonical = true := by
  rw [State.canonical_iff]
  refine ⟨rfl, fun ch => ?_⟩
  rw [State.reset_chan]
  rfl

theorem State.reset_semsBounded : State.reset.semsBounded = true := by
  rw [State.semsBounded_iff]
  intro ch n
  rw [State.reset_chan]
  exact Chan.new_bounded n

theorem State.reset_ctx (ch : ChIdx) (jc : JcIdx) : State.reset.ctx ch jc = Ctx.new := by
  rw [State.ctx, State.reset_chan]
  simp [Chan.new]

theorem State.reset_eq (ch : ChIdx) (e : Fin 11) : State.reset.eq ch e = ⟨[], none, []⟩ := by
  rw [State.eq, State.reset_chan]
  simp [Chan.new]

/-- Settles O55: reset gives every channel the state of a new one. -/
theorem resetIsGood : Obligations.ResetIsGood :=
  ⟨State.reset_canonical, State.reset_semsBounded, rfl, rfl, fun ch jc => by rw [State.reset_ctx]; rfl, State.reset_eq⟩

end Sys2Proof.Machine
end

section
/-! SUPPORT. What the stores of the shared units keep: power, links, slots, futures and recurrent states. -/

namespace Sys2Proof.Machine

open Sys2Proof

set_option Elab.async false

variable {r s : State} {ch : ChIdx} {jc : JcIdx}

/-! ## Registers and stalls -/

theorem State.Evolves.stalled {cause cycles} (h : r.Evolves s) : r.Evolves (s.stalled ch cause cycles) := by
  unfold State.stalled
  exact h.incF.modMem

theorem State.Evolves.postReg {pf code arg} (h : r.Evolves s) : r.Evolves (s.postReg pf code arg) := by
  unfold State.postReg
  split
  · exact h.post
  · exact h.post

theorem State.Evolves.bucketAdmit {i k} : ∀ {n s}, r.Evolves s → r.Evolves (s.bucketAdmit i k n)
  | 0, _, h => h
  | n + 1, s, h => by
    unfold State.bucketAdmit
    split
    · exact h
    · exact h.setB.modBucket.bucketAdmit.ite h.setB.modBucket

theorem State.Evolves.refillOne {i k} (h : r.Evolves s) : r.Evolves (s.refillOne i k) := by
  unfold State.refillOne
  extract_lets s1 t
  have h1 : r.Evolves s1 := by
    unfold s1
    split
    · exact h
    · exact h.stalled
  exact h1.setB.bucketAdmit

theorem State.Evolves.wbSettle {t g} (h : r.Evolves s) : r.Evolves (s.wbSettle ch t g) := h.foldl fun _ _ => State.Evolves.wbEnd

theorem State.Evolves.tcClean {t g} (h : r.Evolves s) : r.Evolves (s.tcClean ch t g) := by
  unfold State.tcClean
  split
  · exact h.wbSettle
  · exact h.wbStart.wbSettle

theorem State.Evolves.wbAgain {x ok} (h : r.Evolves s) : r.Evolves (s.wbAgain ch x ok) := by
  unfold State.wbAgain
  refine h.ite ?_
  split
  · extract_lets s1 s2
    have h2 : r.Evolves s2 := by
      unfold s2
      split
      · exact h.toHome.toHome.setDirty
      · exact h.toHome
    exact h2.modTc.flushOut
  · exact h.wbFail

/-! ## Changes of power state and wake events -/

theorem State.Evolves.modPwr {f} (h : r.Evolves s) : r.Evolves (s.modPwr ch f) := h.modC

theorem State.Evolves.pwrShow (h : r.Evolves s) : r.Evolves (s.pwrShow ch) := h.setF.setF

theorem State.Evolves.pwrBegin {m} (h : r.Evolves s) : r.Evolves (s.pwrBegin ch m) := h.modPwr.pwrShow

theorem State.Evolves.lehrNext (h : r.Evolves s) : r.Evolves (s.lehrNext ch) := h.foldl fun _ _ ht => ht.modPwr.pwrShow.ite ht

theorem State.Evolves.exitBegin {code} (h : r.Evolves s) : r.Evolves (s.exitBegin ch code) := h.setF.post.pwrBegin

theorem State.Evolves.reup (h : r.Evolves s) : r.Evolves (s.reup ch) := h.ite h.setF.satF.post

theorem State.Evolves.wake {code} (h : r.Evolves s) : r.Evolves (s.wake ch code) := by
  unfold State.wake
  refine h.ite ?_
  split
  · exact h
  · exact h.ite h.modPwr.reup
  · exact h.ite (h.modP.ite h.exitBegin)

/-! ## The link unit's store -/

theorem State.Evolves.modFab {f} (h : r.Evolves s) : r.Evolves (s.modFab ch f) := h.modC

theorem State.Evolves.modLink {p f} (h : r.Evolves s) : r.Evolves (s.modLink ch p f) := h.modFab

theorem State.Evolves.routesReturn (h : r.Evolves s) : r.Evolves (s.routesReturn ch) := h.foldl fun _ _ ht => ht.modLink.ite ht

theorem State.Evolves.lanesOff {p} (h : r.Evolves s) : r.Evolves (s.lanesOff ch p) := by
  unfold State.lanesOff
  split
  extract_lets s1 s2
  have h1 : r.Evolves s1 := h.foldl fun _ _ => State.Evolves.setF
  exact (h1.setF.ite h1).setF.modFab

theorem State.Evolves.ringsLocked {v} (h : r.Evolves s) : r.Evolves (s.ringsLocked ch v) := h.foldl fun _ _ ht => ht.setF.setF

theorem State.Evolves.memSlotsOff {ws} (h : r.Evolves s) : r.Evolves (s.memSlotsOff ch ws) :=
  h.foldl fun _ _ => State.Evolves.setF

theorem State.Evolves.t2Dark (h : r.Evolves s) : r.Evolves (s.t2Dark ch) := by
  unfold State.t2Dark
  extract_lets s1
  have h1 : r.Evolves s1 := h.memSlotsOff.modFab
  exact h1.setF.satF.ite h1

theorem State.Evolves.sendPlain {p c} (h : r.Evolves s) : r.Evolves (s.sendPlain ch p c) := h.modLink

theorem State.Evolves.idles {p} : ∀ {n s}, r.Evolves s → r.Evolves (s.idles ch p n)
  | 0, _, h => h
  | _ + 1, _, h => h.ite h.sendPlain.idles

theorem State.Evolves.idle {p} (h : r.Evolves s) : r.Evolves (s.idle ch p) := h.idles.ite h

theorem State.Evolves.sendTicks {p} (h : r.Evolves s) : r.Evolves (s.sendTicks ch p) :=
  h.ite (h.modLink.foldl fun _ _ => State.Evolves.sendPlain)

theorem State.Evolves.tickKids {num delay} (h : r.Evolves s) : r.Evolves (s.tickKids ch num delay) := by
  unfold State.tickKids
  split
  · exact h
  · exact h.foldl fun _ _ ht => ht.modLink.sendTicks.ite ht

theorem State.Evolves.deliver {c} (h : r.Evolves s) : r.Evolves (s.deliver ch c) := h.wake.satF.ite (h.wake.ite h.wake.modFab)

theorem State.Evolves.freeInput {inp vc} (h : r.Evolves s) : r.Evolves (s.freeInput ch inp vc) :=
  h.ite (h.modLink.ite h.modLink.idle)

theorem State.Evolves.enqueue {p q front} (h : r.Evolves s) : r.Evolves (s.enqueue ch p q front) := h.modLink

theorem State.Evolves.noRoute {q} (h : r.Evolves s) : r.Evolves (s.noRoute ch q) := by
  unfold State.noRoute
  split
  · exact h.modFab.ite h.modFab.modFab.post
  · exact h.satF.freeInput

theorem State.Evolves.forward {q front} (h : r.Evolves s) : r.Evolves (s.forward ch q front) := by
  unfold State.forward
  split
  · exact h.deliver.freeInput
  · exact h.enqueue
  · exact h.noRoute

theorem State.Evolves.forwardHeld (h : r.Evolves s) : r.Evolves (s.forwardHeld ch) :=
  h.modFab.foldl fun _ _ => State.Evolves.forward

theorem State.Evolves.sendMsg {dst vc typ bf16 order head data} (h : r.Evolves s) :
    r.Evolves (s.sendMsg ch dst vc typ bf16 order head data) := h.modFab.foldl fun _ _ ht => ht.satF.satF.forward

theorem State.Evolves.reserve {p order vc n} (h : r.Evolves s) : r.Evolves (s.reserve ch p order vc n) := h.modLink

theorem State.Evolves.unreserve {order} (h : r.Evolves s) : r.Evolves (s.unreserve ch order) :=
  h.foldl fun _ _ => State.Evolves.modLink

theorem State.Evolves.closeGroup {p} (h : r.Evolves s) : r.Evolves (s.closeGroup ch p) := h.ite (h.modLink.ite h.draw.modLink)

theorem State.Evolves.emitCell {p q} (h : r.Evolves s) : r.Evolves (s.emitCell ch p q) :=
  h.modLink.freeInput.closeGroup.ite h.modLink.freeInput

theorem State.Evolves.setDwrr {p d} (h : r.Evolves s) : r.Evolves (s.setDwrr ch p d) := h.modLink

theorem State.Evolves.serveVcs {p inp} : ∀ {fuel left vc fresh idle s}, r.Evolves s → r.Evolves
    (s.serveVcs ch p inp fuel left vc fresh idle)
  | 0, _, _, _, _, _, h => h
  | fuel + 1, left, vc, fresh, idle, s, h => by
    unfold State.serveVcs
    extract_lets l d head
    clear_value head
    split
    · exact h.setDwrr
    · split
      · exact h.setDwrr.serveVcs
      · split
        · exact h.setDwrr.ite h.setDwrr
        · exact h.setDwrr.emitCell.serveVcs.ite h.setDwrr.serveVcs

theorem State.Evolves.routerSend {p inp burst} (h : r.Evolves s) : r.Evolves (s.routerSend ch p inp burst) :=
  h.ite h.sendTicks.serveVcs.idle

theorem State.Evolves.linkDown {p} (h : r.Evolves s) : r.Evolves (s.linkDown ch p) := by
  unfold State.linkDown
  split
  · exact h
  · exact ((h.post.setF.satF.setF.lanesOff.modLink.foldl fun _ _ => State.Evolves.forward).foldl fun _ _ =>
        State.Evolves.forward).foldl fun _ _ => State.Evolves.forward

theorem State.Evolves.allDown (h : r.Evolves s) : r.Evolves (s.allDown ch) :=
  h.foldl fun _ _ ht => ht.linkDown.setF.ite ht.linkDown

/-! ## Communicator slots -/

theorem State.Evolves.modSlot {k f} (h : r.Evolves s) : r.Evolves (s.modSlot ch k f) := h.modC

theorem State.Evolves.clSend {k rank kind seq tree index bf16 order data} (h : r.Evolves s) :
    r.Evolves (s.clSend ch k rank kind seq tree index bf16 order data) := h.sendMsg

theorem State.Evolves.takeMsg {m kind} (h : r.Evolves s) : r.Evolves (s.takeMsg ch m kind) := by
  unfold State.takeMsg
  exact h.modFab

theorem State.Evolves.clAbort {k seq status} (h : r.Evolves s) : r.Evolves (s.clAbort ch k seq status) :=
  h.setF.foldl fun _ _ => State.Evolves.clSend

theorem State.Evolves.clEntryDone {e status} (h : r.Evolves s) : r.Evolves (s.clEntryDone ch e status) := by
  unfold State.clEntryDone
  refine h.ite ?_
  extract_lets k s1 s2 s3
  have h3 : r.Evolves s3 := by
    unfold s3
    split
    · exact h.unreserve.modSlot.satF
    · exact h.unreserve.modSlot.satF.ite (h.unreserve.modSlot.satF.ite h.unreserve.modSlot)
  exact h3.ite h3.clAbort

/-! ## The futures store's own operations -/

theorem State.Evolves.ftSync (h : r.Evolves s) : r.Evolves (s.ftSync ch) := h.modC.modC.post.ite (h.modC.modC.ite h.modC)

theorem State.Evolves.modFt {g} (h : r.Evolves s) : r.Evolves (s.modFt ch g) := h.modC.ftSync

theorem State.Evolves.ftJobLoad (h : r.Evolves s) : r.Evolves (s.ftJobLoad ch jc) := by
  unfold State.ftJobLoad
  exact h.modFt

theorem State.Evolves.ftJobEnd (h : r.Evolves s) : r.Evolves (s.ftJobEnd ch jc) := by
  unfold State.ftJobEnd
  exact h.modFt.modC

theorem State.Evolves.ftEntryDone {order} (h : r.Evolves s) : r.Evolves (s.ftEntryDone ch order) := h.modFt.ite h

/-! ## The state table of the recurrent engine -/

theorem State.Evolves.rcCount (h : r.Evolves s) : r.Evolves (s.rcCount ch) := h.setF

theorem State.Evolves.rcMod {i f} (h : r.Evolves s) : r.Evolves (s.rcMod ch i f) := h.modC.rcCount

theorem State.Evolves.rcFree {i} (h : r.Evolves s) : r.Evolves (s.rcFree ch i) := h.rcMod

theorem State.Evolves.rcStore {space addr bs} (h : r.Evolves s) : Gives r.Evolves (s.rcStore ch space addr bs) := by
  unfold State.rcStore
  split
  · exact h.modMem fun _ => ChMem.canonical_ls
  · exact h.modMem fun _ => ChMem.canonical_arws
  · exact h.vaWrite

theorem State.Evolves.rcMove {i dst} (h : r.Evolves s) : Gives r.Evolves (s.rcMove ch i dst) := by
  unfold State.rcMove
  split
  · trivial
  · split
    · trivial
    · next _ ht => exact (h.rcStore.of_ok ht).rcFree

theorem State.Evolves.rcSwapOut {i} (h : r.Evolves s) : r.Evolves (s.rcSwapOut ch i) := by
  unfold State.rcSwapOut
  extract_lets
  split
  · exact h
  · next _ ht =>
      extract_lets s1
      have h1 : r.Evolves s1 := (h.rcMove.of_ok ht).post
      exact h1.setF.ite h1

theorem State.Evolves.rcServe (h : r.Evolves s) : r.Evolves (s.rcServe ch) := h.foldl fun _ _ => State.Evolves.rcSwapOut

theorem State.Evolves.rcModH {h' f} (h : r.Evolves s) : r.Evolves (s.rcModH ch h' f) := by
  unfold State.rcModH
  split
  · exact h.rcMod
  · exact h

theorem State.Evolves.rcEntryDone {e} (h : r.Evolves s) : r.Evolves (s.rcEntryDone ch e) :=
  h.ite (h.foldl fun _ _ => State.Evolves.rcModH).rcServe

theorem State.Evolves.rcJobEnd (h : r.Evolves s) : r.Evolves (s.rcJobEnd ch jc) := h.foldl fun _ _ => State.Evolves.rcFree

theorem State.Evolves.rcJobLoad (h : r.Evolves s) : r.Evolves (s.rcJobLoad ch jc) := by
  unfold State.rcJobLoad
  exact h.modC

end Sys2Proof.Machine
end

section
/-! SUPPORT. What jobs, the lease, the fault history and operands keep. -/

namespace Sys2Proof.Machine

open Sys2Proof

set_option Elab.async false

variable {r s : State} {ch : ChIdx} {jc : JcIdx}

/-! ## Contexts, semaphores and the ways a job ends -/

theorem State.Evolves.modX {f} (h : r.Evolves s) : r.Evolves (s.modX ch jc f) := h.modC

theorem State.Evolves.modQ {e f} (h : r.Evolves s) : r.Evolves (s.modQ ch e f) := h.modC

theorem State.Evolves.learn {p} (h : r.Evolves s) : r.Evolves (s.learn ch jc p) := h.modC

theorem State.Evolves.tell {n} (h : r.Evolves s) : r.Evolves (s.tell ch jc n) := by
  unfold State.tell
  exact h.modC

theorem State.Evolves.logDone {e signals} (h : r.Evolves s) : r.Evolves (s.logDone ch e signals) := by
  unfold State.logDone
  exact h.modC

theorem State.Evolves.forget (h : r.Evolves s) : r.Evolves (s.forget ch jc) := h.modC

/-- What is taken from a semaphore leaves it within its bounds. -/
theorem Sem.bounded_take {m : Sem} {n o} (h : m.bounded) : ({ m with count := m.count - n, owner := o } : Sem).bounded :=
  ⟨(Nat.sub_le ..).trans h.1, h.2⟩

theorem State.Evolves.takeWaits {ws} (h : r.Evolves s) : r.Evolves (s.takeWaits ch ws) :=
  h.foldl fun _ _ ht => ht.modSem fun _ => Sem.bounded_take

theorem State.Evolves.semWake (h : r.Evolves s) : r.Evolves (s.semWake ch) := h.wake.ite h

theorem State.Evolves.moverWait (h : r.Evolves s) : r.Evolves (s.moverWait ch) := h.takeWaits.modC.ite h

theorem State.Evolves.semServe (h : r.Evolves s) : r.Evolves (s.semServe ch) := by
  unfold State.semServe
  refine (h.moverWait.foldl fun _ _ ht => ?_).semWake
  split
  · exact (ht.modSem fun _ => Sem.bounded_take).learn.modX.ite ht
  · exact ht

theorem State.Evolves.semAdd {unit n k} (h : r.Evolves s) : r.Evolves (s.semAdd ch unit n k) := by
  unfold State.semAdd
  extract_lets c s1
  have h1 : r.Evolves s1 := h.modSem fun _ hm => ⟨Nat.min_le_left .., hm.2⟩
  exact h1.post.ite h1

theorem State.Evolves.semSignal {unit n k} (h : r.Evolves s) : r.Evolves (s.semSignal ch unit n k) := h.semAdd.semServe

theorem State.Evolves.semReturn (h : r.Evolves s) : r.Evolves (s.semReturn ch jc) := by
  unfold State.semReturn
  refine State.Evolves.semServe (State.Evolves.modC_of h (fun hc => hc) fun k hk => ?_)
  simp only [Fin.getElem_fin, Vector.getElem_map]
  split
  · exact ⟨hk.2, hk.2⟩
  · exact hk

theorem State.Evolves.cqPut {r'} (h : r.Evolves s) : Gives r.Evolves (s.cqPut ch jc r') := by
  unfold State.cqPut
  split
  · trivial
  · next _ ht => exact (h.vaWrite.of_ok ht).setF

theorem State.Evolves.drainStores (h : r.Evolves s) : Gives r.Evolves (s.drainStores ch jc) := by
  unfold State.drainStores
  split
  · trivial
  · next t ht =>
    have hs : Gives r.Evolves (Except.ok s : Except MemErr State) := h
    refine ((gives_foldl (fun x _ hx => ?_) hs).of_ok ht).modX
    cases x with
    | error e => trivial
    | ok t => exact State.Evolves.vaWrite hx

theorem State.Evolves.lastStores (h : r.Evolves s) : r.Evolves (s.lastStores ch jc) := by
  unfold State.lastStores
  refine State.Evolves.modX ?_
  refine h.foldl fun _ _ ht => ?_
  split
  · exact ht
  · next _ hu => exact ht.vaWrite.of_ok hu

theorem State.Evolves.faultCtx {status eng td arg} (h : r.Evolves s) : r.Evolves (s.faultCtx ch jc status eng td arg) := by
  unfold State.faultCtx
  exact h.lastStores.modX.modC.post

theorem State.Evolves.cqLost {e} (h : r.Evolves s) : r.Evolves (s.cqLost ch jc e) := by
  unfold State.cqLost
  split
  extract_lets s1 s2
  have h2 : r.Evolves s2 := h.setF.modX.post
  exact h2.ite h2.faultCtx

theorem State.Evolves.emit {r'} (h : r.Evolves s) : r.Evolves (s.emit ch jc r') := by
  unfold State.emit
  refine h.ite ?_
  refine h.modX.ite ?_
  split
  · next _ ht => exact h.cqPut.of_ok ht
  · exact h.modX.ite h.cqLost

theorem State.Evolves.dropEntry {e status partly} (h : r.Evolves s) : r.Evolves (s.dropEntry ch e status partly) := by
  unfold State.dropEntry
  extract_lets jc s1 s2
  have h2 : r.Evolves s2 := h.modX.logDone.ftEntryDone.rcEntryDone.clEntryDone
  exact h2.emit.ite h2

theorem State.Evolves.sweep {status} (h : r.Evolves s) : r.Evolves (s.sweep ch jc status) :=
  h.foldl fun _ _ ht => (ht.modQ.foldl fun _ _ => State.Evolves.dropEntry).foldl fun _ _ => State.Evolves.dropEntry

theorem State.Evolves.jcrPut {q id rec} (h : r.Evolves s) : r.Evolves (s.jcrPut ch q id rec) := by
  unfold State.jcrPut
  split
  · next _ ht => exact (h.vaWrite.of_ok ht).setF
  · exact h.setF.post

theorem State.Evolves.arwsJobEnd (h : r.Evolves s) : r.Evolves (s.arwsJobEnd ch jc) := by
  unfold State.arwsJobEnd
  exact h.modC

theorem State.Evolves.flushAll (h : r.Evolves s) : r.Evolves (s.flushAll ch) :=
  (h.modTc.foldl fun _ _ => State.Evolves.wbStart).tcCount

theorem State.Evolves.drainEnd (h : r.Evolves s) : r.Evolves (s.drainEnd ch) := h.flushAll.ite h

theorem State.Evolves.killNote (h : r.Evolves s) : r.Evolves (s.killNote ch jc) := h.ite h.modX.post

theorem State.Evolves.tryEnd (h : r.Evolves s) : r.Evolves (s.tryEnd ch jc) := by
  unfold State.tryEnd
  extract_lets s1 s2 c killed status s3 s4
  have h1 : r.Evolves s1 := h.killNote
  have h2 : r.Evolves s2 := h1.ite h1.rcJobEnd.ftJobEnd.semReturn.arwsJobEnd.forget.modX
  have h4 : r.Evolves s4 := by
    refine h2.jcrPut.modC fun k => ?_
    split
    · exact Chan.kept_incFld ..
    · exact Chan.kept_incFld ..
  exact h.ite (h1.ite (h2.ite h4.modX.modC.drainEnd))

theorem State.Evolves.scalarFault {status td arg} (h : r.Evolves s) : r.Evolves (s.scalarFault ch jc status td arg) :=
  h.faultCtx.emit.sweep.tryEnd

theorem State.Evolves.issueFault {w status td arg} (h : r.Evolves s) : r.Evolves (s.issueFault ch jc w status td arg) :=
  h.faultCtx.emit.sweep.tryEnd

theorem State.Evolves.fenceLearn {code} (h : r.Evolves s) : r.Evolves (s.fenceLearn ch jc code) := h.learn

theorem State.Evolves.fenceServe (h : r.Evolves s) : r.Evolves (s.fenceServe ch) := by
  unfold State.fenceServe
  refine h.foldl fun _ _ ht => ?_
  split
  · exact ht.fenceLearn.modX.ite ht
  · exact ht

theorem State.Evolves.settle (h : r.Evolves s) : r.Evolves (s.settle ch jc) := h.modX.ite h

theorem State.Evolves.overDone {e} (h : r.Evolves s) : r.Evolves (s.overDone ch e) := h.ite h.draw.modX

theorem State.Evolves.finish {e status arg td partly} (h : r.Evolves s) : r.Evolves (s.finish ch e status arg td partly) := by
  unfold State.finish
  extract_lets jc s1 s2 s3 s4 rec stopped s5 s6 s7
  have h1 : r.Evolves s1 := h.logDone
  have h2 : r.Evolves s2 := (h1.foldl fun _ _ => State.Evolves.semSignal).ite h1
  have h4 : r.Evolves s4 := h2.overDone.modX.ftEntryDone.rcEntryDone.clEntryDone
  have h5 : r.Evolves s5 := h4.faultCtx.ite h4
  have h6 : r.Evolves s6 := h5.emit.ite h5
  have h7 : r.Evolves s7 := h6.sweep.ite h6
  exact h7.settle.fenceServe.semServe.tryEnd

theorem State.Evolves.killJob {reason} (h : r.Evolves s) : r.Evolves (s.killJob ch jc reason) :=
  h.ite h.lastStores.modX.modC.sweep.tryEnd

theorem State.Evolves.killAll {reason} (h : r.Evolves s) : r.Evolves (s.killAll ch reason) :=
  h.foldl fun _ _ => State.Evolves.killJob

theorem State.Evolves.chargeOne (h : r.Evolves s) : r.Evolves (s.chargeOne ch jc) := h.modX.modX.modC.ite h.modX.modX

theorem State.Evolves.modAtomic {f} (h : r.Evolves s) : r.Evolves (s.modAtomic ch jc f) := by
  unfold State.modAtomic
  exact h.modC

theorem State.Evolves.overGrow (h : r.Evolves s) : r.Evolves (s.overGrow ch jc) := h.ite h.draw.modAtomic

theorem State.Evolves.overSettle (h : r.Evolves s) : r.Evolves (s.overSettle ch jc) := h.ite h.modX.modAtomic

theorem State.Evolves.clYield (h : r.Evolves s) : r.Evolves (s.clYield ch jc) := h.foldl fun _ _ ht => ht.modQ.unreserve

theorem State.Evolves.releaseSlice {count head mid} (h : r.Evolves s) : r.Evolves (s.releaseSlice ch jc count head mid) := by
  unfold State.releaseSlice
  extract_lets running atomic s1 s2 s3
  have h2 : r.Evolves s2 := h.modX.modAtomic.clYield
  have h3 : r.Evolves s3 := h2.incF.ite h2
  exact h3.ite h3.modC

/-! ## The lead lease and the gates of a host access -/

theorem State.Evolves.answer {c d} (h : r.Evolves s) : r.Evolves (s.answer c d) := h.modP

theorem State.Evolves.hostWr {pf off f} (h : r.Evolves s) (hf : ∀ t, r.Evolves t → r.Evolves (f t)) :
    r.Evolves (s.hostWr pf off f) := by
  unfold State.hostWr
  refine h.answer.ite ?_
  split
  · exact h.answer.ite (hf _ h.answer)
  · exact h.answer.ite (h.answer.ite (hf _ h.answer))

theorem State.Evolves.chanWr {off f} (h : r.Evolves s) (hf : ∀ t, r.Evolves t → r.Evolves (f t)) :
    r.Evolves (s.chanWr ch off f) := h.hostWr fun _ ht => hf _ ht

theorem State.Evolves.countFenced (h : r.Evolves s) : r.Evolves (s.countFenced) := h.modP

theorem State.Evolves.gate {w f} (h : r.Evolves s) (hf : ∀ t, r.Evolves t → r.Evolves (f t)) : r.Evolves (s.gate w f) :=
  (hf _ h).ite h.countFenced

theorem State.Evolves.leaseHear {g epoch} (h : r.Evolves s) : r.Evolves (s.leaseHear g epoch) := h.ite (h.modP.modP.ite h.modP)

theorem State.Evolves.claimNext {g} (h : r.Evolves s) : r.Evolves (s.claimNext g) := h.ite h.leaseHear

theorem State.Evolves.leads_execLeaseRenew {gaf epoch} (h : r.Evolves s) : r.Leads (execLeaseRenew gaf epoch s) := h.leaseHear

theorem State.Evolves.leads_execLeaseExpire {observer} (h : r.Evolves s) : r.Leads (execLeaseExpire observer s) :=
  h.modP.claimNext

theorem State.Evolves.leads_execLeaseClaim {gaf epoch} (h : r.Evolves s) : r.Leads (execLeaseClaim gaf epoch s) :=
  State.leads_ite h h.leaseHear

theorem State.Evolves.poweredMs (h : r.Evolves s) : r.Evolves s.poweredMs := by
  refine h.modP fun p => ?_
  split
  · rfl
  · rfl

theorem State.Evolves.leads_execLeaseWindowEnd (h : r.Evolves s) : r.Leads (execLeaseWindowEnd s) :=
  State.leads_ite h.poweredMs.modP.modP (State.leads_ite h.poweredMs.modP.modP h.poweredMs.modP)

/-- A change of every channel beside its memories and semaphores. -/
theorem State.Evolves.mapC {f : Chan → Chan} (h : r.Evolves s) (hf : ∀ c, (f c).kept = c.kept := by exact fun _ => rfl) :
    r.Evolves { s with chan := s.chan.map f } := by
  have hat (c : ChIdx) : (s.chan.map f)[c] = f s.chan[c] := Vector.getElem_map ..
  refine h.trans ⟨fun hc => ?_, fun hb => ?_, fun _ hx _ => hx⟩
  · rw [State.canonical_iff] at *
    refine ⟨hc.1, fun c => ?_⟩
    simp only [hat]
    exact ChMem.canonical_congr (hf _) (hc.2 c)
  · rw [State.semsBounded_iff] at *
    intro c n
    simp only [hat, Chan.sem_of_kept (hf _)]
    exact hb c n

theorem State.Evolves.abandonHeld (h : r.Evolves s) : r.Evolves s.abandonHeld := h.modP.mapC.post.ite h

theorem State.Evolves.gafferGone {g} (h : r.Evolves s) : r.Evolves (s.gafferGone g) := by
  unfold State.gafferGone
  extract_lets s1
  have h1 : r.Evolves s1 := by
    unfold s1
    split
    · exact h.modP
    · exact h.modP
  exact h1.foldl fun _ _ ht => ht.ite ht.modPwr.pwrShow

theorem State.Evolves.leads_execSplitGafferReset {ms} (h : r.Evolves s) : r.Leads (execSplitGafferReset ms s) := by
  unfold execSplitGafferReset
  refine State.leads_ite h ?_
  extract_lets recent third noted s1 s2 s3
  have h2 : r.Evolves s2 := h.modP.gafferGone.gafferGone
  exact (h2.modP.ite h2).abandonHeld

theorem State.Evolves.leads_execGwClaim (h : r.Evolves s) : r.Leads (execGwClaim s) := State.leads_ite h h.modP.claimNext

theorem State.Evolves.leads_execGeClaim {heard} (h : r.Evolves s) : r.Leads (execGeClaim heard s) :=
  State.leads_ite h (h.modP.ite h.modP.claimNext)

theorem State.Evolves.leads_execSplitSeenClear (h : r.Evolves s) : r.Leads (execSplitSeenClear s) :=
  h.hostWr fun _ ht => ht.modP

theorem State.Evolves.leads_execPassiveHoldRelease (h : r.Evolves s) : r.Leads (execPassiveHoldRelease s) :=
  h.hostWr fun _ ht => ht.modP

/-! ## The fault history, classing and retirement -/

theorem State.Evolves.cperDrain : ∀ {n s}, r.Evolves s → r.Evolves (s.cperDrain n)
  | 0, _, h => h
  | n + 1, s, h => by
    unfold State.cperDrain
    split
    · exact h
    · refine (State.Evolves.modP ?_).cperDrain.ite h
      exact h.draw.modP_of Pkg.canonical_host fun _ hx _ => hx

theorem State.Evolves.cper {h'} (h : r.Evolves s) : r.Evolves (s.cper h') := by
  unfold State.cper
  extract_lets tick s1
  have h1 : r.Evolves s1 := h.modP.cperDrain
  exact h1.ite h1.modP.satP.post

theorem State.Evolves.histFill (h : r.Evolves s) : r.Evolves (s.histFill) := h.modP

theorem State.Evolves.histAdd {unit cls key action arg} (h : r.Evolves s) : r.Evolves (s.histAdd unit cls key action arg) := by
  unfold State.histAdd
  exact (h.modP_of id fun x hx _ => List.mem_append_left _ hx).histFill.cper

/-- No lasting record is one of a corrected error. -/
theorem Hist.lasting_cls {x : Hist} (h : x.lasting = true) : x.cls = clsPermanent ∨ x.cls = clsRetired := by
  simpa [Hist.lasting] using h

theorem State.Evolves.histCe {unit key} (h : r.Evolves s) : r.Evolves (s.histCe unit key) := by
  unfold State.histCe
  extract_lets now same join
  refine (h.modP_of id fun x hx hl => List.mem_map.2 ⟨x, hx, ?_⟩).ite h.histAdd
  have hce : same x = false := by
    rcases Hist.lasting_cls hl with e | e
    · simp [same, e, clsPermanent, clsCE]
    · simp [same, e, clsRetired, clsCE]
  simp only [join, hce, Bool.false_eq_true, if_false]

theorem State.Evolves.retireChan (h : r.Evolves s) : r.Evolves (s.retireChan ch) := by
  unfold State.retireChan
  exact h.modP.allDown.t2Dark.modC

theorem State.Evolves.retireWhole {unit} (h : r.Evolves s) : r.Evolves (s.retireWhole unit ch) := h.histAdd.post.retireChan

theorem State.Evolves.retire {unit key} (h : r.Evolves s) : r.Evolves (s.retire unit key) := by
  unfold State.retire
  extract_lets c s1 row s2
  have h1 : r.Evolves s1 := h.histAdd.post
  have h2 : r.Evolves s2 := h1.modP fun p => Pkg.kept_satFld p R.HUB_FH_STAT_SPARES 1
  split
  · exact h
  · exact h2.modMem.ite (h1.ite h1.retireChan)

theorem State.Evolves.makePermanent {unit key} (h : r.Evolves s) : r.Evolves (s.makePermanent unit key) :=
  h.ite h.histAdd.modP.retire

theorem State.Evolves.classify {unit key} (h : r.Evolves s) : r.Evolves (s.classify unit key) := h.makePermanent.ite h

theorem State.Evolves.faultCe {unit key} (h : r.Evolves s) : r.Evolves (s.faultCe unit key) := h.histCe.classify

theorem State.Evolves.faultUe {unit key arg} (h : r.Evolves s) : r.Evolves (s.faultUe unit key arg) := h.histAdd.classify

theorem State.Evolves.eccOne {e} (h : r.Evolves s) : r.Evolves (s.eccOne ch e) := by
  unfold State.eccOne
  split
  · exact h.modMem.ite h
  · split
    · exact h.faultCe.ite h.satF.modMem.faultUe
    · exact h.faultCe.ite h.modMem.faultUe

theorem State.Evolves.ecc {l} (h : r.Evolves s) : r.Evolves (s.ecc ch l) := h.foldl fun _ _ => State.Evolves.eccOne

theorem State.Evolves.eccDone (h : r.Evolves s) : r.Evolves (s.eccDone ch) := h.ite h.modMem

theorem State.Evolves.leads_execChannelRetire (h : r.Evolves s) : r.Leads (execChannelRetire ch s) :=
  State.leads_ite h.retireWhole h

theorem State.Evolves.leads_execHbmRetrain {pc ok recent} (h : r.Evolves s) : r.Leads (execHbmRetrain ch pc ok recent s) :=
  State.leads_ite h (State.leads_ite h.faultCe (h.faultUe.makePermanent.ite h.faultUe))

theorem State.Evolves.leads_execRowRemapDone {row} (h : r.Evolves s) : r.Leads (execRowRemapDone ch row s) :=
  State.leads_ite h (h.modMem.makePermanent.ite h.modMem)

theorem State.Evolves.leads_execHistoryCompaction (h : r.Evolves s) : r.Leads (execHistoryCompaction s) := by
  unfold execHistoryCompaction
  refine State.leads_ite h ?_
  extract_lets keep
  refine (h.modP_of id fun x hx hl => List.mem_filter.2 ⟨hx, ?_⟩).histFill
  rcases Hist.lasting_cls hl with e | e
  · simp [keep, e, clsPermanent, clsUE, clsDigest]
  · simp [keep, e, clsRetired, clsUE, clsDigest]

theorem State.Evolves.leads_execCperRdWrite {val} (h : r.Evolves s) : r.Leads (execCperRdWrite val s) := by
  refine h.hostWr fun t ht => ?_
  extract_lets rd wr s1 s2
  have h1 : r.Evolves s1 := ht.modP fun _ => (Pkg.kept_setFld ..).trans (Pkg.kept_setFld ..)
  exact ((h1.modP fun _ => Pkg.kept_setFld ..).ite h1).cperDrain

/-! ## The operands of a wide instruction -/

theorem State.Evolves.spWrite {space addr bs} (h : r.Evolves s) : Gives r.Evolves (s.spWrite ch space addr bs) := by
  unfold State.spWrite
  split
  · exact h.modMem fun _ => ChMem.canonical_ls
  · exact h.modMem fun _ => ChMem.canonical_arws
  · split
    · next _ ht => exact h.vaWrite.of_ok ht
    · trivial

theorem State.Evolves.putCodes {t x cs} (h : r.Evolves s) : Gives r.Evolves (s.putCodes ch t x cs) :=
  gives_ite h.spWrite (gives_bind fun _ => h.spWrite)

theorem State.Evolves.putRow {t i0 x cs} (h : r.Evolves s) : Gives r.Evolves (s.putRow ch t i0 x cs) :=
  gives_tryFold (fun _ _ => State.Evolves.putCodes) h

theorem State.Evolves.blur {space as} (h : r.Evolves s) : r.Evolves (s.blur ch space as) := by
  unfold State.blur
  refine h.ite ?_
  refine h.draw.foldl fun _ _ ht => ?_
  split
  · next _ hu => exact ht.spWrite.of_ok hu
  · exact ht

theorem State.Evolves.blurShared {outs others} (h : r.Evolves s) : r.Evolves (s.blurShared ch outs others) :=
  h.foldl fun _ _ => State.Evolves.blur

theorem State.Evolves.logStart {e named} (h : r.Evolves s) : r.Evolves (s.logStart ch e named) := by
  unfold State.logStart
  exact h.modC

theorem State.Evolves.race {order} (h : r.Evolves s) : r.Evolves (s.race ch order) := by
  unfold State.race
  extract_lets
  split
  · exact h
  · exact h.blurShared.blurShared

theorem State.Evolves.overlap {e d place ins} (h : r.Evolves s) : r.Evolves (s.overlap ch e d place ins) :=
  h.blurShared.blurShared

theorem State.Evolves.countFmt {n} (h : r.Evolves s) : r.Evolves (s.countFmt ch n) := h.satF.satF

end Sys2Proof.Machine
end

section
/-! SUPPORT. What scalar instructions keep, and the issue of wide ones. -/

namespace Sys2Proof.Machine

open Sys2Proof

set_option Elab.async false

variable {r s : State} {ch : ChIdx} {jc : JcIdx}

/-! ## Scalar instructions -/

theorem State.Evolves.issued (h : r.Evolves s) : r.Evolves (s.issued ch jc) := h.modC

theorem State.Evolves.memFault {e} (h : r.Evolves s) : r.Evolves (s.memFault ch jc e) := h.ite h.scalarFault

theorem State.Evolves.scalar {effect} (h : r.Evolves s) (heffect : ∀ t, r.Evolves t → r.Evolves (effect t)) :
    r.Evolves (s.scalar ch jc effect) := by
  unfold State.scalar
  refine h.ite ?_
  extract_lets
  split
  · exact h.issued.memFault
  · exact heffect _ h.issued.tlbFill

theorem State.Evolves.setRd {rd v} (h : r.Evolves s) : r.Evolves (s.setRd ch jc rd v) := h.modX

theorem State.Evolves.trapPc {status} (h : r.Evolves s) : r.Evolves (s.trapPc ch jc status) := h.scalarFault

theorem State.Evolves.alu {rd ra rb f} (h : r.Evolves s) : r.Leads (s.alu ch jc rd ra rb f) :=
  h.scalar fun _ => State.Evolves.setRd

theorem State.Evolves.aluImm {rd ra f} (h : r.Evolves s) : r.Leads (s.aluImm ch jc rd ra f) :=
  h.scalar fun _ => State.Evolves.setRd

theorem State.Evolves.leads_execAluAdd {rd ra rb} (h : r.Evolves s) : r.Leads (execAluAdd ch jc rd ra rb s) := h.alu

theorem State.Evolves.leads_execAluSub {rd ra rb} (h : r.Evolves s) : r.Leads (execAluSub ch jc rd ra rb s) := h.alu

theorem State.Evolves.leads_execAluAnd {rd ra rb} (h : r.Evolves s) : r.Leads (execAluAnd ch jc rd ra rb s) := h.alu

theorem State.Evolves.leads_execAluOr {rd ra rb} (h : r.Evolves s) : r.Leads (execAluOr ch jc rd ra rb s) := h.alu

theorem State.Evolves.leads_execAluXor {rd ra rb} (h : r.Evolves s) : r.Leads (execAluXor ch jc rd ra rb s) := h.alu

theorem State.Evolves.leads_execAluSll {rd ra rb} (h : r.Evolves s) : r.Leads (execAluSll ch jc rd ra rb s) := h.alu

theorem State.Evolves.leads_execAluSrl {rd ra rb} (h : r.Evolves s) : r.Leads (execAluSrl ch jc rd ra rb s) := h.alu

theorem State.Evolves.leads_execAluSra {rd ra rb} (h : r.Evolves s) : r.Leads (execAluSra ch jc rd ra rb s) := h.alu

theorem State.Evolves.leads_execAluSlt {rd ra rb} (h : r.Evolves s) : r.Leads (execAluSlt ch jc rd ra rb s) := h.alu

theorem State.Evolves.leads_execAluSltu {rd ra rb} (h : r.Evolves s) : r.Leads (execAluSltu ch jc rd ra rb s) := h.alu

theorem State.Evolves.leads_execAluMin {rd ra rb} (h : r.Evolves s) : r.Leads (execAluMin ch jc rd ra rb s) := h.alu

theorem State.Evolves.leads_execAluMax {rd ra rb} (h : r.Evolves s) : r.Leads (execAluMax ch jc rd ra rb s) := h.alu

theorem State.Evolves.leads_execAluMul {rd ra rb} (h : r.Evolves s) : r.Leads (execAluMul ch jc rd ra rb s) := h.alu

theorem State.Evolves.leads_execAluMulh {rd ra rb} (h : r.Evolves s) : r.Leads (execAluMulh ch jc rd ra rb s) := h.alu

theorem State.Evolves.leads_execAluMulhu {rd ra rb} (h : r.Evolves s) : r.Leads (execAluMulhu ch jc rd ra rb s) := h.alu

theorem State.Evolves.leads_execAluDiv {rd ra rb} (h : r.Evolves s) : r.Leads (execAluDiv ch jc rd ra rb s) := h.alu

theorem State.Evolves.leads_execAluDivu {rd ra rb} (h : r.Evolves s) : r.Leads (execAluDivu ch jc rd ra rb s) := h.alu

theorem State.Evolves.leads_execAluRem {rd ra rb} (h : r.Evolves s) : r.Leads (execAluRem ch jc rd ra rb s) := h.alu

theorem State.Evolves.leads_execAluRemu {rd ra rb} (h : r.Evolves s) : r.Leads (execAluRemu ch jc rd ra rb s) := h.alu

theorem State.Evolves.leads_execAddi {rd ra imm} (h : r.Evolves s) : r.Leads (execAddi ch jc rd ra imm s) := h.aluImm

theorem State.Evolves.leads_execAndi {rd ra imm} (h : r.Evolves s) : r.Leads (execAndi ch jc rd ra imm s) := h.aluImm

theorem State.Evolves.leads_execOri {rd ra imm} (h : r.Evolves s) : r.Leads (execOri ch jc rd ra imm s) := h.aluImm

theorem State.Evolves.leads_execXori {rd ra imm} (h : r.Evolves s) : r.Leads (execXori ch jc rd ra imm s) := h.aluImm

theorem State.Evolves.leads_execSlti {rd ra imm} (h : r.Evolves s) : r.Leads (execSlti ch jc rd ra imm s) := h.aluImm

theorem State.Evolves.leads_execShi {rd ra imm} (h : r.Evolves s) : r.Leads (execShi ch jc rd ra imm s) := by
  unfold execShi
  refine h.scalar fun _ ht => ?_
  split
  · exact ht.setRd
  · exact ht.trapPc

theorem State.Evolves.leads_execMovz {rd hw rsv imm} (h : r.Evolves s) : r.Leads (execMovz ch jc rd hw rsv imm s) :=
  h.scalar fun _ ht => ht.trapPc.ite ht.setRd

theorem State.Evolves.leads_execMovk {rd hw rsv imm} (h : r.Evolves s) : r.Leads (execMovk ch jc rd hw rsv imm s) :=
  h.scalar fun _ ht => ht.trapPc.ite ht.setRd

theorem State.Evolves.startLoad {kind dst align va} (h : r.Evolves s) : r.Evolves (s.startLoad ch jc kind dst align va) := by
  unfold State.startLoad
  refine h.scalarFault.ite ?_
  split
  · exact h.memFault
  · next _ ht => exact (h.drainStores.of_ok ht).modX

theorem State.Evolves.leads_execLd {rd ra imm} (h : r.Evolves s) : r.Leads (execLd ch jc rd ra imm s) :=
  h.scalar fun _ => State.Evolves.startLoad

theorem State.Evolves.leads_execLw {rd ra imm} (h : r.Evolves s) : r.Leads (execLw ch jc rd ra imm s) :=
  h.scalar fun _ => State.Evolves.startLoad

theorem State.Evolves.leads_execLwu {rd ra imm} (h : r.Evolves s) : r.Leads (execLwu ch jc rd ra imm s) :=
  h.scalar fun _ => State.Evolves.startLoad

theorem State.Evolves.leads_execLoadComplete {ecc} (h : r.Evolves s) : r.Leads (execLoadComplete ch jc ecc s) := by
  unfold execLoadComplete
  split
  · exact h
  · refine State.leads_ite h ?_
    extract_lets
    split
    · exact h.ite h.ecc.scalarFault.eccDone
    · exact h.ecc.draw.vaTouch.eccDone.modX

theorem State.Evolves.startStore {n align va v} (h : r.Evolves s) : r.Evolves (s.startStore ch jc n align va v) := by
  unfold State.startStore
  refine h.scalarFault.ite ?_
  split
  · exact h.scalarFault
  · exact h.tlbFill.modX

theorem State.Evolves.leads_execSt {rd ra imm} (h : r.Evolves s) : r.Leads (execSt ch jc rd ra imm s) :=
  h.scalar fun _ => State.Evolves.startStore

theorem State.Evolves.leads_execStw {rd ra imm} (h : r.Evolves s) : r.Leads (execStw ch jc rd ra imm s) :=
  h.scalar fun _ => State.Evolves.startStore

theorem State.Evolves.lsAccess {off effect} (h : r.Evolves s) (heffect : ∀ t, r.Evolves t → r.Evolves (effect t)) :
    r.Evolves (s.lsAccess ch jc off effect) := h.scalarFault.ite (h.trapPc.ite (heffect _ h))

theorem State.Evolves.leads_execLdl {rd ra imm} (h : r.Evolves s) : r.Leads (execLdl ch jc rd ra imm s) :=
  h.scalar fun _ ht => ht.lsAccess fun _ => State.Evolves.setRd

theorem State.Evolves.leads_execStl {rd ra imm} (h : r.Evolves s) : r.Leads (execStl ch jc rd ra imm s) :=
  h.scalar fun _ ht => ht.lsAccess fun _ hu => (hu.modMem fun _ => ChMem.canonical_ls).modX

theorem State.Evolves.branch {ra rb off cmp} (h : r.Evolves s) : r.Leads (s.branch ch jc ra rb off cmp) :=
  h.scalar fun _ ht => ht.modX.ite ht.modX

theorem State.Evolves.leads_execBeq {ra rb off} (h : r.Evolves s) : r.Leads (execBeq ch jc ra rb off s) := h.branch

theorem State.Evolves.leads_execBne {ra rb off} (h : r.Evolves s) : r.Leads (execBne ch jc ra rb off s) := h.branch

theorem State.Evolves.leads_execBlt {ra rb off} (h : r.Evolves s) : r.Leads (execBlt ch jc ra rb off s) := h.branch

theorem State.Evolves.leads_execBge {ra rb off} (h : r.Evolves s) : r.Leads (execBge ch jc ra rb off s) := h.branch

theorem State.Evolves.leads_execBltu {ra rb off} (h : r.Evolves s) : r.Leads (execBltu ch jc ra rb off s) := h.branch

theorem State.Evolves.leads_execBgeu {ra rb off} (h : r.Evolves s) : r.Leads (execBgeu ch jc ra rb off s) := h.branch

theorem State.Evolves.leads_execJal {off} (h : r.Evolves s) : r.Leads (execJal ch jc off s) :=
  h.scalar fun _ => State.Evolves.modX

theorem State.Evolves.leads_execJalr {rd ra imm} (h : r.Evolves s) : r.Leads (execJalr ch jc rd ra imm s) :=
  h.scalar fun _ => State.Evolves.modX

theorem State.Evolves.leads_execTdld {td ra imm} (h : r.Evolves s) : r.Leads (execTdld ch jc td ra imm s) :=
  h.scalar fun _ => State.Evolves.startLoad

theorem State.Evolves.leads_execTdst {td ra imm} (h : r.Evolves s) : r.Leads (execTdst ch jc td ra imm s) :=
  h.scalar fun _ => State.Evolves.startStore

theorem State.Evolves.leads_execTdset {td ra w} (h : r.Evolves s) : r.Leads (execTdset ch jc td ra w s) :=
  h.scalar fun _ => State.Evolves.modX

theorem State.Evolves.leads_execTdget {td ra w} (h : r.Evolves s) : r.Leads (execTdget ch jc td ra w s) :=
  h.scalar fun _ => State.Evolves.setRd

theorem State.Evolves.leads_execWait {sem count tg} (h : r.Evolves s) : r.Leads (execWait ch jc sem count tg s) :=
  h.scalar fun _ ht => ht.trapPc.ite ht.modX.semServe

theorem State.Evolves.leads_execSig {sem count tg} (h : r.Evolves s) : r.Leads (execSig ch jc sem count tg s) := by
  refine h.scalar fun t ht => ?_
  extract_lets s1 s2
  have h1 : r.Evolves s1 := ht.modX.tell.semAdd
  refine ht.trapPc.ite ?_
  refine State.Evolves.semServe (State.Evolves.ite ?_ h1)
  exact h1.modSem fun _ hm => hm

theorem State.Evolves.leads_execClaim {ra sem} (h : r.Evolves s) : r.Leads (execClaim ch jc ra sem s) := by
  have hv (x : DWord) : x.toNat % 65536 ≤ 65535 := Nat.le_of_lt_succ (Nat.mod_lt _ (by decide))
  refine h.scalar fun t ht => ?_
  split
  · exact ht.trapPc.ite (ht.modSem fun _ _ => ⟨hv _, hv _⟩).modX.semServe
  · exact (ht.modSem fun _ _ => ⟨hv _, hv _⟩).modX.semServe

theorem State.Evolves.leads_execFree {sem} (h : r.Evolves s) : r.Leads (execFree ch jc sem s) := by
  refine h.scalar fun _ ht => ?_
  extract_lets s1
  have h1 : r.Evolves s1 := ht.modX
  refine State.Evolves.ite ?_ h1
  exact h1.modSem fun _ hm => hm

theorem State.Evolves.leads_execRead {rd sem} (h : r.Evolves s) : r.Leads (execRead ch jc rd sem s) :=
  h.scalar fun _ => State.Evolves.setRd

theorem State.Evolves.leads_execSemTimeout {eng} (h : r.Evolves s) : r.Leads (execSemTimeout ch jc eng s) := by
  unfold execSemTimeout
  refine State.leads_ite h ?_
  split
  · exact State.leads_ite h.trapPc h
  · split
    · exact h
    · exact State.leads_ite h h.modQ.finish

theorem State.Evolves.leads_execChSemWrite {sem val} (h : r.Evolves s) : r.Leads (execChSemWrite ch sem val s) := by
  refine h.chanWr fun _ ht => State.Evolves.semServe ?_
  exact ht.modSem fun _ hm => ⟨Nat.le_of_lt_succ (Nat.mod_lt _ (by decide)), hm.2⟩

theorem State.Evolves.leads_execCsrr {rd rsv num} (h : r.Evolves s) : r.Leads (execCsrr ch jc rd rsv num s) :=
  h.scalar fun _ ht => ht.trapPc.ite ht.draw.setRd

theorem State.Evolves.leads_execFence {imm} (h : r.Evolves s) : r.Leads (execFence ch jc imm s) :=
  h.scalar fun _ ht => ht.trapPc.ite (ht.fenceLearn.modX.ite ht.modX)

theorem State.Evolves.leads_execYield (h : r.Evolves s) : r.Leads (execYield ch jc s) :=
  h.scalar fun _ ht => (ht.modX.chargeOne.ite ht.modX).releaseSlice.ite ht.modX

theorem State.Evolves.leads_execHalt (h : r.Evolves s) : r.Leads (execHalt ch jc s) := by
  unfold execHalt
  refine h.scalar fun _ ht => ?_
  split
  · exact ht.memFault
  · next _ hu => exact (ht.drainStores.of_ok hu).modX.tryEnd

theorem State.Evolves.leads_execTrap {imm} (h : r.Evolves s) : r.Leads (execTrap ch jc imm s) :=
  h.scalar fun _ => State.Evolves.scalarFault

/-! ## The issue of a wide instruction -/

/-- What an operation does at issue keeps what every change keeps. -/
def OpForm.Keeps (f : OpForm) : Prop := ∀ {r : State} {i : Iss}, r.Evolves i.s → Gives (fun x => r.Evolves x.1) (f.atIssue i)

theorem State.Evolves.issueErr {w e} (h : r.Evolves s) : r.Evolves (s.issueErr ch jc w e) := (h.satF.ite h).issueFault

theorem State.Evolves.enter {i : Iss} {f : OpForm} (hf : f.Keeps) (h : r.Evolves s) : r.Evolves (s.enter i f) := by
  unfold State.enter
  split
  · exact h.ite h.issueErr
  · next t _ ht =>
    have h1 : r.Evolves t := (hf (i := { i with s := s }) h).of_ok ht
    extract_lets eng s1 c e s2 s3
    split
    · have hs : r.Evolves s1 := h.ite h.satF
      exact hs.modX
    · exact h1.modQ.modC.modX

theorem State.Evolves.attempt {w} {f : OpForm} (hf : f.Keeps) (h : r.Evolves s) : r.Evolves (s.attempt ch jc w f) := by
  unfold State.attempt
  extract_lets pc s1 s2
  have h1 : r.Evolves s1 := h.issued
  have h2 : r.Evolves s2 := h1.tlbFill
  split
  · exact h1.memFault
  · split
    · exact h2.issueErr
    · split
      · exact h2.memFault
      · next ht => exact (h2.drainStores.of_ok ht).enter hf

theorem State.Evolves.issueWide {w} {f : OpForm} (hf : f.Keeps) (h : r.Evolves s) : r.Evolves (s.issueWide ch jc w f) :=
  (h.attempt hf).ite h

theorem formMap_keeps : formMap.Keeps := fun h => h

theorem formReduce_keeps : formReduce.Keeps := fun h => h

theorem formSample_keeps : formSample.Keeps := fun h => h

theorem formGemm_keeps : formGemm.Keeps := fun h => h

theorem formGemv_keeps : formGemv.Keeps := fun h => h

theorem formConv_keeps : formConv.Keeps := fun h => h

theorem formAt_keeps : formAt.Keeps := fun h => h

theorem formFork_keeps : formFork.Keeps := fun h => h

theorem formPrune_keeps : formPrune.Keeps := fun h => h

theorem formRead_keeps : formRead.Keeps := fun h => h

theorem formReserve_keeps : formReserve.Keeps := fun h => h

theorem formCommit_keeps : formCommit.Keeps := fun h => h

theorem formInfo_keeps : formInfo.Keeps := fun h => h

theorem formPin_keeps : formPin.Keeps := fun h => h

theorem formImport_keeps : formImport.Keeps := fun h => h

theorem formLsCopy_keeps : formLsCopy.Keeps := fun h => h

theorem formLsFill_keeps : formLsFill.Keeps := fun h => h

theorem formGather_keeps : formGather.Keeps := fun h => h

end Sys2Proof.Machine
end

section
/-! SUPPORT. What running entries keep: the epilogue, the matrix array and attention. -/

namespace Sys2Proof.Machine

open Sys2Proof

set_option Elab.async false

variable {r s : State} {ch : ChIdx} {jc : JcIdx}

/-! ## How an entry starts, passes and completes -/

/-- What an operation does at its passes keeps what every change keeps. -/
structure OpRun.Keeps (run : OpRun) : Prop where
  start : ∀ {r s ch e}, State.Evolves r s → Gives (fun x => r.Evolves x.1) (run.start s ch e)
  before : ∀ {r s ch e}, State.Evolves r s → Gives (fun x => r.Evolves x.1) (run.before s ch e)
  pass : ∀ {r s ch e n}, State.Evolves r s → r.Evolves (run.pass s ch e n).1
  done : ∀ {r s ch e}, State.Evolves r s → r.Evolves (run.done s ch e).1

theorem State.Evolves.ofTry {e} {x : Try (State × Entry)} (h : r.Evolves s) (hx : Gives (fun x => r.Evolves x.1) x) :
    r.Evolves (ofTry s e x).1 := by
  cases x with
  | error e => exact h
  | ok x => exact hx

theorem onePass_keeps {pass} (hp : ∀ {r s ch e n}, State.Evolves r s → r.Evolves (pass s ch e n).1) : (onePass pass).Keeps :=
  ⟨fun h => h, fun h => h, hp, fun h => h⟩

theorem State.Evolves.modMx {f} (h : r.Evolves s) : r.Evolves (s.modMx ch f) := h.modC

theorem State.Evolves.startPass {e run} (h : r.Evolves s) : r.Evolves (s.startPass ch e run).1 :=
  State.Evolves.ite₁ h (State.Evolves.ite₁ h h.modP.modMx.pair)

theorem State.Evolves.takeArray {e b2b} (h : r.Evolves s) : r.Evolves (s.takeArray ch e b2b).2 :=
  State.Evolves.ite₂ h h.modMx.pair₂

theorem State.Evolves.noopArray {e b2b} (h : r.Evolves s) : r.Evolves (s.noopArray ch e b2b) := h.ite h.modMx

theorem State.Evolves.leave {e} (h : r.Evolves s) : r.Evolves (s.leave ch e) := h.modQ

theorem State.Evolves.entryFault {e x partly} (h : r.Evolves s) : r.Evolves (s.entryFault ch e x partly) := by
  unfold State.entryFault
  extract_lets s1 s2 s3
  have h2 : r.Evolves s2 := (h.satF.ite h).satF.ite (h.satF.ite h)
  exact (h2.post.ite h2).leave.finish

theorem State.Evolves.noteResidue {c} (h : r.Evolves s) : r.Evolves (s.noteResidue ch c) :=
  h.modC fun _ => ((Chan.kept_setFld ..).trans (Chan.kept_setFld ..)).trans (Chan.kept_setFld ..)

theorem State.Evolves.residueCe {l} (h : r.Evolves s) : r.Evolves (s.residueCe ch l) := h.foldl fun _ _ => State.Evolves.faultCe

theorem State.Evolves.noteAct {n} (h : r.Evolves s) : r.Evolves (s.noteAct ch n) := by
  unfold State.noteAct
  exact h.incF.modMx

theorem State.Evolves.arrayFault {e c n} (h : r.Evolves s) : r.Evolves (s.arrayFault ch e c n) :=
  h.noteAct.modMx.satF.entryFault.faultUe

theorem State.Evolves.passBoundary {e run} (h : r.Evolves s) : r.Evolves (s.passBoundary ch e run) := by
  unfold State.passBoundary
  extract_lets eng st
  exact h.leave.finish.ite (h.modQ.settle.ite h.startPass.modQ)

theorem State.Evolves.touchTens {t} (h : r.Evolves s) : r.Evolves (s.touchTens ch t) :=
  h.ite (h.foldl fun _ _ => State.Evolves.vaTouch)

theorem State.Evolves.touchOps {e} (h : r.Evolves s) : r.Evolves (s.touchOps ch e) := by
  unfold State.touchOps
  extract_lets range ns
  refine h.foldl fun _ _ ht => ?_
  extract_lets t s1
  have h1 : r.Evolves s1 := ht.touchTens
  split
  · exact h1.touchTens
  · exact h1

theorem State.Evolves.blurOps {e} (h : r.Evolves s) : r.Evolves (s.blurOps ch e) := (h.overlap.ite (h.overlap.ite h)).race

theorem State.Evolves.complete {e run} (hrun : OpRun.Keeps run) (h : r.Evolves s) : r.Evolves (s.complete ch e run) :=
  State.Evolves.finish (State.Evolves.leave (hrun.done h.touchOps.blurOps))

theorem State.Evolves.advance {eng run last stall upsets} (hrun : OpRun.Keeps run) (h : r.Evolves s) :
    r.Evolves (s.advance ch eng run last stall upsets) := by
  unfold State.advance
  split
  · exact h
  · next e _ =>
    extract_lets s0 n s1
    refine h.ite ?_
    split
    next s2 e2 hs2 =>
    have h2 : r.Evolves s2 := (State.Evolves.ite₁ h.pair h.startPass).fst hs2
    refine h2.ite ?_
    extract_lets tries
    split
    next reruns twice _ =>
    extract_lets hits s3
    have h3 : r.Evolves s3 := h2.foldl fun _ _ => State.Evolves.noteResidue
    split
    · exact h.ite h3.entryFault
    · next s4 e4 hs4 =>
      have h4 : r.Evolves s4 := (hrun.before h3).of_ok hs4
      split
      next s5 e5 bad hs5 =>
      have h5 : r.Evolves s5 := (hrun.pass h4).fst hs5
      extract_lets spent s6 e6 s7
      have h6 : r.Evolves s6 := h5.ite h5.satF
      split
      · exact h4.arrayFault
      · split
        · exact h.ite h6.entryFault.residueCe
        · exact (h6.passBoundary.ite (h6.complete hrun)).residueCe

theorem State.Evolves.advanceAll {eng run order} (hrun : OpRun.Keeps run) : ∀ {n s}, r.Evolves s → r.Evolves
    (s.advanceAll ch eng run order n)
  | 0, _, h => h
  | n + 1, s, h => by
    unfold State.advanceAll
    split
    · exact h
    · exact h.ite ((h.advance hrun).advanceAll hrun)

/-! ## The epilogue -/

theorem State.Evolves.putStat {t m r'} (h : r.Evolves s) : Gives r.Evolves (s.putStat ch t m r') := h.putCodes

theorem State.Evolves.statOne {p t seen m vs} (h : r.Evolves s) : Gives r.Evolves (s.statOne ch p t seen m vs) :=
  gives_ite h (gives_ite (gives_bind fun _ => h.putStat) (gives_bind fun _ => h.putStat))

theorem State.Evolves.outScalar {p m vs} (h : r.Evolves s) : Gives r.Evolves (s.outScalar ch p m vs) :=
  h.putRow.bind fun _ ht => ht.countFmt

theorem State.Evolves.outBlock {p sc m n vs} (h : r.Evolves s) : Gives r.Evolves (s.outBlock ch p sc m n vs) := by
  unfold State.outBlock
  split
  · exact h.putCodes.bind fun _ ht => ht.putCodes.bind fun _ hu => hu.countFmt
  · exact gives_ite (h.putCodes.bind fun _ ht => ht.putCodes) h

theorem State.Evolves.outRow {p m vs} (h : r.Evolves s) : Gives r.Evolves (s.outRow ch p m vs) := by
  unfold State.outRow
  split
  · exact h.outScalar
  · exact gives_tryFold (fun _ _ => State.Evolves.outBlock) h

theorem State.Evolves.epilogue {p} (h : r.Evolves s) : Gives r.Evolves (s.epilogue ch p) := by
  unfold State.epilogue
  extract_lets
  refine gives_bind fun _ => ?_
  refine gives_bind fun _ => ?_
  refine gives_bind fun _ => ?_
  extract_lets
  refine gives_bind fun _ => ?_
  refine gives_bind fun _ => ?_
  extract_lets
  split
  · exact Gives.bind (P := r.Evolves) h fun _ ht => gives_tryFold (fun _ _ => State.Evolves.outRow) ht
  · exact Gives.bind (P := r.Evolves) (gives_tryFold (fun _ _ => State.Evolves.statOne) h) fun _ ht => gives_tryFold
        (fun _ _ => State.Evolves.outRow) ht

theorem State.Evolves.chargeLanes {n} (h : r.Evolves s) : r.Evolves (s.chargeLanes ch n) := by
  unfold State.chargeLanes
  exact h.incF.modMx

theorem State.Evolves.epPaid {e n} (h : r.Evolves s) : r.Evolves (s.epPaid ch e n).1 := h.chargeLanes

theorem State.Evolves.mapPass {e} (h : r.Evolves s) : Gives (fun x => r.Evolves x.1) (s.mapPass ch e) :=
  gives_bind fun _ => h.epilogue.bind fun _ ht => ht.epPaid

theorem State.Evolves.reduceRow {e m} (h : r.Evolves s) : Gives r.Evolves (s.reduceRow ch e m) :=
  gives_bind fun _ => gives_ite (gives_bind fun _ => h.putCodes.bind fun _ ht => ht.countFmt) (gives_ite h.putCodes h)

theorem State.Evolves.reducePass {e} (h : r.Evolves s) : Gives (fun x => r.Evolves x.1) (s.reducePass ch e) :=
  (gives_tryFold (fun _ _ => State.Evolves.reduceRow) h).bind fun _ ht => ht.epPaid

theorem State.Evolves.sampleRow {e m} (h : r.Evolves s) : Gives (fun x => r.Evolves x.2) (s.sampleRow ch e m) :=
  gives_bind fun _ => gives_ite h.satF (gives_ite h (gives_bind fun _ => gives_ite h h))

theorem State.Evolves.samplePass {e} (h : r.Evolves s) : Gives (fun x => r.Evolves x.1) (s.samplePass ch e) := by
  unfold State.samplePass
  extract_lets
  refine gives_bind fun _ => ?_
  extract_lets
  split
  · exact Gives.bind (P := fun x => r.Evolves x.2) h.sampleRow fun _ ht =>
      Gives.bind (P := r.Evolves) (State.Evolves.putCodes ht) fun _ hu => hu.epPaid
  · split
    · exact Gives.bind (P := r.Evolves) h.putCodes fun _ ht => ht.epPaid
    · exact Gives.bind (P := r.Evolves) h fun _ ht => ht.epPaid

theorem runEp_keeps {k} {pass : State → ChIdx → Entry → Try (State × Entry)}
    (hp : ∀ {r s ch e}, State.Evolves r s → Gives (fun x => r.Evolves x.1) (pass s ch e)) : (runEp k pass).Keeps :=
    ⟨fun h => h.chargeLanes, fun h => h, fun h => h.ofTry (hp h), fun h => h⟩

theorem runMap_keeps : runMap.Keeps := runEp_keeps State.Evolves.mapPass

theorem runReduce_keeps : runReduce.Keeps := runEp_keeps State.Evolves.reducePass

theorem runSample_keeps : runSample.Keeps := runEp_keeps State.Evolves.samplePass

theorem State.Evolves.leads_execEpMapPass {w} (h : r.Evolves s) : r.Leads (execEpMapPass ch jc w s) := h.issueWide formMap_keeps

theorem State.Evolves.leads_execEpMapAdd {w} (h : r.Evolves s) : r.Leads (execEpMapAdd ch jc w s) := h.issueWide formMap_keeps

theorem State.Evolves.leads_execEpMapMul {w} (h : r.Evolves s) : r.Leads (execEpMapMul ch jc w s) := h.issueWide formMap_keeps

theorem State.Evolves.leads_execSmaxNorm {w} (h : r.Evolves s) : r.Leads (execSmaxNorm ch jc w s) := h.issueWide formMap_keeps

theorem State.Evolves.leads_execRmsNorm {w} (h : r.Evolves s) : r.Leads (execRmsNorm ch jc w s) := h.issueWide formMap_keeps

theorem State.Evolves.leads_execEpReduceSum {w} (h : r.Evolves s) : r.Leads (execEpReduceSum ch jc w s) :=
  h.issueWide formReduce_keeps

theorem State.Evolves.leads_execEpReduceMax {w} (h : r.Evolves s) : r.Leads (execEpReduceMax ch jc w s) :=
  h.issueWide formReduce_keeps

theorem State.Evolves.leads_execEpReduceMin {w} (h : r.Evolves s) : r.Leads (execEpReduceMin ch jc w s) :=
  h.issueWide formReduce_keeps

theorem State.Evolves.leads_execSumsq {w} (h : r.Evolves s) : r.Leads (execSumsq ch jc w s) := h.issueWide formReduce_keeps

theorem State.Evolves.leads_execAmax {w} (h : r.Evolves s) : r.Leads (execAmax ch jc w s) := h.issueWide formReduce_keeps

theorem State.Evolves.leads_execArgmax {w} (h : r.Evolves s) : r.Leads (execArgmax ch jc w s) := h.issueWide formReduce_keeps

theorem State.Evolves.leads_execLse {w} (h : r.Evolves s) : r.Leads (execLse ch jc w s) := h.issueWide formReduce_keeps

theorem State.Evolves.leads_execEpSample {w} (h : r.Evolves s) : r.Leads (execEpSample ch jc w s) :=
  h.issueWide formSample_keeps

/-! ## The matrix array -/

theorem State.Evolves.noteDrain {n} (h : r.Evolves s) : r.Evolves (s.noteDrain ch n) := by
  unfold State.noteDrain
  exact h.incF.modMx

theorem State.Evolves.passCost {e kpad feed reruns drain} (h : r.Evolves s) :
    r.Evolves (s.passCost ch e kpad feed reruns drain).1 := h.noteAct.noteDrain.modMx.pair

theorem State.Evolves.arrayDone {e} (h : r.Evolves s) : r.Evolves (s.arrayDone ch e).1 := h

theorem State.Evolves.countSpan {n} (h : r.Evolves s) : r.Evolves (s.countSpan ch n) := h.satF

theorem State.Evolves.gemmPass {e reruns} (h : r.Evolves s) : Gives (fun x => r.Evolves x.1) (s.gemmPass ch e reruns) :=
  gives_bind fun _ => gives_bind fun _ => gives_bind fun _ => Gives.bind h.epilogue fun _ ht => by
    exact ht.countSpan.passCost (e := e)

theorem runGemm_keeps : runGemm.Keeps := ⟨fun h => h, fun h => h, fun h => h.ofTry h.gemmPass, fun h => h.arrayDone⟩

theorem State.Evolves.leads_execMxGemm {w} (h : r.Evolves s) : r.Leads (execMxGemm ch jc w s) := h.issueWide formGemm_keeps

theorem State.Evolves.leads_execMxGemv {w} (h : r.Evolves s) : r.Leads (execMxGemv ch jc w s) := h.issueWide formGemv_keeps

theorem State.Evolves.setTag {slot tag} (h : r.Evolves s) : r.Evolves (s.setTag ch slot tag) := by
  refine h.post.ite (h.modC fun c => ?_)
  split
  · rfl
  · rfl

theorem State.Evolves.leads_execArwsOwnWrite {idx val} (h : r.Evolves s) : r.Leads (execArwsOwnWrite ch idx val s) :=
  h.chanWr fun _ ht => ht.foldl fun _ _ => State.Evolves.setTag

theorem ChMem.canonical_arwsFilter {m : ChMem} {f} (h : m.canonical = true) :
    ({ m with arws := m.arws.filter f } : ChMem).canonical = true := by
  rw [ChMem.canonical_iff] at *
  exact ⟨h.1, h.2.1, h.2.2.1, Cells.wf_filter _ f h.2.2.2⟩

theorem State.Evolves.leads_execArwsClearDone {slot} (h : r.Evolves s) : r.Leads (execArwsClearDone ch slot s) := by
  unfold execArwsClearDone
  refine State.leads_ite h ?_
  have h2 :=
      h.modMem (ch := ch) (f := fun m => { m with arws := m.arws.filter fun x => x.1 < 65536 * slot.val || 65536 * slot.val +
        65536 ≤ x.1 }) fun _ => ChMem.canonical_arwsFilter
  unfold State.Leads
  dsimp only
  split
  · exact h2.modC.setTag
  · exact h2.modC

/-! ## Attention -/

theorem State.Evolves.putPageRow {c ref half p vs} (h : r.Evolves s) : Gives r.Evolves (s.putPageRow ch c ref half p vs) :=
  h.spWrite.bind fun _ ht => ht.spWrite.bind fun _ hu => hu.countFmt

theorem State.Evolves.atStart {e} (h : r.Evolves s) : Gives (fun x => r.Evolves x.1) (s.atStart ch e) := gives_bind fun _ => h

theorem State.Evolves.atNewRow {e c half i b} (h : r.Evolves s) : Gives r.Evolves (s.atNewRow ch e c half i b) :=
  gives_bind fun _ => gives_bind fun _ => h.putPageRow

theorem State.Evolves.atBefore {e} (h : r.Evolves s) : Gives (fun x => r.Evolves x.1) (s.atBefore ch e) := by
  unfold State.atBefore
  split
  · exact (gives_tryFold (fun _ _ => State.Evolves.atNewRow) h).bind fun _ ht => gives_bind fun _ => ht
  · exact h

theorem State.Evolves.atPutRow {e cact hd r' acc} (h : r.Evolves s) : Gives r.Evolves (s.atPutRow ch e cact hd r' acc) := by
  unfold State.atPutRow
  refine gives_bind fun _ => ?_
  extract_lets
  refine Gives.bind (P := r.Evolves) h.outRow fun _ ht => ?_
  extract_lets
  split
  · exact Gives.bind (P := r.Evolves) ht fun _ hu => hu.satF.ite (hu.satF.ite hu)
  · exact Gives.bind (P := r.Evolves) ht.putStat fun _ hu => hu.satF.ite (hu.satF.ite hu)

theorem State.Evolves.pageTouch {c ref} (h : r.Evolves s) : r.Evolves (s.pageTouch ch c ref) :=
  h.foldl fun _ _ => State.Evolves.vaTouch

theorem State.Evolves.atPass {e reruns} (h : r.Evolves s) : Gives (fun x => r.Evolves x.1) (s.atPass ch e reruns) := by
  unfold State.atPass
  split
  · exact h
  · refine gives_bind fun _ => gives_bind fun _ => gives_bind fun _ => Gives.bind (P := r.Evolves)
        (gives_tryFold (fun _ _ => State.Evolves.atPutRow) h) fun _ ht => State.Evolves.pair ?_
    exact (ht.foldl fun _ _ => State.Evolves.pageTouch).countSpan.incF.noteAct.noteDrain.modMx

theorem State.Evolves.atDone {e} (h : r.Evolves s) : r.Evolves (s.atDone ch e).1 := h

theorem runAt_keeps : runAt.Keeps := ⟨fun h => h.atStart, fun h => h.atBefore, fun h => h.ofTry h.atPass, fun h => h.atDone⟩

theorem State.Evolves.leads_execAtPrefill {w} (h : r.Evolves s) : r.Leads (execAtPrefill ch jc w s) := h.issueWide formAt_keeps

theorem State.Evolves.leads_execAtDecode {w} (h : r.Evolves s) : r.Leads (execAtDecode ch jc w s) := h.issueWide formAt_keeps

theorem State.Evolves.leads_execAtDecodeGq {w} (h : r.Evolves s) : r.Leads (execAtDecodeGq ch jc w s) :=
  h.issueWide formAt_keeps

end Sys2Proof.Machine
end

section
/-! SUPPORT. What the futures table unit and the recurrent engine keep. -/

namespace Sys2Proof.Machine

open Sys2Proof

set_option Elab.async false

variable {r s : State} {ch : ChIdx} {jc : JcIdx}

/-! ## The futures table unit -/

theorem State.Evolves.leads_execFtCtlWrite {val} (h : r.Evolves s) : r.Leads (execFtCtlWrite ch val s) := by
  unfold execFtCtlWrite
  refine h.chanWr fun _ ht => ?_
  extract_lets
  refine ht.ite ?_
  refine ht.postReg.ite ?_
  split
  · exact ht.setF.setF.modFt
  · split
    · exact ht.post
    · exact ht.setF.modFt

theorem State.Evolves.leads_execFtReady (h : r.Evolves s) : r.Leads (execFtReady ch s) := h.setF.ite h

theorem State.Evolves.leads_execFtJcRangeWrite {val} (h : r.Evolves s) : r.Leads (execFtJcRangeWrite ch jc val s) :=
  h.chanWr fun _ ht => ht.ite (ht.postReg.ite ht.modC)

theorem State.Evolves.leads_execFtHostRelease {val} (h : r.Evolves s) : r.Leads (execFtHostRelease ch val s) :=
  h.chanWr fun _ ht => ht.postReg.ite ht.modC

theorem State.Evolves.leads_execHostReleaseApply (h : r.Evolves s) : r.Leads (execHostReleaseApply ch s) := by
  unfold execHostReleaseApply
  refine h.ite ?_
  split
  · exact h
  · exact h.modC.modFt.ite h.modC.post

theorem State.Evolves.ftStartEntry {e} (h : r.Evolves s) : Gives (fun x => r.Evolves x.1) (s.ftStartEntry ch e) := by
  unfold State.ftStartEntry
  split
  · trivial
  · refine gives_bind fun _ => ?_
    refine gives_bind fun _ => ?_
    refine gives_ite trivial ?_
    split
    · trivial
    · exact h

theorem State.Evolves.ftOp {g} (h : r.Evolves s) : r.Evolves (s.ftOp ch g) := h.modC

theorem State.Evolves.ftFork {e hs} (h : r.Evolves s) : Gives r.Evolves (s.ftFork ch e hs) :=
  gives_tryFold (fun _ _ => State.Evolves.putCodes) h.ftOp

theorem State.Evolves.copyPage {c fill x} (h : r.Evolves s) : Gives r.Evolves (s.copyPage ch c fill x) :=
  gives_tryFold (fun _ _ ht => gives_bind fun _ => ht.spWrite.bind fun _ hu => gives_bind fun _ => hu.spWrite) h

theorem State.Evolves.reservePos {wait i t} (h : r.Evolves s) : Gives r.Evolves (s.reservePos ch wait i t) := by
  unfold State.reservePos
  extract_lets
  split
  · exact Gives.bind (P := r.Evolves) h.ftOp fun _ ht => ht.ftOp
  · split
    · split
      · exact Gives.bind (P := r.Evolves) (gives_tryFold (fun _ _ => State.Evolves.copyPage) h.ftOp) fun _ ht => ht.ftOp
      · exact Gives.bind (P := r.Evolves) h fun _ ht => ht.ftOp
    · exact Gives.bind (P := r.Evolves) h fun _ ht => ht.ftOp

theorem State.Evolves.reserveOne {e wait b h'} (h : r.Evolves s) : Gives (fun x => r.Evolves x.1)
    (s.reserveOne ch e wait b h') := by
  unfold State.reserveOne
  extract_lets
  split
  · exact gives_bind fun _ => Gives.bind (P := r.Evolves) (gives_tryFold (fun _ _ => State.Evolves.reservePos) h.ftOp.satF.satF)
        fun _ ht => ht
  · exact gives_bind fun _ => Gives.bind (P := r.Evolves) (gives_tryFold (fun _ _ => State.Evolves.reservePos) h.ftOp.satF.satF)
        fun _ ht => ht

theorem State.Evolves.putList {va h' stream blocks} (h : r.Evolves s) : Gives r.Evolves (s.putList ch va h' stream blocks) :=
  h.spWrite.bind fun _ ht => gives_tryFold (fun _ _ => State.Evolves.spWrite) ht

theorem State.Evolves.putLists {e hs} (h : r.Evolves s) : Gives r.Evolves (s.putLists ch e hs) :=
  (gives_tryFold (fun _ _ => State.Evolves.putList) h).bind fun _ ht => ht.ftOp

theorem State.Evolves.ftReserve {e hs} (h : r.Evolves s) : Gives r.Evolves (s.ftReserve ch e hs) :=
  (gives_tryFold (fun _ _ ht => ht.reserveOne.bind fun _ hu => hu.putCodes) h).bind fun _ ht => gives_ite ht.putLists ht

theorem State.Evolves.ftRead {e hs} (h : r.Evolves s) : Gives r.Evolves (s.ftRead ch e hs) := h.ftOp.putLists

theorem State.Evolves.commitOne {e wait h'} (h : r.Evolves s) : r.Evolves (s.commitOne ch e wait h') := by
  unfold State.commitOne
  extract_lets
  refine h.ftOp.foldl fun _ _ ht => ?_
  split
  extract_lets
  split
  · exact ht.ftOp.satF
  · exact ht.ftOp.satF.ite (ht.ftOp.satF.ite ht.ftOp)

theorem State.Evolves.ftInfo {e hs} (h : r.Evolves s) : Gives r.Evolves (s.ftInfo ch e hs) :=
  gives_tryFold (fun _ _ => State.Evolves.putCodes) h.ftOp

theorem State.Evolves.ftPrune {e hs} (h : r.Evolves s) : Gives r.Evolves (s.ftPrune ch e hs) :=
  gives_bind fun _ => gives_tryFold (fun _ _ ht => ((ht.ftOp.ite ht).satF.ite (ht.ftOp.ite ht)).putCodes) h.ftOp

theorem State.Evolves.pinOne {wait jc mode h' v} (h : r.Evolves s) : r.Evolves (s.pinOne ch wait jc mode h' v) := by
  unfold State.pinOne
  split
  · exact h.ftOp.modX
  · exact h.ftOp.modX
  · exact h.ftOp
  · exact h.ftOp
  · exact h.ftOp
  · exact h.ftOp

theorem State.Evolves.ftPin {e mode hs} (h : r.Evolves s) : Gives r.Evolves (s.ftPin ch e mode hs) := by
  unfold State.ftPin
  split
  · exact gives_bind fun _ => (h.foldl fun _ _ => State.Evolves.pinOne).ftOp
  · exact gives_bind fun _ => (h.foldl fun _ _ => State.Evolves.pinOne).ftOp

theorem State.Evolves.ftWork {e} (h : r.Evolves s) : Gives r.Evolves (s.ftWork ch e) := by
  unfold State.ftWork
  split
  · exact h.ftFork
  · exact h.ftPrune
  · exact h.ftRead
  · exact h.ftReserve
  · exact h.foldl fun _ _ => State.Evolves.commitOne
  · exact h.ftInfo
  · exact h.ftPin

theorem State.Evolves.ftPass {e} (h : r.Evolves s) : Gives (fun x => r.Evolves x.1) (s.ftPass ch e) :=
  h.ftOp.ftWork.bind fun _ ht => ht.ftOp.ftSync

theorem runFt_keeps : runFt.Keeps := ⟨fun h => h.ftStartEntry, fun h => h, fun h => h.ofTry h.ftPass, fun h => h⟩

theorem State.Evolves.leads_execFtFork {w} (h : r.Evolves s) : r.Leads (execFtFork ch jc w s) := h.issueWide formFork_keeps

theorem State.Evolves.leads_execFtPrune {w} (h : r.Evolves s) : r.Leads (execFtPrune ch jc w s) := h.issueWide formPrune_keeps

theorem State.Evolves.leads_execFtLookupRead {w} (h : r.Evolves s) : r.Leads (execFtLookupRead ch jc w s) :=
  h.issueWide formRead_keeps

theorem State.Evolves.leads_execFtLookupReserve {w} (h : r.Evolves s) : r.Leads (execFtLookupReserve ch jc w s) :=
  h.issueWide formReserve_keeps

theorem State.Evolves.leads_execFtLookupCommit {w} (h : r.Evolves s) : r.Leads (execFtLookupCommit ch jc w s) :=
  h.issueWide formCommit_keeps

theorem State.Evolves.leads_execFtLookupInfo {w} (h : r.Evolves s) : r.Leads (execFtLookupInfo ch jc w s) :=
  h.issueWide formInfo_keeps

theorem State.Evolves.leads_execFtPinPin {w} (h : r.Evolves s) : r.Leads (execFtPinPin ch jc w s) := h.issueWide formPin_keeps

theorem State.Evolves.leads_execUnpin {w} (h : r.Evolves s) : r.Leads (execUnpin ch jc w s) := h.issueWide formPin_keeps

theorem State.Evolves.leads_execFtPinRelease {w} (h : r.Evolves s) : r.Leads (execFtPinRelease ch jc w s) :=
  h.issueWide formPin_keeps

theorem State.Evolves.leads_execDetach {w} (h : r.Evolves s) : r.Leads (execDetach ch jc w s) := h.issueWide formPin_keeps

theorem State.Evolves.leads_execAdopt {w} (h : r.Evolves s) : r.Leads (execAdopt ch jc w s) := h.issueWide formPin_keeps

theorem State.Evolves.leads_execSetPunty {w} (h : r.Evolves s) : r.Leads (execSetPunty ch jc w s) := h.issueWide formPin_keeps

/-! ## The recurrent engine -/

theorem State.Evolves.leads_execRcCtlWrite {val} (h : r.Evolves s) : r.Leads (execRcCtlWrite ch val s) :=
  h.chanWr fun _ ht => ht.ite (ht.postReg.ite ht.modC.rcCount.setF.setF)

theorem State.Evolves.leads_execRcReady (h : r.Evolves s) : r.Leads (execRcReady ch s) := h.setF.ite h

theorem State.Evolves.rcHostSwap {i} (h : r.Evolves s) : r.Evolves (s.rcHostSwap ch i) := by
  unfold State.rcHostSwap
  extract_lets
  split
  · split
    · next _ ht => exact (h.rcMove.of_ok ht).setF
    · exact h.rcMod.setF
  · exact h.rcMod.setF

theorem State.Evolves.leads_execChRcSwap {val} (h : r.Evolves s) : r.Leads (execChRcSwap ch val s) := by
  unfold execChRcSwap
  refine h.chanWr fun _ ht => ?_
  extract_lets
  refine ht.wake.postReg.ite ?_
  extract_lets
  split
  · exact ht.wake.modC.rcHostSwap.ite ht.wake.modC.setF.postReg
  · exact ht.wake.modC.setF.postReg

theorem State.Evolves.leads_execRcSwapped (h : r.Evolves s) : r.Leads (execRcSwapped ch s) := h.rcServe

theorem State.Evolves.rcRefs {i : Iss} (h : r.Evolves i.s) : Gives (fun x => r.Evolves x.1) i.rcRefs := by
  unfold Iss.rcRefs
  refine gives_bind fun _ => ?_
  dsimp only
  split
  · refine gives_ite trivial (gives_bind fun _ => gives_bind fun _ => ?_)
    exact (h.foldl fun _ _ => State.Evolves.rcModH).pair
  · refine gives_bind fun _ => gives_bind fun _ => ?_
    exact (h.foldl fun _ _ => State.Evolves.rcModH).pair

theorem formRc_keeps {yields} : (formRc yields).Keeps := fun h => h.rcRefs

theorem State.Evolves.exportRefs {i : Iss} (h : r.Evolves i.s) : Gives (fun x => r.Evolves x.1) i.exportRefs :=
  gives_bind fun _ => h

theorem formExport_keeps : formExport.Keeps := fun h => h.exportRefs

theorem State.Evolves.rcStart {e} (h : r.Evolves s) : Gives (fun x => r.Evolves x.1) (s.rcStart ch e) := by
  unfold State.rcStart
  refine gives_ite trivial ?_
  split
  · trivial
  · exact gives_ite trivial (h.foldl fun _ _ => State.Evolves.rcModH)

theorem State.Evolves.rcPutHome {r' ps} (h : r.Evolves s) : Gives r.Evolves (s.rcPutHome ch r' ps) := by
  unfold State.rcPutHome
  split
  · next _ ht => exact h.rcStore.of_ok ht
  · trivial

theorem State.Evolves.rcStream {e cols b h'} (h : r.Evolves s) : Gives r.Evolves (s.rcStream ch e cols b h') := by
  unfold State.rcStream
  dsimp only
  split <;>
    refine gives_bind fun _ => gives_bind fun _ => Gives.bind (P := r.Evolves) h.rcPutHome fun _ ht => ?_
  · split
    · exact ht.satF.countFmt.countSpan.rcModH
    · exact Gives.bind ht.outRow fun _ hu => hu.satF.countFmt.countSpan.rcModH
  · split
    · exact ht.countFmt.countSpan.rcModH
    · exact Gives.bind ht.outRow fun _ hu => hu.countFmt.countSpan.rcModH

theorem State.Evolves.rcPass {e reruns} (h : r.Evolves s) : Gives (fun x => r.Evolves x.1) (s.rcPass ch e reruns) := by
  unfold State.rcPass
  extract_lets
  split
  · exact gives_bind fun _ => Gives.bind (P := r.Evolves) (gives_tryFold (fun _ _ => State.Evolves.rcStream) h) fun _ ht =>
        ht.ite ht.noteAct.noteDrain.modMx
  · exact gives_bind fun _ => Gives.bind (P := r.Evolves) (gives_tryFold (fun _ _ => State.Evolves.rcStream) h) fun _ ht =>
        ht.ite ht.noteAct.noteDrain.modMx

theorem State.Evolves.exportStart {e} (h : r.Evolves s) : Gives (fun x => r.Evolves x.1) (s.exportStart ch e) := by
  unfold State.exportStart
  refine gives_ite trivial ?_
  extract_lets
  split
  · trivial
  · exact gives_ite trivial h

theorem State.Evolves.exportOne {e b h'} (h : r.Evolves s) : Gives (fun x => r.Evolves x.1) (s.exportOne ch e b h') := by
  unfold State.exportOne
  dsimp only
  split
  · split
    · trivial
    · exact Gives.bind h.spWrite fun _ ht => ht
  · split
    · split
      · trivial
      · next _ ht => exact h.rcMove.of_ok ht
    · exact h.rcMod.pair
  · exact h.rcFree.pair

theorem State.Evolves.exportPass {e} (h : r.Evolves s) : Gives (fun x => r.Evolves x.1) (s.exportPass ch e) := by
  unfold State.exportPass
  refine Gives.bind (P := fun x => r.Evolves x.1) (gives_tryFold (fun _ _ ht => ?_) h) fun _ ht => by exact ht
  exact Gives.bind ht.exportOne fun _ hu => hu

theorem State.Evolves.importStart {e} (h : r.Evolves s) : Gives (fun x => r.Evolves x.1) (s.importStart ch e) :=
  gives_ite trivial (gives_bind fun _ => gives_ite trivial (gives_bind fun _ => h))

theorem State.Evolves.importOne {e n b i branch} (h : r.Evolves s) : Gives r.Evolves (s.importOne ch e n b i branch) := by
  unfold State.importOne
  refine h.spWrite.bind fun _ ht => ?_
  refine ht.rcMod.putCodes.bind fun _ hu => ?_
  split
  · exact hu
  · exact hu.ftOp

theorem State.Evolves.importPass {e} (h : r.Evolves s) : Gives (fun x => r.Evolves x.1) (s.importPass ch e) :=
  gives_bind fun _ => gives_bind fun _ => (gives_tryFold (fun _ _ => State.Evolves.importOne) h).bind fun _ ht => ht

theorem runRc_keeps : runRc.Keeps := ⟨fun h => h.rcStart, fun h => h, fun h => h.ofTry h.rcPass, fun h => h⟩

theorem runExport_keeps : runExport.Keeps := ⟨fun h => h.exportStart, fun h => h, fun h => h.ofTry h.exportPass, fun h => h⟩

theorem runImport_keeps : runImport.Keeps := ⟨fun h => h.importStart, fun h => h, fun h => h.ofTry h.importPass, fun h => h⟩

theorem State.Evolves.leads_execRcChunk {w} (h : r.Evolves s) : r.Leads (execRcChunk ch jc w s) := h.issueWide formRc_keeps

theorem State.Evolves.leads_execRcFlush {w} (h : r.Evolves s) : r.Leads (execRcFlush ch jc w s) := h.issueWide formRc_keeps

theorem State.Evolves.leads_execRcStep {w} (h : r.Evolves s) : r.Leads (execRcStep ch jc w s) := h.issueWide formRc_keeps

theorem State.Evolves.leads_execRcExportCopy {w} (h : r.Evolves s) : r.Leads (execRcExportCopy ch jc w s) :=
  h.issueWide formExport_keeps

theorem State.Evolves.leads_execRcExportMove {w} (h : r.Evolves s) : r.Leads (execRcExportMove ch jc w s) :=
  h.issueWide formExport_keeps

theorem State.Evolves.leads_execRcExportFree {w} (h : r.Evolves s) : r.Leads (execRcExportFree ch jc w s) :=
  h.issueWide formExport_keeps

theorem State.Evolves.leads_execRcImportRecord {w} (h : r.Evolves s) : r.Leads (execRcImportRecord ch jc w s) :=
  h.issueWide formImport_keeps

theorem State.Evolves.leads_execRcImportZero {w} (h : r.Evolves s) : r.Leads (execRcImportZero ch jc w s) :=
  h.issueWide formImport_keeps

end Sys2Proof.Machine
end

section
/-! SUPPORT. What the tick and the memory tiers keep. -/

namespace Sys2Proof.Machine

open Sys2Proof

set_option Elab.async false

variable {r s : State} {ch : ChIdx} {jc : JcIdx}

/-! ## The tick, quanta, submission queues and the arbiter -/

theorem State.Evolves.chargeAll (h : r.Evolves s) : r.Evolves (s.chargeAll ch) :=
  h.foldl fun _ _ ht => (ht.chargeOne.ite ht).overGrow

theorem State.Evolves.grantSlice (h : r.Evolves s) : r.Evolves (s.grantSlice ch jc) := by
  unfold State.grantSlice
  exact h.overSettle.modX.modC

theorem State.Evolves.endDonations (h : r.Evolves s) : r.Evolves (s.endDonations ch) :=
  h.foldl fun _ _ ht => ht.ite (ht.modX.releaseSlice.ite ht.modX)

theorem State.Evolves.demote (h : r.Evolves s) : r.Evolves (s.demote ch jc) := h.modX.ite (h.modX.releaseSlice.ite h.modX.modC)

theorem State.Evolves.demoteAll (h : r.Evolves s) : r.Evolves (s.demoteAll ch) := h.foldl fun _ _ ht => ht.demote.ite ht

theorem State.Evolves.beTurn (h : r.Evolves s) : r.Evolves (s.beTurn ch jc) := by
  unfold State.beTurn
  extract_lets
  split
  · exact h.overSettle.grantSlice.modX
  · exact h.overSettle.modX.modC

theorem State.Evolves.expireSlices (h : r.Evolves s) : r.Evolves (s.expireSlices ch) := by
  unfold State.expireSlices
  refine h.foldl fun _ _ ht => ?_
  refine ht.ite ?_
  refine ht.releaseSlice.ite ?_
  split
  · exact ht.modX
  · exact ht.modX.releaseSlice

theorem State.Evolves.yieldToLc (h : r.Evolves s) : r.Evolves (s.yieldToLc ch) := h.foldl fun _ _ ht => ht.releaseSlice.ite ht

theorem State.Evolves.grantLc (h : r.Evolves s) : r.Evolves (s.grantLc ch) := h.foldl fun _ _ ht => ht.grantSlice.ite ht

theorem State.Evolves.donate (h : r.Evolves s) : r.Evolves (s.donate ch) := by
  unfold State.donate
  refine h.foldl fun _ _ ht => ?_
  refine ht.ite ?_
  refine ht.foldl fun _ _ hu => ?_
  split
  · exact hu
  · exact hu.ite (hu.modX.modC.ite hu.modX.grantSlice)

theorem State.Evolves.fillSlots (h : r.Evolves s) : r.Evolves (s.fillSlots ch) := h.foldl fun _ _ ht => ht.beTurn.ite ht

theorem State.Evolves.openQuantum (h : r.Evolves s) : r.Evolves (s.openQuantum ch) := h.foldl fun _ _ => State.Evolves.modX

theorem State.Evolves.sqConsume {q client} (h : r.Evolves s) : r.Evolves (s.sqConsume ch q client) := h.incF.incF

theorem State.Evolves.sqReject {q e reason} (h : r.Evolves s) : r.Evolves (s.sqReject ch q e reason) :=
  h.sqConsume.post.jcrPut.incF

theorem State.Evolves.loadJob {q e} (h : r.Evolves s) : r.Evolves (s.loadJob ch jc q e) := by
  unfold State.loadJob
  extract_lets s1 left s2 s3 s4
  have h2 : r.Evolves s2 := h.sqConsume.modC fun c => by
    iterate 6 rw [Chan.kept_setFld]
  have h4 : r.Evolves s4 := h2.modX.ftJobLoad.rcJobLoad
  exact h4.ite h4.modC

theorem State.Evolves.sqFault {q err} (h : r.Evolves s) : r.Evolves (s.sqFault ch q err) := h.setF.post

theorem State.Evolves.served {lc q} (h : r.Evolves s) : r.Evolves (s.served ch lc q) := h.modC

theorem State.Evolves.loadPass : ∀ {n s}, r.Evolves s → r.Evolves (s.loadPass ch n)
  | 0, _, h => h
  | n + 1, s, h => by
    unfold State.loadPass
    split
    · exact h.sqFault.loadPass
    · split
      · exact h
      · dsimp only
        split
        · exact h
        · split
          · exact h.served.sqReject.loadPass
          · exact h.served.loadJob.loadPass

theorem State.Evolves.noPartition : ∀ {n s}, r.Evolves s → r.Evolves (s.noPartition ch n)
  | 0, _, h => h
  | n + 1, s, h => by
    unfold State.noPartition
    split
    · exact h.sqFault.noPartition
    · split
      · exact h
      · exact h.sqReject.noPartition

theorem State.Evolves.loads (h : r.Evolves s) : r.Evolves (s.loads ch) := h.ite (h.loadPass.ite (h.ite h.noPartition))

theorem State.Evolves.decide (h : r.Evolves s) : r.Evolves (s.decide ch) := by
  unfold State.decide
  extract_lets
  split
  · exact h.loads
  · exact h.loads.endDonations.demoteAll.expireSlices.yieldToLc.grantLc.donate.fillSlots.openQuantum.semServe.fenceServe

theorem State.Evolves.leads_execQuantumBoundary (h : r.Evolves s) : r.Leads (execQuantumBoundary ch s) := by
  unfold execQuantumBoundary
  refine State.leads_ite h ?_
  extract_lets s1 s2
  have h1 : r.Evolves s1 := h.chargeAll.ite h
  exact h1.modC.decide.ite h1.modC

theorem State.Evolves.refill (h : r.Evolves s) : r.Evolves (s.refill ch) := by
  unfold State.refill
  extract_lets s1 s2
  have h2 : r.Evolves s2 := h.modC.foldl fun _ _ ht => ht.ite ht.overSettle.modX.modC
  exact h2.post.ite h2

theorem State.Evolves.tickSem (h : r.Evolves s) : r.Evolves (s.tickSem ch) := h.semSignal.ite h

theorem State.Evolves.windowsBegin (h : r.Evolves s) : r.Evolves (s.windowsBegin ch) :=
  h.foldl fun _ _ ht => ht.satF.modMem.ite (ht.ite ht.modMem.setF.setF)

theorem State.Evolves.tickWake (h : r.Evolves s) : r.Evolves (s.tickWake ch) := h.ite ((h.wake.ite h).wake.ite (h.wake.ite h))

theorem State.Evolves.tickChannel (h : r.Evolves s) : r.Evolves (s.tickChannel ch) := by
  unfold State.tickChannel
  refine h.modC.ite ?_
  extract_lets s1 s2 s3
  have h3 : r.Evolves s3 := (h.chargeAll.ite h).modC.refill.tickSem.windowsBegin.routesReturn.tickWake
  exact h3.decide.ite h3

theorem State.Evolves.tickSource (h : r.Evolves s) : r.Evolves (s.tickSource) := h.ite h.modP

theorem State.Evolves.applyOne {r'} (h : r.Evolves s) : r.Evolves (s.applyOne r') := h.fnWr

theorem State.Evolves.applyLatched (h : r.Evolves s) : r.Evolves (s.applyLatched) := by
  unfold State.applyLatched
  exact (h.foldl fun _ _ => State.Evolves.applyOne).modP.tickSource.modP

theorem State.Evolves.tickNumber (h : r.Evolves s) : r.Evolves (s.tickNumber) := by
  unfold State.tickNumber
  split
  · exact h.modP
  · exact h.modP.ite h.modP.post

theorem State.Evolves.tickMissed (h : r.Evolves s) : r.Evolves (s.tickMissed) := h.ite (h.ite h.modP).modP

theorem State.Evolves.boundary {commit} (h : r.Evolves s) (hcommit : ∀ t, r.Evolves t → r.Evolves (commit t)) :
    r.Evolves (s.boundary commit) := by
  unfold State.boundary
  extract_lets s1 s2 s3
  have h1 : r.Evolves s1 := h.tickNumber.tickMissed
  exact (hcommit _ (h1.modP.ite h1).modP).applyLatched.eachC fun _ _ => State.Evolves.tickChannel

theorem State.Evolves.leads_execRwtLatch (h : r.Evolves s) : r.Leads (execRwtLatch s) := h.modP

theorem State.Evolves.stage {pf off v} (h : r.Evolves s) : r.Evolves (s.stage pf off v) := by
  unfold State.stage
  exact h.modP

theorem State.Evolves.tickAccept {err} (h : r.Evolves s) : r.Evolves (s.tickAccept err).1 := by
  unfold State.tickAccept
  extract_lets was s1
  have h1 : r.Evolves s1 := h.modP fun _ => Pkg.kept_setFld ..
  exact State.Evolves.ite₁ (h1.modP fun _ => Pkg.kept_setFld ..).pair h.satP.pair

theorem State.Evolves.leads_execTickInEdge {err} (h : r.Evolves s) : r.Leads (execTickInEdge err s) :=
  State.leads_ite h (State.leads_ite h.modP.tickAccept h.modP)

theorem State.Evolves.leads_execTickHoldover (h : r.Evolves s) : r.Leads (execTickHoldover s) := State.leads_ite h h.modP.post

theorem State.Evolves.tickCfg {val} (h : r.Evolves s) : r.Evolves (s.tickCfg val) := h.stage.ite h.post

theorem State.Evolves.leads_execTickCfgWrite {by_ val} (h : r.Evolves s) : r.Leads (execTickCfgWrite by_ val s) := by
  unfold execTickCfgWrite
  split
  · exact h.hostWr fun _ ht => ht.gate fun _ => State.Evolves.tickCfg
  · exact h.gate fun _ => State.Evolves.tickCfg

theorem State.Evolves.leads_execTickNumRead (h : r.Evolves s) : r.Leads (execTickNumRead s) := State.leads_ite h h.modP.answer

theorem State.Evolves.leads_execSqDoorbell {q val} (h : r.Evolves s) : r.Leads (execSqDoorbell ch q val s) :=
  h.chanWr fun _ ht => ht.setF.wake

theorem State.Evolves.sqBaseWrite {q hi v} (h : r.Evolves s) : r.Evolves (s.sqBaseWrite ch q hi v) :=
  (h.ite h.setF.setF.setF).ite (h.ite h.setF)

theorem State.Evolves.leads_execSqBaseWrite {q hi val} (h : r.Evolves s) : r.Leads (execSqBaseWrite ch q hi val s) :=
  h.chanWr fun _ => State.Evolves.sqBaseWrite

theorem State.Evolves.tryEndAll (h : r.Evolves s) : r.Evolves (s.tryEndAll ch) := h.foldl fun _ _ => State.Evolves.tryEnd

theorem State.Evolves.leads_execJcrRdWrite {q val} (h : r.Evolves s) : r.Leads (execJcrRdWrite ch q val s) :=
  h.chanWr fun _ ht => ht.setF.tryEndAll.ite ht

theorem State.Evolves.leads_execJobKill {val} (h : r.Evolves s) : r.Leads (execJobKill ch val s) :=
  h.chanWr fun _ ht => ht.setF.wake.killJob.ite ht.setF

theorem State.Evolves.abortEntry {x reason} (h : r.Evolves s) : r.Evolves (s.abortEntry ch x reason) :=
  h.killJob.modQ.dropEntry.settle.fenceServe.semServe.tryEnd

theorem State.Evolves.leads_execAtomicLimit {eng} (h : r.Evolves s) : r.Leads (execAtomicLimit ch eng s) := by
  unfold execAtomicLimit
  split
  · exact State.leads_ite h h.abortEntry
  · exact h

theorem State.Evolves.leads_execDonationLimit (h : r.Evolves s) : r.Leads (execDonationLimit ch jc s) :=
  State.leads_ite h h.killJob

theorem State.Evolves.setArb {a} (h : r.Evolves s) : r.Evolves (s.setArb ch a) := h.modC

theorem State.Evolves.arbDecide {cls a reqs em} (h : r.Evolves s) : r.Evolves (s.arbDecide ch cls a reqs em) := by
  unfold State.arbDecide
  extract_lets
  split
  · exact h.setArb
  · split
    · exact h.setArb
    · exact (h.satF.ite h).setArb.routerSend.ite (h.satF.ite h).setArb

theorem State.Evolves.leads_execArbGrant {cls inst reqs pt} (h : r.Evolves s) : r.Leads (execArbGrant ch cls inst reqs pt s) := by
  unfold execArbGrant
  refine State.leads_ite h.arbDecide ?_
  split
  · exact h.satF.arbDecide
  · exact h.setArb

theorem State.Evolves.leads_execResourceHang {cls inst unit} (h : r.Evolves s) : r.Leads
    (execResourceHang ch cls inst unit s) := by
  unfold execResourceHang
  extract_lets
  split
  · exact h
  · extract_lets arg s1 s2
    have h1 : r.Evolves s1 := h.draw.satF.post
    split
    · exact h1.setArb.answer
    · split
      · exact h1.setArb.abortEntry
      · exact h1.setArb
    · exact h1.setArb

theorem State.Evolves.leads_execRequesterUnmasked {cls inst req} (h : r.Evolves s) : r.Leads
    (execRequesterUnmasked ch cls inst req s) := h.setArb

/-! ## The memory tiers -/

theorem State.Evolves.brokenPage {r'} (h : r.Evolves s) : r.Evolves (s.brokenPage ch r') := h.ite h.modMem.blur

theorem State.Evolves.invalidate (h : r.Evolves s) : r.Evolves (s.invalidate ch) := by
  unfold State.invalidate
  exact (h.foldl fun _ _ => State.Evolves.brokenPage).modMem.modC

theorem State.Evolves.mmuWrite {val} (h : r.Evolves s) : r.Evolves (s.mmuWrite ch val) := by
  unfold State.mmuWrite
  extract_lets
  split
  · exact h.postReg
  · exact h.setF.setF.invalidate.ite h.setF.setF

theorem State.Evolves.leads_execMemMmuWrite {val} (h : r.Evolves s) : r.Leads (execMemMmuWrite ch val s) :=
  h.chanWr fun _ => State.Evolves.mmuWrite

theorem State.Evolves.leads_execInv {val} (h : r.Evolves s) : r.Leads (execInv ch val s) :=
  h.chanWr fun _ => State.Evolves.mmuWrite

theorem State.Evolves.leads_execFlush {val} (h : r.Evolves s) : r.Leads (execFlush ch val s) :=
  h.chanWr fun _ ht => ht.flushAll.ite ht

theorem State.Evolves.leads_execWriteBackComplete {ok} (h : r.Evolves s) : r.Leads (execWriteBackComplete ch ok s) := by
  unfold execWriteBackComplete
  split
  · exact h
  · exact h.wbEnd.tcCount

theorem State.Evolves.leads_execTcWbRetry {ok} (h : r.Evolves s) : r.Leads (execTcWbRetry ch ok s) :=
  (h.foldl fun _ _ => State.Evolves.wbAgain).tcCount

theorem State.Evolves.cleanRegion {addr} (h : r.Evolves s) : r.Evolves (s.cleanRegion ch addr) :=
  h.foldl fun _ _ => State.Evolves.tcClean

theorem State.Evolves.dropRegion {addr} (h : r.Evolves s) : r.Evolves (s.dropRegion ch addr) := by
  unfold State.dropRegion
  exact h.modTc

theorem State.Evolves.demoteCold {cold} (h : r.Evolves s) : r.Evolves (s.demoteCold ch cold) :=
  ((h.foldl fun _ _ => State.Evolves.cleanRegion).foldl fun _ _ => State.Evolves.dropRegion).modMem.satF

theorem State.Evolves.promoteHot {hot most} (h : r.Evolves s) : r.Evolves (s.promoteHot ch hot most) := by
  unfold State.promoteHot
  exact h.modMem

theorem State.Evolves.leads_execPromotionPeriod (h : r.Evolves s) : r.Leads (execPromotionPeriod ch s) := by
  unfold execPromotionPeriod
  split
  · exact h
  · extract_lets
    split
    · exact h.setF.foldl fun _ _ => State.Evolves.post
    · split
      · exact h.setF.demoteCold.promoteHot.modMem.setF.tcCount.post
      · exact h.setF

theorem State.Evolves.modWin {w f} (h : r.Evolves s) : r.Evolves (s.modWin ch w f) := h.modMem

theorem State.Evolves.setExpert {x st} (h : r.Evolves s) : r.Evolves (s.setExpert ch x st) := by
  unfold State.setExpert
  split
  · exact h
  · exact h.modMem

theorem State.Evolves.winEnd {w} (h : r.Evolves s) : r.Evolves (s.winEnd ch w) := h.modWin.setF

theorem State.Evolves.winFault {w status} (h : r.Evolves s) : r.Evolves (s.winFault ch w status) := h.setF.satF.winEnd.post

theorem State.Evolves.leads_execWindowCopyStart {win} (h : r.Evolves s) : r.Leads (execWindowCopyStart ch win s) := by
  unfold execWindowCopyStart
  extract_lets
  refine h.ite ?_
  extract_lets
  split
  · exact h.takeWaits.winFault
  · exact h.takeWaits.modWin.setExpert

theorem State.Evolves.winCopy {x} (h : r.Evolves s) : Gives r.Evolves (s.winCopy ch x) := gives_bind fun _ => h.vaTouch.vaWrite

theorem State.Evolves.leads_execWindowCopyDone {d} (h : r.Evolves s) : r.Leads (execWindowCopyDone ch d s) := by
  unfold execWindowCopyDone
  refine h.ite ?_
  split
  · exact h.ite h.ecc.winFault.eccDone
  · next _ ht =>
      extract_lets s1
      have h1 : r.Evolves s1 := (h.ecc.winCopy.of_ok ht).setExpert.semSignal.eccDone
      exact h1.winEnd.ite h1.modWin.setF

theorem State.Evolves.leads_execWindowLate {win} (h : r.Evolves s) : r.Leads (execWindowLate ch win s) := by
  unfold execWindowLate
  extract_lets
  split
  · exact h
  · exact (h.modWin.satF.setExpert.ite h.modWin.satF).post

theorem State.Evolves.leads_execSwCfgWrite {win val} (h : r.Evolves s) : r.Leads (execSwCfgWrite ch win val s) :=
  h.chanWr fun _ ht => ht.modC.modWin.ite ht.modC

theorem State.Evolves.leads_execRegRefill {inst reqs} (h : r.Evolves s) : r.Leads (execRegRefill inst reqs s) :=
  (h.foldl fun _ _ => State.Evolves.refillOne).foldl fun _ _ ht => ht.transfer.ite ht

theorem State.Evolves.leads_execRegulatorTuning {inst} (h : r.Evolves s) : r.Leads (execRegulatorTuning inst s) :=
  (h.foldl fun _ _ ht => ht.ite (ht.setB.post.ite (ht.post.ite ht))).foldl fun _ _ => State.Evolves.modBucket

theorem State.Evolves.newBurst {i k} (h : r.Evolves s) : r.Evolves (s.newBurst i k) := by
  unfold State.newBurst
  exact h.setB.modBucket

theorem State.Evolves.fillBucket {i k} (h : r.Evolves s) : r.Evolves (s.fillBucket i k) := h.setB

theorem State.Evolves.fillBuckets (h : r.Evolves s) : r.Evolves (s.fillBuckets ch) :=
  h.foldl fun _ _ ht => ht.foldl fun _ _ => State.Evolves.fillBucket

theorem State.Evolves.leads_execRegCfgWrite {inst src val} (h : r.Evolves s) : r.Leads (execRegCfgWrite inst src val s) := by
  unfold execRegCfgWrite
  split
  · exact h
  · exact h.hostWr fun _ ht => ht.fnWr.newBurst.ite ht.fnWr.newBurst.postReg

theorem State.Evolves.agentUe {who va} (h : r.Evolves s) : r.Evolves (s.agentUe ch who va) := by
  unfold State.agentUe
  split
  · split
    · exact h
    · exact h.entryFault
  · split
    · exact h
    · exact h.scalarFault
  · exact h.winFault.ite h

theorem State.Evolves.leads_execT2CompletionTimeout {who va} (h : r.Evolves s) : r.Leads
    (execT2CompletionTimeout ch who va s) := by
  unfold execT2CompletionTimeout
  refine h.ite ?_
  extract_lets s1
  have h1 : r.Evolves s1 := h.satF.setF.faultUe
  split
  · exact h1
  · exact h1.agentUe

theorem State.Evolves.leads_execNvmeTimeout {who va second cycles} (h : r.Evolves s) : r.Leads
    (execNvmeTimeout ch who va second cycles s) := by
  unfold execNvmeTimeout
  split
  · extract_lets s1
    have h1 : r.Evolves s1 := by
      unfold s1
      split
      · exact h
      · exact h.stalled
    exact h1.agentUe.ite h1
  · exact h

theorem State.Evolves.leads_execTierStall {who cause cycles} (h : r.Evolves s) : r.Leads
    (execTierStall ch who cause cycles s) := by
  unfold execTierStall
  refine h.ite ?_
  split
  · exact h
  · exact h.stalled.ite h
  · exact (h.stalled.ite h).post.ite (h.stalled.ite h)

theorem State.Evolves.pageIn {r'} (h : r.Evolves s) : r.Evolves (s.pageIn ch r') := by
  unfold State.pageIn
  split
  · exact h.vaTouch
  · exact h

theorem State.Evolves.leads_execKvPageMask {page} (h : r.Evolves s) : r.Leads (execKvPageMask ch page s) := by
  unfold execKvPageMask
  split
  · exact h.ite (h.foldl fun _ _ => State.Evolves.pageIn).modQ.satF.satF.post
  · exact h

theorem State.Evolves.copyRow {e x} (h : r.Evolves s) : Gives r.Evolves (s.copyRow ch e x) := by
  unfold State.copyRow
  refine gives_bind fun _ => ?_
  refine h.putCodes.bind fun _ ht => ?_
  split
  · exact gives_bind fun _ => ht.putCodes
  · exact ht

theorem State.Evolves.fillRow {e x} (h : r.Evolves s) : Gives r.Evolves (s.fillRow ch e x) := by
  unfold State.fillRow
  refine h.putCodes.bind fun _ ht => ?_
  split
  · exact ht.putCodes
  · exact ht

theorem State.Evolves.lsPass {e} (h : r.Evolves s) : Gives (fun x => r.Evolves x.1) (s.lsPass ch e) :=
  (gives_tryFold (fun _ _ ht => gives_ite ht.copyRow ht.fillRow) h).bind fun _ ht => ht

theorem State.Evolves.rangePass {e} (h : r.Evolves s) : Gives (fun x => r.Evolves x.1) (s.rangePass ch e) := by
  unfold State.rangePass
  refine gives_bind fun _ => ?_
  extract_lets
  split
  · exact gives_bind fun _ => (h.foldl fun _ _ ht => ht.tcClean.ite ht.tcTouch).tcCount.pair
  · exact gives_bind fun _ => (h.foldl fun _ _ ht => ht.tcClean.ite ht.tcTouch).tcCount.pair

theorem runLs_keeps : runLs.Keeps := ⟨fun h => h, fun h => h, fun h => h.ofTry (gives_ite h.rangePass h.lsPass), fun h => h⟩

theorem State.Evolves.leads_execLsCopy {ls w} (h : r.Evolves s) : r.Leads (execLsCopy ch jc ls w s) :=
  h.issueWide formLsCopy_keeps

theorem State.Evolves.leads_execWriteback {ls w} (h : r.Evolves s) : r.Leads (execWriteback ch jc ls w s) :=
  h.issueWide formLsCopy_keeps

theorem State.Evolves.leads_execPrefetch {ls w} (h : r.Evolves s) : r.Leads (execPrefetch ch jc ls w s) :=
  h.issueWide formLsCopy_keeps

theorem State.Evolves.leads_execLsFill {ls w} (h : r.Evolves s) : r.Leads (execLsFill ch jc ls w s) :=
  h.issueWide formLsFill_keeps

end Sys2Proof.Machine
end

section
/-! SUPPORT. What collectives, convolution and expert dispatch keep. -/

namespace Sys2Proof.Machine

open Sys2Proof

set_option Elab.async false

variable {r s : State} {ch : ChIdx} {jc : JcIdx}

/-! ## Collectives -/

theorem State.Evolves.slotBuf {k v} (h : r.Evolves s) : r.Evolves (s.slotBuf ch k v) := by
  unfold State.slotBuf
  extract_lets was s1
  have h1 : r.Evolves s1 := h.setF.setF.setF
  split
  · exact h1.setF.setF.modSlot
  · refine h1.ite ?_
    split
    · exact h1.post
    · exact h1.setF.modSlot.setF.setF.setF

theorem State.Evolves.slotWrite {k word v} (h : r.Evolves s) : r.Evolves (s.slotWrite ch k word v) := by
  unfold State.slotWrite
  refine h.ite ?_
  split
  · exact h.ite h.postReg
  · split
    · exact h.setF
    · exact h.setF
    · exact h.setF
    · exact h.setF
    · exact h.slotBuf

theorem State.Evolves.leads_execClSlotWrite {slot word val} (h : r.Evolves s) : r.Leads (execClSlotWrite ch slot word val s) :=
  h.chanWr fun _ => State.Evolves.slotWrite

theorem State.Evolves.rawWrite {td t dims off n bs} (h : r.Evolves s) : Gives r.Evolves (s.rawWrite ch td t dims off n bs) := by
  unfold State.rawWrite
  refine (gives_tryFold (fun _ _ => State.Evolves.putCodes) h).bind fun _ ht => ?_
  split
  · exact ht
  · exact gives_tryFold (fun _ _ => State.Evolves.putCodes) ht

theorem State.Evolves.takeSeq {i : Iss} (h : r.Evolves i.s) : Gives (fun x => r.Evolves x.1) i.takeSeq :=
  gives_ite h h.incF.pair

theorem formCl_keeps : formCl.Keeps := fun h => h.takeSeq

theorem formDispatch_keeps : formDispatch.Keeps := fun h => h.takeSeq

theorem formCombine_keeps : formCombine.Keeps := fun h => h.takeSeq

theorem State.Evolves.hold {k kind m} (h : r.Evolves s) : r.Evolves (s.hold ch k kind m) := h.modSlot

theorem State.Evolves.putEntry {e} (h : r.Evolves s) : r.Evolves (s.putEntry ch e) := by
  unfold State.putEntry
  exact h.modQ

theorem State.Evolves.pullEntry {e} (h : r.Evolves s) : r.Evolves (s.pullEntry ch e) := by
  unfold State.pullEntry
  exact h.modQ

theorem State.Evolves.clEnd {e status} (h : r.Evolves s) : r.Evolves (s.clEnd ch e status) := h.pullEntry.finish

theorem State.Evolves.clFault {e x} (h : r.Evolves s) : r.Evolves (s.clFault ch e x) := (h.post.ite h).pullEntry.finish

theorem State.Evolves.clJoin {e} (h : r.Evolves s) : r.Evolves (s.clJoin ch e) := by
  unfold State.clJoin
  extract_lets k c s1 s2
  have h2 : r.Evolves s2 := h.modSlot.foldl fun _ _ => State.Evolves.clSend
  exact h2.clEnd.ite h2

theorem State.Evolves.sendLong {k rank kind seq tree index order data} (h : r.Evolves s) :
    r.Evolves (s.sendLong ch k rank kind seq tree index order data) := h.foldl fun _ _ => State.Evolves.clSend

theorem State.Evolves.clLand {e b i data} (h : r.Evolves s) : Gives (fun x => r.Evolves x.1) (s.clLand ch e b i data) := by
  unfold State.clLand
  extract_lets
  split
  · exact Gives.bind (P := r.Evolves) (gives_tryFold (fun _ _ => State.Evolves.rawWrite) h) fun _ ht => ht.foldl fun _ _ =>
        State.Evolves.sendLong
  · split
    · exact Gives.bind (P := r.Evolves) h.rawWrite fun _ ht => ht.foldl fun _ _ => State.Evolves.sendLong
    · exact Gives.bind (P := r.Evolves) h.rawWrite fun _ ht => ht.foldl fun _ _ => State.Evolves.sendLong

theorem State.Evolves.clScatter {e b i codes} (h : r.Evolves s) : Gives (fun x => r.Evolves x.1) (s.clScatter ch e b i codes) := by
  unfold State.clScatter
  extract_lets k c w at_ part s1
  have h1 : r.Evolves s1 := h.foldl fun _ _ => State.Evolves.sendLong
  exact gives_ite h1.clLand h1

theorem State.Evolves.clUp {e b i} (h : r.Evolves s) : Gives (fun x => r.Evolves x.1) (s.clUp ch e b i) := by
  unfold State.clUp
  extract_lets
  split
  refine gives_ite h ?_
  split
  · refine gives_bind fun _ => ?_
    extract_lets
    split
    · exact h.sendLong.pair
    · exact gives_ite h.countFmt.clScatter h.countFmt.clLand
  · split
    · exact gives_ite (gives_bind fun _ => gives_ite h.clLand h.sendLong.pair) (gives_ite h.clLand h)
    · refine gives_bind fun _ => ?_
      extract_lets
      split
      · exact h.sendLong.pair
      · exact h.clLand

theorem State.Evolves.clBlock {e i} (h : r.Evolves s) : Gives (fun x => r.Evolves x.1) (s.clBlock ch e i) :=
  gives_bind fun _ => gives_ite (h.rawWrite.bind fun _ ht => ht) (h.foldl fun _ _ => State.Evolves.clSend)

theorem State.Evolves.clDowns {e} (h : r.Evolves s) : Gives (fun x => r.Evolves x.1) (s.clDowns ch e) := by
  unfold State.clDowns
  refine gives_ite (gives_tryFold (fun _ _ ht => ?_) h) (gives_tryFold (fun _ _ => State.Evolves.clLand) h)
  exact gives_ite ht (Gives.bind ht.rawWrite fun _ hu => hu)

theorem State.Evolves.clReserve {e} (h : r.Evolves s) : r.Evolves (s.clReserve ch e) := by
  unfold State.clReserve
  refine h.foldl fun _ _ ht => ?_
  split
  · exact ht.reserve
  · exact ht

theorem State.Evolves.clWork {e} (h : r.Evolves s) : Gives (fun x => r.Evolves x.1) (s.clWork ch e) := by
  have hr : r.Evolves (s.clReserve ch e) := h.clReserve
  unfold State.clWork
  dsimp only
  split
  · split
    · exact Gives.bind (P := fun x => r.Evolves x.1) hr.clBlock fun _ ht => State.Evolves.clDowns ht
    · refine Gives.bind (P := fun x => r.Evolves x.1) hr.clUp fun _ ht => ?_
      exact Gives.bind (P := fun x => r.Evolves x.1) (State.Evolves.clUp ht) fun _ hu => State.Evolves.clDowns hu
  · exact h.clDowns

theorem State.Evolves.clPark {e} (h : r.Evolves s) : r.Evolves (s.clPark ch e) := by
  unfold State.clPark
  refine h.putEntry.ite ?_
  split
  · exact h.pullEntry.finish
  · exact h.putEntry.unreserve.settle.ite h.putEntry

theorem State.Evolves.clAct {e r'} (h : r.Evolves s) (h3 : Gives (fun x => r.Evolves x.1) (r')) : r.Evolves (s.clAct ch e r') := by
  unfold State.clAct
  split
  · next _ _ => exact h3.clPark
  · exact h.ite h.clFault

theorem State.Evolves.leads_execClPass (h : r.Evolves s) : r.Leads (execClPass ch s) := by
  unfold execClPass
  split
  · exact h
  · exact (h.clAct h.clWork).ite h

theorem State.Evolves.clStart {e} (h : r.Evolves s) : r.Evolves (s.clStart ch e) := by
  unfold State.clStart
  split
  · exact h.clEnd
  · exact (h.satF.ite h).takeWaits.clFault
  · exact h.clEnd.ite h.takeWaits.draw.pullEntry.modQ

theorem State.Evolves.clFinish (h : r.Evolves s) : r.Evolves (s.clFinish ch) := by
  unfold State.clFinish
  extract_lets s1
  have h1 : r.Evolves s1 := h.foldl fun _ _ ht => ht.clAct ht.clDowns
  split
  · exact h1
  · exact h1.touchOps.overlap.race.pullEntry.finish

theorem State.Evolves.leads_execClReduceAllreduce {w} (h : r.Evolves s) : r.Leads (execClReduceAllreduce ch jc w s) :=
  h.issueWide formCl_keeps

theorem State.Evolves.leads_execReduceScatter {w} (h : r.Evolves s) : r.Leads (execReduceScatter ch jc w s) :=
  h.issueWide formCl_keeps

theorem State.Evolves.leads_execClBcast {w} (h : r.Evolves s) : r.Leads (execClBcast ch jc w s) := h.issueWide formCl_keeps

theorem State.Evolves.leads_execClAllgather {w} (h : r.Evolves s) : r.Leads (execClAllgather ch jc w s) :=
  h.issueWide formCl_keeps

theorem State.Evolves.leads_execClAlltoall {w} (h : r.Evolves s) : r.Leads (execClAlltoall ch jc w s) :=
  h.issueWide formCl_keeps

theorem State.Evolves.clArrive {m kind act} (h : r.Evolves s) (hact : ∀ t x, r.Evolves t → r.Evolves (act t x)) :
    r.Evolves (s.clArrive ch m kind act) := by
  unfold State.clArrive
  extract_lets
  split
  · exact h.takeMsg
  · exact h.takeMsg.ite (hact _ _ h.takeMsg.hold)

theorem State.Evolves.leads_execJoin {m} (h : r.Evolves s) : r.Leads (execJoin ch m s) := by
  unfold execJoin
  refine h.clArrive fun _ _ ht => ?_
  split
  · exact ht.clEnd.ite ht
  · exact ht

theorem State.Evolves.leads_execUp {m} (h : r.Evolves s) : r.Leads (execUp ch m s) := h.clArrive fun _ _ ht => ht

theorem State.Evolves.clLanded {k seq} (h : r.Evolves s) : r.Evolves (s.clLanded ch k seq) := by
  unfold State.clLanded
  split
  · exact (h.clAct h.clDowns).ite h
  · exact h

theorem State.Evolves.leads_execDown {m} (h : r.Evolves s) : r.Leads (execDown ch m s) :=
  h.clArrive fun _ _ => State.Evolves.clLanded

theorem State.Evolves.leads_execBlock {m} (h : r.Evolves s) : r.Leads (execBlock ch m s) :=
  h.clArrive fun _ _ => State.Evolves.clLanded

theorem State.Evolves.inrFail {k cause} (h : r.Evolves s) : r.Evolves (s.inrFail ch k cause) := by
  unfold State.inrFail
  split
  · exact h
  · exact h.modSlot.setF.post

theorem State.Evolves.leads_execAbort {m} (h : r.Evolves s) : r.Leads (execAbort ch m s) := by
  have h0 : r.Evolves (s.takeMsg ch m 0x05) := h.takeMsg
  unfold execAbort State.Leads
  dsimp only
  split
  · exact h0
  · split
    · exact h0.satF.setF.modSlot.inrFail
    · exact h0.satF.setF.modSlot.inrFail.clEnd

theorem State.Evolves.orderOut {e} (h : r.Evolves s) : r.Evolves (s.orderOut ch e) := (h.ite h.clAbort).clEnd

theorem State.Evolves.leads_execOrderTimeout {ex} (h : r.Evolves s) : r.Leads (execOrderTimeout ch ex jc s) := by
  unfold execOrderTimeout
  split
  · exact h
  · refine h.ite ?_
    split
    · exact h.orderOut.ite h.orderOut.orderOut
    · exact h

theorem State.Evolves.leads_execClStall {slot} (h : r.Evolves s) : r.Leads (execClStall ch slot s) := by
  unfold execClStall
  split
  · exact h
  · exact h.clEnd.ite h

theorem State.Evolves.clLost {src vc head} (h : r.Evolves s) : r.Evolves (s.clLost ch src vc head) := by
  unfold State.clLost
  dsimp only
  split
  · exact h
  · refine h.inrFail.ite ?_
    split
    · exact h
    · split
      · exact h.clEnd
      · exact h

theorem State.Evolves.inrDone {k} (h : r.Evolves s) : r.Evolves (s.inrDone ch k) := by
  unfold State.inrDone
  split
  · exact h
  · exact h.ite h.modSlot.setF.post

theorem State.Evolves.inrSend {k rank kind b i data} (h : r.Evolves s) : r.Evolves (s.inrSend ch k rank kind b i data) := by
  unfold State.inrSend
  exact h.sendMsg

theorem State.Evolves.inrLand {k i b j data} (h : r.Evolves s) : r.Evolves (s.inrLand ch k i b j data) := by
  unfold State.inrLand
  extract_lets
  split
  · exact h.ite h.inrFail
  · next _ ht => exact ((h.vaWrite.of_ok ht).modSlot.foldl fun _ _ => State.Evolves.inrSend).inrDone

theorem State.Evolves.inrUp {k b j} (h : r.Evolves s) : r.Evolves (s.inrUp ch k b j) := by
  unfold State.inrUp
  dsimp only
  split
  · exact h
  · refine h.ite ?_
    split
    · exact h.ite h.inrFail
    · split
      · exact h.vaTouch.modSlot.inrSend
      · exact h.vaTouch.modSlot.inrLand

theorem State.Evolves.inrGo {v} (h : r.Evolves s) : r.Evolves (s.inrGo ch v) := by
  unfold State.inrGo
  extract_lets k s1
  have h1 : r.Evolves s1 := h.setF.setF.setF
  refine h1.ite ?_
  split
  · exact h1.postReg
  · exact h1.modSlot.setF.foldl fun _ _ ht => ht.foldl fun _ _ => State.Evolves.inrUp

theorem State.Evolves.leads_execInrGo {val} (h : r.Evolves s) : r.Leads (execInrGo ch val s) :=
  h.chanWr fun _ ht => (ht.wake.ite ht).inrGo

theorem State.Evolves.leads_execReduce {m down} (h : r.Evolves s) : r.Leads (execReduce ch m down s) := by
  unfold execReduce
  extract_lets
  split
  · exact h.takeMsg
  · refine h.takeMsg.ite ?_
    refine h.ite ?_
    split
    · split
      · exact h.takeMsg.inrLand.ite h.takeMsg
      · exact h.takeMsg
    · exact h.takeMsg.hold.inrUp

theorem State.Evolves.leads_execInrFail (h : r.Evolves s) : r.Leads (execInrFail ch s) := by
  unfold execInrFail
  split
  · exact h
  · exact h.inrFail

theorem State.Evolves.inrResume (h : r.Evolves s) : r.Evolves (s.inrResume ch) := by
  unfold State.inrResume
  refine h.foldl fun _ _ ht => ?_
  split
  · exact ht
  · exact ht.foldl fun _ _ hu => hu.foldl fun _ _ => State.Evolves.inrUp

/-! ## Convolution and pooling -/

theorem State.Evolves.convPass {e reruns} (h : r.Evolves s) : Gives (fun x => r.Evolves x.1) (s.convPass ch e reruns) :=
  gives_bind fun _ => gives_bind fun _ => Gives.bind h.epilogue fun _ ht => by
    exact ht.countSpan.passCost (e := e)

theorem runConv_keeps : runConv.Keeps := ⟨fun h => h, fun h => h, fun h => h.ofTry h.convPass, fun h => h.arrayDone⟩

theorem State.Evolves.leads_execMxConv {w} (h : r.Evolves s) : r.Leads (execMxConv ch jc w s) := h.issueWide formConv_keeps

theorem State.Evolves.leads_execAveragePooling {w} (h : r.Evolves s) : r.Leads (execAveragePooling ch jc w s) :=
  h.issueWide formConv_keeps

theorem State.Evolves.leads_execMaximumPooling {w} (h : r.Evolves s) : r.Leads (execMaximumPooling ch jc w s) :=
  h.issueWide formConv_keeps

/-! ## Expert dispatch and combine -/

theorem State.Evolves.leads_execExDispatch {w} (h : r.Evolves s) : r.Leads (execExDispatch ch jc w s) :=
  h.issueWide formDispatch_keeps

theorem State.Evolves.leads_execExCombine {w} (h : r.Evolves s) : r.Leads (execExCombine ch jc w s) :=
  h.issueWide formCombine_keeps

theorem State.Evolves.rowWrite {e t r' bs} (h : r.Evolves s) : Gives r.Evolves (s.rowWrite ch e t r' bs) := h.rawWrite

theorem State.Evolves.homeGrant {e} (h : r.Evolves s) : Gives (fun x => r.Evolves x.1) (s.homeGrant ch e) :=
  (gives_tryFold (fun _ _ => State.Evolves.putCodes) h).bind fun _ ht =>
    (gives_tryFold (fun _ _ => State.Evolves.putCodes) ht).bind fun _ hu => (hu.foldl fun _ _ => State.Evolves.clSend).foldl
    fun _ _ => State.Evolves.clSend

theorem State.Evolves.exAct {e r'} (h : r.Evolves s) (h3 : Gives (fun x => r.Evolves x.1) (r')) : r.Evolves (s.exAct ch e r') := by
  unfold State.exAct
  split
  · next _ _ => exact h3.putEntry
  · exact h.ite h.clFault

theorem State.Evolves.exHome {k seq} (h : r.Evolves s) : r.Evolves (s.exHome ch k seq) := by
  unfold State.exHome
  split
  · exact (h.exAct h.homeGrant).ite h
  · exact h

theorem State.Evolves.dispatchJoin {e} (h : r.Evolves s) : r.Evolves (s.dispatchJoin ch e) := by
  unfold State.dispatchJoin
  split
  · exact h.ite h.clFault
  · exact h.clEnd
  · exact (h.modSlot.foldl fun _ _ => State.Evolves.clSend).exHome

theorem State.Evolves.stage? {e data tk} (h : r.Evolves s) : Gives (fun x => r.Evolves x.1) (s.stage? ch e data tk) :=
  (gives_tryFold (fun _ _ => State.Evolves.rowWrite) h).bind fun _ ht => ht

theorem State.Evolves.combineJoin {e} (h : r.Evolves s) : Gives (fun x => r.Evolves x.1) (s.combineJoin ch e) := by
  unfold State.combineJoin
  refine gives_bind fun _ => Gives.bind (P := r.Evolves) (gives_tryFold (fun _ _ ht => ?_) h.modSlot) fun _ ht => ?_
  · refine gives_ite ht.clSend (gives_tryFold (P := r.Evolves) (fun _ _ hu => ?_) ht)
    refine gives_tryFold (P := r.Evolves) (fun _ _ hv => ?_) hu
    exact gives_bind fun _ => hv.clSend
  · refine gives_tryFold (fun _ _ hu => ?_) ht
    dsimp only
    split
    · exact hu.stage?
    · exact hu

theorem State.Evolves.joinOne {e} (h : r.Evolves s) : r.Evolves (s.joinOne ch e) :=
  h.clJoin.ite (h.dispatchJoin.ite (h.exAct h.combineJoin))

theorem State.Evolves.joinAll {eng} (h : r.Evolves s) : r.Evolves (s.joinAll ch eng) := h.foldl fun _ _ ht => ht.joinOne.ite ht

theorem State.Evolves.exSubst {e ex} (h : r.Evolves s) : r.Evolves (s.exSubst ch e ex) := h.satF.satF.post

theorem State.Evolves.exSend {e rs home} (h : r.Evolves s) : Gives r.Evolves (s.exSend ch e rs home) := by
  unfold State.exSend
  refine gives_tryFold (P := r.Evolves) (fun _ _ ht => Gives.bind (P := r.Evolves) (gives_tryFold (fun _ _ hu => ?_) ht)
      fun _ hu => ?_) h
  · exact Gives.bind hu.putCodes fun _ hv => hv.satF.ite (hv.exSubst.ite hv)
  · refine gives_tryFold (P := r.Evolves) (fun _ _ hv => ?_) hu
    exact gives_bind fun _ => hv.clSend

theorem State.Evolves.exSource {e} (h : r.Evolves s) : Gives (fun x => r.Evolves x.1) (s.exSource ch e) := by
  unfold State.exSource
  refine gives_bind fun _ => ?_
  split
  · trivial
  · exact (gives_tryFold (fun _ _ => State.Evolves.putCodes) h).bind fun _ ht =>
        (gives_tryFold (fun _ _ => State.Evolves.exSend) ht).bind fun _ hu => hu

theorem State.Evolves.combineRow {e t} (h : r.Evolves s) : Gives r.Evolves (s.combineRow ch e t) :=
  gives_bind fun _ => gives_bind fun _ => gives_bind fun _ => h.putCodes.bind fun _ ht => ht.countFmt

theorem State.Evolves.exEnd {e} (h : r.Evolves s) : r.Evolves (s.exEnd ch e) := h.touchOps.race.pullEntry.finish

theorem State.Evolves.exStep {last} (h : r.Evolves s) : r.Evolves (s.exStep ch last) := by
  unfold State.exStep
  split
  · exact h
  · split
    · extract_lets s1
      have h1 : r.Evolves s1 := (h.exAct h.exSource).ite h
      split
      · exact h1
      · exact h1.exEnd.ite h1
    · refine h.ite ?_
      split
      · exact h.ite h.clFault
      · refine h.ite ?_
        split
        · exact h.ite h.clFault
        · next _ ht => exact ((gives_tryFold (fun _ _ => State.Evolves.combineRow) h).of_ok ht).exEnd

theorem State.Evolves.exReserve {e} (h : r.Evolves s) : r.Evolves (s.exReserve ch e) := by
  unfold State.exReserve
  split
  · refine h.foldl fun _ _ ht => ?_
    split
    · exact ht.ite ht.reserve
    · exact ht
  · exact h

theorem State.Evolves.exStart {e} (h : r.Evolves s) : r.Evolves (s.exStart ch e) := by
  unfold State.exStart
  split
  · exact h.clEnd
  · exact (h.satF.ite h).takeWaits.clFault
  · exact h.takeWaits.exReserve.draw.pullEntry.modQ

theorem State.Evolves.leads_execCount {m tk} (h : r.Evolves s) : r.Leads (execCount ch m tk s) :=
  h.clArrive fun _ _ ht => ht.hold.exHome

theorem State.Evolves.leads_execGrant {m} (h : r.Evolves s) : r.Leads (execGrant ch m s) := h.clArrive fun _ _ ht => ht

theorem State.Evolves.leads_execDone {m} (h : r.Evolves s) : r.Leads (execDone ch m s) := h.clArrive fun _ _ ht => ht

theorem State.Evolves.homeRows {e r' m} (h : r.Evolves s) : Gives (fun x => r.Evolves x.1) (s.homeRows ch e r' m) :=
  (gives_tryFold (fun _ _ => State.Evolves.rowWrite) h).bind fun _ ht => ht.clSend.ite ht

theorem State.Evolves.leads_execRows {m} (h : r.Evolves s) : r.Leads (execRows ch m s) := by
  unfold execRows
  refine h.clArrive fun _ _ ht => ?_
  split
  · exact (h.ite (ht.exAct ht.homeRows)).ite ht
  · exact ht

theorem State.Evolves.leads_execRet {m tk} (h : r.Evolves s) : r.Leads (execRet ch m tk s) := by
  unfold execRet
  extract_lets
  refine h.clArrive fun _ _ ht => ?_
  extract_lets
  split
  · exact (h.ite (ht.hold.exAct ht.hold.stage?)).ite ht.hold
  · exact ht.hold

theorem State.Evolves.exResume (h : r.Evolves s) : r.Evolves (s.exResume ch) := by
  unfold State.exResume
  refine h.foldl fun _ _ ht => ?_
  split
  · exact ht.exHome.ite ht
  · exact ht

theorem State.Evolves.leads_execT2LinkFail {recovered} (h : r.Evolves s) : r.Leads (execT2LinkFail ch recovered s) :=
  h.ite (h.setF.inrResume.exResume.ite h.satF.setF)

end Sys2Proof.Machine
end

section
/-! SUPPORT. What power states, the fabric and the gather path keep. -/

namespace Sys2Proof.Machine

open Sys2Proof

set_option Elab.async false

variable {r s : State} {ch : ChIdx} {jc : JcIdx}

/-! ## Power states and limits -/

theorem State.Evolves.timer {at_ ok} (h : r.Evolves s) : r.Evolves (s.timer ch at_ ok) :=
  h.ite (h.post.ite (h.post.pwrBegin.ite h))

theorem State.Evolves.leads_execIdleT (h : r.Evolves s) : r.Leads (execIdleT ch s) := h.timer

theorem State.Evolves.leads_execSleepT (h : r.Evolves s) : r.Leads (execSleepT ch s) := h.timer

theorem State.Evolves.leads_execDeepT (h : r.Evolves s) : r.Leads (execDeepT ch s) := h.timer

theorem State.Evolves.trainAll (h : r.Evolves s) : r.Evolves (s.trainAll ch) := h.foldl fun _ _ ht => ht.ite ht.modLink.setF

theorem State.Evolves.pwrEnter {st} (h : r.Evolves s) : r.Evolves (s.pwrEnter ch st) :=
  h.modPwr.allDown.t2Dark.ringsLocked.ite h.modPwr

theorem State.Evolves.leads_execPowerEntryDone (h : r.Evolves s) : r.Leads (execPowerEntryDone ch s) := by
  unfold execPowerEntryDone
  dsimp only
  split
  · refine State.leads_ite h (State.Evolves.lehrNext ?_)
    split
    · exact h.pwrEnter.modPwr.exitBegin.modPwr.ite h.pwrEnter.modPwr.exitBegin
    · exact h.pwrEnter.modPwr.pwrShow.ite h.pwrEnter.modPwr.pwrBegin
  · exact h

theorem State.Evolves.leads_execPowerExitDone (h : r.Evolves s) : r.Leads (execPowerExitDone ch s) := by
  unfold execPowerExitDone
  extract_lets p s1 s2 s3 s4
  have h2 : r.Evolves s2 := h.modPwr.pwrShow.setF.satF
  have h3 : r.Evolves s3 := h2.ringsLocked.ite h2
  have h4 : r.Evolves s4 := h3.trainAll.ite h3
  split
  · exact State.leads_ite h (h4.ite h4.pwrBegin).lehrNext
  · exact h

theorem State.Evolves.leads_execPwrWake {code} (h : r.Evolves s) : r.Leads (execPwrWake ch code s) := h.ite h.wake

theorem State.Evolves.pwrTo {t} (h : r.Evolves s) : r.Evolves (s.pwrTo ch t) := by
  unfold State.pwrTo
  extract_lets
  split
  · refine h.postReg.ite ?_
    split
    · exact h.pwrBegin
    · exact h.modPwr
    · exact h.modPwr
  · split
    · exact h.ite h.wake.modPwr
    · exact (h.ite h.wake).modPwr
    · exact h.modPwr

theorem State.Evolves.leads_execPwrCmd {val} (h : r.Evolves s) : r.Leads (execPwrCmd ch val s) :=
  h.chanWr fun _ ht => ht.setF.ite (ht.setF.wake.modPwr.ite ht.setF.pwrTo)

theorem State.Evolves.leads_execGafferReset {gaf} (h : r.Evolves s) : r.Leads (execGafferReset gaf s) := h.gafferGone

theorem State.Evolves.leads_execGafferReturn {gaf} (h : r.Evolves s) : r.Leads (execGafferReturn gaf s) := by
  unfold execGafferReturn
  extract_lets s1 half s2 mine wakes s3
  have h1 : r.Evolves s1 := by
    unfold s1
    split
    · exact h.modP
    · exact h.modP
  exact h1.lehrNext.modP.foldl fun _ _ => State.Evolves.wake

theorem State.Evolves.leads_execCurrentSum {ma mv} (h : r.Evolves s) : r.Leads (execCurrentSum ma mv s) :=
  (h.eachC fun _ _ ht => ht.satF.ite ht).modP

theorem State.Evolves.leads_execCapCreditUpdate {draw} (h : r.Evolves s) : r.Leads (execCapCreditUpdate ch draw s) := by
  unfold execCapCreditUpdate
  extract_lets
  split
  · exact (h.satF.ite h).modPwr
  · exact (h.satF.ite h).modPwr

theorem State.Evolves.thermPin (h : r.Evolves s) : r.Evolves (s.thermPin) := by
  unfold State.thermPin
  exact h.modP

theorem State.Evolves.leads_execThermHold {tj} (h : r.Evolves s) : r.Leads (execThermHold ch tj s) :=
  State.leads_ite h h.setF.setF.satF.modPwr.post.thermPin

theorem State.Evolves.leads_execThermHoldRelease {tj} (h : r.Evolves s) : r.Leads (execThermHoldRelease ch tj s) :=
  State.leads_ite h h.setF.setF.modPwr.thermPin

/-! ## The fabric -/

theorem State.Evolves.setFailed {g w v} (h : r.Evolves s) : r.Evolves (s.setFailed ch g w v) := h.setF

theorem State.Evolves.setActive {g w v} (h : r.Evolves s) : r.Evolves (s.setActive ch g w v) := h.setF

theorem State.Evolves.postSpare {g w} (h : r.Evolves s) : r.Evolves (s.postSpare ch g w) := by
  unfold State.postSpare
  split
  · exact h.post
  · exact h.post

theorem State.Evolves.t2Half (h : r.Evolves s) : r.Evolves (s.t2Half ch) := by
  refine h.ite ?_
  split
  · exact h.satF.memSlotsOff.setF
  · exact h.satF.memSlotsOff.setF.ite h.satF.memSlotsOff.setF.faultUe

theorem State.Evolves.lit {f} (h : r.Evolves s) (hf : ∀ t, r.Evolves t → r.Evolves (f t)) : r.Evolves (s.lit ch f) :=
  (hf _ h).ite h

theorem State.Evolves.slotFail {g w} (h : r.Evolves s) : r.Evolves (s.slotFail ch g w) := by
  have h1 : r.Evolves ((s.setFailed ch g w 1).setActive ch g w 0) := h.setFailed.setActive
  have h2 : r.Evolves (((s.setFailed ch g w 1).setActive ch g w 0).postSpare ch g w) := h1.postSpare
  unfold State.slotFail
  dsimp only
  refine h.ite ((h2.ite ?_).ite (h1.ite (h2.modFab.ite ?_)))
  · split
    · exact h2.linkDown
    · exact h2.t2Half
  · split
    · exact h1.linkDown
    · exact h1.t2Half

theorem State.Evolves.leads_execSpareSwitch {grp} (h : r.Evolves s) : r.Leads (execSpareSwitch ch grp s) := by
  unfold execSpareSwitch
  split
  · exact h
  · extract_lets s1 s2
    have h1 : r.Evolves s1 := h.modFab.setActive
    have h2 : r.Evolves s2 := by
      unfold s2
      split
      · exact h1.setF.setF.sendTicks
      · exact h1
    exact h2.faultCe

theorem State.Evolves.leads_execLaneFail {lane ber} (h : r.Evolves s) : r.Leads (execLaneFail ch lane ber s) :=
  h.lit fun _ ht => ht.setF.slotFail

theorem State.Evolves.laserLow {las slot power} (h : r.Evolves s) : r.Evolves (s.laserLow ch las slot power) := by
  unfold State.laserLow
  extract_lets
  split
  · exact h.setF
  · exact h.setF.setF.ite h.setF.setF.modFab.post

theorem State.Evolves.leads_execLaserLow {las slot power} (h : r.Evolves s) : r.Leads (execLaserLow ch las slot power s) :=
  h.lit fun _ => State.Evolves.laserLow

theorem State.Evolves.leads_execLaserLost {las slot power} (h : r.Evolves s) : r.Leads (execLaserLost ch las slot power s) :=
  h.lit fun _ ht => ht.laserLow.ite (ht.laserLow.setF.foldl fun _ _ hu => hu.ite hu.slotFail)

theorem State.Evolves.leads_execLaserReturn {las slot power peak} (h : r.Evolves s) : r.Leads
    (execLaserReturn ch las slot power peak s) := by
  unfold execLaserReturn
  refine h.lit fun _ ht => ?_
  extract_lets i n low s1 s2 s3
  have h2 : r.Evolves s2 := ht.setF.ite ht.setF.setF
  have h3 : r.Evolves s3 := h2.ite h2.setF
  exact h3.ite h3.modFab

theorem State.Evolves.leads_execRingLoop {lane rx code temp slew advise} (h : r.Evolves s) : r.Leads
    (execRingLoop ch lane rx code temp slew advise s) := by
  unfold execRingLoop
  refine h.lit fun _ ht => ?_
  refine ht.ite ?_
  refine ht.setF.setF.setF.ite ?_
  split
  · exact ht.setF.setF.setF.post.ite ht.setF.setF.setF
  · exact ht.setF.setF.post.ite ht.setF.setF

theorem State.Evolves.leads_execRingLockLost {lane rx} (h : r.Evolves s) : r.Leads (execRingLockLost ch lane rx s) :=
  h.lit fun _ ht => ht.ite ht.setF.satF.post.slotFail

theorem State.Evolves.leads_execFabRingMan {val} (h : r.Evolves s) : r.Leads (execFabRingMan ch val s) := by
  unfold execFabRingMan
  refine h.chanWr fun t ht => ?_
  extract_lets v lane s1 s2
  have h1 : r.Evolves s1 := ht.wake.ite ht
  have h2 : r.Evolves s2 := h1.setF.setF.setF
  split
  exact h1.postReg.ite (h2.setF.ite h2)

theorem State.Evolves.leads_execControlCodeword {lane count stamp corr ber ann} (h : r.Evolves s) : r.Leads
    (execControlCodeword ch lane count stamp corr ber ann s) := by
  unfold execControlCodeword
  refine State.leads_ite h ?_
  extract_lets s1 s2
  have h2 : r.Evolves s2 := by
    unfold s2
    split
    · exact h.setF
    · exact h.setF.modLink.satF
  split
  · exact h2
  · exact h2.ite h2.setFailed.setActive.modFab

theorem State.Evolves.askResend {p} (h : r.Evolves s) : r.Evolves (s.askResend ch p) := h.ite h.modLink.idle

theorem State.Evolves.leads_execUncorrectableCodeword {lane} (h : r.Evolves s) : r.Leads
    (execUncorrectableCodeword ch lane s) := by
  unfold execUncorrectableCodeword
  split
  split
  · exact h
  · exact h.satF.askResend.ite h

theorem State.Evolves.linkFields {p c} (h : r.Evolves s) : r.Evolves (s.linkFields ch p c) := by
  unfold State.linkFields
  extract_lets left s1 s2 s3
  have h1 : r.Evolves s1 := h.modLink
  have h2 : r.Evolves s2 := h1.closeGroup.ite h1
  have h3 : r.Evolves s3 := h2.satF.modLink
  exact h2.ite (h3.linkDown.ite h3)

theorem State.Evolves.takeCell {p c} (h : r.Evolves s) : r.Evolves (s.takeCell ch p c) := h.linkFields.ite h.linkFields.forward

theorem State.Evolves.closeRx {p c macOk} (h : r.Evolves s) : r.Evolves (s.closeRx ch p c macOk) :=
  (h.modLink.foldl fun _ _ => State.Evolves.takeCell).ite h.satF.post.linkDown

theorem State.Evolves.sequenced {p c macOk} (h : r.Evolves s) : r.Evolves (s.sequenced ch p c macOk) := by
  unfold State.sequenced
  extract_lets l n s1
  have h1 : r.Evolves s1 := h.modLink
  exact (h.ite h.askResend).ite ((h1.closeRx.ite h1.modLink).ite h1.modLink.takeCell)

theorem State.Evolves.leads_execCellReceive {link c macOk} (h : r.Evolves s) : r.Leads (execCellReceive ch link c macOk s) := by
  unfold execCellReceive
  refine h.ite ?_
  split
  · exact h.linkFields
  · exact h.linkFields
  · exact h.sequenced
  · exact h.sequenced
  · exact h.sequenced
  · exact h.sequenced
  · exact h.sequenced
  · exact h.satF

theorem State.Evolves.leads_execFabMsgLost {src vc msg} (h : r.Evolves s) : r.Leads (execFabMsgLost ch src vc msg s) := by
  unfold execFabMsgLost
  extract_lets
  split
  · exact h
  · exact h.modFab.satF.post.clLost

theorem State.Evolves.leads_execFabVcStall {link vc} (h : r.Evolves s) : r.Leads (execFabVcStall ch link vc s) := h.post.ite h

theorem State.Evolves.leads_execVcWeightTuning {link} (h : r.Evolves s) : r.Leads (execVcWeightTuning ch link s) := by
  unfold execVcWeightTuning
  extract_lets new set arg t s1 s2
  have ht : r.Evolves t := h.foldl fun _ _ => State.Evolves.setF
  have h1 : r.Evolves s1 := (h.ite ht.post).ite (h.post.ite h)
  exact (h1.modFab.ite h1).modLink

theorem State.Evolves.leads_execMacGroupClose {link} (h : r.Evolves s) : r.Leads (execMacGroupClose ch link s) :=
  h.closeGroup.ite h

theorem State.Evolves.leads_execKeyRenewal {link} (h : r.Evolves s) : r.Leads (execKeyRenewal ch link s) := h.modLink.ite h

theorem State.Evolves.trainFail {p} (h : r.Evolves s) : r.Evolves (s.trainFail ch p) := h.setF

theorem State.Evolves.setHeat {lane rx sum} (h : r.Evolves s) : r.Evolves (s.setHeat ch lane rx sum) := h.setF.post.ite h.setF

theorem State.Evolves.lockRing {lane rx} (h : r.Evolves s) : r.Evolves (s.lockRing ch lane rx) := h.setF

theorem State.Evolves.sweepRing {cal lane rx} (h : r.Evolves s) : r.Evolves (s.sweepRing ch cal lane rx) := h.setHeat.lockRing

theorem State.Evolves.relockRing {cal lane rx} (h : r.Evolves s) : r.Evolves (s.relockRing ch cal lane rx) :=
  (h.ite h.setHeat).lockRing

theorem State.Evolves.ringLock {cal} (h : r.Evolves s) : r.Evolves (s.ringLock ch cal) := by
  unfold State.ringLock
  exact (h.foldl fun _ _ ht => ht.sweepRing.sweepRing).modFab

theorem State.Evolves.relock {cal lanes} (h : r.Evolves s) : r.Evolves (s.relock ch cal lanes) := by
  unfold State.relock
  exact (h.foldl fun _ _ ht => ht.relockRing.relockRing).modFab

theorem State.Evolves.trainSlots {p bad} (h : r.Evolves s) : r.Evolves (s.trainSlots ch p bad).1 := by
  unfold State.trainSlots
  split
  extract_lets isBad spareUsed s1 s2
  have h1 : r.Evolves s1 := h.foldl fun _ _ => State.Evolves.setFailed
  have h2 : r.Evolves s2 := h1.ite h1.setFailed
  split
  · exact h2
  · exact h2
  · exact h2

theorem State.Evolves.t2Train {cal measured} (h : r.Evolves s) : r.Evolves (s.t2Train ch cal measured) := by
  unfold State.t2Train
  extract_lets isBad bad moved s1 s2
  have h2 : r.Evolves s2 := (h.foldl fun _ _ ht => ht.setFailed.setActive).relock.setF
  exact h2.ite h2.t2Half

theorem State.Evolves.t2Link {t} (h : r.Evolves s) : r.Evolves (s.t2Link ch t) := by
  unfold State.t2Link
  split
  · exact h
  · exact h.setF.ite h.setF.setF.t2Train.inrResume.exResume

theorem State.Evolves.linkUpNow {p t spare} (h : r.Evolves s) : r.Evolves (s.linkUpNow ch p t spare) := by
  unfold State.linkUpNow
  exact (h.foldl fun _ _ => State.Evolves.setActive).relock.setF.setF.setF.setF.setF.modLink.post.forwardHeld

theorem State.Evolves.leads_execLinkTraining {link t} (h : r.Evolves s) : r.Leads (execLinkTraining ch link t s) := by
  unfold execLinkTraining
  split
  · exact h.t2Link
  · refine h.ite ?_
    refine h.trainFail.ite ?_
    split
    next _ _ ht =>
    have ht' := h.trainSlots.fst ht
    split
    · exact ht'.setF.setF.setF.post.ite ht'.setF.setF.linkUpNow
    · exact ht'.trainFail

theorem State.Evolves.leads_execLinkTrainingRetry {link} (h : r.Evolves s) : r.Leads (execLinkTrainingRetry ch link s) :=
  h.setF.ite h

theorem State.Evolves.leads_execLinkDelayMeasure {link delay} (h : r.Evolves s) : r.Leads
    (execLinkDelayMeasure ch link delay s) := h.setF.ite h

theorem State.Evolves.leads_execLossOfLight {link} (h : r.Evolves s) : r.Leads (execLossOfLight ch link s) := h.linkDown

theorem State.Evolves.leads_execFabLinkDown {link} (h : r.Evolves s) : r.Leads (execFabLinkDown ch link s) := h.linkDown

theorem State.Evolves.leads_execLinkDarkEnd {link} (h : r.Evolves s) : r.Leads (execLinkDarkEnd ch link s) :=
  h.ite (h.modLink.setF.ite h.modLink)

theorem State.Evolves.tickMaster (h : r.Evolves s) : r.Evolves (s.tickMaster) :=
  h.ite (h.eachC fun _ _ ht => ht.tickKids.ite ht)

theorem State.Evolves.leads_execTickMessage {link cell err} (h : r.Evolves s) : r.Leads (execTickMessage ch link cell err s) := by
  unfold execTickMessage
  split
  · exact h
  · extract_lets
    split
    · exact h
    · exact h.tickKids.ite (h.tickKids.tickAccept.modP.ite h.tickKids.tickAccept)

/-! ## The gather path -/

theorem State.Evolves.leads_execBatch {w} (h : r.Evolves s) : r.Leads (execBatch ch jc w s) := h.issueWide formGather_keeps

theorem State.Evolves.leads_execLive {w} (h : r.Evolves s) : r.Leads (execLive ch jc w s) := h.issueWide formGather_keeps

theorem State.Evolves.gtStart {e} (h : r.Evolves s) : Gives (fun x => r.Evolves x.1) (s.gtStart ch e) :=
  gives_bind fun _ => gives_bind fun _ => h

theorem State.Evolves.gtOutcome {e i out p} (h : r.Evolves s) : Gives r.Evolves (s.gtOutcome ch e i out p) :=
  gives_ite h h.putCodes

theorem State.Evolves.gtCount {out} (h : r.Evolves s) : r.Evolves (s.gtCount ch out) :=
  h.satF.ite (h.satF.ite (h.satF.ite (h.satF.ite h)))

theorem State.Evolves.gtReplaced {out stream i} (h : r.Evolves s) : r.Evolves (s.gtReplaced ch out stream i) := h.post

theorem State.Evolves.gtReplace {e out stream i} (h : r.Evolves s) : r.Evolves (s.gtReplace ch e out stream i).1 := by
  unfold State.gtReplace
  exact h.gtCount.gtReplaced

theorem State.Evolves.gtPut {e p pos xs} (h : r.Evolves s) : Gives r.Evolves (s.gtPut ch e p pos xs) :=
  (gives_tryFold (fun _ _ => State.Evolves.putCodes) h).bind fun _ ht => ht.putCodes

theorem State.Evolves.gtBatchOne {e g i} (h : r.Evolves s) : Gives (fun x => r.Evolves x.1) (s.gtBatchOne ch e g i) := by
  unfold State.gtBatchOne
  split
  · split
    · exact h
    · split
      · exact h.gtOutcome.bind fun _ ht => ht
      · refine gives_bind fun _ => ?_
        split
        · exact h.gtPut.bind fun _ ht => ht.gtOutcome.bind fun _ hu => hu.countFmt.incF
        · exact gives_bind fun _ => h.gtPut.bind fun _ ht => ht.gtOutcome.bind fun _ hu => hu.gtReplace
  · exact h

theorem State.Evolves.gtLiveOne {e g i} (h : r.Evolves s) : Gives (fun x => r.Evolves x.1) (s.gtLiveOne ch e g i) := by
  unfold State.gtLiveOne
  split
  · exact h
  · split
    · exact h
    · exact gives_bind fun _ => h

theorem State.Evolves.gtLiveSubst {e x p} (h : r.Evolves s) : Gives r.Evolves (s.gtLiveSubst ch e x p) :=
  gives_ite (gives_bind fun _ => h.gtPut) (gives_bind fun _ => h.gtPut)

theorem State.Evolves.gtStreamRow {e g x p c} (h : r.Evolves s) : Gives (fun x => r.Evolves x.1) (s.gtStreamRow ch e g x p c) := by
  unfold State.gtStreamRow
  split
  · exact Gives.bind (P := r.Evolves) (gives_tryFold (fun _ _ => State.Evolves.gtOutcome) h) fun _ ht => ht
  · split
    · refine Gives.bind (P := r.Evolves) h.gtLiveSubst fun _ ht => ?_
      extract_lets s1
      have h1 : r.Evolves s1 := ht.gtCount.gtReplaced
      split
      · exact h1
      · exact Gives.bind (P := r.Evolves) h1.gtOutcome fun _ hu => hu
    · split
      · refine gives_bind fun _ => ?_
        extract_lets
        split
        · exact gives_bind fun _ => gives_bind fun _ => Gives.bind (P := r.Evolves) h.gtPut fun _ ht => Gives.bind
              (P := r.Evolves) (gives_tryFold (fun _ _ => State.Evolves.gtOutcome) ht) fun _ hu => hu.countFmt.incF.pair
        · exact gives_bind fun _ => Gives.bind (P := r.Evolves) h.gtPut fun _ ht => Gives.bind (P := r.Evolves)
              (gives_tryFold (fun _ _ => State.Evolves.gtOutcome) ht) fun _ hu => hu.countFmt.incF.pair
      · exact Gives.bind (P := r.Evolves) h.gtLiveSubst fun _ ht => Gives.bind (P := r.Evolves)
            (gives_tryFold (fun _ _ => State.Evolves.gtOutcome) ht) fun _ hu => Gives.bind (P := r.Evolves)
            (gives_tryFold (fun _ _ => State.Evolves.gtOutcome) hu) fun _ hv =>
            (hv.foldl₁ fun _ _ => State.Evolves.gtReplace).pair

theorem State.Evolves.gtLiveRow {e g} (h : r.Evolves s) : Gives (fun x => r.Evolves x.1) (s.gtLiveRow ch e g) := by
  unfold State.gtLiveRow
  refine gives_bind fun _ => Gives.bind (P := fun x => r.Evolves x.1) (gives_tryFold (fun _ _ => State.Evolves.gtLiveOne) h)
      fun _ ht => Gives.bind (P := fun x => r.Evolves x.1) (gives_tryFold (fun _ _ => State.Evolves.gtStreamRow) ht) fun _ hu =>
      ?_
  refine gives_tryFold (fun _ _ hv => gives_ite hv ?_) hu
  exact Gives.bind hv.gtOutcome fun _ hw => hw.gtCount

theorem State.Evolves.gtDeal (h : r.Evolves s) : r.Evolves (s.gtDeal ch) := by
  unfold State.gtDeal
  split
  · exact h.modC
  · exact h.modC.ite h.modC

theorem State.Evolves.laneEnd {lane slow} (h : r.Evolves s) : r.Evolves (s.laneEnd ch lane slow) := by
  unfold State.laneEnd
  split
  · refine h.ite ?_
    extract_lets x
    have hx : Gives (fun o => ∀ y ∈ o, r.Evolves y.1) x := by
      have hn : Gives (ε := XErr) (fun o : Option (State × Entry) => ∀ y ∈ o, r.Evolves y.1) (.ok none) :=
          fun _ hy => absurd hy (Option.not_mem_none _)
      refine gives_bind fun _ => ?_
      split
      · exact hn
      · split
        · exact hn
        · refine gives_bind fun _ => gives_ite hn (gives_map (Gives.imp (P := fun x => r.Evolves x.1) ?_ ?_))
          · exact fun _ ha _ hy => Option.mem_some_iff.1 hy ▸ ha
          · exact gives_ite h.gtLiveOne h.gtBatchOne
    clear_value x
    split
    · exact h
    · exact (hx _ rfl).putEntry.gtDeal
    · exact h.ite h.entryFault.gtDeal
  · exact h

theorem State.Evolves.leads_execRecordDecodeDone {lane} (h : r.Evolves s) : r.Leads (execRecordDecodeDone ch lane s) :=
  h.laneEnd

theorem State.Evolves.leads_execSlowRecord {lane} (h : r.Evolves s) : r.Leads (execSlowRecord ch lane s) := h.laneEnd

theorem State.Evolves.gtPad {e g} (h : r.Evolves s) : Gives (fun x => r.Evolves x.1) (s.gtPad ch e g) :=
  (gives_tryFold (fun _ _ ht => gives_tryFold (fun _ _ hu => hu.putCodes.bind fun _ hv => hv.putCodes) ht) h).bind fun _ ht =>
    ht

theorem State.Evolves.gtClose {e g qtc x} (h : r.Evolves s) : Gives r.Evolves (s.gtClose ch e g qtc x) := by
  unfold State.gtClose
  extract_lets
  split
  · split
    · exact Gives.bind (P := r.Evolves) h fun _ ht => Gives.bind (P := r.Evolves) ht.putCodes fun _ hu => hu.putCodes
    · exact gives_bind fun _ => Gives.bind (P := r.Evolves) h.putCodes fun _ ht => Gives.bind (P := r.Evolves) ht.putCodes
          fun _ hu => Gives.bind (P := r.Evolves) hu.putCodes fun _ hv => hv.putCodes
  · exact Gives.bind (P := r.Evolves) h fun _ ht => Gives.bind (P := r.Evolves) ht.putCodes fun _ hu => hu.putCodes

theorem State.Evolves.gtPass {e last} (h : r.Evolves s) : Gives (fun x => r.Evolves x.1) (s.gtPass ch e last) := by
  unfold State.gtPass
  refine gives_bind fun _ => ?_
  split
  · exact h.gtLiveRow.bind fun _ ht => gives_ite ht (ht.gtPad.bind fun _ hu => gives_bind fun _ =>
      (gives_tryFold (fun _ _ => State.Evolves.gtClose) hu).bind fun _ hv => hv)
  · have rows {f} (hf : ∀ a x, r.Evolves a.1 → Gives (fun y => r.Evolves y.1) (f a x)) {l : List Nat} {e : Entry} :
        Gives (fun x : State × Entry => r.Evolves x.1) (tryFold f (s, e) l) := gives_tryFold hf h
    refine (rows fun _ _ ht => ?_).bind fun _ ht => gives_ite ht (State.Evolves.gtPad ht |>.bind fun _ hu => gives_bind fun _ =>
      (gives_tryFold (fun _ _ => State.Evolves.gtClose) hu).bind fun _ hv => hv)
    exact gives_ite ht (State.Evolves.gtBatchOne ht)

theorem State.Evolves.gtDone {e} (h : r.Evolves s) : r.Evolves (s.gtDone ch e).1 := by
  unfold State.gtDone
  split
  · exact h
  · extract_lets s1 d held s2 near
    have h1 : r.Evolves s1 := by
      unfold s1
      refine h.foldl fun _ _ ht => ?_
      split
      · exact ht.vaTouch
      · exact ht
    exact h1.overlap.ite h1.overlap.blur

theorem State.Evolves.leads_execGtBusyUpdate {busy} (h : r.Evolves s) : r.Leads (execGtBusyUpdate ch busy s) :=
  h.setF.ite (h.setF.post.ite h.setF.setF.post)

theorem State.Evolves.leads_execGtSplitWrite {val} (h : r.Evolves s) : r.Leads (execGtSplitWrite ch val s) :=
  h.chanWr fun _ ht => ht.postReg.ite ht.setF.setF

theorem runGather_keeps : runGather.Keeps where
  start := fun h => State.Evolves.gtStart h
  before := fun h => h
  pass := fun h => State.Evolves.ite₁ h (State.Evolves.ofTry h (State.Evolves.gtPass h))
  done := fun h => State.Evolves.gtDone h

end Sys2Proof.Machine
end

section
/-! SUPPORT. What engine queues, alarms, resets, mould images, supplies and ports keep. -/

namespace Sys2Proof.Machine

open Sys2Proof

set_option Elab.async false

variable {r s : State} {ch : ChIdx} {jc : JcIdx}

/-! ## The engine queues -/

theorem formLookup_keeps {mode} : (formLookup mode).Keeps := by
  unfold formLookup
  split
  · exact formRead_keeps
  · split
    · exact formReserve_keeps
    · split
      · exact formCommit_keeps
      · exact formInfo_keeps

theorem formOf_keeps {w} : (formOf w).Keeps := by
  unfold formOf
  split
  · exact formGemm_keeps
  · exact formGemv_keeps
  · exact formConv_keeps
  · exact formAt_keeps
  · exact formMap_keeps
  · exact formReduce_keeps
  · exact formSample_keeps
  · exact formFork_keeps
  · exact formPrune_keeps
  · exact formLookup_keeps
  · exact formPin_keeps
  · exact formRc_keeps
  · exact formExport_keeps
  · exact formImport_keeps
  · exact formRc_keeps
  · exact formCl_keeps
  · exact formDispatch_keeps
  · exact formCombine_keeps
  · exact formGather_keeps
  · exact formLsCopy_keeps
  · exact formLsFill_keeps

theorem runOf_keeps {w} : (runOf w).Keeps := by
  unfold runOf
  split
  · exact runGemm_keeps
  · exact runGemm_keeps
  · exact runConv_keeps
  · exact runAt_keeps
  · exact runMap_keeps
  · exact runReduce_keeps
  · exact runSample_keeps
  · exact runFt_keeps
  · exact runExport_keeps
  · exact runImport_keeps
  · exact runRc_keeps
  · exact onePass_keeps fun h => h
  · exact onePass_keeps fun h => h
  · exact runGather_keeps
  · exact runLs_keeps

theorem State.Evolves.leads_execWideRetry (h : r.Evolves s) : r.Leads (execWideRetry ch jc s) := (h.attempt formOf_keeps).ite h

theorem State.Evolves.resumeEntry {e b2b} (h : r.Evolves s) : r.Evolves (s.resumeEntry ch e b2b) := by
  unfold State.resumeEntry
  extract_lets
  split
  · exact h.pullEntry.modQ.entryFault
  · split
    next _ _ ht =>
    have ht' := h.pullEntry.draw.snd ht
    exact ht'.takeArray.modQ.ite ht'.takeArray.startPass.modQ

theorem State.Evolves.noteStart {e} (h : r.Evolves s) : r.Evolves (s.noteStart ch e) := h.modX.ite h.modX.logStart.race

theorem State.Evolves.freshEntry {e b2b} (h : r.Evolves s) : r.Evolves (s.freshEntry ch e b2b) := by
  have h1 : r.Evolves ((s.pullEntry ch e).takeWaits ch e.waits) := h.pullEntry.takeWaits
  unfold State.freshEntry
  dsimp only
  refine h.clStart.ite (h.exStart.ite (h1.noopArray.modQ.ite ?_))
  split
  · exact h1.modQ.entryFault
  · split
    · exact h.ite h1.modQ.entryFault
    · next ht =>
      exact ((runOf_keeps.start h1).of_ok ht).takeArray.startPass.modQ

theorem runNow_keeps {eng} : (s.runNow ch eng).Keeps := by
  unfold State.runNow
  split
  · exact runOf_keeps
  · exact runGemm_keeps

theorem State.Evolves.leads_execEntryStart {eng b2b} (h : r.Evolves s) : r.Leads (execEntryStart ch eng b2b s) := by
  have h1 : r.Evolves (if eng == 4 || eng == 5 then s.joinAll ch eng else s) := h.joinAll.ite h
  unfold execEntryStart
  dsimp only
  refine State.leads_ite h ?_
  split
  · exact h1
  · refine State.leads_ite h1 (State.leads_ite h1 (State.Evolves.semServe ?_))
    exact (h1.noteStart.resumeEntry.ite h1.noteStart.freshEntry).gtDeal.ite
        (h1.noteStart.resumeEntry.ite h1.noteStart.freshEntry)

theorem State.Evolves.leads_execPassBoundary {eng stall upsets ecc} (h : r.Evolves s) : r.Leads
    (execPassBoundary ch eng stall upsets ecc s) := by
  unfold execPassBoundary
  extract_lets s1 s2
  have h1 : r.Evolves s1 := h.ecc
  have h2 : r.Evolves s2 := h1.advance runNow_keeps
  exact State.leads_ite h (State.leads_ite h1.exStep.eccDone (h2.gtDeal.ite h2).eccDone)

theorem State.Evolves.leads_execEntryComplete {eng stall upsets ecc} (h : r.Evolves s) : r.Leads
    (execEntryComplete ch eng stall upsets ecc s) := by
  unfold execEntryComplete
  refine State.leads_ite h ?_
  split
  · exact h.leave.finish
  · extract_lets
    split
    · exact h.ecc.clFinish.eccDone
    · split
      · exact h.ecc.exStep.eccDone
      · split
        · exact h.ecc.eccDone
        · extract_lets run s1
          have h1 : r.Evolves s1 := (h.ecc.advance runOf_keeps).advanceAll runOf_keeps
          exact (h1.gtDeal.ite h1).eccDone

theorem State.Evolves.cqDrain : ∀ {n s}, r.Evolves s → r.Evolves (s.cqDrain ch jc n)
  | 0, _, h => h
  | n + 1, s, h => by
    unfold State.cqDrain
    split
    · exact h
    · refine h.ite ?_
      split
      · next ht => exact (h.cqPut.of_ok ht).modX.cqDrain
      · exact h.cqLost

theorem State.Evolves.leads_execCqRdWrite {val} (h : r.Evolves s) : r.Leads (execCqRdWrite ch jc val s) := by
  unfold execCqRdWrite
  refine h.chanWr fun _ ht => ?_
  extract_lets
  split
  · exact ht
  · exact (ht.setF.cqDrain.sweep.ite ht.setF.cqDrain).tryEnd

theorem State.Evolves.leads_execCqBaseWrite {hi val} (h : r.Evolves s) : r.Leads (execCqBaseWrite ch jc hi val s) :=
  h.chanWr fun _ ht => ht.ite (ht.modC.ite ht.postReg)

theorem State.Evolves.wideFault {w} (h : r.Evolves s) : r.Evolves (s.wideFault ch jc w) := by
  unfold State.wideFault
  split
  · exact (h.attempt formOf_keeps).ite h
  · exact h

theorem State.Evolves.leads_execIllegalOp {w} (h : r.Evolves s) : r.Leads (execIllegalOp ch jc w s) :=
  h.ite (h.wideFault.ite ((h.scalar fun _ => State.Evolves.trapPc).ite h))

/-! ## Security alarms and the key store -/

theorem State.Evolves.faultPin (h : r.Evolves s) : r.Evolves (s.faultPin) := by
  unfold State.faultPin
  exact h.modP

theorem State.Evolves.modSec {f} (h : r.Evolves s) : r.Evolves (s.modSec f) := h.modP

theorem State.Evolves.loseTiers (h : r.Evolves s) : r.Evolves (s.loseTiers) := by
  unfold State.loseTiers
  exact (h.draw.eachC fun _ _ ht => ht.modMem).modP

theorem State.Evolves.zeroise (h : r.Evolves s) : r.Evolves (s.zeroise) := by
  unfold State.zeroise
  exact (h.loseTiers.ite h).modSec

theorem State.Evolves.fenceChan (h : r.Evolves s) : r.Evolves (s.fenceChan ch) :=
  h.ite (h.foldl fun _ _ ht => ht.releaseSlice.ite ht).allDown.t2Dark

theorem State.Evolves.fence (h : r.Evolves s) : r.Evolves (s.fence) := h.ite (h.eachC fun _ _ => State.Evolves.fenceChan).modP

theorem State.Evolves.unfence (h : r.Evolves s) : r.Evolves (s.unfence) := h.modP.eachC fun _ _ ht => ht.trainAll.ite ht

theorem State.Evolves.erase (h : r.Evolves s) : r.Evolves (s.erase) := (h.zeroise.eachC fun _ _ ht => ht.allDown.t2Dark).modP

theorem State.Evolves.raise {sensor ch slot} (h : r.Evolves s) : r.Evolves (s.raise sensor ch slot) := by
  unfold State.raise
  extract_lets
  refine h.modP.post.histAdd.ite ?_
  split
  · exact h.modP.post.histAdd.zeroise.modSec.ite h.modP.post.histAdd.erase
  · exact h.modP.post.histAdd.fence

theorem State.Evolves.leads_execSecAlarm {sensor slot} (h : r.Evolves s) : r.Leads (execSecAlarm sensor ch slot s) := by
  unfold execSecAlarm
  split
  · exact h.modSec.raise.faultPin
  · exact State.leads_ite h (State.leads_ite h.zeroise.modSec h.modSec)

theorem ChMem.canonical_erased {m : ChMem} {f : TCache → TCache} (h : m.canonical = true) :
    ({ m with t1 := [], ls := [], arws := [], poison := [], tc := f m.tc } : ChMem).canonical = true := by
  rw [ChMem.canonical_iff] at *
  exact ⟨rfl, h.2.1, rfl, rfl⟩

theorem State.Evolves.leads_execSecErased (h : r.Evolves s) : r.Leads (execSecErased s) := by
  unfold execSecErased
  refine State.leads_ite h (State.Evolves.modP ?_).modSec.post.faultPin
  exact h.eachC fun _ _ ht => (ht.modMem fun _ hm => ChMem.canonical_erased
      (f := fun c => { c with lines := c.lines.map fun l => { l with bytes := [] } }) hm).ite ht

theorem State.Evolves.ackAlarms {val} (h : r.Evolves s) : r.Evolves (s.ackAlarms val) := h.modP.unfence.ite h.modP

theorem State.Evolves.leads_execSecAlarmAck {by_ val persist} (h : r.Evolves s) : r.Leads (execSecAlarmAck by_ val persist s) := by
  unfold execSecAlarmAck
  extract_lets
  split
  · exact (h.modSec.ite h).hostWr fun _ ht => ht.gate fun _ => State.Evolves.ackAlarms
  · exact ((h.modSec.ite h).gate fun _ => State.Evolves.ackAlarms).ite (h.modSec.ite h)

theorem State.Evolves.policyWrite {val} (h : r.Evolves s) : r.Evolves (s.policyWrite val) := h.ite (h.modP.ite h.post)

theorem State.Evolves.leads_execSecPolicyWrite {by_ val} (h : r.Evolves s) : r.Leads (execSecPolicyWrite by_ val s) := by
  unfold execSecPolicyWrite
  split
  · exact h.hostWr fun _ ht => ht.gate fun _ => State.Evolves.policyWrite
  · exact (h.gate fun _ => State.Evolves.policyWrite).ite h

/-! ## Function level resets and losses -/

theorem State.Evolves.openTens {draw t} (h : r.Evolves s) : r.Evolves (s.openTens ch draw t) := by
  unfold State.openTens
  refine h.ite ?_
  refine h.foldl fun _ _ ht => ?_
  extract_lets
  split
  · next _ hu => exact ht.spWrite.of_ok hu
  · exact ht

theorem State.Evolves.openWrites (h : r.Evolves s) : r.Evolves (s.openWrites ch) :=
  h.foldl fun _ _ ht => ht.draw.foldl fun _ _ => State.Evolves.openTens

theorem State.Evolves.reapplySlots (h : r.Evolves s) : r.Evolves (s.reapplySlots ch) :=
  h.foldl fun _ _ ht => ht.setFailed.ite ht

theorem State.Evolves.setInReset {on} (h : r.Evolves s) : r.Evolves (s.setInReset ch on) := by
  unfold State.setInReset
  exact h.modP.modC

/-- A function level reset keeps memories canonical. -/
theorem Chan.canonical_flr {c : Chan} (h : c.mem.canonical = true) : c.flr.mem.canonical = true := by
  rw [ChMem.canonical_iff] at *
  exact ⟨h.1, h.2.1, h.2.2.1, Cells.wf_filter _ _ h.2.2.2⟩

theorem State.Evolves.flr (h : r.Evolves s) : r.Evolves (s.flr ch) := by
  unfold State.flr
  extract_lets s1 trips seen stuck s2 s3 s4 pf mine s5
  have h2 : r.Evolves s2 := h.openWrites.allDown.modC_of Chan.canonical_flr fun n _ => Chan.new_bounded n
  have h4 : r.Evolves s4 := h2.setF.setF.setF.setF.setF
  exact h4.modP.reapplySlots.fillBuckets.tcCount.setInReset.thermPin

theorem State.Evolves.relight (h : r.Evolves s) : r.Evolves (s.relight ch) := h.ite h.ringLock.setF.trainAll

theorem State.Evolves.flrDone (h : r.Evolves s) : r.Evolves (s.flrDone ch) := h.setInReset.relight

theorem State.Evolves.leads_execFlrChannel (h : r.Evolves s) : r.Leads (execFlrChannel ch s) :=
  State.leads_ite h.answer (State.leads_ite h.answer h.flr.answer)

theorem State.Evolves.leads_execFlrChannelDone (h : r.Evolves s) : r.Leads (execFlrChannelDone ch s) :=
  State.leads_ite h h.flrDone

theorem State.Evolves.leads_execFlrHub (h : r.Evolves s) : r.Leads (execFlrHub s) := State.leads_ite h.answer h.modP.answer

theorem State.Evolves.leads_execThermTrip {tj} (h : r.Evolves s) : r.Leads (execThermTrip ch tj s) := by
  unfold execThermTrip
  split
  · exact h
  · exact (h.post.ite h.post.flr).setF.satF.modPwr.thermPin

theorem State.Evolves.leads_execThermTripRelease {tj pass} (h : r.Evolves s) : r.Leads (execThermTripRelease ch tj pass s) := by
  unfold execThermTripRelease
  refine State.leads_ite h ?_
  extract_lets s1
  have h1 : r.Evolves s1 := h.setF.modPwr.thermPin
  exact h1.retireWhole.ite (h1.ite h1.flrDone)

theorem State.Evolves.hubGone (h : r.Evolves s) : r.Evolves (s.hubGone) := h.modP

theorem State.Evolves.leads_execHubFault (h : r.Evolves s) : r.Leads (execHubFault ch s) := by
  unfold execHubFault
  refine State.leads_ite h ?_
  extract_lets s1 all
  have h1 : r.Evolves s1 := h.allDown.t2Dark.modC
  exact h1.hubGone.ite h1

/-- A channel after a loss of supply holds no memory and no count. -/
theorem Chan.lose_kept (flash : Bool) (c : Chan) : (c.lose flash).kept = Chan.new.kept := by
  unfold Chan.lose
  split
  · rfl
  · rfl

theorem State.Evolves.lose {cond} (h : r.Evolves s) : r.Evolves (s.lose cond) := by
  have hat (flash : Bool) (c : ChIdx) : (s.chan.map (Chan.lose flash))[c] = (s.chan[c]).lose flash := Vector.getElem_map ..
  refine h.trans ⟨fun hc => ?_, fun _ => ?_, fun _ hx _ => hx⟩
  · rw [State.canonical_iff] at *
    refine ⟨hc.1, fun c => ?_⟩
    unfold State.lose
    simp only [hat]
    exact ChMem.canonical_congr (Chan.lose_kept ..) rfl
  · rw [State.semsBounded_iff]
    intro c n
    unfold State.lose
    simp only [hat, Chan.sem_of_kept (Chan.lose_kept ..)]
    exact Chan.new_bounded n

/-! ## Mould images -/

theorem State.Evolves.mouldErr {e} (h : r.Evolves s) : r.Evolves (s.mouldErr e) := h.modP

theorem State.Evolves.toMould {st} (h : r.Evolves s) : r.Evolves (s.toMould st) := h.modP

theorem State.Evolves.modMould {f} (h : r.Evolves s) : r.Evolves (s.modMould f) := h.modP

theorem State.Evolves.mouldCmd {w cmd f} (h : r.Evolves s) (hf : ∀ t, r.Evolves t → r.Evolves (f t)) :
    r.Evolves (s.mouldCmd w cmd f) := by
  unfold State.mouldCmd
  extract_lets
  split
  · exact h.hostWr fun _ ht => ht.modP.countFenced.mouldErr.ite (hf _ ht.modP)
  · exact (h.modP.countFenced.mouldErr.ite (hf _ h.modP)).ite h

theorem State.Evolves.unlessBusy {f} (h : r.Evolves s) (hf : ∀ t, r.Evolves t → r.Evolves (f t)) : r.Evolves (s.unlessBusy f) :=
  h.mouldErr.ite (hf _ h)

theorem State.Evolves.leads_execLoad {by_} (h : r.Evolves s) : r.Leads (execLoad by_ s) :=
  h.mouldCmd fun _ ht => ht.unlessBusy fun _ hu => hu.modMould.toMould.mouldErr

theorem State.Evolves.leads_execMouldStaged (h : r.Evolves s) : r.Leads (execMouldStaged s) := by
  unfold execMouldStaged
  refine State.leads_ite h ?_
  split
  · exact h.modMould.toMould
  · exact h.modMould.toMould.modP

theorem State.Evolves.dropEpoch (h : r.Evolves s) : r.Evolves (s.dropEpoch ch) := h.ite h.modC.setF.satF

theorem State.Evolves.drainFlush (h : r.Evolves s) : r.Evolves (s.drainFlush) := h.foldl fun _ _ ht => ht.flushAll.ite ht

theorem State.Evolves.drainKill (h : r.Evolves s) : r.Evolves (s.drainKill) :=
  (h.foldl fun _ _ => State.Evolves.killAll).modMould

theorem State.Evolves.leads_execCommit {by_} (h : r.Evolves s) : r.Leads (execCommit by_ s) := by
  unfold execCommit
  refine h.mouldCmd fun _ ht => ?_
  refine ht.unlessBusy fun _ hu => ?_
  refine hu.ite ?_
  extract_lets s1 s2 s3
  have h2 : r.Evolves s2 := hu.toMould.mouldErr.modMould.foldl fun _ _ hv => hv.wake.dropEpoch.modC
  exact h2.drainFlush.drainKill.ite h2.drainFlush

theorem State.Evolves.leads_execDrainLimit (h : r.Evolves s) : r.Leads (execDrainLimit s) := State.leads_ite h h.drainKill

theorem State.Evolves.undrain (h : r.Evolves s) : r.Evolves (s.undrain) := h.eachC fun _ _ ht => ht.modC

theorem State.Evolves.leads_execAbandon {by_} (h : r.Evolves s) : r.Leads (execAbandon by_ s) :=
  h.mouldCmd fun _ ht => ht.undrain.modMould.toMould.mouldErr.ite ht

theorem State.Evolves.retrain {p} (h : r.Evolves s) : r.Evolves (s.retrain ch p) := h.ite h.linkDown.modLink.setF

theorem State.Evolves.retrainLinks {old new} (h : r.Evolves s) : r.Evolves (s.retrainLinks old new ch) :=
  h.ite (h.foldl fun _ _ ht => ht.ite ht.retrain)

theorem State.Evolves.firstLight (h : r.Evolves s) : r.Evolves (s.firstLight ch) := h.ringLock.setF.ite h

theorem State.Evolves.commitChan {old new} (h : r.Evolves s) : r.Evolves (s.commitChan old new ch) := by
  unfold State.commitChan
  extract_lets o n ws s1 s2 share s3 s4 s5 s6 key
  have h1 : r.Evolves s1 := h.foldl fun _ _ ht => ht.modC
  have h2 : r.Evolves s2 := by
    unfold s2
    split
    · exact h1.fillBuckets
    · exact h1.foldl fun _ _ ht => ht.foldl fun _ _ hu => hu.newBurst.ite hu
  have h4 : r.Evolves s4 := h2.setF.ite h2.setF.setF
  have h5 : r.Evolves s5 := h4.ite h4.modTc.tcCount
  have h6 : r.Evolves s6 := by
    unfold s6
    split
    · exact h5.t2Dark.ite h5
    · exact h5.ite h5.setF
  exact h6.modFt.ite h6

theorem State.Evolves.commitPark {was} (h : r.Evolves s) : r.Evolves (s.commitPark was ch) := by
  unfold State.commitPark
  refine h.ite ?_
  split
  · split
    · exact h.pwrBegin.ite h
    · exact h.modPwr
    · exact h
  · exact h.wake.ite h

theorem State.Evolves.commitCap {was} (h : r.Evolves s) : r.Evolves (s.commitCap was ch) := by
  unfold State.commitCap
  refine h.ite ?_
  split
  · exact h.modPwr
  · exact h.modPwr

theorem State.Evolves.commitTick {old new} (h : r.Evolves s) : r.Evolves (s.commitTick old new) :=
  h.ite (h.modP fun _ => ((Pkg.kept_setFld ..).trans (Pkg.kept_setFld ..)).trans (Pkg.kept_setFld ..)).tickSource

theorem State.Evolves.commitPolicy {new all} (h : r.Evolves s) : r.Evolves (s.commitPolicy new all) := by
  unfold State.commitPolicy
  exact (h.ite h.loseTiers).modSec.modP

theorem State.Evolves.commitOtp {new key0} (h : r.Evolves s) : r.Evolves (s.commitOtp new key0) := by
  unfold State.commitOtp
  extract_lets s1
  have h1 : r.Evolves s1 := h.modP.ite h
  exact h1.modSec.modP.ite h1

theorem State.Evolves.saveCal {bytes} (h : r.Evolves s) : r.Evolves (s.saveCal bytes) := by
  unfold State.saveCal
  split
  · exact h
  · exact h.flash

theorem State.Evolves.commitImage {new bytes key0 all} (h : r.Evolves s) : r.Evolves (s.commitImage new bytes key0 all) := by
  unfold State.commitImage
  extract_lets old new' places shares wasLocked s1 s2 s3 s4 t3 s5 s6 s7 s8 s9 s10
  have h1 : r.Evolves s1 := h.commitOtp.saveCal
  have h2 : r.Evolves s2 := (h1.eachC fun _ _ ht => ht.setInReset.ite ht).ite h1
  have h3 : r.Evolves s3 :=
      h2.modP fun _ => ((Pkg.kept_setFld ..).trans (Pkg.kept_setFld ..)).trans ((Pkg.kept_setFld ..).trans (Pkg.kept_wr ..))
  have h5 : r.Evolves s5 := (h3.eachC fun _ _ => State.Evolves.commitChan).foldl fun _ _ ht => ht.modP
  have h6 : r.Evolves s6 := h5.foldl fun _ _ ht => ht.fillBucket.ite (ht.newBurst.ite ht)
  have h7 : r.Evolves s7 := h6.commitTick.commitPolicy.undrain
  have h8 : r.Evolves s8 := (h7.eachC fun _ _ => State.Evolves.firstLight).ite h7
  have h9 : r.Evolves s9 := h8.eachC fun _ _ ht => ht.retrainLinks.forwardHeld.commitPark.commitCap
  exact (h9.modP.ite h9).post.faultPin

theorem State.Evolves.commitDue (h : r.Evolves s) : r.Evolves (s.commitDue) := by
  unfold State.commitDue
  refine h.ite ?_
  extract_lets
  split
  · exact h.drainFlush
  · exact h.drainFlush.ite (h.drainFlush.toMould.ite h.drainFlush.commitImage)

theorem State.Evolves.leads_execMouldCommit (h : r.Evolves s) : r.Leads (execMouldCommit s) := h.commitDue

theorem State.Evolves.leads_execTickBoundary (h : r.Evolves s) : r.Leads (execTickBoundary s) :=
  (h.boundary fun _ => State.Evolves.commitDue).tickMaster.ite h

theorem State.Evolves.leads_execStore {by_} (h : r.Evolves s) : r.Leads (execStore by_ s) := by
  unfold execStore
  refine h.mouldCmd fun _ ht => ?_
  refine ht.unlessBusy fun _ hu => ?_
  split
  · exact hu
  · exact hu.mouldErr.ite hu.modMould.toMould.mouldErr

theorem State.Evolves.storeNow (h : r.Evolves s) : r.Evolves s.storeNow := by
  unfold State.storeNow
  dsimp only
  split
  · exact h
  · split
    · exact h.flash.modP_congr fun _ => Pkg.kept_setFld ..
    · exact h.flash.modP_congr fun _ => (Pkg.kept_setFld ..).trans (Pkg.kept_setFld ..)

theorem State.Evolves.leads_execStoreDone (h : r.Evolves s) : r.Leads (execStoreDone s) := State.leads_ite h h.storeNow.toMould

/-! ## Supplies, PERST# and start-up -/

theorem State.Evolves.startCause {c} (h : r.Evolves s) : r.Evolves (s.startCause c) := h.modP

theorem State.Evolves.startingFrom {c} (h : r.Evolves s) : r.Evolves (s.startingFrom c) := h.modP.startCause

theorem State.Evolves.setSupply {x on} (h : r.Evolves s) : r.Evolves (s.setSupply x on) := by
  unfold State.setSupply
  split
  · exact h.modP
  · exact h.modP
  · exact h.modP

theorem State.Evolves.leads_execSupplyPresent {sup} (h : r.Evolves s) : r.Leads (execSupplyPresent sup s) :=
  State.leads_ite h.setSupply (State.leads_ite h.setSupply.modP h.setSupply.startingFrom)

theorem State.Evolves.loseKeys (h : r.Evolves s) : r.Evolves (s.loseKeys) := h.zeroise.modSec

theorem State.Evolves.leads_execSupplyAbsent {sup} (h : r.Evolves s) : r.Leads (execSupplyAbsent sup s) := by
  unfold execSupplyAbsent
  extract_lets s1 s2 s3
  have h2 : r.Evolves s2 := h.setSupply.loseKeys.ite h.setSupply
  exact State.leads_ite h2.modP.lose (State.leads_ite h2.modP.modP h2.modP)

theorem State.Evolves.leads_execPerstAssert (h : r.Evolves s) : r.Leads (execPerstAssert s) := h.modP.lose.ite h.modP

theorem State.Evolves.leads_execPerstRelease (h : r.Evolves s) : r.Leads (execPerstRelease s) := h.modP.startingFrom.ite h.modP

theorem State.Evolves.leads_execFlEnFall (h : r.Evolves s) : r.Leads (execFlEnFall s) := h.modP

theorem State.Evolves.stepLease (h : r.Evolves s) : r.Evolves (s.stepLease) := h.leaseHear.leaseHear

theorem State.Evolves.stepHistory (h : r.Evolves s) : r.Evolves s.stepHistory := by
  unfold State.stepHistory
  refine (h.modP fun _ => ?_).histFill.eachC fun _ _ => State.Evolves.reapplySlots
  exact ((Pkg.kept_setFld ..).trans (Pkg.kept_setFld ..)).trans (Pkg.kept_wr ..)

theorem State.Evolves.stepKeys (h : r.Evolves s) : r.Evolves (s.stepKeys) := by
  unfold State.stepKeys
  exact (h.ite h.modSec).modP

theorem State.Evolves.stepAlarm (h : r.Evolves s) : r.Evolves (s.stepAlarm) := h.modSec.raise.ite h

theorem State.Evolves.stepPort {ari} (h : r.Evolves s) : r.Evolves (s.stepPort ari) := h.modP.ite h.modP.post

theorem State.Evolves.stepChannels {env} (h : r.Evolves s) : r.Evolves (s.stepChannels env) := by
  unfold State.stepChannels
  refine h.eachC fun _ _ ht => ?_
  refine ht.ite ?_
  refine ht.retireWhole.ite ?_
  extract_lets s1
  have h1 : r.Evolves s1 := ht.ite ht.setInReset
  exact h1.ite h1.retireWhole

theorem State.Evolves.stepImage (h : r.Evolves s) : r.Evolves s.stepImage.1 := by
  have hf (p : Pkg) (k n : Nat) : ((({ p with flash := { p.flash with active := k } } : Pkg).setFld R.HUB_MOULD_STAT_SLOT
      k).setFld R.HUB_MOULD_STAT_DELTAS n).kept = p.kept := (Pkg.kept_setFld ..).trans (Pkg.kept_setFld ..)
  unfold State.stepImage
  dsimp only
  split
  · exact ((h.post.ite h).modP fun p => hf p ..).pair
  · split
    · exact ((h.post.post.ite h.post).modP fun p => hf p ..).pair
    · exact (h.post.modP fun _ => Pkg.kept_setFld ..).pair

theorem State.Evolves.stepRings {i} (h : r.Evolves s) : r.Evolves (s.stepRings i) := h.eachC fun _ _ ht => ht.ringLock.ite ht

theorem State.Evolves.stepT2 {i env} (h : r.Evolves s) : r.Evolves (s.stepT2 i env) :=
  h.eachC fun _ _ ht => ht.ite (ht.t2Train.setF.ite ht.t2Train)

theorem State.Evolves.stepTick {num} (h : r.Evolves s) : r.Evolves (s.stepTick num) := by
  unfold State.stepTick
  exact h.modP

theorem State.Evolves.safeStart (h : r.Evolves s) : r.Evolves (s.safeStart) := h.modP.stepTick.faultPin

theorem State.Evolves.startUp {env} (h : r.Evolves s) : r.Evolves (s.startUp env) := by
  unfold State.startUp
  extract_lets s1 s2 s3
  have h1 : r.Evolves s1 := h.stepLease
  have h3 : r.Evolves s3 := h1.modP.stepHistory.stepKeys.stepAlarm.stepPort.stepChannels
  refine h1.modP.faultPin.ite ?_
  split
  next s4 image e =>
  have h4 : r.Evolves s4 := (State.Evolves.ite₁ h3.pair h3.stepImage).fst e
  split
  · exact h4.safeStart
  · have h5 : r.Evolves (s4.modP fun p => { p with cond := .running }) := h4.modP
    exact h5.stepRings.stepT2.commitImage.stepTick.faultPin

theorem State.Evolves.leads_execStartUp {env} (h : r.Evolves s) : r.Leads (execStartUp env s) := State.leads_ite h.startUp h

theorem State.Evolves.leads_execStartupRepeat {env} (h : r.Evolves s) : r.Leads (execStartupRepeat env s) :=
  State.leads_ite h h.lose.startingFrom.startUp

theorem State.Evolves.leads_execHostPortLinkUp {ari} (h : r.Evolves s) : r.Leads (execHostPortLinkUp ari s) :=
  State.leads_ite h h.stepPort

theorem State.Evolves.leads_execConfigRequestAbsent {fn} (h : r.Evolves s) : r.Leads (execConfigRequestAbsent fn s) :=
  h.ite h.answer

theorem State.Evolves.endAll (h : r.Evolves s) : r.Evolves (s.endAll ch) :=
  (h.killAll.foldl fun _ _ ht => ht.modQ.foldl fun _ _ => State.Evolves.dropEntry).tryEndAll

theorem State.Evolves.finishStore (h : r.Evolves s) : r.Evolves (s.finishStore) := h.storeNow.toMould.ite h

theorem State.Evolves.goOff {force} (h : r.Evolves s) : r.Evolves (s.goOff force) := by
  unfold State.goOff
  extract_lets
  split
  · exact h.post
  · exact ((h.eachC fun _ _ ht => ht.endAll.ite ht).ite h).finishStore.lose

theorem State.Evolves.leads_execHubPwrOff {val} (h : r.Evolves s) : r.Leads (execHubPwrOff val s) :=
  h.hostWr fun _ ht => ht.ite (ht.modP.goOff.ite ht.modP)

theorem State.Evolves.leads_execWakeN (h : r.Evolves s) : r.Leads (execWakeN s) := by
  unfold execWakeN
  split
  · exact h
  · exact State.leads_ite h.modP (State.leads_ite h.modP.modP h.modP.startingFrom)

theorem State.Evolves.leads_execAlertN (h : r.Evolves s) : r.Leads (execAlertN s) := State.leads_ite h (h.modP.post.ite h.modP)

theorem State.Evolves.leads_execAlertNInactive (h : r.Evolves s) : r.Leads (execAlertNInactive s) := h.modP

theorem State.Evolves.leads_execStuckInput {pin} (h : r.Evolves s) : r.Leads (execStuckInput pin s) :=
  State.leads_ite h (h.modP.post.ite h.modP)

theorem State.Evolves.leads_execPinRearm {pin} (h : r.Evolves s) : r.Leads (execPinRearm pin s) := h.ite h.modP

/-! ## The ports beside the host port -/

theorem State.Evolves.nack (h : r.Evolves s) : r.Evolves (s.nack) := h.modP

theorem State.Evolves.i3cAnswer {l} (h : r.Evolves s) : r.Evolves (s.i3cAnswer l) := h.modP

theorem State.Evolves.i3cCmd {f} (h : r.Evolves s) (hf : ∀ t, r.Evolves t → r.Evolves (f t)) : r.Evolves (s.i3cCmd f) :=
  (hf _ h).ite h.nack

theorem State.Evolves.leads_execI3cStatus (h : r.Evolves s) : r.Leads (execI3cStatus s) := h.i3cAnswer.ite h.nack

theorem State.Evolves.leads_execHistCount (h : r.Evolves s) : r.Leads (execHistCount s) :=
  h.i3cCmd fun _ => State.Evolves.i3cAnswer

theorem State.Evolves.leads_execHistRead {idx} (h : r.Evolves s) : r.Leads (execHistRead idx s) :=
  h.i3cCmd fun _ => State.Evolves.i3cAnswer

theorem State.Evolves.leads_execI3cPwrOff {key force} (h : r.Evolves s) : r.Leads (execI3cPwrOff key force s) :=
  h.i3cCmd fun _ ht => ht.i3cAnswer.goOff.ite ht.i3cAnswer

theorem State.Evolves.leads_execI3cTemp {hub} (h : r.Evolves s) : r.Leads (execI3cTemp hub s) :=
  h.i3cCmd fun _ => State.Evolves.i3cAnswer

theorem Memory.wf_flashWrite {m : Mem} {a : Nat} {bs : List Byte} (h : Memory.wf m = true) : Memory.wf (flashWrite m a bs) =
    true := by
  induction bs generalizing m a with
  | nil => exact h
  | cons b bs ih =>
    refine ih ?_
    unfold flashPut
    split
    · exact Memory.wf_put _ _ h
    · exact h

theorem State.Evolves.leads_execFlashRecoveryPortAccess {wr addr data len} (h : r.Evolves s) : r.Leads
    (execFlashRecoveryPortAccess wr addr data len s) := by
  unfold execFlashRecoveryPortAccess
  extract_lets s1
  have h1 : r.Evolves s1 := h.modP
  refine State.leads_ite h (State.leads_ite (h1.modP_of (fun hp => ?_) fun _ hx _ => hx) h1.draw.modP)
  rw [Pkg.canonical_iff] at *
  exact ⟨hp.1, hp.2.1, Memory.wf_flashWrite hp.2.2⟩

theorem State.Evolves.jtagOut {l} (h : r.Evolves s) : r.Evolves (s.jtagOut l) := h.modP

theorem State.Evolves.leads_execJtagInstruction {op} (h : r.Evolves s) : r.Leads (execJtagInstruction op s) := by
  unfold execJtagInstruction
  refine State.leads_ite h ?_
  split
  · exact h.jtagOut
  · exact h.jtagOut
  · exact State.leads_ite trivial h.jtagOut

end Sys2Proof.Machine
end

section
/-! SUPPORT. What digests, copies and the register window keep. -/

namespace Sys2Proof.Machine

open Sys2Proof

set_option Elab.async false

variable {r s : State} {ch : ChIdx} {jc : JcIdx}

/-! ## Weight digests, partner copies and restores -/

theorem State.Evolves.modDig {f} (h : r.Evolves s) : r.Evolves (s.modDig ch f) := h.modC

theorem State.Evolves.digBusy (h : r.Evolves s) : r.Evolves (s.digBusy ch) := h.modC.setF

theorem State.Evolves.digestRead {torn bs} (h : r.Evolves s) : r.Evolves (s.digestRead torn bs).2 :=
  State.Evolves.ite₂ h.draw.pair₂ h

theorem State.Evolves.digAbsent (h : r.Evolves s) : r.Evolves (s.digAbsent ch) :=
  h.foldl fun _ _ ht => ht.foldl fun _ _ hu => hu.ite hu.satF.post

theorem State.Evolves.digMismatch {own region peer} (h : r.Evolves s) : r.Evolves (s.digMismatch ch own region peer) := by
  unfold State.digMismatch
  exact h.satF.post.histAdd

theorem State.Evolves.digJudge {own} (h : r.Evolves s) : r.Evolves (s.digJudge ch own) :=
  h.modDig.foldl fun _ _ ht => ht.ite ht.digMismatch

theorem State.Evolves.digCompare {region} (h : r.Evolves s) : r.Evolves (s.digCompare ch region) := by
  unfold State.digCompare
  split
  · exact h
  · exact h.digJudge.ite h

theorem State.Evolves.digLate (h : r.Evolves s) : r.Evolves (s.digLate ch) := h.foldl fun _ _ => State.Evolves.digJudge

theorem State.Evolves.digRound (h : r.Evolves s) : r.Evolves (s.digRound ch) :=
  h.satF.post.ite h.digLate.digAbsent.modDig.digBusy

theorem State.Evolves.leads_execDigestRound (h : r.Evolves s) : r.Leads (execDigestRound ch s) := h.wake.digRound.ite h

theorem State.Evolves.digRegion (h : r.Evolves s) : r.Evolves (s.digRegion ch) := by
  unfold State.digRegion
  split
  · exact h.digBusy
  · extract_lets
    split
    · exact h.modDig.digBusy
    · exact (h.modDig.vaTouch.digestRead.modDig.foldl fun _ _ => State.Evolves.sendMsg).digCompare.digBusy

theorem State.Evolves.leads_execDigestRegionDone (h : r.Evolves s) : r.Leads (execDigestRegionDone ch s) := h.digRegion.ite h

theorem State.Evolves.takeIn {mine} (h : r.Evolves s) : r.Evolves (s.takeIn ch mine) := h.modFab

theorem State.Evolves.leads_execDigest {src region tick digest} (h : r.Evolves s) : r.Leads
    (execDigest ch src region tick digest s) := by
  unfold execDigest
  refine State.leads_ite h ?_
  extract_lets
  split
  · exact h.takeIn
  · exact State.leads_ite h.takeIn h.takeIn.modDig.digCompare

theorem State.Evolves.modMov {f} (h : r.Evolves s) : r.Evolves (s.modMov ch f) := h.modC

theorem State.Evolves.pcView (h : r.Evolves s) : r.Evolves (s.pcView ch) := h.setF.setF

theorem State.Evolves.movWrite {va bs host} (h : r.Evolves s) : ∀ t ∈ s.movWrite ch va bs host, r.Evolves t := by
  unfold State.movWrite
  intro t ht
  split at ht
  · next e =>
    cases ht
    exact h.vaWrite.of_ok e
  · cases ht

theorem State.Evolves.genOpen {a epoch} (h : r.Evolves s) : r.Evolves (s.genOpen ch a epoch) := by
  unfold State.genOpen
  extract_lets x g s1 s2
  have h1 : r.Evolves s1 := h.modMov
  have h2 : r.Evolves s2 := h1.getD h1.movWrite
  exact h2.pcView.ite h2

theorem State.Evolves.genClose {a x bytes} (h : r.Evolves s) : r.Evolves (s.genClose ch a x bytes) := by
  unfold State.genClose
  extract_lets g put s1 s2
  have h1 : r.Evolves s1 := h.modMov
  have h2 : r.Evolves s2 := h1.getD h1.movWrite
  exact h2.pcView.ite h2

theorem State.Evolves.copySend {dst head data carry} (h : r.Evolves s) : r.Evolves (s.copySend ch dst head data carry) :=
  h.sendMsg

theorem State.Evolves.copyRegion {dst epoch region bs} (h : r.Evolves s) : r.Evolves (s.copyRegion ch dst epoch region bs) :=
  h.foldl fun _ _ => State.Evolves.copySend

theorem State.Evolves.movIdle (h : r.Evolves s) : r.Evolves (s.movIdle ch) := h.modMov.setF

theorem State.Evolves.movFail {e} (h : r.Evolves s) : r.Evolves (s.movFail ch e) := h.movIdle.satF.post

theorem State.Evolves.showEpoch {epoch} (h : r.Evolves s) : r.Evolves (s.showEpoch ch epoch) := h.setF

theorem State.Evolves.copyBegin (h : r.Evolves s) : r.Evolves (s.copyBegin ch) := h.satF.ite h.modMov.setF.moverWait

theorem State.Evolves.leads_execCopyEpoch (h : r.Evolves s) : r.Leads (execCopyEpoch ch s) := h.wake.copyBegin.ite h

theorem State.Evolves.copySignal (h : r.Evolves s) : r.Evolves (s.copySignal ch) := h.semSignal.ite h

/-- A fold that stops at the first failure. -/
theorem State.Evolves.foldlBind {β : Type} {f : State → β → Option State} (hf : ∀ t x, r.Evolves t → ∀ u ∈ f t x, r.Evolves u) :
    ∀ {l : List β} {o : Option State}, (∀ t ∈ o, r.Evolves t) → ∀ t ∈ l.foldl (fun o x => o.bind fun t => f t x) o, r.Evolves t
  | [], _, h => h
  | x :: l, o, h => State.Evolves.foldlBind hf (l := l) fun u hu => by
    obtain ⟨t, ht, hx⟩ := Option.bind_eq_some_iff.1 hu
    exact hf t x (h t ht) u hx

theorem State.Evolves.copyLocal {l} (h : r.Evolves s) : ∀ t ∈ s.copyLocal ch l, r.Evolves t := by
  unfold State.copyLocal
  extract_lets g base
  split
  · exact fun t ht => absurd ht (Option.not_mem_none t)
  · exact State.Evolves.foldlBind (fun _ _ => State.Evolves.movWrite) fun t ht => Option.some.inj ht ▸ h

theorem State.Evolves.copyDone (h : r.Evolves s) : r.Evolves (s.copyDone ch) := by
  unfold State.copyDone
  extract_lets epoch s1 s2 dst
  have h1 : r.Evolves s1 := h.foldl fun _ _ => State.Evolves.vaTouch
  have h2 : r.Evolves s2 := h1.genOpen
  split
  · exact h.movFail
  · split
    · split
      · exact h2.copySignal.movFail
      · next ht => exact (h2.copyLocal _ ht).copySignal.genClose.showEpoch.movIdle.post
    · exact (h1.foldl fun _ _ => State.Evolves.copyRegion).copySignal.copySend.modMov.showEpoch

theorem State.Evolves.leads_execCopyReadDone (h : r.Evolves s) : r.Leads (execCopyReadDone ch s) := h.copyDone.ite h

theorem State.Evolves.leads_execAck {src epoch status} (h : r.Evolves s) : r.Leads (execAck ch src epoch status s) := by
  unfold execAck
  split
  · exact h
  · exact h.takeIn.ite (h.takeIn.movIdle.post.ite h.takeIn.movFail)

theorem State.Evolves.leads_execPcAckTimeout (h : r.Evolves s) : r.Leads (execPcAckTimeout ch s) := h.movFail.ite h

theorem State.Evolves.restoreOk {epoch} (h : r.Evolves s) : r.Evolves (s.restoreOk ch epoch) := h.movIdle.showEpoch.post

theorem State.Evolves.restoreLocal (h : r.Evolves s) : r.Evolves (s.restoreLocal ch) := by
  unfold State.restoreLocal
  dsimp only
  split
  · exact h.movFail
  · refine h.movFail.ite ?_
    have h1 (l : List ManEntry) (f : State → ManEntry → State) (hf : ∀ t x, r.Evolves t → r.Evolves (f t x)) :
    r.Evolves (l.foldl f s) := h.foldl hf
    refine (h1 _ _ ?_).restoreOk.ite (h1 _ _ ?_).movFail <;>
    · intro t x ht
      split
      · exact ht.getD ht.vaTouch.movWrite
      · exact ht

theorem State.Evolves.restoreBegin (h : r.Evolves s) : r.Evolves (s.restoreBegin ch) :=
  h.satF.ite (h.restoreLocal.ite h.modMov.setF.copySend)

theorem State.Evolves.pcCtl {v} (h : r.Evolves s) : r.Evolves (s.pcCtl ch v) := by
  unfold State.pcCtl
  extract_lets
  split
  · exact h.modC
  · exact h.modC.wake.restoreBegin.ite h.modC.wake.copyBegin

theorem State.Evolves.leads_execPcCopyGo {val} (h : r.Evolves s) : r.Leads (execPcCopyGo ch val s) :=
  h.chanWr fun _ => State.Evolves.pcCtl

theorem State.Evolves.leads_execPcRestoreGo {val} (h : r.Evolves s) : r.Leads (execPcRestoreGo ch val s) :=
  h.chanWr fun _ => State.Evolves.pcCtl

theorem State.Evolves.serveRestore {src} (h : r.Evolves s) : r.Evolves (s.serveRestore ch src) := by
  unfold State.serveRestore
  extract_lets
  split
  · exact h
  · refine h.ite ?_
    extract_lets
    split
    · exact ((h.foldl fun _ _ => State.Evolves.vaTouch).foldl fun _ _ => State.Evolves.copyRegion).copySend
    · exact h

theorem State.Evolves.leads_execRestoreReq {src} (h : r.Evolves s) : r.Leads (execRestoreReq ch src s) :=
  State.leads_ite h h.takeIn.serveRestore

theorem State.Evolves.leads_execRestoreFail (h : r.Evolves s) : r.Leads (execRestoreFail ch s) := h.movFail.ite h

theorem State.Evolves.landRestore {region off bs} (h : r.Evolves s) : r.Evolves (s.landRestore ch region off bs) := by
  unfold State.landRestore
  split
  · exact h
  · refine h.ite ?_
    split
    · exact h
    · next ht => exact (h.movWrite _ ht).modMov

theorem State.Evolves.landCopy {epoch region off bs} (h : r.Evolves s) : r.Evolves (s.landCopy ch epoch region off bs) := by
  unfold State.landCopy
  extract_lets s1 place s2
  have h1 : r.Evolves s1 := h.ite h.genOpen.modMov
  have h2 : r.Evolves s2 := h1.modMov
  exact h2.ite (h2.getD h2.movWrite)

theorem State.Evolves.leads_execCopyData {src epoch region off data} (h : r.Evolves s) : r.Leads
    (execCopyData ch src epoch region off data s) := by
  unfold execCopyData
  split
  · exact h
  · exact h.takeIn.landRestore.ite (h.takeIn.landCopy.ite h.takeIn)

theorem State.Evolves.manCopy {src epoch l} (h : r.Evolves s) : r.Evolves (s.manCopy ch src epoch l) :=
  ((h.ite h.genOpen).modMov.genClose.ite (h.ite h.genOpen).modMov).copySend

theorem State.Evolves.manRestore {src epoch l} (h : r.Evolves s) : r.Evolves (s.manRestore ch src epoch l) :=
  h.copySend.movFail.ite (h.restoreOk.ite h.movFail)

theorem State.Evolves.leads_execManifest {src epoch entries} (h : r.Evolves s) : r.Leads
    (execManifest ch src epoch entries s) := by
  unfold execManifest
  split
  · exact h
  · exact h.takeIn.manRestore.ite (h.takeIn.manCopy.ite h.takeIn)

/-! ## The register window -/

theorem State.Evolves.after {o : Out} (ho : r.Leads o) (h : r.Evolves s) : r.Evolves (after o s) := by
  cases o with
  | next t => exact ho
  | _ => exact h

theorem State.Evolves.plainWrite {pf off v} (h : r.Evolves s) : r.Evolves (s.plainWrite pf off v) := by
  unfold State.plainWrite
  extract_lets
  split
  · exact h
  · exact ((h.ite h.postReg).stage.ite (h.ite h.postReg)).fnWr

theorem State.Evolves.plainUnless {stop pf off v} (h : r.Evolves s) : r.Evolves (s.plainUnless stop pf off v) :=
  h.ite h.plainWrite

theorem State.Evolves.evtFire {pf} (h : r.Evolves s) : r.Evolves (s.evtFire pf) := h.irq.ite h

theorem State.Evolves.evtCfg {pf v} (h : r.Evolves s) : r.Evolves (s.evtCfg pf v) := h.ite h.plainWrite.evtDrain.evtFire

theorem State.Evolves.evtPtr {pf v} (h : r.Evolves s) : r.Evolves (s.evtPtr pf v) := h.ite h.fnSet.modP.evtDrain.evtFire

theorem State.Evolves.mouldWrite {v} (h : r.Evolves s) : r.Evolves (s.mouldWrite v) := by
  unfold State.mouldWrite
  dsimp only
  refine (h.hostWr fun _ ht => ht.modP.ite ht).ite ?_
  split
  · exact h.after h.leads_execLoad
  · exact h.after h.leads_execCommit
  · exact h.after h.leads_execAbandon
  · exact h.after h.leads_execStore
  · exact h.hostWr fun _ ht => ht

theorem State.Evolves.splitWrite {v} (h : r.Evolves s) : r.Evolves (s.splitWrite v) := by
  unfold State.splitWrite
  extract_lets s1
  have h1 : r.Evolves s1 := (h.after h.leads_execSplitSeenClear).ite h
  exact (h1.after h1.leads_execPassiveHoldRelease).ite (h1.hostWr fun _ ht => ht)

theorem State.Evolves.hubWrite {off v} (h : r.Evolves s) : r.Evolves (s.hubWrite off v) := by
  unfold State.hubWrite
  split
  · exact h.after h.leads_execRegCfgWrite
  · split
    · exact h.after h.leads_execCperRdWrite
    · exact h.after h.leads_execTickCfgWrite
    · exact h.splitWrite
    · exact h.mouldWrite
    · exact h.after h.leads_execHubPwrOff
    · exact h.after h.leads_execSecPolicyWrite
    · exact h.after h.leads_execSecAlarmAck
    · exact h.hostWr fun _ => State.Evolves.evtCfg
    · exact h.hostWr fun _ => State.Evolves.evtPtr
    · exact h.hostWr fun _ => State.Evolves.plainWrite

theorem State.Evolves.ctxWrite {off v} (h : r.Evolves s) : ∀ t ∈ s.ctxWrite ch off v, r.Evolves t := by
  unfold State.ctxWrite
  intro t ht
  split at ht
  · exact Option.some.inj ht ▸ h.after h.leads_execCqBaseWrite
  · exact Option.some.inj ht ▸ h.after h.leads_execCqBaseWrite
  · exact Option.some.inj ht ▸ h.after h.leads_execCqRdWrite
  · cases ht

theorem State.Evolves.sqWrite {off v} (h : r.Evolves s) : ∀ t ∈ s.sqWrite ch off v, r.Evolves t := by
  unfold State.sqWrite
  intro t ht
  split at ht
  · exact Option.some.inj ht ▸ h.after h.leads_execSqBaseWrite
  · exact Option.some.inj ht ▸ h.after h.leads_execSqBaseWrite
  · exact Option.some.inj ht ▸ h.after h.leads_execSqDoorbell
  · exact Option.some.inj ht ▸ h.after h.leads_execJcrRdWrite
  · cases ht

theorem State.Evolves.arrayWrite {off v} (h : r.Evolves s) : ∀ t ∈ s.arrayWrite ch off v, r.Evolves t := by
  unfold State.arrayWrite
  intro t ht
  split at ht
  · exact Option.some.inj ht ▸ h.after h.leads_execChSemWrite
  · exact Option.some.inj ht ▸ h.after h.leads_execArwsOwnWrite
  · exact Option.some.inj ht ▸ h.after h.leads_execFtJcRangeWrite
  · exact Option.some.inj ht ▸ h.after h.leads_execSwCfgWrite
  · split at ht
    · exact Option.some.inj ht ▸ h.after h.leads_execRegCfgWrite
    · split at ht
      · exact Option.some.inj ht ▸ h.after h.leads_execClSlotWrite
      · cases ht

theorem State.Evolves.chanWrite {off v} (h : r.Evolves s) : r.Evolves (s.chanWrite ch off v) := by
  unfold State.chanWrite
  extract_lets
  split
  · exact h.after h.leads_execJobKill
  · exact h.after h.leads_execFtCtlWrite
  · exact h.hostWr fun _ => State.Evolves.plainUnless
  · exact h.hostWr fun _ => State.Evolves.plainUnless
  · exact h.after h.leads_execFtHostRelease
  · exact h.hostWr fun _ ht => ht.plainWrite.ftSync
  · exact h.after h.leads_execRcCtlWrite
  · exact h.hostWr fun _ => State.Evolves.plainUnless
  · exact h.hostWr fun _ => State.Evolves.plainUnless
  · exact h.after h.leads_execChRcSwap
  · exact h.after h.leads_execMemMmuWrite
  · exact h.after h.leads_execFlush
  · exact h.after h.leads_execFabRingMan
  · exact h.after h.leads_execInrGo
  · exact h.after h.leads_execGtSplitWrite
  · exact h.after h.leads_execPcCopyGo
  · exact h.after h.leads_execPwrCmd
  · exact h.hostWr fun _ => State.Evolves.evtCfg
  · exact h.hostWr fun _ => State.Evolves.evtPtr
  · exact h.hostWr fun _ => State.Evolves.plainWrite

theorem State.Evolves.orElse {o : Option State} {f : Unit → Option State} (ho : ∀ t ∈ o, r.Evolves t)
    (hf : ∀ t ∈ f (), r.Evolves t) : ∀ t ∈ o.orElse f, r.Evolves t := by
  cases o with
  | none => exact hf
  | some u => exact ho

theorem State.Evolves.regWrite {pf off v} (h : r.Evolves s) : r.Evolves (s.regWrite pf off v) := by
  unfold State.regWrite
  split
  · exact h.hubWrite
  · exact h.chanWrite.getD (State.Evolves.orElse (State.Evolves.orElse h.ctxWrite h.sqWrite) h.arrayWrite)

theorem State.Evolves.partialWrite {pf off} (h : r.Evolves s) : r.Evolves (s.partialWrite pf off) :=
  h.hostWr fun _ => State.Evolves.postReg

theorem State.Evolves.aliasWrite {pf off b v} (h : r.Evolves s) : r.Evolves (s.aliasWrite pf off b v) := by
  unfold State.aliasWrite
  split
  · exact h.hostWr fun _ ht => ht
  · exact h.hostWr fun _ ht => ht
  · exact h.regWrite.ite (h.hostWr fun _ ht => ht)
  · exact h.regWrite

theorem State.Evolves.noAccess (h : r.Evolves s) : r.Evolves (s.noAccess) := h.answer

theorem State.Evolves.leads_execRegWrite {pf off be val} (h : r.Evolves s) : r.Leads (execRegWrite pf off be val s) := by
  unfold execRegWrite
  extract_lets
  split
  · exact h.noAccess
  · exact h.partialWrite.ite h.regWrite
  · exact h.partialWrite.ite h.aliasWrite

theorem State.Evolves.leads_execAliasWrite {pf off b be val} (h : r.Evolves s) : r.Leads (execAliasWrite pf off b be val s) :=
  h.noAccess.ite (h.partialWrite.ite h.aliasWrite)

theorem State.Evolves.hostRd {pf f} (h : r.Evolves s) (hf : ∀ t, r.Evolves t → r.Evolves (f t)) : r.Evolves (s.hostRd pf f) := by
  unfold State.hostRd
  refine h.answer.ite ?_
  split
  · exact hf _ h
  · exact h.answer.ite (h.answer.ite (hf _ h))

theorem State.Evolves.readLatch {pf off} (h : r.Evolves s) : r.Evolves (s.readLatch pf off) := h.ite (h.modP.ite (h.modP.ite h))

theorem State.Evolves.readReg {pf off} (h : r.Evolves s) : r.Evolves (s.readReg pf off) :=
  h.hostRd fun _ ht => ht.draw.fnWr.readLatch.answer

theorem State.Evolves.leads_execReadClear {pf off} (h : r.Evolves s) : r.Leads (execReadClear pf off s) := by
  unfold execReadClear
  extract_lets
  split
  · exact h.noAccess
  · exact h.readReg
  · exact h.hostRd fun _ ht => ht.draw.answer

theorem State.Evolves.leads_execSerialRead (h : r.Evolves s) : r.Leads (execSerialRead s) := h.readReg

theorem State.Evolves.modVote {f} (h : r.Evolves s) : r.Evolves (s.modVote f) := h.modP

theorem State.Evolves.hubLostAll (h : r.Evolves s) : r.Evolves (s.hubLostAll) :=
  (h.eachC fun _ _ ht => ht.allDown.t2Dark.modC.ite ht).hubGone

theorem State.Evolves.noMajority {pf} (h : r.Evolves s) : r.Evolves (s.noMajority pf) := by
  unfold State.noMajority
  split
  · exact h.hubLostAll
  · exact h.retireWhole.ite h

theorem State.Evolves.voteOne {pf u} (h : r.Evolves s) : r.Evolves (s.voteOne pf u) := by
  unfold State.voteOne
  refine h.ite ?_
  refine h.noMajority.ite ?_
  extract_lets s1 s2 s3
  have h2 : r.Evolves s2 := h.fnSet.fnSet.fnSet.fnSet
  exact h2.post.modVote.fnSet.post.ite h2.post.modVote

theorem State.Evolves.leads_execVoteCheck {pf upsets} (h : r.Evolves s) : r.Leads (execVoteCheck pf upsets s) :=
  h.ite (h.foldl fun _ _ => State.Evolves.voteOne).modVote

theorem State.Evolves.leads_execEventIrq {pf} (h : r.Evolves s) : r.Leads (execEventIrq pf s) := h.ite h.irq

end Sys2Proof.Machine
end

section
/-! SUPPORT. What every step keeps. -/

namespace Sys2Proof.Machine

open Sys2Proof

set_option Elab.async false

variable {r s : State}

/-- Every command: an arm of `exec` each. -/
theorem State.Evolves.leads_exec (i : Instr) (h : r.Evolves s) : r.Leads (exec i s) := by
  unfold exec
  split
  · exact h.leads_execSupplyPresent
  · exact h.leads_execSupplyAbsent
  · exact h.leads_execPerstAssert
  · exact h.leads_execPerstRelease
  · exact h.leads_execStartUp
  · exact h.leads_execStartupRepeat
  · exact h.leads_execFlEnFall
  · exact h.leads_execHostPortLinkUp
  · exact h.leads_execConfigRequestAbsent
  · exact h.leads_execFlrChannel
  · exact h.leads_execFlrChannelDone
  · exact h.leads_execFlrHub
  · exact h.leads_execChannelRetire
  · exact h.leads_execHubFault
  · exact h.leads_execGafferReset
  · exact h.leads_execGafferReturn
  · exact h.leads_execLeaseRenew
  · exact h.leads_execLeaseExpire
  · exact h.leads_execLeaseClaim
  · exact h.leads_execLeaseWindowEnd
  · exact h.leads_execSplitGafferReset
  · exact h.leads_execGwClaim
  · exact h.leads_execGeClaim
  · exact h.leads_execSplitSeenClear
  · exact h.leads_execPassiveHoldRelease
  · exact h.leads_execAluAdd
  · exact h.leads_execAluSub
  · exact h.leads_execAluAnd
  · exact h.leads_execAluOr
  · exact h.leads_execAluXor
  · exact h.leads_execAluSll
  · exact h.leads_execAluSrl
  · exact h.leads_execAluSra
  · exact h.leads_execAluSlt
  · exact h.leads_execAluSltu
  · exact h.leads_execAluMin
  · exact h.leads_execAluMax
  · exact h.leads_execAluMul
  · exact h.leads_execAluMulh
  · exact h.leads_execAluMulhu
  · exact h.leads_execAluDiv
  · exact h.leads_execAluDivu
  · exact h.leads_execAluRem
  · exact h.leads_execAluRemu
  · exact h.leads_execAddi
  · exact h.leads_execAndi
  · exact h.leads_execOri
  · exact h.leads_execXori
  · exact h.leads_execShi
  · exact h.leads_execSlti
  · exact h.leads_execMovz
  · exact h.leads_execMovk
  · exact h.leads_execLd
  · exact h.leads_execLw
  · exact h.leads_execLwu
  · exact h.leads_execLoadComplete
  · exact h.leads_execSt
  · exact h.leads_execStw
  · exact h.leads_execLdl
  · exact h.leads_execStl
  · exact h.leads_execBeq
  · exact h.leads_execBne
  · exact h.leads_execBlt
  · exact h.leads_execBge
  · exact h.leads_execBltu
  · exact h.leads_execBgeu
  · exact h.leads_execJal
  · exact h.leads_execJalr
  · exact h.leads_execTdld
  · exact h.leads_execTdst
  · exact h.leads_execTdset
  · exact h.leads_execTdget
  · exact h.leads_execWait
  · exact h.leads_execSig
  · exact h.leads_execClaim
  · exact h.leads_execFree
  · exact h.leads_execRead
  · exact h.leads_execCsrr
  · exact h.leads_execFence
  · exact h.leads_execYield
  · exact h.leads_execHalt
  · exact h.leads_execTrap
  · exact h.leads_execSemTimeout
  · exact h.leads_execChSemWrite
  · exact h.leads_execWideRetry
  · exact h.leads_execEntryStart
  · exact h.leads_execPassBoundary
  · exact h.leads_execEntryComplete
  · exact h.leads_execCqBaseWrite
  · exact h.leads_execCqRdWrite
  · exact h.leads_execTickBoundary
  · exact h.leads_execRwtLatch
  · exact h.leads_execTickInEdge
  · exact h.leads_execTickMessage
  · exact h.leads_execTickHoldover
  · exact h.leads_execTickCfgWrite
  · exact h.leads_execTickNumRead
  · exact h.leads_execQuantumBoundary
  · exact h.leads_execSqDoorbell
  · exact h.leads_execSqBaseWrite
  · exact h.leads_execJcrRdWrite
  · exact h.leads_execJobKill
  · exact h.leads_execAtomicLimit
  · exact h.leads_execDonationLimit
  · exact h.leads_execArbGrant
  · exact h.leads_execResourceHang
  · exact h.leads_execMxGemm
  · exact h.leads_execMxGemv
  · exact h.leads_execMxConv
  · exact h.leads_execAveragePooling
  · exact h.leads_execMaximumPooling
  · exact h.leads_execArwsOwnWrite
  · exact h.leads_execArwsClearDone
  · exact h.leads_execAtPrefill
  · exact h.leads_execAtDecode
  · exact h.leads_execAtDecodeGq
  · exact h.leads_execEpMapPass
  · exact h.leads_execEpMapAdd
  · exact h.leads_execEpMapMul
  · exact h.leads_execSmaxNorm
  · exact h.leads_execRmsNorm
  · exact h.leads_execEpReduceSum
  · exact h.leads_execEpReduceMax
  · exact h.leads_execEpReduceMin
  · exact h.leads_execSumsq
  · exact h.leads_execAmax
  · exact h.leads_execArgmax
  · exact h.leads_execLse
  · exact h.leads_execEpSample
  · exact h.leads_execFtCtlWrite
  · exact h.leads_execFtReady
  · exact h.leads_execFtJcRangeWrite
  · exact h.leads_execFtHostRelease
  · exact h.leads_execHostReleaseApply
  · exact h.leads_execFtFork
  · exact h.leads_execFtPrune
  · exact h.leads_execFtLookupRead
  · exact h.leads_execFtLookupReserve
  · exact h.leads_execFtLookupCommit
  · exact h.leads_execFtLookupInfo
  · exact h.leads_execFtPinPin
  · exact h.leads_execUnpin
  · exact h.leads_execFtPinRelease
  · exact h.leads_execDetach
  · exact h.leads_execAdopt
  · exact h.leads_execSetPunty
  · exact h.leads_execRcCtlWrite
  · exact h.leads_execRcReady
  · exact h.leads_execRcChunk
  · exact h.leads_execRcFlush
  · exact h.leads_execRcStep
  · exact h.leads_execRcExportCopy
  · exact h.leads_execRcExportMove
  · exact h.leads_execRcExportFree
  · exact h.leads_execRcImportRecord
  · exact h.leads_execRcImportZero
  · exact h.leads_execChRcSwap
  · exact h.leads_execRcSwapped
  · exact h.leads_execMemMmuWrite
  · exact h.leads_execInv
  · exact h.leads_execFlush
  · exact h.leads_execTcWbRetry
  · exact h.leads_execPromotionPeriod
  · exact h.leads_execWindowCopyStart
  · exact h.leads_execWindowCopyDone
  · exact h.leads_execWindowLate
  · exact h.leads_execSwCfgWrite
  · exact h.leads_execRegRefill
  · exact h.leads_execRegulatorTuning
  · exact h.leads_execRegCfgWrite
  · exact h.leads_execT2LinkFail
  · exact h.leads_execT2CompletionTimeout
  · exact h.leads_execNvmeTimeout
  · exact h.leads_execTierStall
  · exact h.leads_execKvPageMask
  · exact h.leads_execLsCopy
  · exact h.leads_execWriteback
  · exact h.leads_execPrefetch
  · exact h.leads_execLsFill
  · exact h.leads_execLaserLow
  · exact h.leads_execLaserLost
  · exact h.leads_execLossOfLight
  · exact h.leads_execLaneFail
  · exact h.leads_execRingLoop
  · exact h.leads_execRingLockLost
  · exact h.leads_execFabRingMan
  · exact h.leads_execControlCodeword
  · exact h.leads_execSpareSwitch
  · exact h.leads_execCellReceive
  · exact h.leads_execFabMsgLost
  · exact h.leads_execFabVcStall
  · exact h.leads_execVcWeightTuning
  · exact h.leads_execMacGroupClose
  · exact h.leads_execKeyRenewal
  · exact h.leads_execLinkTraining
  · exact h.leads_execLinkTrainingRetry
  · exact h.leads_execLinkDelayMeasure
  · exact h.leads_execFabLinkDown
  · exact h.leads_execLinkDarkEnd
  · exact h.leads_execClSlotWrite
  · exact h.leads_execClReduceAllreduce
  · exact h.leads_execReduceScatter
  · exact h.leads_execClBcast
  · exact h.leads_execClAllgather
  · exact h.leads_execClAlltoall
  · exact h.leads_execExDispatch
  · exact h.leads_execExCombine
  · exact h.leads_execJoin
  · exact h.leads_execAbort
  · exact h.leads_execOrderTimeout
  · exact h.leads_execClStall
  · exact h.leads_execClPass
  · exact h.leads_execUp
  · exact h.leads_execDown
  · exact h.leads_execBlock
  · exact h.leads_execCount
  · exact h.leads_execGrant
  · exact h.leads_execRows
  · exact h.leads_execDone
  · exact h.leads_execRet
  · exact h.leads_execInrGo
  · exact h.leads_execReduce
  · exact h.leads_execBatch
  · exact h.leads_execLive
  · exact h.leads_execRecordDecodeDone
  · exact h.leads_execSlowRecord
  · exact h.leads_execGtBusyUpdate
  · exact h.leads_execGtSplitWrite
  · exact h.leads_execDigestRound
  · exact h.leads_execDigestRegionDone
  · exact h.leads_execDigest
  · exact h.leads_execHbmRetrain
  · exact h.leads_execHistoryCompaction
  · exact h.leads_execCperRdWrite
  · exact h.leads_execCopyEpoch
  · exact h.leads_execPcCopyGo
  · exact h.leads_execPcRestoreGo
  · exact h.leads_execCopyData
  · exact h.leads_execManifest
  · exact h.leads_execRestoreReq
  · exact h.leads_execAck
  · exact h.leads_execPcAckTimeout
  · exact h.leads_execRestoreFail
  · exact h.leads_execRegWrite
  · exact h.leads_execAliasWrite
  · exact h.leads_execReadClear
  · exact h.leads_execSerialRead
  · exact h.leads_execVoteCheck
  · exact h.leads_execEventIrq
  · exact h.leads_execLoad
  · exact h.leads_execMouldStaged
  · exact h.leads_execCommit
  · exact h.leads_execDrainLimit
  · exact h.leads_execMouldCommit
  · exact h.leads_execAbandon
  · exact h.leads_execStore
  · exact h.leads_execCurrentSum
  · exact h.leads_execCapCreditUpdate
  · exact h.leads_execIdleT
  · exact h.leads_execSleepT
  · exact h.leads_execDeepT
  · exact h.leads_execPowerEntryDone
  · exact h.leads_execPowerExitDone
  · exact h.leads_execPwrWake
  · exact h.leads_execPwrCmd
  · exact h.leads_execHubPwrOff
  · exact h.leads_execWakeN
  · exact h.leads_execAlertN
  · exact h.leads_execStuckInput
  · exact h.leads_execPinRearm
  · exact h.leads_execSecAlarm
  · exact h.leads_execSecErased
  · exact h.leads_execSecAlarmAck
  · exact h.leads_execSecPolicyWrite
  · exact h.leads_execI3cStatus
  · exact h.leads_execHistCount
  · exact h.leads_execHistRead
  · exact h.leads_execI3cPwrOff
  · exact h.leads_execI3cTemp
  · exact h.leads_execThermHold
  · exact h.leads_execThermHoldRelease
  · exact h.leads_execThermTrip
  · exact h.leads_execThermTripRelease
  · exact h.leads_execIllegalOp
  · exact h.leads_execUncorrectableCodeword
  · exact h.leads_execAlertNInactive
  · exact h.leads_execLaserReturn
  · exact h.leads_execStoreDone
  · exact h.leads_execWriteBackComplete
  · exact h.leads_execCopyReadDone
  · exact h.leads_execInrFail
  · exact h.leads_execRowRemapDone
  · exact h.leads_execRequesterUnmasked
  · exact h.leads_execFlashRecoveryPortAccess
  · exact h.leads_execJtagInstruction

/-- Every step that goes on. -/
theorem step_evolves {t : State} (h : step s = .next t) : s.Evolves t := by
  unfold step at h
  split at h
  · cases h
    exact State.Evolves.refl s
  · next c rest _ =>
    have hp : s.Evolves { s with pending := rest } := ⟨id, id, fun _ hx _ => hx⟩
    have g := hp.leads_exec c
    rwa [h] at g

/-- Settles O56: a step runs one command on a state that differs in the queue alone, and no command takes
a memory out of canonical form. -/
theorem stepKeepsMemoryCanonical : Obligations.StepKeepsMemoryCanonical :=
  fun _ _ hc h => (step_evolves h).canonical hc

end Sys2Proof.Machine
end

section
/-! SUPPORT. A load's bytes and the value it gives its register. -/

namespace Sys2Proof.Machine

open Sys2Proof

/-! ## Bytes -/

theorem leNat_lt : ∀ bs : List Byte, leNat bs < 256 ^ bs.length
  | [] => by simp [leNat]
  | b :: bs => by
    have hb := b.isLt
    have ih := leNat_lt bs
    simp only [leNat, List.length_cons, Nat.pow_succ]
    omega

theorem readRun_length {f : Nat → Except MemErr Byte} :
    ∀ {n va : Nat} {bs : List Byte}, readRun f va n = .ok bs → bs.length = n
  | 0, va, bs, h => by
    cases h
    rfl
  | n + 1, va, bs, h => by
    unfold readRun at h
    split at h
    · cases h
    · split at h
      · cases h
      · next hs =>
        cases h
        simp [readRun_length hs]

/-- Where a context may read every byte, the bytes it gets are those in memory. -/
theorem mapIdx_seen {bs : List Byte} {p : Nat → Bool} {f : Nat → Byte} (h : ∀ i < bs.length, p i = false) :
    bs.mapIdx (fun i b => if p i then f i else b) = bs :=
  List.ext_getElem (by simp) fun i hi _ => by
    rw [List.length_mapIdx] at hi
    simp [h i hi]

/-! ## The context after a load -/

@[simp] theorem Ctx.wg_load (c : Ctx) (r : Fin 32) (v : DWord) : (c.wg r v).load = c.load := by
  rw [Ctx.wg_eq]

@[simp] theorem Ctx.wg_pc (c : Ctx) (r : Fin 32) (v : DWord) : (c.wg r v).pc = c.pc := by
  rw [Ctx.wg_eq]

@[simp] theorem Ctx.wg_td (c : Ctx) (r : Fin 32) (v : DWord) : (c.wg r v).td = c.td := by
  rw [Ctx.wg_eq]

theorem Ctx.loaded_load (c : Ctx) (l : PendLoad) (v : Nat) : (c.loaded l v).load = none := by
  unfold Ctx.loaded
  split <;> simp [Ctx.next]

theorem Ctx.loaded_pc (c : Ctx) (l : PendLoad) (v : Nat) : (c.loaded l v).pc = c.pc + 4 := by
  unfold Ctx.loaded
  split <;> simp [Ctx.next]

theorem Ctx.loaded_tdld {c : Ctx} {l : PendLoad} (h : l.kind = .tdld) (v : Nat) :
    c.loaded l v = { c with load := none, pc := c.pc + 4, td := c.td.set (Fin.ofNat 64 l.dst) (BitVec.ofNat 256 v) } := by
  simp [Ctx.loaded, h, Ctx.next]

/-- The value that LD, LW and LWU give their register. -/
def PendLoad.word (l : PendLoad) (v : Nat) : DWord :=
  if l.kind = .lw then BitVec.ofInt 64 (BitVec.ofNat 32 v).toInt else BitVec.ofNat 64 v

theorem Ctx.loaded_reg {c : Ctx} {l : PendLoad} (h : l.kind ≠ .tdld) {v : Nat} (hv : v < 256 ^ l.kind.size) :
    c.loaded l v = (({ c with load := none } : Ctx).wg (Fin.ofNat 32 l.dst) (l.word v)).next := by
  unfold Ctx.loaded PendLoad.word
  split
  · next e => simp [e]
  · next e => simp [e, BitVec.signExtend]
  · next e =>
    have hv : v < 2 ^ 32 := by simpa [e, LoadKind.size] using hv
    have he : (BitVec.ofNat 32 v).zeroExtend 64 = BitVec.ofNat 64 v := by
      apply BitVec.eq_of_toNat_eq
      simp
      omega
    simp [e, he]
  · next e => exact absurd e h

end Sys2Proof.Machine
end

section
/-! SUPPORT. What a read through translation changes when every byte lies in T1: translations held and what the channel's
partition is charged. -/

namespace Sys2Proof.Machine

open Sys2Proof

variable {s t : State} {ch : ChIdx}

/-- A state after changes of a channel's buckets and of the registers of a list, with the translations it holds. -/
structure State.Charged (s t : State) (ch : ChIdx) (regs : List Nat) (tlb : List TlbRow) : Prop where
  only : s.onlyChan t ch
  rest : ∃ reg bucket, t.chan[ch] =
    { s.chan[ch] with reg := reg, mem := { (s.chan[ch]).mem with tlb := tlb, bucket := bucket } }
  regs : ∀ o, o ∉ regs → (t.chan[ch]).rd o = (s.chan[ch]).rd o

variable {regs : List Nat} {tlb : List TlbRow}

theorem State.Charged.refl (s : State) (ch : ChIdx) (regs : List Nat) : s.Charged s ch regs (s.chan[ch]).mem.tlb :=
  ⟨⟨rfl, rfl, rfl, fun _ _ => rfl⟩, ⟨_, _, rfl⟩, fun _ _ => rfl⟩

theorem State.Charged.tlb_eq (h : s.Charged t ch regs tlb) : (t.chan[ch]).mem.tlb = tlb := by
  obtain ⟨-, ⟨reg, bucket, hc⟩, -⟩ := h
  rw [hc]

theorem State.Charged.mono {more : List Nat} (h : s.Charged t ch regs tlb) (hm : ∀ o ∈ regs, o ∈ more) :
    s.Charged t ch more tlb := ⟨h.only, h.rest, fun o ho => h.regs o fun hr => ho (hm o hr)⟩

/-- A change of the channel alone. -/
theorem State.Charged.modC {f : Chan → Chan} {tlb' : List TlbRow} (h : s.Charged t ch regs tlb)
    (hf : ∃ reg bucket, f t.chan[ch] =
      { t.chan[ch] with reg := reg, mem := { (t.chan[ch]).mem with tlb := tlb', bucket := bucket } })
    (hr : ∀ o, o ∉ regs → (f t.chan[ch]).rd o = (t.chan[ch]).rd o) : s.Charged (t.modC ch f) ch regs tlb' := by
  obtain ⟨⟨hp, hfree, hq, ho⟩, ⟨_, _, hc⟩, hs⟩ := h
  obtain ⟨reg, bucket, hf⟩ := hf
  refine ⟨⟨hp, hfree, hq, fun c hn => (State.modC_other t f hn).trans (ho c hn)⟩, ⟨reg, bucket, ?_⟩, fun o hn => ?_⟩
  · rw [State.modC_same, hf, hc]
  · rw [State.modC_same, hr o hn, hs o hn]

/-- A change of the channel that leaves the translations. -/
theorem State.Charged.modC_tlb {f : Chan → Chan} (h : s.Charged t ch regs tlb)
    (hf : ∃ reg bucket, f t.chan[ch] =
      { t.chan[ch] with reg := reg, mem := { (t.chan[ch]).mem with bucket := bucket } })
    (hr : ∀ o, o ∉ regs → (f t.chan[ch]).rd o = (t.chan[ch]).rd o) : s.Charged (t.modC ch f) ch regs tlb := by
  obtain ⟨reg, bucket, hf⟩ := hf
  exact h.modC ⟨reg, bucket, by rw [hf, ← h.tlb_eq]⟩ hr

theorem State.Charged.wr {off : Nat} {g : Chan → Word} (h : s.Charged t ch regs tlb) (hf : off ∈ regs) :
    s.Charged (t.modC ch fun c => c.wr off (g c)) ch regs tlb :=
  h.modC_tlb ⟨_, _, rfl⟩ fun _ ho => Chan.rd_wr_other _ _ fun e => ho (e ▸ hf)

theorem State.fnWr_pfOf (s : State) (ch : ChIdx) (off : Nat) (v : Word) : s.fnWr (pfOf ch) off v = s.modC ch (·.wr off v) := by
  have h : pfChan (pfOf ch) = some ch := by simp [pfChan, pfOf]
  simp [State.fnWr, h]

theorem State.Charged.setB {f : Fld} {v : Nat} (h : s.Charged t ch regs tlb) (hf : f.off ∈ regs) :
    s.Charged (t.setB (.t1 ch) f v) ch regs tlb := by
  unfold State.setB State.fnSet
  rw [instPf, State.fnWr_pfOf]
  exact h.wr hf

theorem State.Charged.modBucket {k : Nat} {f : Bucket → Bucket} (h : s.Charged t ch regs tlb) :
    s.Charged (t.modBucket (.t1 ch) k f) ch regs tlb := by
  unfold State.modBucket
  exact h.modC_tlb ⟨_, _, rfl⟩ fun _ _ => rfl

theorem State.Charged.transfer {k n : Nat} (h : s.Charged t ch regs tlb) (hk : instOff (.t1 ch) k + 4 ∈ regs) :
    s.Charged (t.transfer (.t1 ch) k ch n) ch regs tlb := by
  unfold State.transfer
  split
  · exact h
  · extract_lets n t m s1
    have h1 : s.Charged s1 ch regs tlb := (h.setB hk).modBucket
    split
    · exact h1
    · exact h1.modBucket.setB hk

theorem State.Charged.tcCount (h : s.Charged t ch regs tlb) (hr : 0x7014 ∈ regs) : s.Charged (t.tcCount ch) ch regs tlb := by
  unfold State.tcCount State.setF Chan.setFld
  exact (h.wr hr).wr hr

/-- The registers that say what the channel's partition is charged at T1. -/
def State.chargedRegs (s : State) (ch : ChIdx) : List Nat :=
  match s.partIdx ch with
  | none => []
  | some p => [instOff (.t1 ch) p.val + 4]

theorem State.chargedRegs_bounds {o : Nat} (h : o ∈ s.chargedRegs ch) : 0x7104 ≤ o ∧ o ≤ 0x713C := by
  unfold State.chargedRegs at h
  split at h
  · simp at h
  · next p _ =>
    simp only [List.mem_singleton, instOff] at h
    omega

theorem State.Charged.charge {n : Nat} (h : s.Charged t ch (s.chargedRegs ch) tlb) :
    s.Charged (t.charge ch .t1 n) ch (s.chargedRegs ch) tlb := by
  have hp : t.partIdx ch = s.partIdx ch := by
    unfold State.partIdx State.place
    simp only [h.only.1]
  cases e : s.partIdx ch with
  | none => simpa [State.charge, hp, e] using h
  | some p =>
    have hk : instOff (.t1 ch) p.val + 4 ∈ s.chargedRegs ch := by simp [State.chargedRegs, e]
    simpa [State.charge, hp, e] using h.transfer hk

/-! ## Translations held -/

/-- The list holds a translation of a page into T1. -/
def holdsT1 (tlb : List TlbRow) (p : Nat) : Prop := ∃ row, tlb.find? (fun r => r.vpn == p) = some row ∧ row.leaf.tier = .t1

/-- The translations held after a page was used. -/
def tlbAdd (tlb : List TlbRow) (p : Nat) (l : Leaf) : List TlbRow :=
  if tlb.any (fun r => r.vpn == p) then tlb else (⟨p, l⟩ :: tlb).take 4096

/-- A page whose translation was in the list, or came in with one into T1. -/
theorem holdsT1_tlbAdd {p : Nat} {l : Leaf} (h : ∀ row, tlb.find? (fun r => r.vpn == p) = some row → row.leaf = l)
    (hl : l.tier = .t1) : holdsT1 (tlbAdd tlb p l) p := by
  unfold tlbAdd
  split
  · next ha =>
    obtain ⟨row, hrow⟩ := Option.isSome_iff_exists.1 (List.find?_isSome.2 (List.any_eq_true.1 ha))
    exact ⟨row, hrow, h row hrow ▸ hl⟩
  · exact ⟨⟨p, l⟩, by simp, hl⟩

/-- With room in the list, no translation leaves it, so that one more can come. -/
theorem holdsT1_tlbAdd_take {p : Nat} {l : Leaf} (hn : tlb.length < 4096) (h : holdsT1 (tlbAdd tlb p l) p) :
    holdsT1 ((tlbAdd tlb p l).take 4095) p := by
  unfold tlbAdd at *
  split
  · next ha =>
    rw [List.take_of_length_le (by omega)]
    rwa [if_pos ha] at h
  · next ha =>
    obtain ⟨row, hrow, ht⟩ := h
    exact ⟨row, by simpa [ha] using hrow, ht⟩

/-- Another page comes: at most the last translation leaves. -/
theorem holdsT1_tlbAdd_other {p q : Nat} {l : Leaf} (h : holdsT1 (tlb.take 4095) p) (hq : q ≠ p) :
    holdsT1 (tlbAdd tlb q l) p := by
  obtain ⟨row, hrow, ht⟩ := h
  refine ⟨row, ?_, ht⟩
  unfold tlbAdd
  split
  · rw [← List.take_append_drop 4095 tlb, List.find?_append, hrow, Option.some_or]
  · simpa [hq] using hrow

theorem find?_tlbAdd_other {p q : Nat} {l : Leaf} (hn : tlb.length < 4096) (hq : q ≠ p) :
    (tlbAdd tlb q l).find? (fun r => r.vpn == p) = tlb.find? (fun r => r.vpn == p) := by
  unfold tlbAdd
  split
  · rfl
  · rw [List.take_of_length_le (by simpa using hn)]
    simp [hq]

theorem State.leaf_of_translate {va a : Nat} {l : Leaf} (h : s.translate ch va = .ok (l, a)) : s.leaf ch va = some l := by
  unfold State.translate at h
  split at h
  · cases h
  · split at h
    · cases h
    · next hl =>
      dsimp only at h
      split at h <;> cases h
      exact hl

/-- Of a page held with a translation into T1, every byte that translates lies in T1. -/
theorem State.tier_of_holdsT1 {va a : Nat} {l : Leaf} (h : holdsT1 (s.chan[ch]).mem.tlb (va / 4096))
    (ht : s.translate ch va = .ok (l, a)) : l.tier = .t1 := by
  obtain ⟨row, hrow, hl⟩ := h
  have e := State.leaf_of_translate ht
  simp only [State.leaf, hrow, Option.some.injEq] at e
  exact e ▸ hl

/-- Translation looks at memory, at three registers and at the translations held. -/
theorem State.Charged.translate {va : Nat} (h : s.Charged t ch (s.chargedRegs ch) tlb)
    (hl : tlb.find? (fun r => r.vpn == va / 4096) = (s.chan[ch]).mem.tlb.find? (fun r => r.vpn == va / 4096)) :
    t.translate ch va = s.translate ch va := by
  have hf (f : Fld) (hn : f.off < 0x7104 ∨ 0x713C < f.off) : t.f ch f = s.f ch f := by
    unfold State.f Chan.fld
    rw [h.regs _ fun hm => by have := State.chargedRegs_bounds hm; omega]
  have hw : t.walk ch va = s.walk ch va := by
    obtain ⟨reg, bucket, hc⟩ := h.rest
    unfold State.walk State.pte
    rw [hf _ (.inl (by decide)), hc]
  have hi (x : Tier) (a : Nat) : t.within ch x a = s.within ch x a := by
    cases x with
    | t1 => rfl
    | t2 => simp only [State.within, hf R.MEM_T2_STAT_CAP_GIB (.inr (by decide))]
    | t3 => simp only [State.within, h.only.1]
  have hleaf : t.leaf ch va = s.leaf ch va := by
    unfold State.leaf
    rw [h.tlb_eq, hl, hw]
  unfold State.translate
  rw [hf _ (.inl (by decide)), hleaf]
  simp only [hi]

theorem State.Charged.tlbFill {va a : Nat} {l : Leaf} (h : s.Charged t ch regs tlb) (ht : t.translate ch va = .ok (l, a)) :
    s.Charged (t.tlbFill ch va) ch regs (tlbAdd tlb (va / 4096) l) := by
  unfold State.tlbFill tlbAdd
  rw [h.tlb_eq]
  split
  · exact h
  · rw [ht]
    exact h.modC ⟨(t.chan[ch]).reg, (t.chan[ch]).mem.bucket, by rw [← h.tlb_eq]⟩ fun _ _ => rfl

/-! ## Bytes in T1 -/

theorem State.cached_t1 {va : Nat} {l : Leaf} (h : l.tier = .t1) : s.cached ch va l = false := by
  simp [State.cached, h]

/-- What a read moves is charged at T1, where its page is held with a translation into T1. -/
theorem State.Charged.chargeRun {x : Nat × Nat} (h : s.Charged t ch (s.chargedRegs ch) tlb) (hx : holdsT1 tlb (x.1 / 4096)) :
    s.Charged (t.chargeRun ch x) ch (s.chargedRegs ch) tlb := by
  unfold State.chargeRun
  split
  · exact h
  · next l a ht =>
    have hl : l.tier = .t1 := State.tier_of_holdsT1 (h.tlb_eq ▸ hx) ht
    simpa [State.cached_t1 hl, State.moved, hl] using h.charge

/-- A fold whose steps leave the start as it was. -/
theorem foldl_eq_self {σ α : Type} {f : σ → α → σ} {s : σ} {l : List α} (h : ∀ x ∈ l, f s x = s) :
    l.foldl f s = s := by
  induction l with
  | nil => rfl
  | cons x l ih =>
    rw [List.foldl_cons, h x (by simp)]
    exact ih fun y hy => h y (by simp [hy])

/-- No region is counted for promotion. -/
theorem State.countPromo_t1 {va n : Nat} (h : ∀ i, i < ceilDiv (va % 64 + n) 64 →
    holdsT1 (s.chan[ch]).mem.tlb ((va / 64 * 64 + i * 64) / 4096)) : s.countPromo ch va n = s := by
  unfold State.countPromo
  refine foldl_eq_self fun v hv => ?_
  obtain ⟨i, hi, rfl⟩ := List.mem_map.1 hv
  split
  · rfl
  · next ht => simp [State.tier_of_holdsT1 (h i (List.mem_range.1 hi)) ht]

/-- Of a few bytes from an address on: those in its page, and those in the next page, if any. -/
theorem granRuns_cases {va n : Nat} (h0 : 0 < n) (hn : n ≤ 4096) :
    (∃ x, granRuns va n = [(va, x)] ∧ va + n ≤ (va / 4096 + 1) * 4096) ∨
      ∃ x y, granRuns va n = [(va, x), ((va / 4096 + 1) * 4096, y)] ∧ (va / 4096 + 1) * 4096 < va + n := by
  have hc : ceilDiv (va % 4096 + n) 4096 = (va % 4096 + n + 4095) / 4096 := rfl
  unfold granRuns
  rw [hc]
  by_cases h : va + n ≤ (va / 4096 + 1) * 4096
  · have e : (va % 4096 + n + 4095) / 4096 = 1 := by omega
    have hm : max va (va / 4096 * 4096) = va := Nat.max_eq_left (by omega)
    exact .inl ⟨min (va + n) ((va / 4096 + 1) * 4096) - va, by simp [e, hm], h⟩
  · have e : (va % 4096 + n + 4095) / 4096 = 2 := by omega
    have hm : max va (va / 4096 * 4096) = va := Nat.max_eq_left (by omega)
    have hm' : max va ((va / 4096 + 1) * 4096) = (va / 4096 + 1) * 4096 := Nat.max_eq_right (by omega)
    exact .inr ⟨min (va + n) ((va / 4096 + 1) * 4096) - va,
      min (va + n) ((va / 4096 + 1 + 1) * 4096) - (va / 4096 + 1) * 4096,
      by simp only [e, show List.range 2 = [0, 1] from rfl, List.map_cons, List.map_nil, Nat.add_zero, hm, hm'], by omega⟩

/-- What a read does for the bytes of one page. -/
def State.touchRun (s : State) (ch : ChIdx) (x : Nat × Nat) : State :=
  let s := match s.translate ch x.1 with
    | .error _ => s
    | .ok (l, a) => if s.cached ch x.1 l then s.tcTouch ch l.tier (a / 4096) else s
  (s.tlbFill ch x.1).chargeRun ch x

theorem State.vaTouch_eq (s : State) (ch : ChIdx) (va n : Nat) :
    s.vaTouch ch va n = (((granRuns va n).foldl (fun s x => s.touchRun ch x) s).tcCount ch).countPromo ch va n := rfl

/-- Bytes of a page in T1: its translation is held from now on. -/
theorem State.Charged.touchRun {x : Nat × Nat} {f : Leaf} {a : Nat} (h : s.Charged t ch (s.chargedRegs ch) tlb)
    (ht : t.translate ch x.1 = .ok (f, a)) (hf : f.tier = .t1) :
    s.Charged (t.touchRun ch x) ch (s.chargedRegs ch) (tlbAdd tlb (x.1 / 4096) f) ∧
      holdsT1 (tlbAdd tlb (x.1 / 4096) f) (x.1 / 4096) := by
  have held : holdsT1 (tlbAdd tlb (x.1 / 4096) f) (x.1 / 4096) := by
    refine holdsT1_tlbAdd (fun row hrow => ?_) hf
    have e := State.leaf_of_translate ht
    simp only [State.leaf, h.tlb_eq, hrow, Option.some.injEq] at e
    exact e
  have e : t.touchRun ch x = (t.tlbFill ch x.1).chargeRun ch x := by
    simp [State.touchRun, ht, State.cached_t1 hf]
  exact ⟨e ▸ (h.tlbFill ht).chargeRun held, held⟩

/-- The count of dirty granules and of regions to promote, once every page read is held with a translation into T1. -/
theorem State.Charged.counts {va n : Nat} (h : s.Charged t ch (s.chargedRegs ch) tlb)
    (hp : ∀ p, va / 4096 ≤ p → p * 4096 < va + n → holdsT1 tlb p) :
    s.Charged ((t.tcCount ch).countPromo ch va n) ch (0x7014 :: s.chargedRegs ch) tlb := by
  have hc : s.Charged (t.tcCount ch) ch (0x7014 :: s.chargedRegs ch) tlb :=
    (h.mono fun _ ho => List.mem_cons_of_mem _ ho).tcCount (List.mem_cons_self ..)
  rwa [State.countPromo_t1 fun i hi => ?_]
  have hi : i < (va % 64 + n + 63) / 64 := hi
  rw [hc.tlb_eq]
  exact hp _ (by omega) (by omega)

/-- A read of bytes in T1. -/
theorem State.vaTouch_t1 {va n : Nat} (h0 : 0 < n) (hn : n ≤ 4096) (hr : (s.chan[ch]).mem.tlb.length < 4096)
    (ht : ∀ i, i < n → ∃ f a, s.translate ch (va + i) = .ok (f, a) ∧ f.tier = .t1) :
    ∃ tlb, s.Charged (s.vaTouch ch va n) ch (0x7014 :: s.chargedRegs ch) tlb := by
  obtain ⟨f, a, ha, hf⟩ := ht 0 h0
  rw [State.vaTouch_eq]
  obtain ⟨x, e, hx⟩ | ⟨x, y, e, hx⟩ := granRuns_cases h0 hn
  · obtain ⟨h1, held⟩ := (State.Charged.refl s ch _).touchRun (x := (va, x)) ha hf
    rw [e]
    refine ⟨_, h1.counts fun p hl hp => ?_⟩
    obtain rfl : p = va / 4096 := by omega
    exact held
  · obtain ⟨h1, held⟩ := (State.Charged.refl s ch _).touchRun (x := (va, x)) ha hf
    obtain ⟨g, b, hb, hg⟩ := ht ((va / 4096 + 1) * 4096 - va) (by omega)
    rw [show va + ((va / 4096 + 1) * 4096 - va) = (va / 4096 + 1) * 4096 by omega] at hb
    rw [← h1.translate (find?_tlbAdd_other hr (by omega))] at hb
    obtain ⟨h2, held'⟩ := h1.touchRun (x := ((va / 4096 + 1) * 4096, y)) hb hg
    rw [e]
    refine ⟨_, h2.counts fun p hl hp => ?_⟩
    by_cases hq : p = va / 4096
    · subst hq
      exact holdsT1_tlbAdd_other (holdsT1_tlbAdd_take hr held) (by omega)
    · obtain rfl : p = (va / 4096 + 1) * 4096 / 4096 := by omega
      exact held'

end Sys2Proof.Machine
end

section
/-! SUPPORT. LOAD_COMPLETE. -/

namespace Sys2Proof.Machine

open Sys2Proof

variable {s : State} {ch : ChIdx} {jc : JcIdx} {l : PendLoad} {bs : List Byte}

theorem State.eccDone_same (s : State) (ch : ChIdx) :
    (s.eccDone ch).chan[ch] = { s.chan[ch] with mem := { (s.chan[ch]).mem with bad3 := [] } } := by
  unfold State.eccDone
  split
  · next h => rw [← List.isEmpty_iff.1 h]
  · rw [State.modMem_same]

theorem State.eccDone_only (s : State) (ch : ChIdx) : s.onlyChan (s.eccDone ch) ch := by
  unfold State.eccDone
  split
  · exact ⟨rfl, rfl, rfl, fun _ _ => rfl⟩
  · exact ⟨rfl, rfl, rfl, fun _ hc => State.modC_other s _ hc⟩

/-- The state after a load: a free value is drawn, the bytes are read, and the context gets their value. -/
def State.afterLoad (s : State) (ch : ChIdx) (jc : JcIdx) (l : PendLoad) (v : Nat) : State :=
  ((s.draw.2.vaTouch ch l.va.toNat l.kind.size).eccDone ch).modX ch jc fun c => c.loaded l v

/-- A load whose bytes can be read and seen. -/
theorem execLoadComplete_ok (hl : (s.ctx ch jc).load = some l) (hb : s.vaRead ch l.va.toNat l.kind.size = .ok bs)
    (hw : s.waitsRow ch l.va.toNat l.kind.size = false)
    (hu : ∀ i, i < l.kind.size → s.unseen ch jc (l.va.toNat + i) = false) :
    execLoadComplete ch jc [] s =
      .next (s.afterLoad ch jc l (leNat bs)) := by
  have seen : ∀ i < bs.length, s.draw.2.unseen ch jc (l.va.toNat + i) = false := by
    rw [readRun_length hb]
    exact hu
  have hb : (s.ecc ch []).vaRead ch l.va.toNat l.kind.size = .ok bs := hb
  simp only [execLoadComplete, hl, hw, hb, Bool.false_eq_true, if_false]
  rw [show (s.ecc ch []).draw = s.draw from rfl, mapIdx_seen seen]
  rfl

theorem State.eccDone_ctx (s : State) (ch : ChIdx) (j : JcIdx) : (s.eccDone ch).ctx ch j = s.ctx ch j := by
  rw [State.ctx, State.eccDone_same]
  rfl

theorem State.touched_ctx (s : State) (ch : ChIdx) (j : JcIdx) (va n : Nat) :
    ((s.draw.2.vaTouch ch va n).eccDone ch).ctx ch j = s.ctx ch j := by
  rw [State.eccDone_ctx, State.ctx, State.vaTouch_ctx]
  rfl

theorem State.afterLoad_ctx (s : State) (ch : ChIdx) (jc : JcIdx) (l : PendLoad) (v : Nat) :
    (s.afterLoad ch jc l v).ctx ch jc = (s.ctx ch jc).loaded l v := by
  rw [State.afterLoad, State.modX_ctx, State.touched_ctx]

theorem State.afterLoad_ctxOther (s : State) (ch : ChIdx) {jc j : JcIdx} (l : PendLoad) (v : Nat) (h : j ≠ jc) :
    (s.afterLoad ch jc l v).ctx ch j = s.ctx ch j := by
  rw [State.afterLoad, State.modX_ctxOther _ _ _ h, State.touched_ctx]

theorem LoadKind.size_bounds (k : LoadKind) : 0 < k.size ∧ k.size ≤ 4096 := by
  cases k <;> decide

/-- What the end of a load leaves of the state after its read: the context alone changes, and no memory error is pending. -/
theorem State.Charged.landed {t : State} {regs : List Nat} {tlb : List TlbRow} (h : s.Charged t ch regs tlb) (jc : JcIdx)
    (f : Ctx → Ctx) : let u := (t.eccDone ch).modX ch jc f
    s.onlyChan u ch ∧ (∀ o, o ∉ regs → (u.chan[ch]).rd o = (s.chan[ch]).rd o) ∧
      ∃ buckets, u.chan[ch] = { s.chan[ch] with
        ctx := (u.chan[ch]).ctx, reg := (u.chan[ch]).reg,
        mem := { (s.chan[ch]).mem with tlb := tlb, bucket := buckets, bad3 := [] } } := by
  obtain ⟨⟨hp, hf, hq, ho⟩, ⟨reg, bucket, hc⟩, hrd⟩ := h
  obtain ⟨ep, ef, eq, eo⟩ := t.eccDone_only ch
  refine ⟨⟨ep.trans hp, ef.trans hf, eq.trans hq, fun c hn => ?_⟩, fun o hn => ?_, bucket, ?_⟩
  · rw [State.modX_otherC _ _ _ hn, eo c hn, ho c hn]
  · rw [State.modX_same, State.eccDone_same]
    exact hrd o hn
  · rw [State.modX_same, State.eccDone_same, hc]

/-- A load from T1 changes translations held, buckets, and what they count. -/
theorem State.afterLoad_charged (v : Nat) (hr : (s.chan[ch]).mem.tlb.length < 4096)
    (ht : ∀ i, i < l.kind.size → ∃ f a, s.translate ch (l.va.toNat + i) = .ok (f, a) ∧ f.tier = .t1) :
    let t := s.afterLoad ch jc l v
    s.onlyChan { t with free := s.free } ch ∧ t.free = s.free + 1 ∧
      (∀ o, o ≠ 0x7014 → o ∉ s.chargedRegs ch → (t.chan[ch]).rd o = (s.chan[ch]).rd o) ∧
      ∃ tlb buckets, t.chan[ch] = { s.chan[ch] with
        ctx := (t.chan[ch]).ctx, reg := (t.chan[ch]).reg,
        mem := { (s.chan[ch]).mem with tlb := tlb, bucket := buckets, bad3 := [] } } := by
  obtain ⟨h0, hn⟩ := l.kind.size_bounds
  obtain ⟨tlb, h⟩ := State.vaTouch_t1 (s := s.draw.2) (ch := ch) h0 hn hr ht
  obtain ⟨⟨hp, hf, hq, ho⟩, hrd, buckets, hc⟩ := h.landed jc fun c => c.loaded l v
  exact ⟨⟨hp, rfl, hq, ho⟩, hf, fun o h1 h2 => hrd o fun hm => (List.mem_cons.1 hm).elim h1 h2, tlb, buckets, hc⟩

/-- Settles O8: the context gets the loaded value, and a read of bytes in T1 is charged and leaves the rest. -/
theorem loadsComplete : Obligations.LoadsComplete := by
  unfold Obligations.LoadsComplete
  intro s ch jc l bs hl hb hw hu charged
  have hv : leNat bs < 256 ^ l.kind.size := readRun_length hb ▸ leNat_lt bs
  refine ⟨s.afterLoad ch jc l (leNat bs), execLoadComplete_ok hl hb hw hu, ?_⟩
  beta_reduce
  rw [State.afterLoad_ctx]
  refine ⟨Ctx.loaded_load .., Ctx.loaded_pc .., fun hk => ?_, fun hk => ?_, fun hr ht => ?_⟩
  · rw [Ctx.loaded_tdld hk]
    exact ⟨by simp, rfl, fun k hn => Vector.getElem_set_ne (Fin.isLt _) k.isLt (Fin.val_ne_of_ne hn.symm)⟩
  · rw [Ctx.loaded_reg hk hv]
    exact ⟨by simp [Ctx.next], fun r hr => Ctx.rg_wg_other _ _ hr, fun hd => Ctx.rg_wg_same _ _ _ hd⟩
  · obtain ⟨honly, hfree, hregs, hrest⟩ := State.afterLoad_charged (leNat bs) hr ht
    exact ⟨honly, hfree, fun j hj => State.afterLoad_ctxOther _ _ _ _ hj, hregs, hrest⟩

end Sys2Proof.Machine
end

section
/-! SUPPORT. What stays on one channel: the operations of a channel leave every other channel as it is, and of the hub change
only the event paths, host memory and T3, the T3 buckets and the wakes held. One relation carries this, so that each operation
is looked at once. -/

namespace Sys2Proof.Machine

open Sys2Proof

set_option Elab.async false

/-- The hub but for its registers and what the operations of a channel reach. -/
def Pkg.apart (p : Pkg) : Pkg :=
  let n := Pkg.new
  { p with reg := n.reg, evt := n.evt, evtSeq := n.evtSeq, host := n.host, t3 := n.t3, lost3 := n.lost3, nvTail := n.nvTail,
           t3Bucket := n.t3Bucket, heldWakes := n.heldWakes }

/-- A state after changes that stay on one channel. -/
structure State.Confined (ch : ChIdx) (r s : State) : Prop where
  others : ∀ c, c ≠ ch → s.chan[c] = r.chan[c]
  draining : (s.chan[ch]).draining = (r.chan[ch]).draining
  apart : s.pkg.apart = r.pkg.apart
  regs : ∀ o, o < 0x7200 → o ∉ eventRegs → s.pkg.rd o = r.pkg.rd o
  events : ∀ x, 0x8002 ≤ x → s.seqOf x = r.seqOf x

variable {r s : State} {ch : ChIdx} {jc : JcIdx}

namespace State.Confined

theorem refl (ch : ChIdx) (s : State) : s.Confined ch s := ⟨fun _ _ => rfl, rfl, rfl, fun _ _ _ => rfl, fun _ _ => rfl⟩

theorem trans {t : State} (h : Confined ch r s) (g : Confined ch s t) : Confined ch r t :=
  ⟨fun c hc => (g.others c hc).trans (h.others c hc), g.draining.trans h.draining, g.apart.trans h.apart,
    fun o h1 h2 => (g.regs o h1 h2).trans (h.regs o h1 h2), fun x hx => (g.events x hx).trans (h.events x hx)⟩

/-! ## Changes of the channel and of the hub -/

theorem modC {f : Chan → Chan} (h : Confined ch r s) (hf : ∀ c, (f c).draining = c.draining := by exact fun _ => rfl) :
    Confined ch r (s.modC ch f) :=
  h.trans ⟨fun c hc => State.modC_other s f hc, by rw [State.modC_same, hf], rfl, fun _ _ _ => rfl, fun _ _ => rfl⟩

/-- A change of the hub beside its registers and the numbers of its event sources. -/
theorem modP {f : Pkg → Pkg} (h : Confined ch r s) (ha : ∀ p, (f p).apart = p.apart := by exact fun _ => rfl)
    (hr : ∀ p, (f p).reg = p.reg := by exact fun _ => rfl)
    (he : ∀ p x, 0x8002 ≤ x → Cells.get (fun _ => 0) (f p).evtSeq x = Cells.get (fun _ => 0) p.evtSeq x := by exact fun _ _ _ => rfl) :
    Confined ch r (s.modP f) :=
  h.trans ⟨fun _ _ => rfl, rfl, ha _, fun o _ _ => by simp only [State.modP_pkg, Pkg.rd, hr], he _⟩

theorem draw (h : Confined ch r s) : Confined ch r s.draw.2 := h.trans ⟨fun _ _ => rfl, rfl, rfl, fun _ _ _ => rfl, fun _ _ => rfl⟩

theorem ite {c : Prop} {_ : Decidable c} {a b : State} (ha : Confined ch r a) (hb : Confined ch r b) :
    Confined ch r (if c then a else b) := by
  split
  · exact ha
  · exact hb

theorem foldl {α : Type} {f : State → α → State} (hf : ∀ t x, Confined ch r t → Confined ch r (f t x)) :
    ∀ {l : List α} {s : State}, Confined ch r s → Confined ch r (l.foldl f s)
  | [], _, h => h
  | x :: l, s, h => foldl hf (l := l) (hf s x h)

theorem setF {f v} (h : Confined ch r s) : Confined ch r (s.setF ch f v) := h.modC

theorem satF {f n} (h : Confined ch r s) : Confined ch r (s.satF ch f n) := h.modC

theorem incF {f n} (h : Confined ch r s) : Confined ch r (s.incF ch f n) := h.modC

theorem modMem {f} (h : Confined ch r s) : Confined ch r (s.modMem ch f) := h.modC

/-! ## Events -/

/-- A register of the channel's function. -/
theorem fnWr {off v} (h : Confined ch r s) : Confined ch r (s.fnWr (pfOf ch) off v) := by
  rw [State.fnWr_pfOf]
  exact h.modC

/-- A register of the hub's event path, or of T3's buckets. -/
theorem hubWr {off v} (h : Confined ch r s) (ho : off ∈ eventRegs ∨ 0x7200 ≤ off) : Confined ch r (s.fnWr 0 off v) := by
  refine h.trans ⟨fun _ _ => rfl, rfl, rfl, fun o h1 h2 => Pkg.rd_wr_other _ _ fun e => ?_, fun _ _ => rfl⟩
  subst e
  exact ho.elim h2 (Nat.not_le.2 h1)

/-- A register of the event path of the channel or of the hub. -/
theorem evtWr {pf off v} (h : Confined ch r s) (hp : pf = 0 ∨ pf = pfOf ch) (ho : off ∈ eventRegs) :
    Confined ch r (s.fnWr pf off v) := by
  rcases hp with rfl | rfl
  · exact h.hubWr (.inl ho)
  · exact h.fnWr

theorem irq {pf} (h : Confined ch r s) : Confined ch r (s.irq pf) := by
  unfold State.irq
  exact h.ite h.modP

theorem evtWrite {pf x rest} (h : Confined ch r s) (hp : pf = 0 ∨ pf = pfOf ch) : Confined ch r (s.evtWrite pf x rest) := by
  unfold State.evtWrite
  extract_lets size wr base s1 s2
  have h2 : Confined ch r s2 := h.modP.evtWr hp (by decide)
  exact h2.irq.ite h2

theorem evtDrain {pf} (hp : pf = 0 ∨ pf = pfOf ch) : ∀ {n s}, Confined ch r s → Confined ch r (s.evtDrain pf n)
  | 0, _, h => h
  | n + 1, s, h => by
    unfold State.evtDrain
    split
    · exact h
    · exact ((h.evtWrite hp).evtDrain hp).ite h

/-- An event of a source below those of the hub's units, but for the gaffers. -/
theorem post {src code arg} (h : Confined ch r s) (hp : srcPf src = 0 ∨ srcPf src = pfOf ch) (hs : src < 0x8002) :
    Confined ch r (s.post src code arg) := by
  unfold State.post
  extract_lets pf seq
  split
  rename_i d t ht
  extract_lets x s1 s2 s3
  have h1 : Confined ch r s1 := by
    obtain ⟨rfl, rfl⟩ := Prod.mk.inj ht
    exact h.draw.modP (he := fun p y hy => Cells.get_set_other _ _ _ (by omega))
  have h2 : Confined ch r s2 := h1.evtDrain hp
  have h3 : Confined ch r s3 := h2.modP
  exact (h3.evtWr hp (by decide)).ite h2

theorem srcPf_srcOf {unit : Nat} (hu : unit < 4096) : srcPf (srcOf ch unit) = pfOf ch := by
  have : (ch.val * 4096 + unit) / 4096 = ch.val := by omega
  simp [srcPf, srcOf, pfOf, this]

/-- An event of a unit of the channel. -/
theorem postOf {unit code arg} (h : Confined ch r s) (hu : unit < 4096 := by omega) :
    Confined ch r (s.post (srcOf ch unit) code arg) :=
  h.post (.inr (srcPf_srcOf hu)) (by unfold srcOf; omega)

/-- An event of the gaffer of the channel's half. -/
theorem postGaf {code arg} (h : Confined ch r s) : Confined ch r (s.post (srcGaffer ch) code arg) := by
  unfold srcGaffer
  split
  · exact h.post (.inl rfl) (by decide)
  · exact h.post (.inl rfl) (by decide)

/-! ## What a transfer charges -/

/-- The instances that a channel's transfers are charged at. -/
def reached (ch : ChIdx) (i : BucketInst) : Prop := i = .t1 ch ∨ i = .t2 ch ∨ i = .t3

theorem setB {i f v} (h : Confined ch r s) (hi : reached ch i) (hf : i = .t3 → 0x7200 ≤ f.off) : Confined ch r (s.setB i f v) := by
  rcases hi with rfl | rfl | rfl
  · exact h.fnWr
  · exact h.fnWr
  · exact h.hubWr (.inr (hf rfl))

theorem modBucket {i k f} (h : Confined ch r s) (hi : reached ch i) : Confined ch r (s.modBucket i k f) := by
  unfold State.modBucket
  rcases hi with rfl | rfl | rfl
  · exact h.modMem
  · exact h.modMem
  · exact h.modP

theorem instOff_t3 (k : Nat) : 0x7200 ≤ instOff .t3 k := by simp [instOff]

theorem transfer {i k n} (h : Confined ch r s) (hi : reached ch i) : Confined ch r (s.transfer i k ch n) := by
  have tok : i = .t3 → 0x7200 ≤ (bktTok i k).off := by rintro rfl; exact (instOff_t3 k).trans (Nat.le_add_right ..)
  unfold State.transfer
  extract_lets n t m s1
  have h1 : Confined ch r s1 := (h.setB hi tok).modBucket hi
  exact h.ite (h1.ite ((h1.modBucket hi).setB hi tok))

theorem charge {t n host} (h : Confined ch r s) : Confined ch r (s.charge ch t n host) := by
  unfold State.charge
  split
  · exact h.transfer (.inl rfl)
  · exact h.transfer (.inr (.inl rfl))
  · exact h
  · exact h
  · exact h.transfer (.inl rfl)
  · exact h.transfer (.inr (.inl rfl))
  · exact h.transfer (.inr (.inr rfl))

theorem submit {a n} (h : Confined ch r s) : Confined ch r (s.submit ch a n) := by
  unfold State.submit
  split
  · exact h
  · split
    · exact h.modP
    · exact h

theorem moved {t a n host} (h : Confined ch r s) : Confined ch r (s.moved ch t a n host) := h.charge.submit.ite h.charge

theorem chargeRun {x host} (h : Confined ch r s) : Confined ch r (s.chargeRun ch x host) := by
  unfold State.chargeRun
  split
  · exact h
  · exact h.charge.ite h.moved

theorem tlbFill {va} (h : Confined ch r s) : Confined ch r (s.tlbFill ch va) := by
  unfold State.tlbFill
  refine h.ite ?_
  split
  · exact h
  · exact h.modC

/-! ## The tier cache and device virtual memory -/

theorem homePut {t a b} (h : Confined ch r s) : Confined ch r (s.homePut ch t a b) := by
  unfold State.homePut
  split
  · exact h.modC
  · exact h.modC
  · split
    · exact h.modP.ite h.modP
    · exact h

theorem modTc {f} (h : Confined ch r s) : Confined ch r (s.modTc ch f) := h.modC

theorem tcCount (h : Confined ch r s) : Confined ch r (s.tcCount ch) := h.setF.setF

theorem toHome {t g m} (h : Confined ch r s) : Confined ch r (s.toHome ch t g m) := by
  unfold State.toHome
  extract_lets put s1 s2
  have h1 : Confined ch r s1 := (h.foldl fun _ _ ht => ht.homePut).ite (h.foldl fun _ _ ht => ht.homePut)
  have h2 : Confined ch r s2 := h1.moved
  exact h2.modMem.ite h2

theorem wbFail (h : Confined ch r s) : Confined ch r (s.wbFail ch) := h.satF.postOf

theorem setDirty {t g d} (h : Confined ch r s) : Confined ch r (s.setDirty ch t g d) := by
  unfold State.setDirty
  exact h.modTc

theorem flushOut {t g} (h : Confined ch r s) : Confined ch r (s.flushOut ch t g) := h.ite h.modTc

theorem wbEnd {x ok} (h : Confined ch r s) : Confined ch r (s.wbEnd ch x ok) :=
  h.ite (h.modTc.toHome.flushOut.ite h.modTc.wbFail.setDirty.modTc)

theorem wbRoom (h : Confined ch r s) : Confined ch r (s.wbRoom ch) := by
  unfold State.wbRoom
  extract_lets flying
  clear_value flying
  split
  · exact h
  · exact h.ite h.wbEnd

theorem wbStart {l} (h : Confined ch r s) : Confined ch r (s.wbStart ch l) := h.ite h.wbRoom.setDirty.modTc

theorem tcEvict : ∀ {l s}, Confined ch r s → Confined ch r (s.tcEvict ch l)
  | [], _, h => h
  | _ :: _, _, h => h.tcEvict.ite h.wbStart.modTc

theorem tcFill {t g way} (h : Confined ch r s) : Confined ch r (s.tcFill ch t g way) := by
  unfold State.tcFill
  split
  · next e =>
    split at e
    · obtain ⟨-, rfl⟩ := Prod.mk.inj e
      exact h.modMem
    · obtain ⟨-, rfl⟩ := Prod.mk.inj e
      exact h.moved.modMem

theorem tcTouch {t g} (h : Confined ch r s) : Confined ch r (s.tcTouch ch t g) := by
  unfold State.tcTouch
  split
  · exact h.modTc
  · exact (h.ite h.tcEvict).tcFill

theorem putAt {p b} (h : Confined ch r s) : Confined ch r (s.putAt ch p b) := by
  unfold State.putAt
  extract_lets s1
  have h1 : Confined ch r s1 := h.tcTouch.modTc.ite h.homePut
  split
  · exact h1.modC
  · exact h1

theorem countPromo {va n} (h : Confined ch r s) : Confined ch r (s.countPromo ch va n) := by
  refine h.foldl fun _ _ ht => ?_
  split
  · exact ht
  · exact ht.modMem.ite ht

theorem healT2 {ps} (h : Confined ch r s) : Confined ch r (s.healT2 ch ps) := by
  unfold State.healT2
  exact h.modC

theorem vaWrite {va bs host} (h : Confined ch r s) : Gives (Confined ch r) (s.vaWrite ch va bs host) := by
  unfold State.vaWrite
  split
  · trivial
  · split
    · trivial
    · split
      · trivial
      · extract_lets s1 s2
        have h1 : Confined ch r s1 := (h.foldl fun _ _ ht => ht.putAt).healT2
        have h2 : Confined ch r s2 := h1.foldl fun _ _ ht => ht.tlbFill.chargeRun
        exact h2.tcCount.countPromo.modC

theorem vaTouch {va n} (h : Confined ch r s) : Confined ch r (s.vaTouch ch va n) := by
  refine (State.Confined.foldl (fun t x ht => ?_) h).tcCount.countPromo
  extract_lets s1
  have h1 : Confined ch r s1 := by
    unfold s1
    split
    · exact ht
    · exact ht.tcTouch.ite ht
  exact h1.tlbFill.chargeRun

end State.Confined
end Sys2Proof.Machine
end

section
/-! SUPPORT. The units of a channel stay on it: power and wakes, links, communicator slots, futures and recurrent states. -/

namespace Sys2Proof.Machine

open Sys2Proof

set_option Elab.async false

variable {r s : State} {ch : ChIdx} {jc : JcIdx}

namespace State.Confined

/-! ## Changes of power state and wake events -/

theorem modPwr {f} (h : Confined ch r s) : Confined ch r (s.modPwr ch f) := h.modC

theorem pwrShow (h : Confined ch r s) : Confined ch r (s.pwrShow ch) := h.setF.setF

theorem pwrBegin {m} (h : Confined ch r s) : Confined ch r (s.pwrBegin ch m) := h.modPwr.pwrShow

theorem exitBegin {code} (h : Confined ch r s) : Confined ch r (s.exitBegin ch code) := h.setF.postGaf.pwrBegin

theorem reup (h : Confined ch r s) : Confined ch r (s.reup ch) := h.ite h.setF.satF.postGaf

theorem wake {code} (h : Confined ch r s) : Confined ch r (s.wake ch code) := by
  unfold State.wake
  refine h.ite ?_
  split
  · exact h
  · exact h.ite h.modPwr.reup
  · exact h.ite (h.modP.ite h.exitBegin)

/-! ## Links -/

theorem modFab {f} (h : Confined ch r s) : Confined ch r (s.modFab ch f) := h.modC

theorem modLink {p f} (h : Confined ch r s) : Confined ch r (s.modLink ch p f) := h.modFab

theorem lanesOff {p} (h : Confined ch r s) : Confined ch r (s.lanesOff ch p) := by
  unfold State.lanesOff
  split
  extract_lets s1 s2
  have h1 : Confined ch r s1 := h.foldl fun _ _ ht => ht.setF
  exact (h1.setF.ite h1).setF.modFab

theorem memSlotsOff {ws} (h : Confined ch r s) : Confined ch r (s.memSlotsOff ch ws) := h.foldl fun _ _ ht => ht.setF

theorem t2Dark (h : Confined ch r s) : Confined ch r (s.t2Dark ch) := by
  unfold State.t2Dark
  extract_lets s1
  have h1 : Confined ch r s1 := h.memSlotsOff.modFab
  exact h1.setF.satF.ite h1

theorem sendPlain {p c} (h : Confined ch r s) : Confined ch r (s.sendPlain ch p c) := h.modLink

theorem idles {p} : ∀ {n s}, Confined ch r s → Confined ch r (s.idles ch p n)
  | 0, _, h => h
  | _ + 1, _, h => h.ite h.sendPlain.idles

theorem idle {p} (h : Confined ch r s) : Confined ch r (s.idle ch p) := h.idles.ite h

theorem deliver {c} (h : Confined ch r s) : Confined ch r (s.deliver ch c) := h.wake.satF.ite (h.wake.ite h.wake.modFab)

theorem freeInput {inp vc} (h : Confined ch r s) : Confined ch r (s.freeInput ch inp vc) := h.ite (h.modLink.ite h.modLink.idle)

theorem noRoute {q} (h : Confined ch r s) : Confined ch r (s.noRoute ch q) := by
  unfold State.noRoute
  split
  · exact h.modFab.ite h.modFab.modFab.postOf
  · exact h.satF.freeInput

theorem forward {q front} (h : Confined ch r s) : Confined ch r (s.forward ch q front) := by
  unfold State.forward
  split
  · exact h.deliver.freeInput
  · exact h.modLink
  · exact h.noRoute

theorem forwardHeld (h : Confined ch r s) : Confined ch r (s.forwardHeld ch) := h.modFab.foldl fun _ _ ht => ht.forward

theorem sendMsg {dst vc typ bf16 order head data} (h : Confined ch r s) :
    Confined ch r (s.sendMsg ch dst vc typ bf16 order head data) := h.modFab.foldl fun _ _ ht => ht.satF.satF.forward

theorem unreserve {order} (h : Confined ch r s) : Confined ch r (s.unreserve ch order) := h.foldl fun _ _ ht => ht.modLink

theorem linkDown {p} (h : Confined ch r s) : Confined ch r (s.linkDown ch p) := by
  unfold State.linkDown
  split
  · exact h
  · have hp : 0x030 + p.val < 4096 := by omega
    exact (((h.postOf hp).setF.satF.setF.lanesOff.modLink.foldl fun _ _ ht => ht.forward).foldl fun _ _ ht =>
      ht.forward).foldl fun _ _ ht => ht.forward

theorem allDown (h : Confined ch r s) : Confined ch r (s.allDown ch) := h.foldl fun _ _ ht => ht.linkDown.setF.ite ht.linkDown

/-! ## Communicator slots -/

theorem modSlot {k f} (h : Confined ch r s) : Confined ch r (s.modSlot ch k f) := h.modC

theorem clSend {k rank kind seq tree index bf16 order data} (h : Confined ch r s) :
    Confined ch r (s.clSend ch k rank kind seq tree index bf16 order data) := h.sendMsg

theorem clAbort {k seq status} (h : Confined ch r s) : Confined ch r (s.clAbort ch k seq status) :=
  h.setF.foldl fun _ _ ht => ht.clSend

theorem clEntryDone {e status} (h : Confined ch r s) : Confined ch r (s.clEntryDone ch e status) := by
  unfold State.clEntryDone
  refine h.ite ?_
  extract_lets k s1 s2 s3
  have h2 : Confined ch r s2 := h.unreserve.modSlot
  have h3 : Confined ch r s3 := h2.satF.ite (h2.satF.ite (h2.satF.ite h2))
  exact h3.ite h3.clAbort

/-! ## The futures store and the recurrent states -/

theorem ftSync (h : Confined ch r s) : Confined ch r (s.ftSync ch) := h.modC.modC.postOf.ite (h.modC.modC.ite h.modC)

theorem modFt {g} (h : Confined ch r s) : Confined ch r (s.modFt ch g) := h.modC.ftSync

theorem ftJobEnd (h : Confined ch r s) : Confined ch r (s.ftJobEnd ch jc) := by
  unfold State.ftJobEnd
  exact h.modFt.modC

theorem ftEntryDone {order} (h : Confined ch r s) : Confined ch r (s.ftEntryDone ch order) := h.modFt.ite h

theorem rcMod {i f} (h : Confined ch r s) : Confined ch r (s.rcMod ch i f) := h.modC.setF

theorem rcStore {space addr bs} (h : Confined ch r s) : Gives (Confined ch r) (s.rcStore ch space addr bs) := by
  unfold State.rcStore
  split
  · exact h.modMem
  · exact h.modMem
  · exact h.vaWrite

theorem rcMove {i dst} (h : Confined ch r s) : Gives (Confined ch r) (s.rcMove ch i dst) := by
  unfold State.rcMove
  split
  · trivial
  · split
    · trivial
    · next _ ht => exact (h.rcStore.of_ok ht).rcMod

theorem rcSwapOut {i} (h : Confined ch r s) : Confined ch r (s.rcSwapOut ch i) := by
  unfold State.rcSwapOut
  extract_lets
  split
  · exact h
  · next _ ht =>
      extract_lets s1
      have h1 : Confined ch r s1 := (h.rcMove.of_ok ht).postOf
      exact h1.setF.ite h1

theorem rcModH {n f} (h : Confined ch r s) : Confined ch r (s.rcModH ch n f) := by
  unfold State.rcModH
  split
  · exact h.rcMod
  · exact h

theorem rcEntryDone {e} (h : Confined ch r s) : Confined ch r (s.rcEntryDone ch e) :=
  h.ite ((h.foldl fun _ _ ht => ht.rcModH).foldl fun _ _ ht => ht.rcSwapOut)

theorem rcJobEnd (h : Confined ch r s) : Confined ch r (s.rcJobEnd ch jc) := h.foldl fun _ _ ht => ht.rcMod

end State.Confined
end Sys2Proof.Machine
end

section
/-! SUPPORT. Jobs, semaphores and the scalar thread stay on their channel. -/

namespace Sys2Proof.Machine

open Sys2Proof

set_option Elab.async false

variable {r s : State} {ch : ChIdx} {jc : JcIdx}

theorem Chan.incFld_draining (c : Chan) (f : Fld) (n : Nat) : (c.incFld f n).draining = c.draining := rfl

namespace State.Confined

/-! ## Contexts, semaphores and the ways a job ends -/

theorem modX {f} (h : Confined ch r s) : Confined ch r (s.modX ch jc f) := h.modC

theorem modQ {e f} (h : Confined ch r s) : Confined ch r (s.modQ ch e f) := h.modC

theorem modSem {n f} (h : Confined ch r s) : Confined ch r (s.modSem ch n f) := h.modC

theorem learn {p} (h : Confined ch r s) : Confined ch r (s.learn ch jc p) := h.modC

theorem tell {n} (h : Confined ch r s) : Confined ch r (s.tell ch jc n) := by
  unfold State.tell
  exact h.modC

theorem logDone {e signals} (h : Confined ch r s) : Confined ch r (s.logDone ch e signals) := by
  unfold State.logDone
  exact h.modC

theorem forget (h : Confined ch r s) : Confined ch r (s.forget ch jc) := h.modC

theorem takeWaits {ws} (h : Confined ch r s) : Confined ch r (s.takeWaits ch ws) := h.foldl fun _ _ ht => ht.modSem

theorem moverWait (h : Confined ch r s) : Confined ch r (s.moverWait ch) := h.takeWaits.modC.ite h

theorem semWake (h : Confined ch r s) : Confined ch r (s.semWake ch) := h.wake.ite h

theorem semServe (h : Confined ch r s) : Confined ch r (s.semServe ch) := by
  unfold State.semServe
  refine (h.moverWait.foldl fun _ _ ht => ?_).semWake
  split
  · exact ht.modSem.learn.modX.ite ht
  · exact ht

theorem semAdd {unit n k} (h : Confined ch r s) (hu : unit < 4096) : Confined ch r (s.semAdd ch unit n k) :=
  (h.modSem.postOf hu).ite h.modSem

theorem semReturn (h : Confined ch r s) : Confined ch r (s.semReturn ch jc) := by
  unfold State.semReturn
  exact h.modC.semServe

theorem cqPut {x} (h : Confined ch r s) : Gives (Confined ch r) (s.cqPut ch jc x) := by
  unfold State.cqPut
  split
  · trivial
  · next _ ht => exact (h.vaWrite.of_ok ht).setF

theorem drainStores (h : Confined ch r s) : Gives (Confined ch r) (s.drainStores ch jc) := by
  unfold State.drainStores
  split
  · trivial
  · next t ht =>
    have hs : Gives (Confined ch r) (Except.ok s : Except MemErr State) := h
    refine ((gives_foldl (fun x _ hx => ?_) hs).of_ok ht).modX
    cases x with
    | error e => trivial
    | ok t => exact vaWrite hx

theorem lastStores (h : Confined ch r s) : Confined ch r (s.lastStores ch jc) := by
  unfold State.lastStores
  refine modX (h.foldl fun _ _ ht => ?_)
  split
  · exact ht
  · next _ hu => exact ht.vaWrite.of_ok hu

theorem faultCtx {status eng td arg} (h : Confined ch r s) : Confined ch r (s.faultCtx ch jc status eng td arg) := by
  unfold State.faultCtx
  exact h.lastStores.modX.modC.postOf

theorem cqLost {e} (h : Confined ch r s) : Confined ch r (s.cqLost ch jc e) := by
  unfold State.cqLost
  split
  extract_lets s1 s2
  have h2 : Confined ch r s2 := h.setF.modX.postOf
  exact h2.ite h2.faultCtx

theorem emit {x} (h : Confined ch r s) : Confined ch r (s.emit ch jc x) := by
  unfold State.emit
  refine h.ite (h.modX.ite ?_)
  split
  · next _ ht => exact h.cqPut.of_ok ht
  · exact h.modX.ite h.cqLost

theorem dropEntry {e status partly} (h : Confined ch r s) : Confined ch r (s.dropEntry ch e status partly) := by
  unfold State.dropEntry
  extract_lets jc s1 s2
  have h2 : Confined ch r s2 := h.modX.logDone.ftEntryDone.rcEntryDone.clEntryDone
  exact h2.emit.ite h2

theorem sweep {status} (h : Confined ch r s) : Confined ch r (s.sweep ch jc status) :=
  h.foldl fun _ _ ht => (ht.modQ.foldl fun _ _ hu => hu.dropEntry).foldl fun _ _ hu => hu.dropEntry

theorem jcrPut {q id rec} (h : Confined ch r s) : Confined ch r (s.jcrPut ch q id rec) := by
  unfold State.jcrPut
  split
  · next _ ht => exact (h.vaWrite.of_ok ht).setF
  · exact h.setF.postOf

theorem arwsJobEnd (h : Confined ch r s) : Confined ch r (s.arwsJobEnd ch jc) := by
  unfold State.arwsJobEnd
  exact h.modC

theorem flushAll (h : Confined ch r s) : Confined ch r (s.flushAll ch) := (h.modTc.foldl fun _ _ ht => ht.wbStart).tcCount

theorem drainEnd (h : Confined ch r s) : Confined ch r (s.drainEnd ch) := h.flushAll.ite h

theorem killNote (h : Confined ch r s) : Confined ch r (s.killNote ch jc) := h.ite h.modX.postOf

theorem tryEnd (h : Confined ch r s) : Confined ch r (s.tryEnd ch jc) := by
  unfold State.tryEnd
  extract_lets s1 s2 c killed status s3 s4
  have h1 : Confined ch r s1 := h.killNote
  have h2 : Confined ch r s2 := h1.ite h1.rcJobEnd.ftJobEnd.semReturn.arwsJobEnd.forget.modX
  have h4 : Confined ch r s4 := by
    refine h2.jcrPut.modC fun k => ?_
    split
    · exact Chan.incFld_draining ..
    · exact Chan.incFld_draining ..
  exact h.ite (h1.ite (h2.ite h4.modX.modC.drainEnd))

theorem scalarFault {status td arg} (h : Confined ch r s) : Confined ch r (s.scalarFault ch jc status td arg) :=
  h.faultCtx.emit.sweep.tryEnd

theorem killJob {reason} (h : Confined ch r s) : Confined ch r (s.killJob ch jc reason) :=
  h.ite h.lastStores.modX.modC.sweep.tryEnd

theorem killAll {reason} (h : Confined ch r s) : Confined ch r (s.killAll ch reason) := h.foldl fun _ _ ht => ht.killJob

/-! ## Slices -/

theorem chargeOne (h : Confined ch r s) : Confined ch r (s.chargeOne ch jc) := h.modX.modX.modC.ite h.modX.modX

theorem modAtomic {f} (h : Confined ch r s) : Confined ch r (s.modAtomic ch jc f) := by
  unfold State.modAtomic
  exact h.modC

theorem clYield (h : Confined ch r s) : Confined ch r (s.clYield ch jc) := h.foldl fun _ _ ht => ht.modQ.unreserve

theorem releaseSlice {count head mid} (h : Confined ch r s) : Confined ch r (s.releaseSlice ch jc count head mid) := by
  unfold State.releaseSlice
  extract_lets running atomic s1 s2 s3
  have h2 : Confined ch r s2 := h.modX.modAtomic.clYield
  have h3 : Confined ch r s3 := h2.incF.ite h2
  exact h3.ite h3.modC

/-! ## The scalar thread -/

theorem memFault {e} (h : Confined ch r s) : Confined ch r (s.memFault ch jc e) := h.ite h.scalarFault

theorem trapPc {status} (h : Confined ch r s) : Confined ch r (s.trapPc ch jc status) := h.scalarFault

theorem setRd {rd v} (h : Confined ch r s) : Confined ch r (s.setRd ch jc rd v) := h.modX

/-- A scalar instruction stays on its channel when its effect does. -/
theorem scalar {effect : State → State} (hf : ∀ t, Confined ch s t → Confined ch s (effect t)) :
    Confined ch s (s.scalar ch jc effect) := by
  have h : Confined ch s (s.issued ch jc) := (refl ch s).modC
  unfold State.scalar
  refine (refl ch s).ite ?_
  extract_lets pc s1
  split
  · exact h.memFault
  · exact hf _ h.tlbFill

theorem startLoad {kind dst align va} (h : Confined ch r s) : Confined ch r (s.startLoad ch jc kind dst align va) := by
  unfold State.startLoad
  refine h.scalarFault.ite ?_
  split
  · exact h.memFault
  · next _ ht => exact (h.drainStores.of_ok ht).modX

theorem startStore {n align va v} (h : Confined ch r s) : Confined ch r (s.startStore ch jc n align va v) := by
  unfold State.startStore
  refine h.scalarFault.ite ?_
  split
  · exact h.scalarFault
  · exact h.tlbFill.modX

theorem lsAccess {off effect} (h : Confined ch r s) (hf : Confined ch r (effect s)) : Confined ch r (s.lsAccess ch jc off effect) :=
  h.scalarFault.ite (h.trapPc.ite hf)

end State.Confined

/-! ## Rows -/

/-- What a command that goes on leaves stays on a channel. -/
def State.StaysOn (s : State) (ch : ChIdx) : Out → Prop
  | .next t => s.Confined ch t
  | _ => True

theorem alu_stays {rd ra rb f} : s.StaysOn ch (s.alu ch jc rd ra rb f) := State.Confined.scalar fun _ h => h.setRd

theorem aluImm_stays {rd ra f} : s.StaysOn ch (s.aluImm ch jc rd ra f) := State.Confined.scalar fun _ h => h.setRd

theorem branch_stays {ra rb off cmp} : s.StaysOn ch (s.branch ch jc ra rb off cmp) :=
  State.Confined.scalar fun _ h => h.modX.ite h.modX

theorem load_stays {kind dst align} {va : State → DWord} :
    s.StaysOn ch (.next (s.scalar ch jc fun s => s.startLoad ch jc kind dst align (va s))) :=
  State.Confined.scalar fun _ h => h.startLoad

theorem store_stays {n align} {va : State → DWord} {v : State → Desc} :
    s.StaysOn ch (.next (s.scalar ch jc fun s => s.startStore ch jc n align (va s) (v s))) :=
  State.Confined.scalar fun _ h => h.startStore

theorem execShi_stays {rd ra imm} : s.StaysOn ch (execShi ch jc rd ra imm s) := by
  refine State.Confined.scalar fun _ h => ?_
  split
  · exact h.setRd
  · exact h.trapPc

theorem execClaim_stays {ra sem} : s.StaysOn ch (execClaim ch jc ra sem s) := by
  refine State.Confined.scalar fun _ h => ?_
  split
  · exact h.trapPc.ite h.modSem.modX.semServe
  · exact h.modSem.modX.semServe

theorem execSig_stays {sem count tg} : s.StaysOn ch (execSig ch jc sem count tg s) := by
  refine State.Confined.scalar fun _ h => h.trapPc.ite ?_
  extract_lets s1 s2
  have h1 : s.Confined ch s1 := h.modX.tell.semAdd (by omega)
  exact (h1.modSem.ite h1).semServe

theorem execYield_stays : s.StaysOn ch (execYield ch jc s) :=
  State.Confined.scalar fun _ h => (h.modX.chargeOne.ite h.modX).releaseSlice.ite h.modX

theorem execHalt_stays : s.StaysOn ch (execHalt ch jc s) := by
  refine State.Confined.scalar fun _ h => ?_
  split
  · exact h.memFault
  · next _ ht => exact (h.drainStores.of_ok ht).modX.tryEnd

end Sys2Proof.Machine
end

section
/-! SUPPORT. Every scalar instruction stays on its channel. -/

namespace Sys2Proof.Machine

open Sys2Proof

set_option Elab.async false

variable {s : State} {ch : ChIdx} {jc : JcIdx}

theorem execMovz_stays {rd hw rsv imm} : s.StaysOn ch (execMovz ch jc rd hw rsv imm s) :=
  State.Confined.scalar fun _ h => h.trapPc.ite h.setRd

theorem execMovk_stays {rd hw rsv imm} : s.StaysOn ch (execMovk ch jc rd hw rsv imm s) :=
  State.Confined.scalar fun _ h => h.trapPc.ite h.setRd

theorem execLdl_stays {rd ra imm} : s.StaysOn ch (execLdl ch jc rd ra imm s) :=
  State.Confined.scalar fun _ h => h.lsAccess h.setRd

theorem execStl_stays {rd ra imm} : s.StaysOn ch (execStl ch jc rd ra imm s) :=
  State.Confined.scalar fun _ h => h.lsAccess h.modMem.modX

theorem execJal_stays {off} : s.StaysOn ch (execJal ch jc off s) := State.Confined.scalar fun _ h => h.modX

theorem execJalr_stays {rd ra imm} : s.StaysOn ch (execJalr ch jc rd ra imm s) := State.Confined.scalar fun _ h => h.modX

theorem execTdset_stays {td ra w} : s.StaysOn ch (execTdset ch jc td ra w s) := State.Confined.scalar fun _ h => h.modX

theorem execTdget_stays {td ra w} : s.StaysOn ch (execTdget ch jc td ra w s) := State.Confined.scalar fun _ h => h.setRd

theorem execWait_stays {sem count tg} : s.StaysOn ch (execWait ch jc sem count tg s) :=
  State.Confined.scalar fun _ h => h.trapPc.ite h.modX.semServe

theorem execFree_stays {sem} : s.StaysOn ch (execFree ch jc sem s) :=
  State.Confined.scalar fun _ h => h.modX.modSem.ite h.modX

theorem execRead_stays {rd sem} : s.StaysOn ch (execRead ch jc rd sem s) := State.Confined.scalar fun _ h => h.setRd

theorem execCsrr_stays {rd rsv num} : s.StaysOn ch (execCsrr ch jc rd rsv num s) :=
  State.Confined.scalar fun _ h => h.trapPc.ite h.draw.setRd

theorem execFence_stays {imm} : s.StaysOn ch (execFence ch jc imm s) :=
  State.Confined.scalar fun _ h => h.trapPc.ite (h.learn.modX.ite h.modX)

theorem execTrap_stays {imm} : s.StaysOn ch (execTrap ch jc imm s) := State.Confined.scalar fun _ h => h.scalarFault

/-- A scalar instruction changes its own channel and the package's records, whatever it completes, stops or ends (R15, R38). -/
theorem scalar_stays {i : Instr} (hi : i.scalarOf = some (ch, jc)) : s.StaysOn ch (exec i s) := by
  unfold Instr.scalarOf at hi
  split at hi
  · obtain ⟨rfl, rfl⟩ := hi
    exact (alu_stays : s.StaysOn _ (execAluAdd ..))
  · obtain ⟨rfl, rfl⟩ := hi
    exact (alu_stays : s.StaysOn _ (execAluSub ..))
  · obtain ⟨rfl, rfl⟩ := hi
    exact (alu_stays : s.StaysOn _ (execAluAnd ..))
  · obtain ⟨rfl, rfl⟩ := hi
    exact (alu_stays : s.StaysOn _ (execAluOr ..))
  · obtain ⟨rfl, rfl⟩ := hi
    exact (alu_stays : s.StaysOn _ (execAluXor ..))
  · obtain ⟨rfl, rfl⟩ := hi
    exact (alu_stays : s.StaysOn _ (execAluSll ..))
  · obtain ⟨rfl, rfl⟩ := hi
    exact (alu_stays : s.StaysOn _ (execAluSrl ..))
  · obtain ⟨rfl, rfl⟩ := hi
    exact (alu_stays : s.StaysOn _ (execAluSra ..))
  · obtain ⟨rfl, rfl⟩ := hi
    exact (alu_stays : s.StaysOn _ (execAluSlt ..))
  · obtain ⟨rfl, rfl⟩ := hi
    exact (alu_stays : s.StaysOn _ (execAluSltu ..))
  · obtain ⟨rfl, rfl⟩ := hi
    exact (alu_stays : s.StaysOn _ (execAluMin ..))
  · obtain ⟨rfl, rfl⟩ := hi
    exact (alu_stays : s.StaysOn _ (execAluMax ..))
  · obtain ⟨rfl, rfl⟩ := hi
    exact (alu_stays : s.StaysOn _ (execAluMul ..))
  · obtain ⟨rfl, rfl⟩ := hi
    exact (alu_stays : s.StaysOn _ (execAluMulh ..))
  · obtain ⟨rfl, rfl⟩ := hi
    exact (alu_stays : s.StaysOn _ (execAluMulhu ..))
  · obtain ⟨rfl, rfl⟩ := hi
    exact (alu_stays : s.StaysOn _ (execAluDiv ..))
  · obtain ⟨rfl, rfl⟩ := hi
    exact (alu_stays : s.StaysOn _ (execAluDivu ..))
  · obtain ⟨rfl, rfl⟩ := hi
    exact (alu_stays : s.StaysOn _ (execAluRem ..))
  · obtain ⟨rfl, rfl⟩ := hi
    exact (alu_stays : s.StaysOn _ (execAluRemu ..))
  · obtain ⟨rfl, rfl⟩ := hi
    exact (aluImm_stays : s.StaysOn _ (execAddi ..))
  · obtain ⟨rfl, rfl⟩ := hi
    exact (aluImm_stays : s.StaysOn _ (execAndi ..))
  · obtain ⟨rfl, rfl⟩ := hi
    exact (aluImm_stays : s.StaysOn _ (execOri ..))
  · obtain ⟨rfl, rfl⟩ := hi
    exact (aluImm_stays : s.StaysOn _ (execXori ..))
  · obtain ⟨rfl, rfl⟩ := hi
    exact execShi_stays
  · obtain ⟨rfl, rfl⟩ := hi
    exact (aluImm_stays : s.StaysOn _ (execSlti ..))
  · obtain ⟨rfl, rfl⟩ := hi
    exact execMovz_stays
  · obtain ⟨rfl, rfl⟩ := hi
    exact execMovk_stays
  · obtain ⟨rfl, rfl⟩ := hi
    exact (load_stays : s.StaysOn _ (execLd ..))
  · obtain ⟨rfl, rfl⟩ := hi
    exact (load_stays : s.StaysOn _ (execLw ..))
  · obtain ⟨rfl, rfl⟩ := hi
    exact (load_stays : s.StaysOn _ (execLwu ..))
  · obtain ⟨rfl, rfl⟩ := hi
    exact (store_stays : s.StaysOn _ (execSt ..))
  · obtain ⟨rfl, rfl⟩ := hi
    exact (store_stays : s.StaysOn _ (execStw ..))
  · obtain ⟨rfl, rfl⟩ := hi
    exact execLdl_stays
  · obtain ⟨rfl, rfl⟩ := hi
    exact execStl_stays
  · obtain ⟨rfl, rfl⟩ := hi
    exact (branch_stays : s.StaysOn _ (execBeq ..))
  · obtain ⟨rfl, rfl⟩ := hi
    exact (branch_stays : s.StaysOn _ (execBne ..))
  · obtain ⟨rfl, rfl⟩ := hi
    exact (branch_stays : s.StaysOn _ (execBlt ..))
  · obtain ⟨rfl, rfl⟩ := hi
    exact (branch_stays : s.StaysOn _ (execBge ..))
  · obtain ⟨rfl, rfl⟩ := hi
    exact (branch_stays : s.StaysOn _ (execBltu ..))
  · obtain ⟨rfl, rfl⟩ := hi
    exact (branch_stays : s.StaysOn _ (execBgeu ..))
  · obtain ⟨rfl, rfl⟩ := hi
    exact execJal_stays
  · obtain ⟨rfl, rfl⟩ := hi
    exact execJalr_stays
  · obtain ⟨rfl, rfl⟩ := hi
    exact (load_stays : s.StaysOn _ (execTdld ..))
  · obtain ⟨rfl, rfl⟩ := hi
    exact (store_stays : s.StaysOn _ (execTdst ..))
  · obtain ⟨rfl, rfl⟩ := hi
    exact execTdset_stays
  · obtain ⟨rfl, rfl⟩ := hi
    exact execTdget_stays
  · obtain ⟨rfl, rfl⟩ := hi
    exact execWait_stays
  · obtain ⟨rfl, rfl⟩ := hi
    exact execSig_stays
  · obtain ⟨rfl, rfl⟩ := hi
    exact execClaim_stays
  · obtain ⟨rfl, rfl⟩ := hi
    exact execFree_stays
  · obtain ⟨rfl, rfl⟩ := hi
    exact execRead_stays
  · obtain ⟨rfl, rfl⟩ := hi
    exact execCsrr_stays
  · obtain ⟨rfl, rfl⟩ := hi
    exact execFence_stays
  · obtain ⟨rfl, rfl⟩ := hi
    exact execYield_stays
  · obtain ⟨rfl, rfl⟩ := hi
    exact execHalt_stays
  · obtain ⟨rfl, rfl⟩ := hi
    exact execTrap_stays
  · cases hi

/-- Settles O59: what every scalar instruction does is confined to its channel. -/
theorem scalarStaysOnItsChannel : Obligations.ScalarStaysOnItsChannel := by
  intro ch c jc i s t hi hc ht
  have h : s.StaysOn ch (exec i s) := scalar_stays hi
  rw [ht] at h
  exact h.others c hc

end Sys2Proof.Machine
end

section
/-! SUPPORT. The host port: the configuration spaces of the functions present, and the chain through them (R31, R32). -/

namespace Sys2Proof.Machine

open Sys2Proof

set_option Elab.async false

/-- In an ascending list, the first member above `x` is the least one above it. -/
theorem find?_above_least {l : List Nat} {x m : Nat} (hl : l.Pairwise (· < ·)) (h : l.find? (fun n => x < n) = some m) :
    m ∈ l ∧ x < m ∧ ∀ n ∈ l, x < n → m ≤ n := by
  obtain ⟨hm, before, after, rfl, hb⟩ := List.find?_eq_some_iff_append.mp h
  refine ⟨by simp, of_decide_eq_true hm, fun n hn hx => ?_⟩
  rw [List.mem_append, List.mem_cons] at hn
  rw [List.pairwise_append, List.pairwise_cons] at hl
  rcases hn with hn | rfl | hn
  · simpa [hx] using hb n hn
  · exact le_rfl
  · exact (hl.2.1.1 n hn).le

/-- The functions present: PF0 and the functions of the live channels, ascending. -/
def presentFns (live : BitVec 8) : List Nat := 0 :: ((List.range 8).filter live.getLsbD).map (· + 1)

theorem mem_presentFns {live : BitVec 8} {n : Nat} :
    n ∈ presentFns live ↔ n = 0 ∨ (1 ≤ n ∧ n ≤ 8 ∧ live.getLsbD (n - 1) = true) := by
  unfold presentFns
  simp only [List.mem_cons, List.mem_map, List.mem_filter, List.mem_range]
  constructor
  · rintro (h | ⟨c, ⟨hc, hl⟩, rfl⟩)
    · exact .inl h
    · exact .inr ⟨by omega, by omega, hl⟩
  · rintro (h | ⟨h1, h8, hl⟩)
    · exact .inl h
    · exact .inr ⟨n - 1, ⟨by omega, hl⟩, by omega⟩

theorem presentFns_ascending (live : BitVec 8) : (presentFns live).Pairwise (· < ·) := by
  refine List.pairwise_cons.mpr ⟨fun n hn => ?_, ?_⟩
  · obtain ⟨c, -, rfl⟩ := List.mem_map.mp hn
    omega
  · refine List.pairwise_map.mpr ((List.pairwise_lt_range.filter _).imp fun h => ?_)
    omega

/-- Read with 0 for "none", the first member above `x` is 0 exactly when no member is above `x`. -/
theorem nextAbove {l : List Nat} {x : Nat} (hl : l.Pairwise (· < ·)) :
    ((l.find? fun n => x < n).getD 0 = 0 → ∀ n ∈ l, n ≤ x) ∧
      ((l.find? fun n => x < n).getD 0 ≠ 0 →
        (l.find? fun n => x < n).getD 0 ∈ l ∧ x < (l.find? fun n => x < n).getD 0 ∧
          ∀ n ∈ l, x < n → (l.find? fun n => x < n).getD 0 ≤ n) := by
  cases hf : l.find? fun n => x < n with
  | none => exact ⟨fun _ n hn => by simpa using List.find?_eq_none.mp hf n hn, fun h => absurd rfl h⟩
  | some m =>
    have hm := find?_above_least hl hf
    exact ⟨fun h0 : m = 0 => by omega, fun _ => hm⟩

/-- The next function in the chain is the least function present above this one, and 0 where there is none. -/
theorem cfgSpaces_chain {stepping : Nat} {live : BitVec 8} {x : Nat × CfgSpace} (hx : x ∈ cfgSpaces stepping live) :
    x.1 ∈ presentFns live ∧ (x.2.next = 0 → ∀ n ∈ presentFns live, n ≤ x.1) ∧
      (x.2.next ≠ 0 → x.2.next ∈ presentFns live ∧ x.1 < x.2.next ∧ ∀ n ∈ presentFns live, x.1 < n → x.2.next ≤ n) := by
  obtain ⟨k, hk, rfl⟩ := List.mem_map.mp hx
  exact ⟨hk, nextAbove (presentFns_ascending live)⟩

theorem stepPort_absent (s : State) :
    let live : BitVec 8 := BitVec.ofNat 8 (bits (s.pkg.rd 0x14).toNat 7 0)
    let up : State := { s with pkg :=
      { s.pkg with portUp := true, ari := false, functions := live, cfg := cfgSpaces s.pkg.otp.stepping live } }
    up.butEvents (s.stepPort false) ∧ up.postedBy (s.stepPort false) 0x8005 :=
  State.post_does _ _ _ _

theorem execHostPortLinkUp_running {s : State} {ari : Bool} (h : s.runs = true) :
    exec (.hostPortLinkUp ari) s = .next (s.stepPort ari) := if_neg (by simp [h])

theorem execHostPortLinkUp_stopped {s : State} {ari : Bool} (h : s.runs = false) :
    exec (.hostPortLinkUp ari) s = .next s := if_pos (by simp [h])

theorem execConfigRequestAbsent_unsupported {s : State} {fn : Nat} (h : 9 ≤ fn ∨ ∃ h : fn < 9, s.present ⟨fn, h⟩ = false) :
    exec (.configRequestAbsent fn) s = .next (s.answer .unsupported 0) := by
  refine congrArg _ (if_neg ?_)
  rcases h with h | ⟨hlt, h⟩
  · simp [Nat.not_lt.mpr h]
  · simp [hlt, h]

/-- Settles O16: the least function above each one ends the chain at the highest; the post of ARI_ABSENT moves the hub's event
path alone. -/
theorem hostPort : Obligations.HostPort := by
  intro s fn live up here chain
  have hchain : chain := fun x hx => by
    simpa only [mem_presentFns] using cfgSpaces_chain hx
  refine ⟨fun hr => ⟨?_, ?_⟩, fun hr ari => execHostPortLinkUp_stopped hr, fun h => ?_⟩
  · exact ⟨_, execHostPortLinkUp_running hr, ⟨rfl, rfl, rfl⟩, rfl, hchain⟩
  · obtain ⟨hbut, hpost⟩ := stepPort_absent s
    have hari : (s.stepPort false).pkg.ari = false := by
      obtain ⟨-, hp, -⟩ := hbut
      exact congrArg Pkg.ari hp
    refine ⟨_, execHostPortLinkUp_running hr, hpost, hari, ?_, hbut⟩
    simp [State.present, hari]
  · exact ⟨_, execConfigRequestAbsent_unsupported h, ⟨rfl, rfl, rfl⟩, rfl⟩

end Sys2Proof.Machine
end

section
/-! SUPPORT. Fields of the registers of the package and of a channel: two fields named by numbers, compared by evaluation. -/

namespace Sys2Proof.Machine

open Sys2Proof

set_option Elab.async false

/-- The bits of a field lie in its word. -/
def Fld.sound (f : Fld) : Bool := f.lo ≤ f.hi && f.hi < 32

/-- Two fields that share no bit. -/
def Fld.disjoint (f g : Fld) : Bool := f.sound && g.sound && (f.off != g.off || f.hi < g.lo || g.hi < f.lo)

/-- A value that a field holds whole. -/
def Fld.holds (f : Fld) (v : Nat) : Bool := f.sound && v < 2 ^ (f.hi + 1 - f.lo)

theorem Fld.ok_of_sound {f : Fld} (h : f.sound = true) : f.ok := by
  simpa [Fld.sound, Fld.ok] using h

theorem Fld.of_disjoint {f g : Fld} (h : f.disjoint g = true) : f.ok ∧ g.ok ∧ (f.off ≠ g.off ∨ f.apart g) := by
  simp only [Fld.disjoint, Bool.and_eq_true, Bool.or_eq_true, bne_iff_ne, decide_eq_true_eq] at h
  obtain ⟨⟨hf, hg⟩, hd⟩ := h
  refine ⟨Fld.ok_of_sound hf, Fld.ok_of_sound hg, ?_⟩
  rcases hd with (hd | hd) | hd
  · exact .inl hd
  · exact .inr (.inl hd)
  · exact .inr (.inr hd)

theorem Pkg.fld_setFld_disjoint {p : Pkg} {f g : Fld} {v : Nat} (h : f.disjoint g = true) :
    (p.setFld f v).fld g = p.fld g := by
  obtain ⟨hf, hg, hd⟩ := Fld.of_disjoint h
  exact Pkg.fld_setFld_other p f g v hf hg hd

theorem Pkg.fld_setFld_self {p : Pkg} {f : Fld} {v : Nat} (h : f.holds v = true) : (p.setFld f v).fld f = v := by
  simp only [Fld.holds, Bool.and_eq_true, decide_eq_true_eq] at h
  rw [Pkg.fld_setFld_same p f v (Fld.ok_of_sound h.1), Nat.mod_eq_of_lt h.2]

theorem Pkg.rd_setFld_other {p : Pkg} {f : Fld} {v o : Nat} (h : o ≠ f.off) : (p.setFld f v).rd o = p.rd o :=
  Pkg.rd_wr_other p _ h

theorem Pkg.fld_satFld_disjoint {p : Pkg} {f g : Fld} {n : Nat} (h : f.disjoint g = true) :
    (p.satFld f n).fld g = p.fld g := Pkg.fld_setFld_disjoint h

theorem Pkg.rd_satFld_other {p : Pkg} {f : Fld} {n o : Nat} (h : o ≠ f.off) : (p.satFld f n).rd o = p.rd o :=
  Pkg.rd_setFld_other h

theorem Chan.fld_setFld_disjoint {c : Chan} {f g : Fld} {v : Nat} (h : f.disjoint g = true) :
    (c.setFld f v).fld g = c.fld g := by
  obtain ⟨hf, hg, hd⟩ := Fld.of_disjoint h
  exact Chan.fld_setFld_other c f g v hf hg hd

theorem Chan.fld_setFld_self {c : Chan} {f : Fld} {v : Nat} (h : f.holds v = true) : (c.setFld f v).fld f = v := by
  simp only [Fld.holds, Bool.and_eq_true, decide_eq_true_eq] at h
  rw [Chan.fld_setFld_same c f v (Fld.ok_of_sound h.1), Nat.mod_eq_of_lt h.2]

end Sys2Proof.Machine
end

section
/-! SUPPORT. What the lease gate hears, claims and takes (R21 to R23, R30). -/

namespace Sys2Proof.Machine

open Sys2Proof

set_option Elab.async false

variable {s : State} {g : Gaffer} {epoch : Nat}

/-- What the gate notes of a renewal or claim: that it heard the gaffer in this window. -/
def Lease.heard (l : Lease) : Gaffer → Lease
  | .gw => { l with gwSeen := true }
  | .ge => { l with geSeen := true }

/-- A lease taken: EPOCH, HOLDER, VALID and AGE. -/
def Pkg.leaseTaken (p : Pkg) (g : Gaffer) (epoch : Nat) : Pkg :=
  (((p.setFld R.GAF_LEASE_EPOCH epoch).setFld R.GAF_LEASE_STATUS_HOLDER (gafCode g)).setFld R.GAF_LEASE_STATUS_VALID 1).setFld
    R.GAF_LEASE_STATUS_AGE 0

theorem leaseHear_refused (h : s.mayLead g = false) : s.leaseHear g epoch = s := if_pos (by simp [h])

theorem leaseHear_noted (h : s.mayLead g = true) (hw : s.wins g epoch = false) :
    s.leaseHear g epoch = s.modP fun p => { p with lease := p.lease.heard g } := by
  have hw' : (s.modP fun p => { p with lease := p.lease.heard g }).wins g epoch = false := hw
  unfold State.leaseHear
  rw [if_neg (by simp [h])]
  exact if_neg (Bool.eq_false_iff.mp hw')

theorem leaseHear_taken (h : s.mayLead g = true) (hw : s.wins g epoch = true) :
    s.leaseHear g epoch = (s.modP fun p => { p with lease := p.lease.heard g }).modP (·.leaseTaken g epoch) := by
  have hw' : (s.modP fun p => { p with lease := p.lease.heard g }).wins g epoch = true := hw
  unfold State.leaseHear
  rw [if_neg (by simp [h])]
  exact if_pos hw'

theorem leased_leaseTaken (he : epoch < 2 ^ 32) {f : Pkg → Lease} :
    s.leased ((s.modP fun p => { p with lease := f p }).modP (·.leaseTaken g epoch)) g epoch := by
  have hg : R.GAF_LEASE_STATUS_HOLDER.holds (gafCode g) = true := by
    cases g
    · decide
    · decide
  have hepoch : R.GAF_LEASE_EPOCH.holds epoch = true := by
    simp only [Fld.holds, Bool.and_eq_true, decide_eq_true_eq]
    exact ⟨by decide, he⟩
  have hflds (x : Fld) (h1 : R.GAF_LEASE_EPOCH.disjoint x = true) (h2 : R.GAF_LEASE_STATUS_HOLDER.disjoint x = true)
      (h3 : R.GAF_LEASE_STATUS_VALID.disjoint x = true) (h4 : R.GAF_LEASE_STATUS_AGE.disjoint x = true) (p : Pkg) :
      (p.leaseTaken g epoch).fld x = p.fld x := by
    simp only [Pkg.leaseTaken, Pkg.fld_setFld_disjoint h1, Pkg.fld_setFld_disjoint h2, Pkg.fld_setFld_disjoint h3,
      Pkg.fld_setFld_disjoint h4]
  refine ⟨rfl, rfl, fun o h0 h4 => ?_, ?_, ?_, ?_, ?_, ?_, ?_, ?_⟩
  · simp only [State.modP_pkg, Pkg.leaseTaken]
    rw [Pkg.rd_setFld_other h4, Pkg.rd_setFld_other h4, Pkg.rd_setFld_other h4, Pkg.rd_setFld_other h0]
    rfl
  · simp (disch := decide) only [State.modP_pkg, Pkg.leaseTaken, Pkg.fld_setFld_disjoint, Pkg.fld_setFld_self hepoch]
  · have hh : (Pkg.leaseTaken { s.pkg with lease := f s.pkg } g epoch).fld R.GAF_LEASE_STATUS_HOLDER = gafCode g := by
      simp (disch := decide) only [Pkg.leaseTaken, Pkg.fld_setFld_disjoint, Pkg.fld_setFld_self hg]
    unfold State.holder
    simp only [State.modP_pkg, hh]
    cases g
    · rfl
    · rfl
  · unfold State.leaseValid
    simp (disch := decide) only [State.modP_pkg, Pkg.leaseTaken, Pkg.fld_setFld_disjoint, Pkg.fld_setFld_self]
    rfl
  · exact Pkg.fld_setFld_self (by decide)
  · exact congrArg (· == 1) (hflds _ (by decide) (by decide) (by decide) (by decide) _)
  · exact hflds _ (by decide) (by decide) (by decide) (by decide) _
  · exact hflds _ (by decide) (by decide) (by decide) (by decide) _

theorem leaseHear_leased (h : s.mayLead g = true) (hw : s.wins g epoch = true) (he : epoch < 2 ^ 32) :
    s.leased (s.leaseHear g epoch) g epoch := by
  rw [leaseHear_taken h hw]
  exact leased_leaseTaken he

/-- The epoch after the gate's wins. -/
theorem wins_next : s.wins g (s.pkg.fld R.GAF_LEASE_EPOCH + 1) = true := by
  simp [State.wins]

theorem wins_iff : s.wins g epoch = true ↔
    s.pkg.fld R.GAF_LEASE_EPOCH < epoch ∨ (s.pkg.fld R.GAF_LEASE_EPOCH = epoch ∧ (g = s.holder ∨ g = .gw)) := by
  simp [State.wins, eq_comm (a := epoch)]

theorem mayLead_iff : s.mayLead g = true ↔
    s.gafReset g = false ∧ s.gafWaits g = false ∧ (g = .ge → s.pkg.fld R.GAF_LEASE_STATUS_GE_PASSIVE ≠ 1) := by
  simp [State.mayLead, and_assoc, imp_iff_not_or]

theorem claimNext_exhausted (h : 0xFFFFFFFE ≤ s.pkg.fld R.GAF_LEASE_EPOCH) : s.claimNext g = s := if_pos h

theorem claimNext_refused (h : s.mayLead g = false) : s.claimNext g = s := by
  unfold State.claimNext
  dsimp only
  split
  · rfl
  · exact leaseHear_refused h

theorem claimNext_leased (h : s.mayLead g = true) (he : s.pkg.fld R.GAF_LEASE_EPOCH < 0xFFFFFFFE) :
    s.leased (s.claimNext g) g (s.pkg.fld R.GAF_LEASE_EPOCH + 1) := by
  unfold State.claimNext
  rw [if_neg (by omega)]
  exact leaseHear_leased h wins_next (by omega)

/-- A lease taken from a state that differs in VALID, or in the notes of the gate, is taken from this one. -/
theorem State.leased.of_pkg {t u : State} (h : t.leased u g epoch) (hc : t.chan = s.chan) (hq : t.pending = s.pending)
    (hr : ∀ o, o ≠ 0x204 → t.pkg.rd o = s.pkg.rd o) (hs : t.split = s.split)
    (hp : t.pkg.fld R.GAF_LEASE_STATUS_GE_PASSIVE = s.pkg.fld R.GAF_LEASE_STATUS_GE_PASSIVE)
    (ht : t.pkg.fld R.GAF_LEASE_STATUS_SPLIT_TICKS = s.pkg.fld R.GAF_LEASE_STATUS_SPLIT_TICKS) : s.leased u g epoch := by
  obtain ⟨h1, h2, h3, h4, h5, h6, h7, h8, h9, h10⟩ := h
  exact ⟨h1.trans hc, h2.trans hq, fun o h0 ho => (h3 o h0 ho).trans (hr o ho), h4, h5, h6, h7, h8.trans hs, h9.trans hp,
    h10.trans ht⟩

/-- VALID of the lease cleared, as its observer finds it expired (R21). -/
def State.expired (s : State) : State := s.modP (·.setFld R.GAF_LEASE_STATUS_VALID 0)

theorem expired_fld {f : Fld} (h : R.GAF_LEASE_STATUS_VALID.disjoint f = true) : s.expired.pkg.fld f = s.pkg.fld f :=
  Pkg.fld_setFld_disjoint h

theorem expired_epoch : s.expired.pkg.fld R.GAF_LEASE_EPOCH = s.pkg.fld R.GAF_LEASE_EPOCH := expired_fld (by decide)

theorem expired_invalid : s.expired.leaseValid = false :=
  congrArg (· == 1) (Pkg.fld_setFld_self (f := R.GAF_LEASE_STATUS_VALID) (v := 0) (by decide))

theorem expired_mayLead : s.expired.mayLead g = s.mayLead g := by
  unfold State.mayLead
  rw [expired_fld (by decide)]
  cases g
  · rfl
  · rfl

theorem claimNext_expired_leased (h : s.mayLead g = true) (he : s.pkg.fld R.GAF_LEASE_EPOCH < 0xFFFFFFFE) :
    s.leased (s.expired.claimNext g) g (s.pkg.fld R.GAF_LEASE_EPOCH + 1) := by
  have h1 := claimNext_leased (expired_mayLead.trans h) (expired_epoch.trans_lt he)
  rw [expired_epoch] at h1
  exact h1.of_pkg rfl rfl (fun o ho => Pkg.rd_setFld_other ho) (congrArg (· == 1) (expired_fld (by decide)))
    (expired_fld (by decide)) (expired_fld (by decide))

theorem execLeaseClaim_hears {e : BitVec 32} (h : e ≠ 0xFFFFFFFF#32) :
    exec (.leaseClaim g e) s = .next (s.leaseHear g e.toNat) := if_neg h

/-- The last epoch is never claimed (R22). -/
theorem execLeaseClaim_last : exec (.leaseClaim g 0xFFFFFFFF#32) s = .next s := by
  change execLeaseClaim g _ s = _
  exact if_pos rfl

/-- A renewal or claim that does not win, of a gaffer that may lead or not, moves no register. -/
theorem leaseHear_lost (hw : s.wins g epoch = false) :
    (s.leaseHear g epoch).chan = s.chan ∧ ∀ o, (s.leaseHear g epoch).pkg.rd o = s.pkg.rd o := by
  cases h : s.mayLead g with
  | false => rw [leaseHear_refused h]; exact ⟨rfl, fun _ => rfl⟩
  | true => rw [leaseHear_noted h hw]; exact ⟨rfl, fun _ => rfl⟩

theorem gafWaits_eq : s.gafWaits g = if g = .gw then s.pkg.lease.gwWaits else s.pkg.lease.geWaits := by
  cases g
  · rfl
  · rfl

/-- The wait after a split-driven reset is over (R30). -/
def Lease.waited (l : Lease) : Gaffer → Lease
  | .gw => { l with gwWaits := false }
  | .ge => { l with geWaits := false }

/-- The state in which a gaffer no longer waits. -/
def State.waited (s : State) (g : Gaffer) : State := s.modP fun p => { p with lease := p.lease.waited g }

/-- A gaffer that waited, and is otherwise free to lead, claims the epoch after the gate's. -/
theorem claimNext_waited_leased (hr : s.gafReset g = false)
    (hp : g = .ge → s.pkg.fld R.GAF_LEASE_STATUS_GE_PASSIVE ≠ 1) (he : s.pkg.fld R.GAF_LEASE_EPOCH < 0xFFFFFFFE) :
    s.leased ((s.waited g).claimNext g) g (s.pkg.fld R.GAF_LEASE_EPOCH + 1) := by
  have hm : (s.waited g).mayLead g = true := by
    cases g
    · exact mayLead_iff.mpr ⟨hr, rfl, hp⟩
    · exact mayLead_iff.mpr ⟨hr, rfl, hp⟩
  exact (claimNext_leased hm he).of_pkg rfl rfl (fun _ _ => rfl) rfl rfl rfl

theorem execGwClaim_waits (hr : s.gafReset .gw = false) (hw : s.gafWaits .gw = true) :
    exec .gwClaim s = .next ((s.waited .gw).claimNext .gw) :=
  if_neg (by simpa [State.gafReset, State.gafWaits] using ⟨hr, hw⟩)

theorem execGeClaim_waits {heard : Bool} (hr : s.gafReset .ge = false) (hw : s.gafWaits .ge = true) :
    exec (.geClaim heard) s = .next (if heard then s.waited .ge else (s.waited .ge).claimNext .ge) :=
  if_neg (by simpa [State.gafReset, State.gafWaits] using ⟨hr, hw⟩)

/-- GE that heard a renewal claims nothing. -/
theorem execGeClaim_heard : goesTo (exec (.geClaim true) s) fun t => t.chan = s.chan ∧ ∀ o, t.pkg.rd o = s.pkg.rd o := by
  by_cases h : (s.pkg.geReset || !s.pkg.lease.geWaits) = true
  · have hs : exec (.geClaim true) s = .next s := if_pos h
    exact ⟨s, hs, rfl, fun _ => rfl⟩
  · have hs : exec (.geClaim true) s = .next (s.waited .ge) := if_neg h
    exact ⟨_, hs, rfl, fun _ => rfl⟩

/-- Settles O22: the gate takes the lease exactly when the gaffer may lead and its epoch wins; a claim is for the next epoch,
which always wins. -/
theorem leaseEpochs : Obligations.LeaseEpochs := by
  intro s g epoch now passive waits leads lost
  have hleads : leads ↔ s.mayLead g = true := by
    rw [mayLead_iff, gafWaits_eq, ← Bool.not_eq_true (ite ..)]
  have hlow (h : epoch.toNat < now ∨ (now = epoch.toNat ∧ g = .ge ∧ s.holder = .gw)) : s.wins g epoch.toNat = false := by
    rw [Bool.eq_false_iff, Ne, wins_iff]
    rintro (hlt | ⟨heq, hg⟩)
    · rcases h with h | ⟨h, -⟩
      · exact absurd hlt h.not_gt
      · exact hlt.ne h
    · rcases h with h | ⟨-, rfl, hh⟩
      · exact h.ne' heq
      · simp [hh] at hg
  refine ⟨fun hl hw => ?_, fun hl => ?_, fun h => ?_, execLeaseClaim_last, fun hn => ⟨fun hl => ?_, fun hr hw hp => ⟨?_, ?_⟩⟩,
    execGeClaim_heard, ?_⟩
  · have ht := leaseHear_leased (hleads.mp hl) (wins_iff.mpr hw) epoch.isLt
    exact ⟨⟨_, rfl, ht⟩, fun he => ⟨_, execLeaseClaim_hears he, ht⟩⟩
  · have hm : s.mayLead g = false := Bool.eq_false_iff.mpr fun h => hl (hleads.mpr h)
    refine ⟨congrArg _ (leaseHear_refused hm), ?_, s.expired, ?_, expired_invalid, expired_epoch⟩
    · by_cases he : epoch = 0xFFFFFFFF#32
      · exact he ▸ execLeaseClaim_last
      · rw [execLeaseClaim_hears he, leaseHear_refused hm]
    · exact congrArg _ (claimNext_refused (expired_mayLead.trans hm))
  · refine ⟨⟨_, rfl, leaseHear_lost (hlow h)⟩, ?_⟩
    by_cases he : epoch = 0xFFFFFFFF#32
    · exact ⟨s, he ▸ execLeaseClaim_last, rfl, fun _ => rfl⟩
    · exact ⟨_, execLeaseClaim_hears he, leaseHear_lost (hlow h)⟩
  · exact ⟨_, rfl, claimNext_expired_leased (hleads.mp hl) hn⟩
  · rintro rfl
    exact ⟨_, execGwClaim_waits hr (gafWaits_eq.trans hw), claimNext_waited_leased hr hp hn⟩
  · rintro rfl
    exact ⟨_, execGeClaim_waits hr (gafWaits_eq.trans hw), claimNext_waited_leased hr hp hn⟩
  · refine ⟨_, rfl, fun hn => ?_⟩
    have h : s.expired.claimNext g = s.expired := claimNext_exhausted (expired_epoch.symm ▸ hn)
    change (s.expired.claimNext g).leaseValid = false ∧ (s.expired.claimNext g).pkg.fld R.GAF_LEASE_EPOCH = now
    rw [h]
    exact ⟨expired_invalid, expired_epoch⟩

end Sys2Proof.Machine
end

section
/-! SUPPORT. The lehr of a half: which changes of power state wait while its gaffer is in reset, and which run when it returns
(R20, R479). -/

namespace Sys2Proof.Machine

open Sys2Proof

set_option Elab.async false

variable {s t u : State} {g : Gaffer} {c d : ChIdx}

/-! ## One change held or let run -/

/-- The change of a channel's power state is held, or runs, and CH_PWR_STAT shows it. -/
def State.setHeld (s : State) (c : ChIdx) (b : Bool) : State := (s.modPwr c fun p => { p with held := b }).pwrShow c

/-- A channel but for what the lehr sets: its registers, and whether its change is held. -/
def Chan.unlehred (c : Chan) : Chan := { c with reg := [], power := { c.power with held := false } }

/-- Two states that differ in the registers of the channels and in the changes held alone. -/
def State.lehrOnly (s t : State) : Prop := t.pkg = s.pkg ∧ ∀ c : ChIdx, t.chan[c].unlehred = s.chan[c].unlehred

theorem State.lehrOnly.refl (s : State) : s.lehrOnly s := ⟨rfl, fun _ => rfl⟩

theorem State.lehrOnly.trans (h : s.lehrOnly t) (h' : t.lehrOnly u) : s.lehrOnly u :=
  ⟨h'.1.trans h.1, fun c => (h'.2 c).trans (h.2 c)⟩

theorem State.lehrOnly.ctx (h : s.lehrOnly t) (c : ChIdx) : t.chan[c].ctx = s.chan[c].ctx :=
  (congrArg (fun x : Chan => x.ctx) (h.2 c) :)

theorem State.lehrOnly.mem (h : s.lehrOnly t) (c : ChIdx) : t.chan[c].mem = s.chan[c].mem :=
  (congrArg (fun x : Chan => x.mem) (h.2 c) :)

theorem State.lehrOnly.st (h : s.lehrOnly t) (c : ChIdx) : (t.pwr c).st = (s.pwr c).st :=
  (congrArg (fun x : Chan => x.power.st) (h.2 c) :)

theorem State.lehrOnly.move (h : s.lehrOnly t) (c : ChIdx) : (t.pwr c).move = (s.pwr c).move :=
  (congrArg (fun x : Chan => x.power.move) (h.2 c) :)

theorem State.lehrOnly.up (h : s.lehrOnly t) (c : ChIdx) : t.up c = s.up c := by
  have hr : t.chan[c].inReset = s.chan[c].inReset := (congrArg (fun x : Chan => x.inReset) (h.2 c) :)
  have hl : t.chan[c].hubLost = s.chan[c].hubLost := (congrArg (fun x : Chan => x.hubLost) (h.2 c) :)
  simp only [State.up, State.live, h.1, hr, hl]

theorem setHeld_chan_self {b : Bool} : (s.setHeld c b).chan[c] =
    let p := { s.pwr c with held := b }
    let runs := p.move != .none && !b
    (({ s.chan[c] with power := p }).setFld R.CH_PWR_STAT_STATE (if runs then p.entering else p.st).code).setFld
      R.CH_PWR_STAT_TRANS (if runs then 1 else 0) := by
  unfold State.setHeld State.pwrShow State.modPwr State.setF State.pwr
  simp only [State.modC_same]

theorem setHeld_chan_other {b : Bool} (h : d ≠ c) : (s.setHeld c b).chan[d] = s.chan[d] := by
  unfold State.setHeld State.pwrShow State.modPwr State.setF
  simp only [State.modC_other _ _ h]

theorem setHeld_lehrOnly {b : Bool} : s.lehrOnly (s.setHeld c b) := by
  refine ⟨rfl, fun d => ?_⟩
  by_cases h : d = c
  · subst h
    rw [setHeld_chan_self]
    rfl
  · rw [setHeld_chan_other h]

theorem setHeld_held {b : Bool} : ((s.setHeld c b).pwr c).held = b := by
  unfold State.pwr
  rw [setHeld_chan_self]
  rfl

theorem setHeld_held_other {b : Bool} (h : d ≠ c) : ((s.setHeld c b).pwr d).held = (s.pwr d).held :=
  congrArg (fun x : Chan => x.power.held) (setHeld_chan_other h)

/-- A change that is held is not shown as running. -/
theorem setHeld_trans : (s.setHeld c true).f c R.CH_PWR_STAT_TRANS = 0 := by
  unfold State.f
  rw [setHeld_chan_self]
  simp only [Bool.not_true, Bool.and_false, Bool.false_eq_true, if_false]
  exact Chan.fld_setFld_self (by decide)

/-! ## A gaffer enters reset -/

/-- A change of power state, if there is one, is held. -/
def State.holdChange (s : State) (c : ChIdx) : State := if (s.pwr c).move == .none then s else s.setHeld c true

/-- The changes of the channels of a list are held. -/
def State.holdChanges (s : State) (l : List ChIdx) : State := l.foldl State.holdChange s

/-- A gaffer in reset. -/
def Pkg.gone (p : Pkg) : Gaffer → Pkg
  | .gw => { p with gwReset := true }
  | .ge => { p with geReset := true }

theorem gafferGone_eq : s.gafferGone g = (s.modP (·.gone g)).holdChanges (gafHalf g) := by
  cases g
  · rfl
  · rfl

theorem holdChange_lehrOnly : s.lehrOnly (s.holdChange c) := by
  unfold State.holdChange
  split
  · exact .refl s
  · exact setHeld_lehrOnly

theorem holdChange_other (h : d ≠ c) : (s.holdChange c).chan[d] = s.chan[d] := by
  unfold State.holdChange
  split
  · rfl
  · exact setHeld_chan_other h

theorem holdChange_moving (h : (s.pwr c).move ≠ .none) : s.holdChange c = s.setHeld c true := if_neg (by simpa using h)

theorem holdChanges_lehrOnly (l : List ChIdx) (s : State) : s.lehrOnly (s.holdChanges l) := by
  induction l generalizing s with
  | nil => exact .refl s
  | cons c l ih => exact holdChange_lehrOnly.trans (ih _)

theorem holdChanges_other {l : List ChIdx} (h : d ∉ l) : (s.holdChanges l).chan[d] = s.chan[d] := by
  induction l generalizing s with
  | nil => rfl
  | cons c l ih =>
    rw [List.mem_cons, not_or] at h
    exact (ih h.2).trans (holdChange_other h.1)

theorem holdChanges_held {l : List ChIdx} (hd : d ∈ l) (hm : (s.pwr d).move ≠ .none) :
    ((s.holdChanges l).pwr d).held = true ∧ (s.holdChanges l).f d R.CH_PWR_STAT_TRANS = 0 := by
  induction l generalizing s with
  | nil => cases hd
  | cons c l ih =>
    by_cases hl : d ∈ l
    · exact ih hl ((holdChange_lehrOnly.move d).trans_ne hm)
    · obtain rfl : d = c := (List.mem_cons.mp hd).resolve_right hl
      have e : (s.holdChanges (d :: l)).chan[d] = (s.setHeld d true).chan[d] := by
        rw [← holdChange_moving hm]
        exact holdChanges_other hl
      unfold State.pwr State.f
      rw [e]
      exact ⟨setHeld_held, setHeld_trans⟩

/-! ## The lehr takes up the waiting changes -/

/-- A change of the half of `ch` that the lehr takes up: it is held, the gaffer is there, and fewer than two run. -/
def State.lehrTakes (s : State) (ch c : ChIdx) : Bool :=
  c.val / 4 == ch.val / 4 && (s.pwr c).held && !s.gafferDown c && s.moving c < 2

/-- The lehr looks at one channel. -/
def State.lehrStep (ch : ChIdx) (s : State) (c : ChIdx) : State := if s.lehrTakes ch c then s.setHeld c false else s

theorem lehrNext_eq {ch : ChIdx} : s.lehrNext ch = (List.finRange 8).foldl (State.lehrStep ch) s := rfl

theorem lehrStep_lehrOnly {ch : ChIdx} : s.lehrOnly (s.lehrStep ch c) := by
  unfold State.lehrStep
  split
  · exact setHeld_lehrOnly
  · exact .refl s

theorem lehrSteps_lehrOnly {ch : ChIdx} (l : List ChIdx) (s : State) :
    s.lehrOnly (l.foldl (State.lehrStep ch) s) := by
  induction l generalizing s with
  | nil => exact .refl s
  | cons c l ih => exact lehrStep_lehrOnly.trans (ih _)

theorem lehrNext_lehrOnly {ch : ChIdx} : s.lehrOnly (s.lehrNext ch) := lehrNext_eq (s := s) ▸ lehrSteps_lehrOnly _ s

/-- A change that runs alone in its half leaves room for another. -/
theorem moving_lt_two (h : ∀ d : ChIdx, d.val / 4 = c.val / 4 → d ≠ c → (s.pwr d).move = .none) : s.moving c < 2 := by
  have hsub : ((List.finRange 8).filter fun d : ChIdx =>
      d.val / 4 == c.val / 4 && (s.pwr d).move != .none && !(s.pwr d).held) ⊆ [c] := by
    intro d hd
    simp only [List.mem_filter, Bool.and_eq_true, beq_iff_eq, bne_iff_ne] at hd
    obtain ⟨-, ⟨hh, hm⟩, -⟩ := hd
    by_contra hn
    exact hm (h d hh (by simpa using hn))
  exact Nat.lt_succ_of_le (((List.nodup_finRange 8).filter _).subperm hsub).length_le

theorem lehrStep_released {ch : ChIdx} (h : (s.pwr d).held = false) :
    ((s.lehrStep ch c).pwr d).held = false := by
  unfold State.lehrStep
  split
  · by_cases e : d = c
    · exact e ▸ setHeld_held
    · exact (setHeld_held_other e).trans h
  · exact h

theorem lehrSteps_released {ch : ChIdx} {l : List ChIdx} (hc : d.val / 4 = ch.val / 4) (hg : s.gafferDown d = false)
    (ha : ∀ c : ChIdx, c.val / 4 = d.val / 4 → c ≠ d → (s.pwr c).move = .none) (h : d ∈ l ∨ (s.pwr d).held = false) :
    ((l.foldl (State.lehrStep ch) s).pwr d).held = false := by
  induction l generalizing s with
  | nil => exact h.resolve_left List.not_mem_nil
  | cons c l ih =>
    have hstep : s.lehrOnly (s.lehrStep ch c) := lehrStep_lehrOnly
    refine ih (by rw [State.gafferDown, hstep.1]; exact hg) (fun x hx hn => (hstep.move x).trans (ha x hx hn)) ?_
    rcases h with h | h
    · rcases List.mem_cons.mp h with rfl | h
      · right
        cases hh : (s.pwr d).held with
        | false => exact lehrStep_released hh
        | true =>
          have ht : s.lehrTakes ch d = true := by simp [State.lehrTakes, hc, hg, hh, moving_lt_two ha]
          rw [State.lehrStep, if_pos ht]
          exact setHeld_held
      · exact .inl h
    · exact .inr (lehrStep_released h)

/-- A change that waits alone in its half runs once the lehr takes up the waiting ones. -/
theorem lehrNext_released {ch : ChIdx} (hc : d.val / 4 = ch.val / 4) (hg : s.gafferDown d = false)
    (ha : ∀ c : ChIdx, c.val / 4 = d.val / 4 → c ≠ d → (s.pwr c).move = .none) : ((s.lehrNext ch).pwr d).held = false :=
  lehrSteps_released hc hg ha (.inl (List.mem_finRange d))

theorem mem_gafHalf : c ∈ gafHalf g ↔ c.val / 4 = gafCode g := by
  cases g
  · revert c; decide
  · revert c; decide

theorem gafferDown_of_half (h : c ∈ gafHalf g) : s.gafferDown c = s.gafReset g := by
  rw [mem_gafHalf] at h
  unfold State.gafferDown
  cases g
  · exact if_pos (by simp [gafCode] at h; omega)
  · exact if_neg (by simp [gafCode] at h; omega)

end Sys2Proof.Machine
end

section
/-! SUPPORT. A gaffer's reset and its return (R20, R478, R479). -/

namespace Sys2Proof.Machine

open Sys2Proof

set_option Elab.async false

variable {s t : State} {g : Gaffer} {c d : ChIdx} {code : Nat}

/-! ## Reset -/

theorem gone_gafReset {p : Pkg} (h : s.pkg = p.gone g) : s.gafReset g = true := by
  cases g
  · exact (congrArg Pkg.gwReset h :)
  · exact (congrArg Pkg.geReset h :)

/-- From a state to that of the lehr's half after its gaffer went into reset. -/
theorem gafferGone_does : (s.modP (·.gone g)).lehrOnly (s.gafferGone g) := by
  rw [gafferGone_eq]
  exact holdChanges_lehrOnly _ _

theorem gafferGone_pkg : (s.gafferGone g).pkg = s.pkg.gone g := gafferGone_does.1

theorem gafferGone_other (h : c ∉ gafHalf g) : (s.gafferGone g).chan[c] = s.chan[c] := by
  rw [gafferGone_eq]
  exact holdChanges_other h

theorem gafferGone_held (h : c ∈ gafHalf g) (hm : (s.pwr c).move ≠ .none) :
    ((s.gafferGone g).pwr c).held = true ∧ (s.gafferGone g).f c R.CH_PWR_STAT_TRANS = 0 := by
  rw [gafferGone_eq]
  exact holdChanges_held h hm

/-! ## A wake event -/

/-- A channel of which a wake event would start an exit: up, no fence, not PARKED, asleep, and no change of it under way. -/
structure State.Asleep (s : State) (c : ChIdx) : Prop where
  up : s.up c = true
  unfenced : s.fenced = false
  notParked : s.place c ≠ 0xE
  sleeping : (s.pwr c).st ≠ .run
  still : (s.pwr c).move = .none

theorem State.Asleep.wake_eq (h : s.Asleep c) : s.wake c code =
    if s.gafferDown c then s.modP fun k =>
      { k with heldWakes := if k.heldWakes.any (fun x => x.1 == c.val) then k.heldWakes else k.heldWakes ++ [(c.val, code)] }
    else s.exitBegin c code := by
  unfold State.wake
  rw [if_neg (by simp [h.up, h.unfenced, h.notParked])]
  simp only [h.still]
  exact if_neg (by simpa using h.sleeping)

theorem State.Asleep.wake_held (h : s.Asleep c) (hg : s.gafferDown c = true) (hn : ∀ x ∈ s.pkg.heldWakes, x.1 ≠ c.val) :
    s.wake c code = s.modP fun k => { k with heldWakes := k.heldWakes ++ [(c.val, code)] } := by
  rw [h.wake_eq, if_pos hg]
  have hany : s.pkg.heldWakes.any (fun x => x.1 == c.val) = false := by simpa using fun a b hx => hn (a, b) hx
  simp only [State.modP, hany, Bool.false_eq_true, if_false]

theorem State.Asleep.wake_exits (h : s.Asleep c) (hg : s.gafferDown c = false) : s.wake c code = s.exitBegin c code := by
  rw [h.wake_eq, if_neg (by simp [hg])]

theorem State.Asleep.of_lehrOnly (h : s.Asleep c) (ht : s.lehrOnly t) : t.Asleep c where
  up := (ht.up c).trans h.up
  unfenced := by rw [State.fenced, ht.1]; exact h.unfenced
  notParked := by rw [State.place, ht.1]; exact h.notParked
  sleeping := (ht.st c).trans_ne h.sleeping
  still := (ht.move c).trans h.still

theorem execPwrWake_wakes {code : Fin 8} (h : code ≠ 0) : exec (.pwrWake c code) s = .next (s.wake c code.val) := by
  change execPwrWake c code s = _
  unfold execPwrWake
  refine congrArg _ (if_neg fun hz => h (Fin.ext ?_))
  exact eq_of_beq hz

/-! ## An exit begins -/

theorem pwrBegin_chan_self {m : PwrMove} :
    let held := s.gafferDown c || decide (2 ≤ s.moving c)
    (s.pwrBegin c m).chan[c] =
      let p := { s.pwr c with move := m, held := held }
      let runs := p.move != .none && !held
      (({ s.chan[c] with power := p }).setFld R.CH_PWR_STAT_STATE (if runs then p.entering else p.st).code).setFld
        R.CH_PWR_STAT_TRANS (if runs then 1 else 0) := by
  unfold State.pwrBegin State.pwrShow State.modPwr State.setF State.pwr
  simp only [State.modC_same]

theorem pwrBegin_chan_other {m : PwrMove} (h : d ≠ c) : (s.pwrBegin c m).chan[d] = s.chan[d] := by
  unfold State.pwrBegin State.pwrShow State.modPwr State.setF
  simp only [State.modC_other _ _ h]

theorem pwrBegin_ctx_mem {m : PwrMove} : (s.pwrBegin c m).chan[d].ctx = s.chan[d].ctx ∧
    (s.pwrBegin c m).chan[d].mem = s.chan[d].mem := by
  by_cases h : d = c
  · subst h
    rw [pwrBegin_chan_self]
    exact ⟨rfl, rfl⟩
  · rw [pwrBegin_chan_other h]
    exact ⟨rfl, rfl⟩

theorem pwrBegin_lastWake {m : PwrMove} : (s.pwrBegin c m).f c R.CH_PWR_STAT_LAST_WAKE = s.f c R.CH_PWR_STAT_LAST_WAKE := by
  unfold State.f
  rw [pwrBegin_chan_self]
  simp (disch := decide) only [Chan.fld_setFld_disjoint]
  rfl

theorem pwrBegin_move {m : PwrMove} : ((s.pwrBegin c m).pwr c).move = m := by
  unfold State.pwr
  rw [pwrBegin_chan_self]
  rfl

theorem State.butEvents.ctx_mem (h : s.butEvents t) (c : ChIdx) : t.chan[c].ctx = s.chan[c].ctx ∧ t.chan[c].mem = s.chan[c].mem := by
  obtain ⟨hc, -⟩ := h.2.2.2 c
  exact ⟨(congrArg (fun x : Chan => x.ctx) hc :), (congrArg (fun x : Chan => x.mem) hc :)⟩

theorem State.butEvents.f (h : s.butEvents t) {f : Fld} (hf : f.off ∉ eventRegs) : t.f c f = s.f c f := by
  obtain ⟨-, hr⟩ := h.2.2.2 c
  exact congrArg f.of (hr _ hf)

/-- An exit begins: LAST_WAKE shows the event, and no context and no memory changes. -/
theorem exitBegin_does : ((s.exitBegin c code).pwr c).move = .exit .run ∧
    (s.exitBegin c code).f c R.CH_PWR_STAT_LAST_WAKE = code % 16 ∧
    (s.exitBegin c code).pkg.heldWakes = s.pkg.heldWakes ∧ (∀ g, (s.exitBegin c code).gafReset g = s.gafReset g) ∧
    ∀ d : ChIdx, (s.exitBegin c code).chan[d].ctx = s.chan[d].ctx ∧ (s.exitBegin c code).chan[d].mem = s.chan[d].mem := by
  unfold State.exitBegin
  dsimp only
  set u := s.setF c R.CH_PWR_STAT_LAST_WAKE code with hu
  have hb := (State.post_does u (srcGaffer c) .pwrWake [code, s.pkg.tick.num.toNat % 2 ^ 32, s.pkg.tick.num.toNat / 2 ^ 32]).1
  refine ⟨pwrBegin_move, ?_, ?_, fun g => ?_, fun d => ?_⟩
  · rw [pwrBegin_lastWake, hb.f (by decide), hu]
    unfold State.f State.setF
    rw [State.modC_same]
    exact Chan.fld_setFld_same _ _ _ ⟨by decide, by decide⟩
  · exact (congrArg Pkg.heldWakes hb.2.1 :)
  · cases g
    · exact (congrArg Pkg.gwReset hb.2.1 :)
    · exact (congrArg Pkg.geReset hb.2.1 :)
  · have hs : u.chan[d].ctx = s.chan[d].ctx ∧ u.chan[d].mem = s.chan[d].mem := by
      by_cases h : d = c
      · subst h
        rw [hu, State.setF, State.modC_same]
        exact ⟨rfl, rfl⟩
      · rw [hu, State.setF, State.modC_other _ _ h]
        exact ⟨rfl, rfl⟩
    obtain ⟨hp1, hp2⟩ := pwrBegin_ctx_mem (s := u.post (srcGaffer c) .pwrWake
      [code, s.pkg.tick.num.toNat % 2 ^ 32, s.pkg.tick.num.toNat / 2 ^ 32]) (c := c) (d := d) (m := .exit .run)
    obtain ⟨he1, he2⟩ := hb.ctx_mem d
    exact ⟨hp1.trans (he1.trans hs.1), hp2.trans (he2.trans hs.2)⟩

/-! ## Return -/

/-- A gaffer back from reset. -/
def Pkg.back (p : Pkg) : Gaffer → Pkg
  | .gw => { p with gwReset := false }
  | .ge => { p with geReset := false }

/-- The wake events held for the half of a gaffer. -/
def State.wakesOf (s : State) (g : Gaffer) : List (Nat × Nat) :=
  s.pkg.heldWakes.filter fun x => (gafHalf g).any fun c => c.val == x.1

/-- The lehr of a half has taken up the waiting changes after the return of its gaffer. -/
def State.lehrBack (s : State) (g : Gaffer) : State := (s.modP (·.back g)).lehrNext ((gafHalf g).headD 0)

theorem lehrBack_does : (s.modP (·.back g)).lehrOnly (s.lehrBack g) := lehrNext_lehrOnly

theorem lehrBack_gafReset : (s.lehrBack g).gafReset g = false := by
  have h := (lehrBack_does (s := s) (g := g)).1
  cases g
  · exact (congrArg Pkg.gwReset h :)
  · exact (congrArg Pkg.geReset h :)

theorem lehrBack_heldWakes : (s.lehrBack g).pkg.heldWakes = s.pkg.heldWakes := by
  have h := (lehrBack_does (s := s) (g := g)).1
  cases g
  · exact (congrArg Pkg.heldWakes h :)
  · exact (congrArg Pkg.heldWakes h :)

theorem execGafferReturn_eq : exec (.gafferReturn g) s = .next
    (((s.lehrBack g).wakesOf g).foldl (fun s x => s.wake (Fin.ofNat 8 x.1) x.2) ((s.lehrBack g).modP fun p =>
      { p with heldWakes := p.heldWakes.filter fun x => !(gafHalf g).any fun c => c.val == x.1 })) := by
  cases g
  · rfl
  · rfl

theorem lehrBack_released (hc : c ∈ gafHalf g) (ha : ∀ d ∈ gafHalf g, d ≠ c → (s.pwr d).move = .none) :
    ((s.lehrBack g).pwr c).held = false := by
  have hh : c.val / 4 = gafCode g := mem_gafHalf.mp hc
  refine lehrNext_released ?_ ?_ fun d hd hn => ha d (mem_gafHalf.mpr (hd.trans hh)) hn
  · rw [hh]
    cases g
    · rfl
    · rfl
  · rw [gafferDown_of_half hc]
    cases g
    · rfl
    · rfl

theorem modP_heldWakes {f : List (Nat × Nat) → List (Nat × Nat)} {l} (h : f s.pkg.heldWakes = l) :
    (s.modP fun p => { p with heldWakes := f p.heldWakes }) = s.modP fun p => { p with heldWakes := l } := by
  subst h
  rfl

/-- With no wake event held for its half, the return of a gaffer is the lehr's part alone. -/
theorem execGafferReturn_quiet (h : ∀ c ∈ gafHalf g, ∀ x ∈ s.pkg.heldWakes, x.1 ≠ c.val) :
    exec (.gafferReturn g) s = .next (s.lehrBack g) := by
  have hnone : ∀ x ∈ s.pkg.heldWakes, ((gafHalf g).any fun c => c.val == x.1) = false := fun x hx => by
    simpa using fun c hc => Ne.symm (h c hc x hx)
  have hw : (s.lehrBack g).wakesOf g = [] := by
    rw [State.wakesOf, lehrBack_heldWakes, List.filter_eq_nil_iff]
    exact fun x hx => by simp [hnone x hx]
  have hk : (s.lehrBack g).pkg.heldWakes.filter (fun x => !(gafHalf g).any fun c => c.val == x.1) =
      (s.lehrBack g).pkg.heldWakes := by
    rw [lehrBack_heldWakes, List.filter_eq_self]
    exact fun x hx => by simp [hnone x hx]
  rw [execGafferReturn_eq, hw, modP_heldWakes hk]
  rfl

/-- No wake event is held any more. -/
def State.dropWakes (s : State) : State := s.modP fun p => { p with heldWakes := [] }

theorem dropWakes_gafReset : s.dropWakes.gafReset g = s.gafReset g := by
  cases g
  · rfl
  · rfl

theorem State.Asleep.dropWakes (h : s.Asleep c) : s.dropWakes.Asleep c := ⟨h.up, h.unfenced, h.notParked, h.sleeping, h.still⟩

/-- A wake event held alone for a channel of its half: the return of the gaffer acts on it. -/
theorem execGafferReturn_wake (hc : c ∈ gafHalf g) (h : s.pkg.heldWakes = [(c.val, code)]) :
    exec (.gafferReturn g) s = .next ((s.lehrBack g).dropWakes.wake c code) := by
  have hany : ((gafHalf g).any fun d => d.val == c.val) = true := List.any_eq_true.mpr ⟨c, hc, beq_self_eq_true _⟩
  have hw : (s.lehrBack g).wakesOf g = [(c.val, code)] := by
    simp [State.wakesOf, lehrBack_heldWakes, h, hany]
  have hk : (s.lehrBack g).pkg.heldWakes.filter (fun x => !(gafHalf g).any fun c => c.val == x.1) = [] := by
    simp [lehrBack_heldWakes, h, hany]
  have hof : Fin.ofNat 8 c.val = c := Fin.ext (Nat.mod_eq_of_lt c.isLt)
  rw [execGafferReturn_eq, hw, modP_heldWakes hk, List.foldl_cons, List.foldl_nil, hof]
  rfl

/-- Settles O24: what the lehr sets is the registers and the changes held; the one wake event held starts an exit. -/
theorem gaffersReset : Obligations.GaffersReset := by
  intro s g code
  refine ⟨⟨_, rfl, gone_gafReset gafferGone_pkg, fun c => ⟨gafferGone_does.ctx c, gafferGone_does.mem c, gafferGone_does.st c,
      gafferGone_does.move c⟩, fun c hc hm => gafferGone_held hc hm, fun c hc => gafferGone_other hc⟩, ?_, fun h => ?_, ?_⟩
  · intro c hc hr hcode hup hf hp hst hm hn
    have ha : s.Asleep c := ⟨hup, hf, hp, hst, hm⟩
    rw [execPwrWake_wakes hcode, ha.wake_held ((gafferDown_of_half hc).trans hr) hn]
    exact ⟨_, rfl, rfl, rfl⟩
  · exact ⟨_, execGafferReturn_quiet h, lehrBack_gafReset, lehrBack_heldWakes, fun c => ⟨lehrBack_does.ctx c,
      lehrBack_does.mem c, lehrBack_does.st c, lehrBack_does.move c⟩, fun c hc ha _ => lehrBack_released hc ha⟩
  · intro c hc k hk hup hf hp hst hm
    have hs : (s.modP (·.back g)).Asleep c := by
      cases g
      · exact ⟨hup, hf, hp, hst, hm⟩
      · exact ⟨hup, hf, hp, hst, hm⟩
    have ha : (s.lehrBack g).dropWakes.Asleep c := (hs.of_lehrOnly lehrBack_does).dropWakes
    have hg : (s.lehrBack g).dropWakes.gafReset g = false := dropWakes_gafReset.trans lehrBack_gafReset
    obtain ⟨hmove, hlast, hheld, hreset, hrest⟩ := exitBegin_does (c := c) (code := k) (s := (s.lehrBack g).dropWakes)
    rw [execGafferReturn_wake hc hk, ha.wake_exits ((gafferDown_of_half hc).trans hg)]
    exact ⟨_, rfl, (hreset g).trans hg, hheld, hmove, hlast, fun d => ⟨(hrest d).1.trans (lehrBack_does.ctx d),
      (hrest d).2.trans (lehrBack_does.mem d)⟩⟩

end Sys2Proof.Machine
end

section
/-! SUPPORT. The split of the lease: the end of a renewal window, the split-driven reset, and the host's writes of GAF_SPLIT
(R25, R28 to R30). -/

namespace Sys2Proof.Machine

open Sys2Proof

set_option Elab.async false

variable {s t : State} {g : Gaffer} {c : ChIdx} {ms : Nat}

/-! ## The end of a renewal window -/

/-- What the gate notes at the end of a window. -/
def Lease.windowEnd (l : Lease) : Lease := { l with gwSeen := false, geSeen := false, bothBefore := l.gwSeen && l.geSeen }

/-- The gate after a window, but for SPLIT. -/
def State.windowed (s : State) : State :=
  s.poweredMs.modP fun p => ({ p with lease := s.poweredMs.pkg.lease.windowEnd }).satFld R.GAF_LEASE_STATUS_AGE 1

theorem poweredMs_lease : s.poweredMs.pkg.lease = s.pkg.lease := by
  simp only [State.poweredMs, State.modP_pkg]
  split
  · rfl
  · rfl

theorem poweredMs_rd {o : Nat} : s.poweredMs.pkg.rd o = s.pkg.rd o := by
  simp only [State.poweredMs, State.modP_pkg]
  split
  · rfl
  · rfl

theorem windowed_lease : s.windowed.pkg.lease = s.pkg.lease.windowEnd := congrArg Lease.windowEnd poweredMs_lease

theorem windowed_fld {f : Fld} (h : R.GAF_LEASE_STATUS_AGE.disjoint f = true) : s.windowed.pkg.fld f = s.pkg.fld f :=
  (Pkg.fld_satFld_disjoint h).trans (congrArg f.of poweredMs_rd)

theorem windowed_split : s.windowed.split = s.split := congrArg (· == 1) (windowed_fld (by decide))

theorem windowed_holder : s.windowed.holder = s.holder := by
  unfold State.holder
  rw [windowed_fld (by decide)]

theorem windowed_leaseValid : s.windowed.leaseValid = s.leaseValid := congrArg (· == 1) (windowed_fld (by decide))

/-- SPLIT_LEASE raised. -/
def State.splitRaised (s : State) : State :=
  s.modP fun p => ((p.setFld R.GAF_LEASE_STATUS_SPLIT 1).setFld R.GAF_LEASE_STATUS_SPLIT_TICKS 0).setFld R.GAF_SPLIT_SPLIT_SEEN 1

/-- SPLIT_LEASE cleared. -/
def State.splitCleared (s : State) : State :=
  s.modP fun p => (p.setFld R.GAF_LEASE_STATUS_SPLIT 0).setFld R.GAF_LEASE_STATUS_SPLIT_TICKS 0

theorem execLeaseWindowEnd_eq : exec .leaseWindowEnd s = .next (
    if s.pkg.lease.gwSeen && s.pkg.lease.geSeen && s.pkg.lease.bothBefore && !s.split then s.windowed.splitRaised
    else if (s.pkg.lease.gwSeen != s.pkg.lease.geSeen) && s.split then s.windowed.splitCleared
    else s.windowed) := by
  rw [← poweredMs_lease, ← windowed_split]
  change execLeaseWindowEnd s = _
  unfold execLeaseWindowEnd
  dsimp only
  rw [apply_ite Host.Outcome.next, apply_ite Host.Outcome.next]
  rfl

/-- Of the lease, the window's end moves AGE, SPLIT and SPLIT_TICKS alone, and of GAF_SPLIT SPLIT_SEEN. -/
theorem splitRaised_does : s.splitRaised.chan = s.chan ∧ s.splitRaised.pkg.lease = s.pkg.lease ∧
    s.splitRaised.pkg.fld R.GAF_LEASE_EPOCH = s.pkg.fld R.GAF_LEASE_EPOCH ∧ s.splitRaised.holder = s.holder ∧
    s.splitRaised.leaseValid = s.leaseValid ∧ s.splitRaised.split = true ∧
    s.splitRaised.pkg.fld R.GAF_LEASE_STATUS_SPLIT_TICKS = 0 ∧ s.splitRaised.pkg.fld R.GAF_SPLIT_SPLIT_SEEN = 1 := by
  unfold State.splitRaised State.holder State.leaseValid State.split
  simp (disch := decide) only [State.modP_pkg, State.modP_chan, Pkg.fld_setFld_disjoint, Pkg.fld_setFld_self, beq_self_eq_true,
    and_true, true_and]
  rfl

theorem splitCleared_does : s.splitCleared.chan = s.chan ∧ s.splitCleared.pkg.lease = s.pkg.lease ∧
    s.splitCleared.pkg.fld R.GAF_LEASE_EPOCH = s.pkg.fld R.GAF_LEASE_EPOCH ∧ s.splitCleared.holder = s.holder ∧
    s.splitCleared.leaseValid = s.leaseValid ∧ s.splitCleared.split = false ∧
    s.splitCleared.pkg.fld R.GAF_LEASE_STATUS_SPLIT_TICKS = 0 := by
  unfold State.splitCleared State.holder State.leaseValid State.split
  simp (disch := decide) only [State.modP_pkg, State.modP_chan, Pkg.fld_setFld_disjoint, Pkg.fld_setFld_self,
    and_true, true_and]
  exact ⟨rfl, rfl⟩

/-! ## The split-driven reset -/

/-- What the gate notes of a split-driven reset. -/
def Lease.splitReset (l : Lease) (ms : Nat) : Lease :=
  { l with gwWaits := true, geWaits := true, resets := (ms :: l.resets).take 3, gwSeen := false, geSeen := false }

/-- Three resets within 10 s. -/
def thirdReset (recent : List Nat) (ms : Nat) : Bool := recent.length == 3 && recent.all fun t => ms ≤ t + 10000

/-- GE holds itself passive. -/
def State.passive (s : State) : State := s.modP fun p => (p.setFld R.GAF_LEASE_STATUS_GE_PASSIVE 1).setFld R.GAF_SPLIT_PASSIVE_HOLD 1

/-- A split-driven reset counted and noted. -/
def State.resetNoted (s : State) (ms : Nat) : State :=
  s.modP fun p => ({ p with lease := p.lease.splitReset ms }).satFld R.GAF_SPLIT_RESETS 1

/-- Both gaffers in reset. -/
def State.bothReset (s : State) (ms : Nat) : State := ((s.resetNoted ms).gafferGone .gw).gafferGone .ge

theorem execSplitGafferReset_before (h : s.split = false ∨ s.pkg.fld R.GAF_LEASE_STATUS_SPLIT_TICKS < 9) :
    exec (.splitGafferReset ms) s = .next s := if_pos (by rcases h with h | h <;> simp [h])

theorem execSplitGafferReset_eq (h : s.split = true) (ht : 9 ≤ s.pkg.fld R.GAF_LEASE_STATUS_SPLIT_TICKS) :
    exec (.splitGafferReset ms) s = .next
      (if thirdReset ((ms :: s.pkg.lease.resets).take 3) ms then (s.bothReset ms).passive else s.bothReset ms).abandonHeld :=
  if_neg (by simp [h, ht])

theorem bothReset_pkg : (s.bothReset ms).pkg =
    ((({ s.pkg with lease := s.pkg.lease.splitReset ms }).satFld R.GAF_SPLIT_RESETS 1).gone .gw).gone .ge := by
  unfold State.bothReset
  rw [gafferGone_pkg, gafferGone_pkg]
  rfl

theorem gafferGone_move : ((s.gafferGone g).pwr c).move = (s.pwr c).move := gafferGone_does.move c

theorem gafferGone_st : ((s.gafferGone g).pwr c).st = (s.pwr c).st := gafferGone_does.st c

theorem resetNoted_pwr : (s.resetNoted ms).pwr c = s.pwr c := rfl

theorem bothReset_move : ((s.bothReset ms).pwr c).move = (s.pwr c).move := gafferGone_move.trans gafferGone_move

theorem bothReset_st : ((s.bothReset ms).pwr c).st = (s.pwr c).st := gafferGone_st.trans gafferGone_st

/-- A channel is in one half or the other. -/
theorem gw_of_not_ge (h : c ∉ gafHalf .ge) : c ∈ gafHalf .gw := by
  revert c
  decide

/-- Every change of power state waits: a channel is in the half of one gaffer or the other. -/
theorem bothReset_held (h : (s.pwr c).move ≠ .none) : ((s.bothReset ms).pwr c).held = true := by
  rw [← resetNoted_pwr (ms := ms)] at h
  by_cases hc : c ∈ gafHalf .ge
  · rw [← gafferGone_move (g := .gw)] at h
    exact (gafferGone_held hc h).1
  · have hk := (gafferGone_held (gw_of_not_ge hc) h).1
    unfold State.bothReset State.pwr
    rw [gafferGone_other hc]
    exact hk

theorem passive_fld {f : Fld} (h : R.GAF_LEASE_STATUS_GE_PASSIVE.disjoint f = true)
    (h' : R.GAF_SPLIT_PASSIVE_HOLD.disjoint f = true) : s.passive.pkg.fld f = s.pkg.fld f :=
  (Pkg.fld_setFld_disjoint h').trans (Pkg.fld_setFld_disjoint h)

/-! ## A held commit is abandoned -/

/-- The state of the loader IDLE again, and no channel drained. -/
def State.loaderIdle (s : State) : State :=
  { s with
    pkg := ({ s.pkg with mould := { s.pkg.mould with staged := none } }).setFld R.HUB_MOULD_STAT_STATE mouldIdle
    chan := s.chan.map fun c => { c with draining := false } }

theorem abandonHeld_held (h : s.mouldState = mouldHeld) : s.abandonHeld = s.loaderIdle.post (srcHub 0x006) .holdAbandoned [] :=
  if_pos (beq_iff_eq.mpr h)

theorem abandonHeld_not (h : s.mouldState ≠ mouldHeld) : s.abandonHeld = s := if_neg fun hb => h (eq_of_beq hb)

/-- Abandoning a held commit leaves the power side, the gaffers, the lease and its registers. -/
theorem abandonHeld_keeps : s.abandonHeld.mouldState ≠ mouldHeld ∧ (∀ c, s.abandonHeld.pwr c = s.pwr c) ∧
    s.abandonHeld.pkg.gwReset = s.pkg.gwReset ∧ s.abandonHeld.pkg.geReset = s.pkg.geReset ∧
    s.abandonHeld.pkg.lease = s.pkg.lease ∧
    ∀ f : Fld, f.off ∉ eventRegs → R.HUB_MOULD_STAT_STATE.disjoint f = true → s.abandonHeld.pkg.fld f = s.pkg.fld f := by
  by_cases h : s.mouldState = mouldHeld
  · rw [abandonHeld_held h]
    obtain ⟨-, hp, hr, hc⟩ := (State.post_does s.loaderIdle (srcHub 0x006) .holdAbandoned []).1
    have hf (f : Fld) (hf : f.off ∉ eventRegs) :
        (s.loaderIdle.post (srcHub 0x006) .holdAbandoned []).pkg.fld f = s.loaderIdle.pkg.fld f := congrArg f.of (hr _ hf)
    refine ⟨?_, fun c => ?_, (congrArg Pkg.gwReset hp :), (congrArg Pkg.geReset hp :), (congrArg Pkg.lease hp :),
      fun f ho hd => (hf f ho).trans (Pkg.fld_setFld_disjoint hd)⟩
    · unfold State.mouldState
      rw [hf _ (by decide)]
      have hi : s.loaderIdle.pkg.fld R.HUB_MOULD_STAT_STATE = mouldIdle := Pkg.fld_setFld_self (by decide)
      rw [hi]
      decide
    · have hm : s.loaderIdle.chan[c] = { s.chan[c] with draining := false } := Vector.getElem_map ..
      have hpow : (s.loaderIdle.post (srcHub 0x006) .holdAbandoned []).chan[c].power = s.loaderIdle.chan[c].power :=
        (congrArg (fun x : Chan => x.power) (hc c).1 :)
      unfold State.pwr
      rw [hpow, hm]
  · rw [abandonHeld_not h]
    exact ⟨h, fun _ => rfl, rfl, rfl, rfl, fun _ _ _ => rfl⟩

theorem bothReset_resets : (s.bothReset ms).pkg.fld R.GAF_SPLIT_RESETS = min 15 (s.pkg.fld R.GAF_SPLIT_RESETS + 1) := by
  rw [bothReset_pkg]
  exact Pkg.fld_setFld_self (by
    simp only [Fld.holds, Bool.and_eq_true, decide_eq_true_eq]
    exact ⟨by decide, Nat.lt_succ_of_le (min_le_left 15 _)⟩)

/-- GE passive or not, the channels, the gaffers and the rest of the lease are the same. -/
theorem passiveIf_keeps {b : Bool} :
    let u := if b then s.passive else s
    u.chan = s.chan ∧ u.pkg.gwReset = s.pkg.gwReset ∧ u.pkg.geReset = s.pkg.geReset ∧ u.pkg.lease = s.pkg.lease ∧
      u.pkg.fld R.GAF_SPLIT_RESETS = s.pkg.fld R.GAF_SPLIT_RESETS := by
  cases b
  · exact ⟨rfl, rfl, rfl, rfl, rfl⟩
  · exact ⟨rfl, rfl, rfl, rfl, passive_fld (by decide) (by decide)⟩

theorem bothReset_does : (s.bothReset ms).pkg.gwReset = true ∧ (s.bothReset ms).pkg.geReset = true ∧
    (s.bothReset ms).pkg.lease = s.pkg.lease.splitReset ms := by
  rw [bothReset_pkg]
  exact ⟨rfl, rfl, rfl⟩

theorem passive_ge : s.passive.pkg.fld R.GAF_LEASE_STATUS_GE_PASSIVE = 1 ∧ s.passive.pkg.fld R.GAF_SPLIT_PASSIVE_HOLD = 1 := by
  unfold State.passive
  simp (disch := decide) only [State.modP_pkg, Pkg.fld_setFld_disjoint, Pkg.fld_setFld_self, and_self]

/-! ## The host's writes of GAF_SPLIT -/

/-- A host write that reaches its register acts on it (R33, R35, R37, R489). -/
theorem State.hostWr_reaches {pf : Fin 9} {off : Nat} {f : State → State} (h : s.reaches pf) :
    s.hostWr pf off f = f (s.answer .ok 0) := by
  obtain ⟨hp, hf, hc⟩ := h
  unfold State.hostWr
  rw [if_neg (by simp [hp])]
  cases e : pfChan pf with
  | none => exact if_neg (by simp [hf])
  | some ch =>
    rw [e] at hc
    simp only [hc.1, hc.2, hf]
    rfl

theorem execSplitSeenClear_eq (h : s.reaches 0) : exec .splitSeenClear s = .next
    ((s.answer .ok 0).modP fun p => (p.setFld R.GAF_SPLIT_SPLIT_SEEN 0).setFld R.GAF_SPLIT_FENCED_WRITES 0) :=
  congrArg _ (State.hostWr_reaches h)

theorem execPassiveHoldRelease_eq (h : s.reaches 0) : exec .passiveHoldRelease s = .next ((s.answer .ok 0).modP fun p =>
    ((({ p with lease := { p.lease with resets := [] } }).setFld R.GAF_SPLIT_PASSIVE_HOLD 0).setFld
      R.GAF_LEASE_STATUS_GE_PASSIVE 0).setFld R.GAF_SPLIT_RESETS 0) :=
  congrArg _ (State.hostWr_reaches h)

/-- Settles O23: the three outcomes of a window's end; a split-driven reset is the reset of both gaffers, which hold every
change of power state, with GE passive or not, and a held commit abandoned. -/
theorem leaseSplit : Obligations.LeaseSplit := by
  intro s ms l
  refine ⟨⟨_, execLeaseWindowEnd_eq, ?_⟩, fun hs ht => ⟨_, execSplitGafferReset_eq hs ht, ?_⟩, execSplitGafferReset_before,
    fun hr => ⟨⟨_, execSplitSeenClear_eq hr, rfl, ?_⟩, _, execPassiveHoldRelease_eq hr, rfl, ?_⟩⟩
  · have hepoch : s.windowed.pkg.fld R.GAF_LEASE_EPOCH = s.pkg.fld R.GAF_LEASE_EPOCH := windowed_fld (by decide)
    have hlease : s.windowed.pkg.lease = l.windowEnd := windowed_lease
    have hsplit := windowed_split (s := s)
    by_cases h1 : (l.gwSeen && l.geSeen && l.bothBefore && !s.split) = true
    · rw [if_pos h1]
      obtain ⟨hc, hl, he, hh, hv, hsp, ht, hseen⟩ := splitRaised_does (s := s.windowed)
      simp only [Bool.and_eq_true, Bool.not_eq_true'] at h1
      obtain ⟨⟨⟨hw, hg⟩, hb⟩, h0⟩ := h1
      refine ⟨hc, hl.trans hlease, he.trans hepoch, hh.trans windowed_holder, hv.trans windowed_leaseValid,
        fun _ _ _ _ => ⟨hsp, ht, hseen⟩, fun h => ?_, fun _ h => ?_, fun h => ?_⟩
      · simp [h0] at h
      · simp [l, hw, hg, hb] at h
      · simp [h0] at h
    · rw [if_neg h1]
      by_cases h2 : ((l.gwSeen != l.geSeen) && s.split) = true
      · rw [if_pos h2]
        obtain ⟨hc, hl, he, hh, hv, hsp, ht⟩ := splitCleared_does (s := s.windowed)
        simp only [Bool.and_eq_true, bne_iff_ne] at h2
        obtain ⟨hne, h0⟩ := h2
        refine ⟨hc, hl.trans hlease, he.trans hepoch, hh.trans windowed_holder, hv.trans windowed_leaseValid,
          fun h => ?_, fun _ _ => ⟨hsp, ht⟩, fun h => ?_, fun _ h => absurd h hne⟩
        · simp [h0] at h
        · simp [h0] at h
      · rw [if_neg h2]
        refine ⟨rfl, hlease, hepoch, windowed_holder, windowed_leaseValid, fun h0 hw hg hb => ?_, fun h0 hne => ?_,
          fun h0 _ => hsplit.trans h0, fun h0 _ => hsplit.trans h0⟩
        · exact absurd (by simp [h0, hw, hg, hb]) h1
        · exact absurd (by simp [h0, hne]) h2
  · obtain ⟨bgw, bge, bl⟩ := bothReset_does (s := s) (ms := ms)
    obtain ⟨hc, hgw, hge, hl, hres⟩ := passiveIf_keeps (s := s.bothReset ms)
      (b := thirdReset ((ms :: s.pkg.lease.resets).take 3) ms)
    set u := if thirdReset ((ms :: s.pkg.lease.resets).take 3) ms then (s.bothReset ms).passive else s.bothReset ms with hu
    obtain ⟨hm, hpow, kgw, kge, kl, kf⟩ := abandonHeld_keeps (s := u)
    have hp (c : ChIdx) : u.abandonHeld.pwr c = (s.bothReset ms).pwr c := by
      rw [hpow, State.pwr, State.pwr, hc]
    refine ⟨kgw.trans (hgw.trans bgw), kge.trans (hge.trans bge),
      (kf _ (by decide) (by decide)).trans (hres.trans bothReset_resets), ?_, ?_, ?_, hm, fun c => ?_,
      fun a b h3 ha hb => ?_⟩
    · rw [kl, hl, bl]; rfl
    · rw [kl, hl, bl]; rfl
    · rw [kl, hl, bl]; rfl
    · rw [hp]
      exact ⟨bothReset_move, bothReset_st, bothReset_held⟩
    · have ht : thirdReset ((ms :: s.pkg.lease.resets).take 3) ms = true := by
        rw [h3]
        simp [thirdReset, ha, hb]
      rw [if_pos ht] at hu
      rw [kf _ (by decide) (by decide), kf _ (by decide) (by decide), hu]
      exact passive_ge
  · refine ⟨⟨rfl, fun o ho => ?_⟩, ?_⟩
    · simp only [List.mem_singleton] at ho
      exact (Pkg.rd_setFld_other ho).trans (Pkg.rd_setFld_other ho)
    · simp (disch := decide) only [State.modP_pkg, Pkg.fld_setFld_disjoint, Pkg.fld_setFld_self, true_and]
      exact ⟨rfl, rfl⟩
  · refine ⟨?_, ?_, ?_, rfl, ?_, fun o h4 h8 => ?_⟩
    · simp (disch := decide) only [State.modP_pkg, Pkg.fld_setFld_disjoint, Pkg.fld_setFld_self]
    · simp (disch := decide) only [State.modP_pkg, Pkg.fld_setFld_disjoint, Pkg.fld_setFld_self]
    · exact Pkg.fld_setFld_self (by decide)
    · simp (disch := decide) only [State.modP_pkg, Pkg.fld_setFld_disjoint]
      rfl
    · exact ((Pkg.rd_setFld_other h8).trans (Pkg.rd_setFld_other h4)).trans (Pkg.rd_setFld_other h8)

end Sys2Proof.Machine
end

section
/-! SUPPORT. A memory link that trains to LINK 2 and is taken out of it by the end of a job that waited: the statement of the
memory link holds only where CLIENT of every job names a client register. -/

namespace Sys2Proof.Machine

open Sys2Proof Sys2Proof.Tests

set_option Elab.async false

/-- An EX.DISPATCH of slot 0, with one local expert, that waits to grant its rows. -/
def strayEntry : Entry := { ent 5 (wide 5 1 [] (2 ^ 4)) with aux := [0] }

/-- A killed job of CLIENT 818, whose KILL counter would lie at 0x400C + 16 × 818 = 0x732C, the offset of MEM_T2_STAT. -/
def strayCtx (c : Ctx) : Ctx :=
  { c with st := .killing, fStatus := 3, closed := true, job := { c.job with client := 818 } }

/-- Channel 0 up, its memory link training, and the dispatch of that job waiting in slot 0. -/
def strayState : State :=
  let trains := on.modC 0 fun c => (c.setFld R.MEM_T2_STAT_LINK 1).setFld R.MEM_T2_STAT_CAP_GIB 1
  let queued := (trains.modX 0 0 strayCtx).modQ 0 5 fun _ => ⟨[strayEntry], none, []⟩
  queued.modSlot 0 0 fun c => { c with joined := some 0, r := 0 }

/-- A training in which every step passes and every slot is good. -/
def goodTraining : Training := ⟨true, [], 0, 0, false, false, 0, [], 0⟩

theorem strayState_trains : strayState.f 0 R.MEM_T2_STAT_LINK = 1 ∧ strayState.mayTrain 0 = true ∧
    strayState.f 0 R.MEM_T2_STAT_CAP_GIB ≠ 0 ∧ strayState.pkg.hist.recs = [] := by decide +kernel

/-- What waited for the tier goes on: the grant faults, the job ends, and its KILL counter raises LINK from 2 to 3. -/
theorem strayState_link : (strayState.t2Link 0 goodTraining).f 0 R.MEM_T2_STAT_LINK = 3 := by decide +kernel

/-- Refutes O42: after a whole training, the work that waited for the memory link ends a job, and the counter of a client
beyond the client registers stands in MEM_T2_STAT, so LINK is 3 and not 2. -/
theorem not_linksTrainAndFall : ¬ Obligations.LinksTrainAndFall := by
  unfold Obligations.LinksTrainAndFall
  intro h
  obtain ⟨hlink, hmay, hcap, hrecs⟩ := strayState_trains
  have hheld (w : Nat) : strayState.slotHeld 0 4 w = false := by simp [State.slotHeld, hrecs]
  obtain ⟨-, -, -, ⟨-, -, hwhole⟩, -⟩ := h strayState 0 0 goodTraining 0
  obtain ⟨t, ht, ht2, -⟩ := hwhole ⟨hlink, hmay, rfl⟩ (.inl hcap) rfl hheld
  have he : strayState.t2Link 0 goodTraining = t := by injection ht
  rw [← he, strayState_link] at ht2
  exact absurd ht2 (by decide)

end Sys2Proof.Machine
end

section
/-! SUPPORT. The links of a channel: what moves cells changes the state of no link, and a channel whose links all go down has
none that is up (R40, R355, R371). -/

namespace Sys2Proof.Machine

open Sys2Proof

set_option Elab.async false

variable {r s t : State} {ch : ChIdx} {p q : LinkIdx}

/-- No link of the channel changes its state. -/
def State.LinksKept (ch : ChIdx) (r s : State) : Prop := ∀ q : LinkIdx, s.linkState ch q = r.linkState ch q

/-- A field that is no part of the state of a link. -/
theorem disjoint_linkState {f : Fld} (hf : f.sound = true) (ho : f.off < 0x8000 ∨ 0x8100 ≤ f.off ∨ 3 ≤ f.lo) :
    f.disjoint (R.FAB_PORT_STAT_STATE q.val) = true := by
  have hs : (R.FAB_PORT_STAT_STATE q.val).sound = true := rfl
  simp only [Fld.disjoint, hf, hs, Bool.true_and, Bool.or_eq_true, bne_iff_ne, decide_eq_true_eq]
  rcases ho with ho | ho | ho
  · exact .inl (.inl fun e : f.off = 0x8000 + 16 * q.val => by omega)
  · exact .inl (.inl fun e : f.off = 0x8000 + 16 * q.val => by omega)
  · exact .inr (show 2 < f.lo by omega)

namespace State.LinksKept

theorem refl (ch : ChIdx) (s : State) : s.LinksKept ch s := fun _ => rfl

theorem trans (h : LinksKept ch r s) (g : LinksKept ch s t) : LinksKept ch r t := fun q => (g q).trans (h q)

theorem ite {c : Prop} {_ : Decidable c} {a b : State} (ha : LinksKept ch r a) (hb : LinksKept ch r b) :
    LinksKept ch r (if c then a else b) := by
  split
  · exact ha
  · exact hb

theorem foldl {α : Type} {f : State → α → State} {l : List α} (hf : ∀ t, ∀ x ∈ l, LinksKept ch r t → LinksKept ch r (f t x))
    (h : LinksKept ch r s) : LinksKept ch r (l.foldl f s) := by
  induction l generalizing s with
  | nil => exact h
  | cons x l ih => exact ih (fun t y hy => hf t y (List.mem_cons_of_mem x hy)) (hf s x List.mem_cons_self h)

/-- A change of the channel beside its registers. -/
theorem modC {f : Chan → Chan} (h : LinksKept ch r s) (hf : ∀ c, (f c).reg = c.reg := by exact fun _ => rfl) :
    LinksKept ch r (s.modC ch f) := h.trans fun q => by
  unfold State.linkState State.f Chan.fld Chan.rd
  rw [State.modC_same, hf]

theorem modP {f} (h : LinksKept ch r s) : LinksKept ch r (s.modP f) := h

theorem setF {f v} (h : LinksKept ch r s) (hf : f.sound = true := by rfl)
    (ho : f.off < 0x8000 ∨ 0x8100 ≤ f.off ∨ 3 ≤ f.lo := by decide) : LinksKept ch r (s.setF ch f v) := h.trans fun q => by
  unfold State.linkState State.f State.setF
  rw [State.modC_same, Chan.fld_setFld_disjoint (disjoint_linkState hf ho)]

theorem satF {f n} (h : LinksKept ch r s) (hf : f.sound = true := by rfl)
    (ho : f.off < 0x8000 ∨ 0x8100 ≤ f.off ∨ 3 ≤ f.lo := by decide) : LinksKept ch r (s.satF ch f n) := by
  have h' : LinksKept ch r (s.setF ch f (satAdd f.max (s.f ch f) n)) := h.setF hf ho
  unfold State.setF State.f at h'
  refine h'.trans fun q => ?_
  unfold State.satF State.linkState State.f Chan.satFld
  rw [State.modC_same, State.modC_same]

theorem post {src code arg} (h : LinksKept ch r s) : LinksKept ch r (s.post src code arg) := h.trans fun q =>
  (State.post_does s src code arg).1.f (by
    simp only [eventRegs, List.mem_cons, List.not_mem_nil, or_false, R.FAB_PORT_STAT_STATE]
    omega)

theorem modPwr {f} (h : LinksKept ch r s) : LinksKept ch r (s.modPwr ch f) := h.modC

theorem reup (h : LinksKept ch r s) : LinksKept ch r (s.reup ch) := h.ite h.setF.satF.post

theorem exitBegin {code} (h : LinksKept ch r s) : LinksKept ch r (s.exitBegin ch code) := by
  have hs : LinksKept ch r (s.setF ch R.CH_PWR_STAT_LAST_WAKE code) := h.setF
  unfold State.exitBegin State.pwrBegin State.pwrShow
  exact hs.post.modPwr.setF.setF

theorem wake {code} (h : LinksKept ch r s) : LinksKept ch r (s.wake ch code) := by
  unfold State.wake
  refine h.ite ?_
  split
  · exact h
  · exact h.ite h.modPwr.reup
  · exact h.ite (LinksKept.ite h.modP h.exitBegin)

/-! ## Cells -/

theorem modFab {f} (h : LinksKept ch r s) : LinksKept ch r (s.modFab ch f) := h.modC

theorem modLink {f} (h : LinksKept ch r s) : LinksKept ch r (s.modLink ch p f) := h.modFab

theorem idles {n} (h : LinksKept ch r s) : LinksKept ch r (s.idles ch p n) := by
  induction n generalizing s with
  | zero => exact h
  | succ n ih =>
    have hs {c} : LinksKept ch r (s.sendPlain ch p c) := h.modLink
    exact h.ite (ih hs)

theorem idle (h : LinksKept ch r s) : LinksKept ch r (s.idle ch p) := h.idles.ite h

theorem vcStat {v : BitVec 3} : 0x8100 ≤ (R.FAB_VC_STAT_DUP v.toNat).off ∧ 0x8100 ≤ (R.FAB_VC_STAT_DROPS v.toNat).off := by
  simp only [R.FAB_VC_STAT_DUP, R.FAB_VC_STAT_DROPS]
  omega

theorem deliver {c} (h : LinksKept ch r s) : LinksKept ch r (s.deliver ch c) :=
  (h.wake.satF rfl (.inr (.inl vcStat.1))).ite (h.wake.ite h.wake.modFab)

theorem freeInput {inp vc} (h : LinksKept ch r s) : LinksKept ch r (s.freeInput ch inp vc) :=
  h.ite (h.modLink.ite h.modLink.idle)

theorem noRoute {x} (h : LinksKept ch r s) : LinksKept ch r (s.noRoute ch x) := by
  unfold State.noRoute
  split
  · exact h.modFab.ite h.modFab.modFab.post
  · exact (h.satF rfl (.inr (.inl vcStat.2))).freeInput

theorem forward {x front} (h : LinksKept ch r s) : LinksKept ch r (s.forward ch x front) := by
  unfold State.forward
  split
  · exact h.deliver.freeInput
  · exact h.modLink
  · exact h.noRoute

/-! ## Lanes -/

theorem laneActive {i v} (h : LinksKept ch r s) : LinksKept ch r (s.setF ch (R.FAB_LANE_STAT_ACTIVE i) v) :=
  h.setF rfl (.inr (.inr (by decide : 3 ≤ 26)))

theorem lanesOff (h : LinksKept ch r s) : LinksKept ch r (s.lanesOff ch p) := by
  unfold State.lanesOff
  split
  extract_lets s1 s2
  have h1 : LinksKept ch r s1 := h.foldl fun _ _ _ ht => ht.laneActive
  have h2 : LinksKept ch r s2 := h1.laneActive.ite h1
  exact (h2.setF rfl (.inr (.inr (by decide : 3 ≤ 3)))).modFab

theorem t2Dark (h : LinksKept ch r s) : LinksKept ch r (s.t2Dark ch) := by
  unfold State.t2Dark State.memSlotsOff
  extract_lets s1
  have h1 : LinksKept ch r s1 := (h.foldl fun _ _ _ ht => ht.laneActive).modFab
  exact h1.setF.satF.ite h1

end State.LinksKept

/-! ## A link goes down -/

theorem linkState_setDown : (s.setF ch (R.FAB_PORT_STAT_STATE p.val) 0).linkState ch q = if q = p then 0 else s.linkState ch q := by
  unfold State.linkState State.f State.setF
  rw [State.modC_same]
  split
  · next h => exact h ▸ Chan.fld_setFld_self rfl
  · next h =>
    have hne : 0x8000 + 16 * p.val ≠ 0x8000 + 16 * q.val := fun e => h (Fin.ext (by omega))
    exact Chan.fld_setFld_other _ _ _ _ (Fld.ok_of_sound rfl) (Fld.ok_of_sound rfl) (.inl hne)

/-- A link that is up goes down, and no other link changes its state. -/
theorem linkDown_state (h : s.linkUp ch p = true) : (s.linkDown ch p).linkState ch q = if q = p then 0 else s.linkState ch q := by
  set t := (s.post (srcLink ch p) .fabLinkDown []).setF ch (R.FAB_PORT_STAT_STATE p.val) 0 with ht
  have hk : t.LinksKept ch (s.linkDown ch p) := by
    unfold State.linkDown
    rw [if_neg (by simp [h])]
    refine .foldl (fun _ _ _ hu => hu.forward) (.foldl (fun _ _ _ hu => hu.forward) (.foldl (fun _ _ _ hu => hu.forward) ?_))
    exact (((State.LinksKept.refl ch t).satF rfl (.inr (.inr (by decide : 3 ≤ 24)))).setF rfl
      (.inr (.inr (by decide : 3 ≤ 7)))).lanesOff.modLink
  rw [hk q, ht, linkState_setDown, (State.LinksKept.refl ch s).post q]

theorem linkDown_of_down (h : s.linkUp ch p = false) : s.linkDown ch p = s := if_pos (by simp [h])

theorem linkDown_down : (s.linkDown ch p).linkUp ch p = false := by
  cases h : s.linkUp ch p with
  | false => rw [linkDown_of_down h, h]
  | true => simp [State.linkUp, linkDown_state h]

theorem linkDown_down_other (hq : s.linkUp ch q = false) : (s.linkDown ch p).linkUp ch q = false := by
  cases h : s.linkUp ch p with
  | false => rw [linkDown_of_down h, hq]
  | true =>
    unfold State.linkUp at *
    rw [linkDown_state h]
    split
    · rfl
    · exact hq

/-- A link goes down, or stops its training. -/
def State.linkOff (ch : ChIdx) (s : State) (p : LinkIdx) : State :=
  if (s.linkDown ch p).linkState ch p == 1 then (s.linkDown ch p).setF ch (R.FAB_PORT_STAT_STATE p.val) 0 else s.linkDown ch p

theorem linkOff_down (h : q = p ∨ s.linkUp ch q = false) : (s.linkOff ch p).linkUp ch q = false := by
  have hd : (s.linkDown ch p).linkUp ch q = false := by
    rcases h with rfl | h
    · exact linkDown_down
    · exact linkDown_down_other h
  unfold State.linkOff
  split
  · unfold State.linkUp at *
    rw [linkState_setDown]
    split
    · rfl
    · exact hd
  · exact hd

theorem linksOff_down {l : List LinkIdx} (h : q ∈ l ∨ s.linkUp ch q = false) : (l.foldl (State.linkOff ch) s).linkUp ch q = false := by
  induction l generalizing s with
  | nil => exact h.resolve_left List.not_mem_nil
  | cons p l ih =>
    rw [List.mem_cons, or_assoc] at h
    rcases h with h | h | h
    · exact ih (.inr (linkOff_down (.inl h)))
    · exact ih (.inl h)
    · exact ih (.inr (linkOff_down (.inr h)))

theorem allDown_down : (s.allDown ch).linkUp ch q = false := linksOff_down (l := links) (.inl (List.mem_finRange q))

/-- After its fibers went dark the memory link is not up. -/
theorem t2Dark_down : (s.t2Dark ch).f ch R.MEM_T2_STAT_LINK ≠ 2 := by
  unfold State.t2Dark
  extract_lets s1
  split
  · have h : ((s1.setF ch R.MEM_T2_STAT_LINK 1).satF ch R.MEM_T2_STAT_RETRAIN 1).f ch R.MEM_T2_STAT_LINK = 1 := by
      unfold State.f State.satF State.setF Chan.satFld
      rw [State.modC_same, State.modC_same, Chan.fld_setFld_disjoint (by decide), Chan.fld_setFld_self (by decide)]
    rw [h]
    decide
  · next h => simpa using h

/-- The fibers of a channel dark: no link is up, and not the memory link. -/
theorem dark_down : ((s.allDown ch).t2Dark ch).linkUp ch q = false := by
  have h := (State.LinksKept.refl ch (s.allDown ch)).t2Dark q
  unfold State.linkUp
  rw [h]
  exact allDown_down

end Sys2Proof.Machine
end

section
/-! SUPPORT. A record of the fault history and its CPER record leave every channel as it is (R432, R438, R439). -/

namespace Sys2Proof.Machine

open Sys2Proof

set_option Elab.async false

variable {r s t : State} {ch : ChIdx} {q : LinkIdx}

/-! ## Events of the hub -/

theorem irq_chan {pf : Fin 9} : (s.irq pf).chan = s.chan := by
  unfold State.irq
  split
  · rfl
  · rfl

theorem evtWrite_hub_chan {x : EvRec} {rest : List EvRec} : (s.evtWrite 0 x rest).chan = s.chan := by
  unfold State.evtWrite
  extract_lets size wr base s1 s2
  have h2 : s2.chan = s.chan := rfl
  split
  · exact irq_chan.trans h2
  · exact h2

theorem evtDrain_hub_chan {pf : Fin 9} {n : Nat} (h : pf = 0) : (s.evtDrain pf n).chan = s.chan := by
  subst h
  induction n generalizing s with
  | zero => rfl
  | succ n ih =>
    unfold State.evtDrain
    split
    · rfl
    · split
      · exact ih.trans evtWrite_hub_chan
      · rfl

theorem fnSet_hub_chan {pf : Fin 9} {f : Fld} {v : Nat} (h : pf = 0) : (s.fnSet pf f v).chan = s.chan := by
  subst h
  rfl

/-- An event of the hub changes no channel. -/
theorem post_hub_chan {src : Nat} {code : Ev} {arg : List Nat} (h : srcPf src = 0) : (s.post src code arg).chan = s.chan := by
  unfold State.post
  dsimp only [State.draw]
  split
  · exact (fnSet_hub_chan h).trans (evtDrain_hub_chan h)
  · exact evtDrain_hub_chan h

/-! ## Records -/

/-- The channels, HUB_CH_LIVE, the functions and the records of the history are the same. -/
structure State.RecordsKept (r s : State) : Prop where
  chan : s.chan = r.chan
  live : s.pkg.rd 0x14 = r.pkg.rd 0x14
  functions : s.pkg.functions = r.pkg.functions
  recs : s.pkg.hist.recs = r.pkg.hist.recs

theorem State.RecordsKept.trans (h : r.RecordsKept s) (g : s.RecordsKept t) : r.RecordsKept t :=
  ⟨g.chan.trans h.chan, g.live.trans h.live, g.functions.trans h.functions, g.recs.trans h.recs⟩

theorem State.RecordsKept.setFld {f : Fld} {v : Nat} (h : r.RecordsKept s) (hf : 0x14 ≠ f.off) :
    r.RecordsKept (s.modP (·.setFld f v)) := h.trans ⟨rfl, Pkg.rd_setFld_other hf, rfl, rfl⟩

theorem State.RecordsKept.satFld {f : Fld} {n : Nat} (h : r.RecordsKept s) (hf : 0x14 ≠ f.off) :
    r.RecordsKept (s.modP (·.satFld f n)) := h.trans ⟨rfl, Pkg.rd_satFld_other hf, rfl, rfl⟩

theorem State.RecordsKept.post {n : Nat} {code : Ev} {arg : List Nat} (h : r.RecordsKept s) (hn : srcPf n = 0) :
    r.RecordsKept (s.post n code arg) := by
  obtain ⟨-, hp, hr, -⟩ := (State.post_does s n code arg).1
  exact h.trans ⟨post_hub_chan hn, hr _ (by decide), (congrArg Pkg.functions hp :), (congrArg (fun p => p.hist.recs) hp :)⟩

theorem cperDrain_records {n : Nat} : s.RecordsKept (s.cperDrain n) := by
  induction n generalizing s with
  | zero => exact ⟨rfl, rfl, rfl, rfl⟩
  | succ n ih =>
    unfold State.cperDrain
    split
    · exact ⟨rfl, rfl, rfl, rfl⟩
    · split
      · refine State.RecordsKept.trans (State.RecordsKept.setFld ?_ (by decide)) ih
        exact ⟨rfl, rfl, rfl, rfl⟩
      · exact ⟨rfl, rfl, rfl, rfl⟩

theorem cper_records {h : Hist} : s.RecordsKept (s.cper h) := by
  unfold State.cper
  extract_lets tick s1 s2
  have h0 : s.RecordsKept (s.modP fun p => { p with hist := { p.hist with held := p.hist.held ++ [(h, tick)] } }) :=
    ⟨rfl, rfl, rfl, rfl⟩
  have h1 : s.RecordsKept s1 := h0.trans cperDrain_records
  have h2 : s.RecordsKept s2 := h1.trans ⟨rfl, rfl, rfl, rfl⟩
  split
  · exact h1
  · exact (h2.satFld (by decide)).post (by decide)

/-- The record that joins the fault history. -/
def State.newRecord (s : State) (unit cls key action arg : Nat) : Hist :=
  ⟨s.pkg.hist.next, s.pkg.hist.seconds, unit, cls, 1, key, action, arg⟩

/-- A record joins the history; the channels, their functions and HUB_CH_LIVE stay. -/
theorem histAdd_does {unit cls key action arg : Nat} : (s.histAdd unit cls key action arg).chan = s.chan ∧
    (s.histAdd unit cls key action arg).pkg.rd 0x14 = s.pkg.rd 0x14 ∧
    (s.histAdd unit cls key action arg).pkg.functions = s.pkg.functions ∧
    (s.histAdd unit cls key action arg).pkg.hist.recs = s.pkg.hist.recs ++ [s.newRecord unit cls key action arg] := by
  unfold State.histAdd
  extract_lets h s1
  have h1 : s1.RecordsKept (s1.histFill.cper h) :=
    State.RecordsKept.trans (State.RecordsKept.setFld ⟨rfl, rfl, rfl, rfl⟩ (by decide)) cper_records
  exact ⟨h1.chan, h1.live, h1.functions, h1.recs⟩

end Sys2Proof.Machine
end

section
/-! SUPPORT. A channel is retired, or loses its hub link (R37, R38). -/

namespace Sys2Proof.Machine

open Sys2Proof

set_option Elab.async false

variable {r s t : State} {ch c : ChIdx} {q : LinkIdx}

theorem State.Confined.hist (h : State.Confined ch r s) : s.pkg.hist = r.pkg.hist := (congrArg Pkg.hist h.apart :)

theorem State.Confined.functions (h : State.Confined ch r s) : s.pkg.functions = r.pkg.functions := (congrArg Pkg.functions h.apart :)

theorem State.Confined.portUp (h : State.Confined ch r s) : s.pkg.portUp = r.pkg.portUp := (congrArg Pkg.portUp h.apart :)

theorem State.Confined.cond (h : State.Confined ch r s) : s.pkg.cond = r.pkg.cond := (congrArg Pkg.cond h.apart :)

theorem State.Confined.chLive (h : State.Confined ch r s) : s.pkg.rd 0x14 = r.pkg.rd 0x14 := h.regs _ (by decide) (by decide)

theorem State.Confined.live (h : State.Confined ch r s) : s.live c = r.live c := by
  unfold State.live
  rw [h.chLive]

/-- LIVE and INRESET of a channel clear and RETIRED sets (R37). -/
def retiredWord (ch : ChIdx) (w : Word) : Word :=
  (w ||| BitVec.ofNat 32 (2 ^ (8 + ch.val))) &&& BitVec.ofNat 32 (2 ^ 32 - 1 - 2 ^ ch.val - 2 ^ (16 + ch.val))

theorem bit_eq_getLsbD (w : Word) (i : Nat) : bit w.toNat i = w.getLsbD i := by
  simp [bit, BitVec.getLsbD, Nat.testBit, Nat.shiftRight_eq_div_pow]

theorem retiredWord_live (ch c : ChIdx) (w : Word) : bit (retiredWord ch w).toNat c.val = (bit w.toNat c.val && c != ch) := by
  simp only [bit_eq_getLsbD, retiredWord, BitVec.getLsbD_and, BitVec.getLsbD_or]
  have hor : (BitVec.ofNat 32 (2 ^ (8 + ch.val))).getLsbD c.val = false := by revert c ch; decide
  have hand : (BitVec.ofNat 32 (2 ^ 32 - 1 - 2 ^ ch.val - 2 ^ (16 + ch.val))).getLsbD c.val = (c != ch) := by revert c ch; decide
  rw [hor, hand, Bool.or_false]

theorem retiredWord_retired (ch : ChIdx) (w : Word) : bit (retiredWord ch w).toNat (8 + ch.val) = true := by
  simp only [bit_eq_getLsbD, retiredWord, BitVec.getLsbD_and, BitVec.getLsbD_or]
  have hor : (BitVec.ofNat 32 (2 ^ (8 + ch.val))).getLsbD (8 + ch.val) = true := by revert ch; decide
  have hand : (BitVec.ofNat 32 (2 ^ 32 - 1 - 2 ^ ch.val - 2 ^ (16 + ch.val))).getLsbD (8 + ch.val) = true := by revert ch; decide
  rw [hor, hand, Bool.or_true, Bool.and_true]

/-- A channel that changes beside its registers has its links as they were. -/
theorem modC_linkUp {f : Chan → Chan} (hf : ∀ c, (f c).reg = c.reg) : (s.modC ch f).linkUp ch q = s.linkUp ch q := by
  unfold State.linkUp
  rw [(State.LinksKept.refl ch s).modC hf q]

theorem modC_f {f : Chan → Chan} (hf : ∀ c, (f c).reg = c.reg) {x : Fld} : (s.modC ch f).f ch x = s.f ch x := by
  unfold State.f Chan.fld Chan.rd
  rw [State.modC_same, hf]

/-- The fibers of a channel dark, and a change beside its registers: no link of it is up, and not the memory link. -/
theorem dark_modC_down (f : Chan → Chan) (hf : ∀ c, (f c).reg = c.reg) :
    (∀ q : LinkIdx, (((s.allDown ch).t2Dark ch).modC ch f).linkUp ch q = false) ∧
      (((s.allDown ch).t2Dark ch).modC ch f).f ch R.MEM_T2_STAT_LINK ≠ 2 :=
  ⟨fun _ => (modC_linkUp hf).trans dark_down, (modC_f hf).trans_ne t2Dark_down⟩

/-- HUB_CH_LIVE shows the channel retired. -/
def State.shownRetired (s : State) (ch : ChIdx) : State := s.modP fun p => p.wr 0x14 (retiredWord ch (p.rd 0x14))

theorem retireChan_eq : s.retireChan ch =
    (((s.shownRetired ch).allDown ch).t2Dark ch).modC ch fun c => { c with inReset := true } := rfl

/-- A channel is retired: the word of HUB_CH_LIVE moves, its fibers go dark, and nothing reaches another channel. -/
theorem retireChan_does : (s.retireChan ch).pkg.rd 0x14 = retiredWord ch (s.pkg.rd 0x14) ∧
    (∀ c, c ≠ ch → (s.retireChan ch).chan[c] = s.chan[c]) ∧ (s.retireChan ch).pkg.functions = s.pkg.functions ∧
    (s.retireChan ch).pkg.hist = s.pkg.hist ∧ (∀ q : LinkIdx, (s.retireChan ch).linkUp ch q = false) ∧
    (s.retireChan ch).f ch R.MEM_T2_STAT_LINK ≠ 2 := by
  have h : State.Confined ch (s.shownRetired ch) (s.retireChan ch) := by
    rw [retireChan_eq]
    exact (State.Confined.refl ch _).allDown.t2Dark.modC
  exact ⟨h.chLive.trans (Pkg.rd_wr_same ..), h.others, h.functions, h.hist,
    dark_modC_down (fun c => { c with inReset := true }) fun _ => rfl⟩

theorem execChannelRetire_live (h : s.live ch = true) : exec (.channelRetire ch) s = .next (s.retireWhole 4 ch) := if_pos h

theorem execChannelRetire_dead (h : s.live ch = false) : exec (.channelRetire ch) s = .next s := if_neg (by simp [h])

/-- The channel has lost its hub link and turned its transmitters off. -/
def State.hubLinkLost (s : State) (ch : ChIdx) : State := ((s.allDown ch).t2Dark ch).modC ch fun c => { c with hubLost := true }

theorem execHubFault_live (h : s.live ch = true) : exec (.hubFault ch) s = .next
    (if (List.finRange 8).all fun c => !(s.hubLinkLost ch).live c || (s.hubLinkLost ch).chan[c].hubLost then (s.hubLinkLost ch).hubGone
      else s.hubLinkLost ch) := if_neg (by simp [h])

theorem hubLinkLost_confined : State.Confined ch s (s.hubLinkLost ch) := (State.Confined.refl ch s).allDown.t2Dark.modC

theorem hubLinkLost_lost : (s.hubLinkLost ch).chan[ch].hubLost = true := by
  unfold State.hubLinkLost
  rw [State.modC_same]

/-- Every live channel has lost its link exactly when no other live channel has kept it. -/
theorem allLost_eq : ((List.finRange 8).all fun c => !(s.hubLinkLost ch).live c || (s.hubLinkLost ch).chan[c].hubLost) =
    !((List.finRange 8).any fun c => c != ch && s.live c && !(s.chan[c]).hubLost) := by
  rw [List.not_any_eq_all_not]
  refine congrArg (List.all _) (funext fun c => ?_)
  by_cases hc : c = ch
  · subst hc
    rw [hubLinkLost_lost]
    simp
  · have hb : (c != ch) = true := by simpa using hc
    rw [hubLinkLost_confined.live, hubLinkLost_confined.others c hc, hb]
    simp

/-- Settles O18: the record joins the history before the channel goes dark, and what goes dark stays on the channel. -/
theorem channelsLost : Obligations.ChannelsLost := by
  intro s ch
  refine ⟨fun hl => ⟨_, execChannelRetire_live hl, ?_⟩, execChannelRetire_dead, fun hl => ⟨_, execHubFault_live hl, ?_⟩⟩
  · obtain ⟨ac, al, af, ar⟩ := histAdd_does (s := s) (unit := 4) (cls := clsRetired) (key := ch.val) (action := 3) (arg := 0)
    have hg := (State.Confined.refl ch (s.histAdd 4 clsRetired ch.val 3 0)).postGaf (code := .unitRetired) (arg := [])
    obtain ⟨dl, dc, df, dh, du, dm⟩ := retireChan_does (ch := ch)
      (s := (s.histAdd 4 clsRetired ch.val 3 0).post (srcGaffer ch) .unitRetired [])
    have hword : (s.retireWhole 4 ch).pkg.rd 0x14 = retiredWord ch (s.pkg.rd 0x14) := by rw [← al, ← hg.chLive]; exact dl
    have hlive (c : ChIdx) : (s.retireWhole 4 ch).live c = (s.live c && c != ch) := by
      unfold State.live
      rw [hword, retiredWord_live]
    refine ⟨by simp [hlive], by rw [hword, retiredWord_retired], du, (df.trans hg.functions).trans af, dm,
      ⟨s.newRecord 4 clsRetired ch.val 3 0, ?_, rfl, rfl, rfl, rfl⟩, fun c hc => ⟨by simp [hlive, hc], ?_⟩⟩
    · have hrecs : (s.retireWhole 4 ch).pkg.hist.recs = s.pkg.hist.recs ++ [s.newRecord 4 clsRetired ch.val 3 0] := by
        rw [← ar, ← hg.hist]
        exact congrArg (·.recs) dh
      rw [hrecs]
      simp
    · rw [← ac, ← hg.others c hc]
      exact dc c hc
  · have h : State.Confined ch s (s.hubLinkLost ch) := hubLinkLost_confined
    obtain ⟨hlinks, hmem⟩ := dark_modC_down (s := s) (ch := ch) (fun c => { c with hubLost := true }) fun _ => rfl
    rw [allLost_eq]
    cases (List.finRange 8).any fun c => c != ch && s.live c && !(s.chan[c]).hubLost with
    | true =>
      simp only [Bool.not_true, Bool.false_eq_true, if_false, Bool.and_true, if_true]
      exact ⟨hubLinkLost_lost, hlinks, hmem, h.others, h.portUp, h.cond⟩
    | false =>
      simp only [Bool.not_false, Bool.false_eq_true, if_false, Bool.and_false, if_true]
      exact ⟨hubLinkLost_lost, hlinks, hmem, h.others, rfl, rfl⟩

end Sys2Proof.Machine
end

section
/-! SUPPORT. A channel enters and leaves reset (R34, R523): its registers after the reset, and what the return leaves as it was. -/

namespace Sys2Proof.Machine

open Sys2Proof

set_option Elab.async false

variable {r s t : State} {ch c : ChIdx} {q : LinkIdx} {α : Type} {g : Chan → α}
  {m : Cells Word}

/-! ## A part of a channel that no register belongs to -/

/-- A part of a channel is as it was. -/
def State.SamePart (g : Chan → α) (ch : ChIdx) (r s : State) : Prop := g s.chan[ch] = g r.chan[ch]

namespace State.SamePart

theorem refl : SamePart g ch s s := rfl

theorem trans (h : SamePart g ch r s) (h' : SamePart g ch s t) : SamePart g ch r t := Eq.trans h' h

theorem ite {c : Prop} {_ : Decidable c} {a b : State} (ha : SamePart g ch r a) (hb : SamePart g ch r b) :
    SamePart g ch r (if c then a else b) := by
  split
  · exact ha
  · exact hb

theorem foldl {α β : Type} {g : Chan → α} {f : State → β → State} {l : List β}
    (hf : ∀ t x, SamePart g ch r t → SamePart g ch r (f t x)) (h : SamePart g ch r s) : SamePart g ch r (l.foldl f s) := by
  induction l generalizing s with
  | nil => exact h
  | cons x l ih => exact ih (hf s x h)

theorem modC {f : Chan → Chan} (h : SamePart g ch r s) (hf : ∀ c, g (f c) = g c) : SamePart g ch r (s.modC ch f) :=
  h.trans (by unfold SamePart; rw [State.modC_same, hf])

theorem modP {f : Pkg → Pkg} (h : SamePart g ch r s) : SamePart g ch r (s.modP f) := h

/-- A field of the channel's registers: the part holds none. -/
theorem setF {f v} (hg : ∀ c w, g { c with reg := w } = g c) (h : SamePart g ch r s) : SamePart g ch r (s.setF ch f v) :=
  h.modC fun c => hg c _

theorem post {src code arg} (hg : ∀ c w, g { c with reg := w } = g c) (h : SamePart g ch r s) :
    SamePart g ch r (s.post src code arg) := h.trans (by
  obtain ⟨hc, -⟩ := (State.post_does s src code arg).1.2.2.2 ch
  unfold SamePart
  rw [← hc]
  exact (hg _ _).symm)

end State.SamePart

/-! ## Leaving reset -/

/-- The contexts, the memories and the reset of a channel. -/
def Chan.body (c : Chan) : Vector Ctx 16 × ChMem × Bool := (c.ctx, c.mem, c.inReset)

theorem body_reg (c : Chan) (w : Cells Word) : Chan.body { c with reg := w } = c.body := rfl

theorem ringLock_body {cal : Cal} : s.SamePart Chan.body ch (s.ringLock ch cal) := by
  have lock : ∀ {t : State} {lane rx sum}, State.SamePart Chan.body ch s t →
      State.SamePart Chan.body ch s ((t.setHeat ch lane rx sum).lockRing ch lane rx) := fun h => by
    have h1 {v lane rx} := h.setF (f := heaterFld lane rx) (v := v) body_reg
    unfold State.setHeat State.lockRing
    exact ((h1.post body_reg).ite h1).setF body_reg
  unfold State.ringLock State.sweepRing
  exact ((State.SamePart.refl).foldl fun _ _ h => lock (lock h)).modC fun _ => rfl

theorem relight_body : s.SamePart Chan.body ch (s.relight ch) := by
  have h := (ringLock_body (s := s) (ch := ch) (cal := s.calNow ch)).setF (f := R.MEM_T2_STAT_LINK) (v := 1) body_reg
  unfold State.relight
  refine State.SamePart.ite .refl (h.foldl fun _ _ ht => ?_)
  exact ht.ite (State.SamePart.setF body_reg (ht.modC fun _ => rfl))

theorem State.Confined.ringLock {cal} (h : State.Confined ch r s) : State.Confined ch r (s.ringLock ch cal) := by
  have lock : ∀ {t : State} {lane rx sum}, State.Confined ch r t →
      State.Confined ch r ((t.setHeat ch lane rx sum).lockRing ch lane rx) := fun h => (h.setF.postOf.ite h.setF).setF
  unfold State.ringLock State.sweepRing
  exact (h.foldl fun _ _ ht => lock (lock ht)).modFab

theorem State.Confined.relight (h : State.Confined ch r s) : State.Confined ch r (s.relight ch) := by
  unfold State.relight
  exact h.ite (h.ringLock.setF.foldl fun _ _ ht => ht.ite ht.modLink.setF)

/-! ## Entering reset -/

theorem State.Confined.spWrite {space addr bs} (h : State.Confined ch r s) :
    Gives (State.Confined ch r) (s.spWrite ch space addr bs) := by
  unfold State.spWrite
  split
  · exact h.modMem
  · exact h.modMem
  · split
    · next _ ht => exact h.vaWrite.of_ok ht
    · trivial

theorem State.Confined.openWrites (h : State.Confined ch r s) : State.Confined ch r (s.openWrites ch) := by
  refine h.foldl fun _ _ ht => State.Confined.foldl (fun _ _ hu => ?_) ht.draw
  unfold State.openTens
  refine hu.ite (hu.foldl fun _ _ hv => ?_)
  dsimp only
  split
  · next _ hw => exact hv.spWrite.of_ok hw
  · exact hv

/-- What a register of a channel reads as after a reset: its reset value, or what is kept of an old word. -/
theorem keptRegs_get (m : Cells Word) (off : Nat) : Cells.get (regReset false) (keptRegs m) off = regReset false off ∨
    ∃ w, Cells.get (regReset false) (keptRegs m) off = keptWord off w := by
  induction m with
  | nil => exact .inl rfl
  | cons x m ih =>
    unfold keptRegs at *
    rw [List.map_cons, List.filter_cons]
    split
    · by_cases h : off = x.1
      · subst h
        exact .inr ⟨x.2, if_pos rfl⟩
      · rw [Cells.get, if_neg h]
        exact ih
    · exact ih

/-- The state of a link is kept through no reset, and its reset value is 0, DOWN. -/
def portCleared (p : LinkIdx) : Bool :=
  let off := 0x8000 + 16 * p.val
  (List.range 3).all fun i => !(regReset false off).getLsbD i && match regFind false off with
    | none => true
    | some d => !(BitVec.ofNat 32 (keepMask d)).getLsbD i

theorem ports_cleared (p : LinkIdx) : portCleared p = true :=
  List.all_eq_true.mp (by decide +kernel : (List.finRange 16).all portCleared = true) p (List.mem_finRange p)

theorem keptWord_bit {off i : Nat} {w : Word} (hr : (regReset false off).getLsbD i = false)
    (hk : (match regFind false off with
      | none => true
      | some d => !(BitVec.ofNat 32 (keepMask d)).getLsbD i) = true) : (keptWord off w).getLsbD i = false := by
  unfold keptWord
  cases h : regFind false off with
  | none => exact hr
  | some d =>
    rw [h] at hk
    simp only [Bool.not_eq_true'] at hk
    simp [hr, hk]

theorem flr_linkState (hr : s.chan[ch].reg = keptRegs m) : s.linkState ch q = 0 := by
  have hz : ∀ i < 3, (s.chan[ch].rd (0x8000 + 16 * q.val)).getLsbD i = false := fun i hi => by
    have hp := List.all_eq_true.mp (ports_cleared q) i (List.mem_range.mpr hi)
    simp only [Bool.and_eq_true, Bool.not_eq_true'] at hp
    obtain ⟨h0, hk⟩ := hp
    unfold Chan.rd
    rw [hr]
    rcases keptRegs_get m (0x8000 + 16 * q.val) with h | ⟨w, h⟩
    · rw [h]; exact h0
    · rw [h]; exact keptWord_bit h0 hk
  have h3 : (s.chan[ch].rd (0x8000 + 16 * q.val)).setWidth 3 = 0#3 := by
    ext i hi
    simpa using hz i hi
  have hn := congrArg BitVec.toNat h3
  simpa [State.linkState, State.f, Chan.fld, Fld.of, bits, R.FAB_PORT_STAT_STATE, BitVec.toNat_setWidth] using hn

end Sys2Proof.Machine
end

section
/-! SUPPORT. Function Level Resets (R34, R491, R511, R523). -/

namespace Sys2Proof.Machine

open Sys2Proof

set_option Elab.async false

variable {r s t : State} {ch c : ChIdx} {q : LinkIdx}

/-! ## After the channel itself is as new -/

/-- The contexts, the queues and the semaphores of a channel. -/
def Chan.jobs (c : Chan) : Vector Ctx 16 × Vector EngQ 11 × Vector Sem 256 := (c.ctx, c.q, c.sem)

/-- What is set after the reset of a channel: registers of it, but for the states of its links, and what the hub holds. -/
structure State.AfterReset (ch : ChIdx) (r s : State) : Prop where
  others : ∀ c, c ≠ ch → s.chan[c] = r.chan[c]
  jobs : r.SamePart Chan.jobs ch s
  links : r.LinksKept ch s

namespace State.AfterReset

theorem refl : AfterReset ch s s := ⟨fun _ _ => rfl, .refl, .refl ch s⟩

theorem ite {c : Prop} {_ : Decidable c} {a b : State} (ha : AfterReset ch r a) (hb : AfterReset ch r b) :
    AfterReset ch r (if c then a else b) := by
  split
  · exact ha
  · exact hb

theorem foldl {α : Type} {f : State → α → State} {l : List α} (hf : ∀ t, ∀ x ∈ l, AfterReset ch r t → AfterReset ch r (f t x))
    (h : AfterReset ch r s) : AfterReset ch r (l.foldl f s) := by
  induction l generalizing s with
  | nil => exact h
  | cons x l ih => exact ih (fun t y hy => hf t y (List.mem_cons_of_mem x hy)) (hf s x List.mem_cons_self h)

theorem modP {f} (h : AfterReset ch r s) : AfterReset ch r (s.modP f) := ⟨h.others, h.jobs, h.links⟩

theorem modC {f : Chan → Chan} (h : AfterReset ch r s) (hr : ∀ c, (f c).reg = c.reg) (hj : ∀ c, (f c).jobs = c.jobs) :
    AfterReset ch r (s.modC ch f) :=
  ⟨fun c hc => (State.modC_other s f hc).trans (h.others c hc), h.jobs.modC hj, h.links.modC hr⟩

theorem setF {f v} (h : AfterReset ch r s) (hf : f.sound = true := by rfl)
    (ho : f.off < 0x8000 ∨ 0x8100 ≤ f.off ∨ 3 ≤ f.lo := by decide) : AfterReset ch r (s.setF ch f v) :=
  ⟨fun c hc => (State.modC_other s _ hc).trans (h.others c hc), h.jobs.setF fun _ _ => rfl, h.links.setF hf ho⟩

theorem reapplySlots (h : AfterReset ch r s) : AfterReset ch r (s.reapplySlots ch) :=
  h.foldl fun _ _ _ ht => (ht.setF rfl (.inr (.inr (by decide : 3 ≤ 27)))).ite ht

theorem fillBucket {i : BucketInst} {k : Nat} (h : AfterReset ch r s) (hp : instPf i = pfOf ch) (hi : instOff i k + 4 < 0x8000) :
    AfterReset ch r (s.fillBucket i k) := by
  have h' : AfterReset ch r (s.setF ch (bktTok i k) (s.burst i k)) := h.setF rfl (.inl hi)
  have hc : pfChan (instPf i) = some ch := by
    rw [hp]
    exact dif_neg (Nat.succ_ne_zero _)
  unfold State.fillBucket State.setB State.fnSet State.fnRd
  rw [hc, hp, State.fnWr_pfOf]
  exact h'

theorem fillBuckets (h : AfterReset ch r s) : AfterReset ch r (s.fillBuckets ch) := by
  refine h.foldl fun _ i hi ht => ht.foldl fun _ k hk hu => ?_
  have hk9 : k < 9 := List.mem_range.mp hk
  simp only [List.mem_cons, List.not_mem_nil, or_false] at hi
  rcases hi with rfl | rfl
  · exact hu.fillBucket rfl (by simp only [instOff]; omega)
  · exact hu.fillBucket rfl (by simp only [instOff]; omega)

theorem tcCount (h : AfterReset ch r s) : AfterReset ch r (s.tcCount ch) := h.setF.setF

theorem setInReset {b} (h : AfterReset ch r s) : AfterReset ch r (s.setInReset ch b) :=
  h.modP.modC (f := fun c => { c with inReset := b }) (fun _ => rfl) fun _ => rfl

theorem thermPin (h : AfterReset ch r s) : AfterReset ch r s.thermPin := by
  unfold State.thermPin
  exact h.modP

end State.AfterReset

/-- The fibers of a channel dark and the writes of its entries left open: the moment before its reset. -/
def State.resetting (s : State) (ch : ChIdx) : State := (s.openWrites ch).allDown ch

theorem flr_does : ((s.resetting ch).modC ch Chan.flr).AfterReset ch (s.flr ch) := by
  unfold State.flr
  extract_lets s1 trips seen stuck s2 s3 s4 pf mine s5
  have h2 : State.AfterReset ch s2 s2 := .refl
  have h5 : State.AfterReset ch s2 s5 := h2.setF.setF.setF.setF.setF.modP
  exact h5.reapplySlots.fillBuckets.tcCount.setInReset.thermPin

theorem flr_jobs (c : Chan) : c.flr.jobs =
    (Vector.replicate 16 Ctx.new, Vector.replicate 11 ⟨[], none, []⟩, Vector.replicate 256 ⟨0, 0, none⟩) := rfl

/-- What a Function Level Reset of a channel leaves: a channel as new, and every other channel as it was. -/
theorem flr_state : (s.flr ch).chan[ch].inReset = true ∧ (∀ jc : JcIdx, ((s.flr ch).ctx ch jc).st = .free) ∧
    (∀ e : Fin 11, (s.flr ch).eq ch e = ⟨[], none, []⟩) ∧ (∀ n : Fin 256, (s.flr ch).chan[ch].sem[n] = ⟨0, 0, none⟩) ∧
    (∀ q : LinkIdx, (s.flr ch).linkUp ch q = false) ∧ ∀ c, c ≠ ch → (s.flr ch).chan[c] = s.chan[c] := by
  have h := flr_does (s := s) (ch := ch)
  have hj : (s.flr ch).chan[ch].jobs = ((s.resetting ch).modC ch Chan.flr).chan[ch].jobs := h.jobs
  rw [State.modC_same, flr_jobs] at hj
  obtain ⟨hctx, hq, hsem⟩ : _ ∧ _ ∧ _ := by simpa only [Chan.jobs, Prod.mk.injEq] using hj
  refine ⟨?_, fun jc => ?_, fun e => ?_, fun n => ?_, fun q => ?_, fun c hc => ?_⟩
  · unfold State.flr State.thermPin State.setInReset
    simp only [State.modP_chan, State.modC_same]
  · unfold State.ctx
    rw [hctx]
    simp [Ctx.new]
  · unfold State.eq
    rw [hq]
    simp
  · rw [hsem]
    simp
  · unfold State.linkUp
    rw [h.links q, flr_linkState (m := (s.resetting ch).chan[ch].reg) (by rw [State.modC_same]; rfl)]
    rfl
  · rw [h.others c hc, State.modC_other _ _ hc]
    exact ((State.Confined.refl ch s).openWrites.allDown).others c hc

theorem execFlrChannel_resets (hp : s.present (pfOf ch) = true) (hl : s.live ch = true) (hr : s.chan[ch].inReset = false) :
    exec (.flrChannel ch) s = .next ((s.flr ch).answer .ok 0) := by
  change execFlrChannel ch s = _
  unfold execFlrChannel
  rw [if_neg (by simp [hp]), if_neg]
  simp only [hl, hr]
  decide

/-! ## Out of reset -/

/-- INRESET of a channel in HUB_CH_LIVE cleared. -/
def outOfReset (ch : ChIdx) (w : Word) : Word := BitVec.ofNat 32 (putBits w.toNat (16 + ch.val) (16 + ch.val) 0)

theorem bit_eq_field (w : Word) (i : Nat) : bit w.toNat i = (Fld.of ⟨0, i, i⟩ w == 1) := by
  simp [bit, Fld.of, bits]

theorem outOfReset_inReset (w : Word) : bit (outOfReset ch w).toNat (16 + ch.val) = false := by
  have h := Fld.of_put_same ⟨0, 16 + ch.val, 16 + ch.val⟩ w 0 ⟨le_rfl, show 16 + ch.val < 32 by omega⟩
  rw [bit_eq_field, outOfReset]
  exact (congrArg (· == 1) (h.trans (Nat.zero_mod _)) :)

theorem outOfReset_live (w : Word) : bit (outOfReset ch w).toNat c.val = bit w.toNat c.val := by
  have h := Fld.of_put_other ⟨0, 16 + ch.val, 16 + ch.val⟩ ⟨0, c.val, c.val⟩ w 0 ⟨le_rfl, show 16 + ch.val < 32 by omega⟩
    ⟨le_rfl, show c.val < 32 by omega⟩ (.inr (show c.val < 16 + ch.val by omega))
  rw [bit_eq_field, bit_eq_field, outOfReset]
  exact (congrArg (· == 1) h :)

/-- The channel out of reset, before its links train. -/
def State.released (s : State) (ch : ChIdx) : State := s.setInReset ch false

theorem released_rd : (s.released ch).pkg.rd 0x14 = outOfReset ch (s.pkg.rd 0x14) := Pkg.rd_wr_same ..

theorem released_chan : (s.released ch).chan[ch] = { s.chan[ch] with inReset := false } := State.modC_same ..

/-- A channel leaves reset: its contexts and memories, and every other channel, are as they were. -/
theorem flrDone_state : (s.flrDone ch).chan[ch].inReset = false ∧
    (s.flrDone ch).pkg.rd 0x14 = outOfReset ch (s.pkg.rd 0x14) ∧ (s.flrDone ch).chan[ch].ctx = s.chan[ch].ctx ∧
    (s.flrDone ch).chan[ch].mem = s.chan[ch].mem ∧ ∀ c, c ≠ ch → (s.flrDone ch).chan[c] = s.chan[c] := by
  have hc := (State.Confined.refl ch (s.released ch)).relight
  have hb : (s.flrDone ch).chan[ch].body = (s.released ch).chan[ch].body := relight_body
  rw [released_chan] at hb
  obtain ⟨hctx, hmem, hreset⟩ : _ ∧ _ ∧ _ := by simpa only [Chan.body, Prod.mk.injEq] using hb
  exact ⟨hreset, hc.chLive.trans released_rd, hctx, hmem, fun c h => (hc.others c h).trans (State.modC_other _ _ h)⟩

theorem execFlrChannelDone_releases (h : s.runs = true) (hl : s.live ch = true) (hr : s.chan[ch].inReset = true)
    (ht : (s.pwr ch).thermTrip = false) (hk : s.locked = false) : exec (.flrChannelDone ch) s = .next (s.flrDone ch) := by
  change execFlrChannelDone ch s = _
  unfold execFlrChannelDone
  rw [if_neg]
  simp only [h, hl, hr, ht, hk]
  decide

/-! ## The hub -/

/-- The event-ring and CPER-ring registers of PF0. -/
def hubRing (off : Nat) : Bool := (0x30 ≤ off && off < 0x3C) || (0x80 ≤ off && off < 0x90)

theorem hubRing_iff {off : Nat} : hubRing off = true ↔ (0x30 ≤ off ∧ off < 0x3C) ∨ (0x80 ≤ off ∧ off < 0x90) := by
  simp [hubRing]

/-- A table without the keys of a set reads as its default there, and as before elsewhere. -/
theorem Cells.get_filter {α : Type} (d : Nat → α) (m : Cells α) (p : Nat → Bool) (a : Nat) :
    Cells.get d (m.filter fun x => !p x.1) a = if p a then d a else Cells.get d m a := by
  induction m with
  | nil => exact (ite_self _).symm
  | cons x m ih =>
    rw [List.filter_cons]
    by_cases h : a = x.1
    · subst h
      cases hp : p x.1 with
      | true => simpa [hp] using ih
      | false => simp [Cells.get]
    · have hget : Cells.get d (x :: m) a = Cells.get d m a := if_neg h
      rw [hget, ← ih]
      split
      · exact if_neg h
      · rfl

/-- The hub after a Function Level Reset of PF0. -/
def Pkg.flrHub (p : Pkg) : Pkg :=
  { p with
    reg := p.reg.filter fun x => !hubRing x.1
    evt := p.evt.set 0 { p.evt[(0 : Fin 9)] with fired := false } }

theorem flrHub_rd (p : Pkg) (off : Nat) : p.flrHub.rd off = if hubRing off then regReset true off else p.rd off :=
  Cells.get_filter ..

theorem execFlrHub_present (h : s.present 0 = true) : exec .flrHub s = .next ((s.modP Pkg.flrHub).answer .ok 0) :=
  if_neg (by simp [h])

/-- Settles O17: what is set after the channel is as new moves no context, no queue and no link; its return touches registers and
the fabric alone. -/
theorem functionLevelResets : Obligations.FunctionLevelResets := by
  intro s ch
  refine ⟨fun hp hl hr => ⟨_, execFlrChannel_resets hp hl hr, ?_⟩,
    fun h hl hr ht hk => ⟨_, execFlrChannelDone_releases h hl hr ht hk, ?_⟩, fun h => ⟨_, execFlrHub_present h, ?_⟩⟩
  · have hflr := flr_state (s := s) (ch := ch)
    generalize s.flr ch = u at hflr
    obtain ⟨hreset, hctx, hq, hsem, hlinks, hothers⟩ := hflr
    refine ⟨hreset, rfl, hctx, hq, hsem, hlinks, fun c hc => ?_⟩
    have e : (u.answer .ok 0).chan[c] = s.chan[c] := hothers c hc
    rw [e]
    exact ⟨rfl, rfl, rfl⟩
  · have hdone := flrDone_state (s := s) (ch := ch)
    generalize s.flrDone ch = u at hdone
    obtain ⟨hreset, hword, hctx, hmem, hothers⟩ := hdone
    refine ⟨hreset, by rw [hword, outOfReset_inReset], ?_, fun jc => ?_, hmem, hothers⟩
    · unfold State.live
      rw [hword, outOfReset_live]
      exact hl
    · unfold State.ctx
      rw [hctx]
  · refine ⟨rfl, rfl, fun o ho => ?_, fun o ho => ?_, rfl, rfl, rfl⟩
    · exact (flrHub_rd ..).trans (if_pos (hubRing_iff.mpr ho))
    · exact (flrHub_rd ..).trans (if_neg fun hn => ho (hubRing_iff.mp hn))

end Sys2Proof.Machine
end

section
/-! SUPPORT. A mould commit: what drains its channels, and what brings the image into force, leave the loader as it was (R466,
R467, Table 16.9). -/

namespace Sys2Proof.Machine

open Sys2Proof

set_option Elab.async false

variable {r s t : State} {ch c : ChIdx}

/-! ## The loader -/

theorem Pkg.setFld_mould (p : Pkg) (f : Fld) (v : Nat) : (p.setFld f v).mould = p.mould := rfl

theorem Pkg.setFld_evtSeq (p : Pkg) (f : Fld) (v : Nat) : (p.setFld f v).evtSeq = p.evtSeq := rfl

/-- The loader, the number of its event source and the channels that drain are as they were. -/
structure State.LoaderKept (r s : State) : Prop where
  mould : s.pkg.mould = r.pkg.mould
  event : s.seqOf 0x8006 = r.seqOf 0x8006
  draining : ∀ c : ChIdx, s.chan[c].draining = r.chan[c].draining

/-- What stays on a channel leaves the loader as it was. -/
theorem State.Confined.loader (h : State.Confined ch r s) : r.LoaderKept s where
  mould := (congrArg Pkg.mould h.apart :)
  event := h.events _ (by decide)
  draining c := by
    by_cases hc : c = ch
    · exact hc ▸ h.draining
    · rw [h.others c hc]

namespace State.LoaderKept

theorem refl : LoaderKept s s := ⟨rfl, rfl, fun _ => rfl⟩

theorem trans (h : LoaderKept r s) (g : LoaderKept s t) : LoaderKept r t :=
  ⟨g.mould.trans h.mould, g.event.trans h.event, fun c => (g.draining c).trans (h.draining c)⟩

theorem ite {c : Prop} {_ : Decidable c} {a b : State} (ha : LoaderKept r a) (hb : LoaderKept r b) :
    LoaderKept r (if c then a else b) := by
  split
  · exact ha
  · exact hb

theorem foldl {α : Type} {f : State → α → State} {l : List α} (hf : ∀ t x, LoaderKept r t → LoaderKept r (f t x))
    (h : LoaderKept r s) : LoaderKept r (l.foldl f s) := by
  induction l generalizing s with
  | nil => exact h
  | cons x l ih => exact ih (hf s x h)

theorem eachC {f : State → ChIdx → State} (hf : ∀ t c, LoaderKept t (f t c)) (h : LoaderKept r s) : LoaderKept r (s.eachC f) :=
  State.eachC_keeps h fun t c ht => ht.trans (hf t c)

/-- A change of the hub beside the loader and the numbers of its event sources. -/
theorem modP {f : Pkg → Pkg} (h : LoaderKept r s) (hm : ∀ p, (f p).mould = p.mould := by exact fun _ => rfl)
    (he : ∀ p, (f p).evtSeq = p.evtSeq := by exact fun _ => rfl) : LoaderKept r (s.modP f) :=
  h.trans ⟨hm _, by simp only [State.seqOf, State.modP_pkg, he], fun _ => rfl⟩

theorem setInReset {b} (h : LoaderKept r s) : LoaderKept r (s.setInReset ch b) := by
  have h' : State.Confined ch (s.modP fun p => p.wr 0x14 (BitVec.ofNat 32 (putBits (p.rd 0x14).toNat (16 + ch.val) (16 + ch.val)
      (if b then 1 else 0)))) (s.setInReset ch b) := (State.Confined.refl ch _).modC (f := fun c => { c with inReset := b })
  exact h.modP.trans h'.loader

end State.LoaderKept

/-! ## What the commit writes on one channel -/

theorem State.Confined.newBurst {i k} (h : State.Confined ch r s) (hi : State.Confined.reached ch i) :
    State.Confined ch r (s.newBurst i k) := by
  unfold State.newBurst
  refine State.Confined.modBucket (h.setB hi ?_) hi
  rintro rfl
  exact (State.Confined.instOff_t3 k).trans (Nat.le_add_right ..)

theorem State.Confined.fillBucket {i k} (h : State.Confined ch r s) (hi : State.Confined.reached ch i) :
    State.Confined ch r (s.fillBucket i k) := by
  refine h.setB hi ?_
  rintro rfl
  exact (State.Confined.instOff_t3 k).trans (Nat.le_add_right ..)

theorem State.Confined.eachBucket {f : State → BucketInst → Nat → State}
    (hf : ∀ t i k, State.Confined ch r t → State.Confined.reached ch i → State.Confined ch r (f t i k)) (h : State.Confined ch r s) :
    State.Confined ch r ([BucketInst.t1 ch, BucketInst.t2 ch].foldl (fun s i => (List.range 9).foldl (fun s k => f s i k) s) s) := by
  have each : ∀ {t i}, State.Confined ch r t → State.Confined.reached ch i →
      State.Confined ch r ((List.range 9).foldl (fun s k => f s i k) t) := fun ht hi => ht.foldl fun _ _ hu => hf _ _ _ hu hi
  exact each (each h (.inl rfl)) (.inr (.inl rfl))

theorem State.Confined.commitChan {old new} (h : State.Confined ch r s) : State.Confined ch r (s.commitChan old new ch) := by
  unfold State.commitChan
  extract_lets o n ws s1 s2 share s3 s4 s5 s6 key wait
  have h1 : State.Confined ch r s1 := h.foldl fun _ _ ht => ht.modC
  have h2 : State.Confined ch r s2 := (h1.eachBucket fun _ _ _ ht hi => ht.fillBucket hi).ite
    (h1.eachBucket fun _ _ _ ht hi => (ht.newBurst hi).ite ht)
  have h3 : State.Confined ch r s3 := h2.setF
  have h4 : State.Confined ch r s4 := h3.ite h3.setF
  have h5 : State.Confined ch r s5 := h4.ite h4.modTc.tcCount
  have h6 : State.Confined ch r s6 := by
    unfold s6
    split
    · exact h5.t2Dark.ite h5
    · exact h5.ite h5.setF
  exact h6.modFt.ite h6

theorem State.Confined.retrainLinks {old new} (h : State.Confined ch r s) : State.Confined ch r (s.retrainLinks old new ch) := by
  refine h.ite (h.foldl fun _ _ ht => ?_)
  unfold State.retrain
  exact ht.ite (ht.ite ht.linkDown.modLink.setF)

theorem State.Confined.commitPark {was} (h : State.Confined ch r s) : State.Confined ch r (s.commitPark was ch) := by
  unfold State.commitPark
  refine h.ite ?_
  split
  · split
    · exact h.pwrBegin.ite h
    · exact h.modPwr
    · exact h
  · exact h.wake.ite h

theorem State.Confined.commitCap {was} (h : State.Confined ch r s) : State.Confined ch r (s.commitCap was ch) := by
  unfold State.commitCap
  refine h.ite ?_
  split
  · exact h.modPwr
  · exact h.modPwr

theorem State.Confined.firstLight (h : State.Confined ch r s) : State.Confined ch r (s.firstLight ch) := h.ringLock.setF.ite h

/-! ## What the commit writes on the hub -/

namespace State.LoaderKept

theorem commitOtp {new key0} (h : LoaderKept r s) : LoaderKept r (s.commitOtp new key0) := by
  unfold State.commitOtp
  extract_lets s1
  have h1 : LoaderKept r s1 := h.modP.ite h
  exact LoaderKept.ite (LoaderKept.modP (LoaderKept.modP h1)) h1

theorem saveCal {bytes} (h : LoaderKept r s) : LoaderKept r (s.saveCal bytes) := by
  unfold State.saveCal
  split
  · exact h
  · exact h.modP

theorem tickSource (h : LoaderKept r s) : LoaderKept r s.tickSource := by
  unfold State.tickSource
  refine h.ite (h.modP
    (fun _ => (Pkg.setFld_mould ..).trans ((Pkg.setFld_mould ..).trans ((Pkg.setFld_mould ..).trans ?_)))
    fun _ => (Pkg.setFld_evtSeq ..).trans ((Pkg.setFld_evtSeq ..).trans ((Pkg.setFld_evtSeq ..).trans ?_)))
  · rfl
  · rfl

/-- PERIOD, SRC and MASTER of an image. -/
theorem tickFields {new : Image} (h : LoaderKept r s) : LoaderKept r (s.modP fun p =>
    ((p.setFld R.HUB_TICK_CFG_PERIOD new.tickPeriod).setFld R.HUB_TICK_CFG_SRC new.tickSrc).setFld R.HUB_TICK_CFG_MASTER
      (if new.tickMaster then 1 else 0)) :=
  h.modP (fun _ => (Pkg.setFld_mould ..).trans ((Pkg.setFld_mould ..).trans (Pkg.setFld_mould ..)))
    fun _ => (Pkg.setFld_evtSeq ..).trans ((Pkg.setFld_evtSeq ..).trans (Pkg.setFld_evtSeq ..))

theorem commitTick {old new} (h : LoaderKept r s) : LoaderKept r (s.commitTick old new) := by
  unfold State.commitTick
  exact LoaderKept.ite h (tickSource (tickFields h))

theorem loseTiers (h : LoaderKept r s) : LoaderKept r s.loseTiers := by
  have h1 : LoaderKept r s.draw.2 := h.trans ⟨rfl, rfl, fun _ => rfl⟩
  unfold State.loseTiers
  exact LoaderKept.modP (h1.eachC fun t c => (State.Confined.refl c t).modMem.loader)

theorem commitPolicy {new all} (h : LoaderKept r s) : LoaderKept r (s.commitPolicy new all) := by
  unfold State.commitPolicy State.modSec
  exact LoaderKept.modP (LoaderKept.modP (h.ite h.loseTiers))

end State.LoaderKept

/-! ## The drained channels load jobs again -/

/-- Every channel of a list loads jobs again. -/
theorem undrainList_chan {l : List ChIdx} :
    (l.foldl (fun s c => s.modC c fun k => { k with draining := false }) s).chan[c] =
      if c ∈ l then { s.chan[c] with draining := false } else s.chan[c] := by
  induction l generalizing s with
  | nil => rfl
  | cons d l ih =>
    rw [List.foldl_cons, ih]
    by_cases hd : c = d
    · subst hd
      rw [State.modC_same]
      simp
    · rw [State.modC_other _ _ hd]
      simp [hd]

theorem undrain_chan : s.undrain.chan[c] = { s.chan[c] with draining := false } :=
  undrainList_chan.trans (if_pos (List.mem_finRange c))

theorem undrain_pkg : s.undrain.pkg = s.pkg :=
  State.eachC_keeps (P := fun t => t.pkg = s.pkg) rfl fun _ _ h => h

end Sys2Proof.Machine
end

section
/-! SUPPORT. The image comes into force (Table 16.9, Table 3.2 step 3). -/

namespace Sys2Proof.Machine

open Sys2Proof

set_option Elab.async false

variable {r s t : State} {ch c : ChIdx}

/-- The loader with an image in force. -/
def Mould.inForce (new : Image) (bytes : List Byte) : Mould := ⟨some new, none, bytes, [], false, 0, false⟩

theorem State.LoaderKept.bucket3 {k} (h : r.LoaderKept s) :
    r.LoaderKept (s.fillBucket .t3 k) ∧ r.LoaderKept (s.newBurst .t3 k) := by
  have hr : State.Confined.reached (0 : ChIdx) .t3 := .inr (.inr rfl)
  exact ⟨h.trans ((State.Confined.refl 0 s).fillBucket hr).loader, h.trans ((State.Confined.refl 0 s).newBurst hr).loader⟩

/-- The event of a commit counts once, and the pins follow. -/
theorem postCommit_does {arg : List Nat} (hd : ∀ c : ChIdx, s.chan[c].draining = false) :
    let t := (s.post (srcHub 0x006) .mouldCommit arg).faultPin
    t.pkg.mould = s.pkg.mould ∧ t.seqOf 0x8006 = (s.seqOf 0x8006 + 1) % 2 ^ 32 ∧ ∀ c : ChIdx, t.chan[c].draining = false := by
  obtain ⟨⟨-, hp, -, hc⟩, hseq, -⟩ := State.post_does s (srcHub 0x006) .mouldCommit arg
  refine ⟨(congrArg Pkg.mould hp :), hseq, fun c => ?_⟩
  have h : (s.post (srcHub 0x006) .mouldCommit arg).chan[c].draining = s.chan[c].draining :=
    (congrArg (fun x : Chan => x.draining) (hc c).1 :)
  exact h.trans (hd c)

/-- A commit on a locked package takes its channels out of reset, and writes OTP and the calibration area. -/
theorem commitUnlock_loader {new bytes key0} {b : Bool} :
    let t := (s.commitOtp new key0).saveCal bytes
    s.LoaderKept (if b && !t.locked then
      t.eachC fun s c => if s.live c && (s.chan[c]).inReset && !(s.pwr c).thermTrip then s.setInReset c false else s
    else t) := by
  intro t
  have h : s.LoaderKept t := State.LoaderKept.refl.commitOtp.saveCal
  exact (h.eachC fun u c => State.LoaderKept.refl.setInReset.ite .refl).ite h

/-- The hub registers that name the image in force. -/
def Pkg.putForce (p : Pkg) (new : Image) (bytes : List Byte) (map : Word) : Pkg :=
  (((({ p with mould := .inForce new bytes }).wr 0x50 map).setFld R.HUB_MOULD_STAT_STATE mouldIdle).setFld
    R.HUB_MOULD_STAT_SAFE 0).setFld R.HUB_MOULD_SERIAL_LO_SERIAL_LO new.serial.toNat

theorem putForce_mould (p : Pkg) (new : Image) (bytes : List Byte) (map : Word) :
    (p.putForce new bytes map).mould = .inForce new bytes :=
  (Pkg.setFld_mould ..).trans ((Pkg.setFld_mould ..).trans ((Pkg.setFld_mould ..).trans rfl))

theorem putForce_evtSeq (p : Pkg) (new : Image) (bytes : List Byte) (map : Word) :
    (p.putForce new bytes map).evtSeq = p.evtSeq :=
  (Pkg.setFld_evtSeq ..).trans ((Pkg.setFld_evtSeq ..).trans ((Pkg.setFld_evtSeq ..).trans rfl))

/-- After a commit the image is in force, nothing is staged, one MOULD_COMMIT is posted, and no channel drains. -/
theorem commitImage_does {new : Image} {bytes : List Byte} {key0 all : Bool} :
    (s.commitImage new bytes key0 all).pkg.mould = .inForce (s.withCal new) bytes ∧
      (s.commitImage new bytes key0 all).seqOf 0x8006 = (s.seqOf 0x8006 + 1) % 2 ^ 32 ∧
      ∀ c : ChIdx, (s.commitImage new bytes key0 all).chan[c].draining = false := by
  unfold State.commitImage
  extract_lets old new' places shares wasLocked s1 s2 s3 s4 t3 s5 s6 s7 s8 s9 s10
  have h2 : s.LoaderKept s2 := commitUnlock_loader
  have hm3 : s3.pkg.mould = .inForce new' bytes := putForce_mould ..
  have he3 : s3.seqOf 0x8006 = s.seqOf 0x8006 := by
    refine Eq.trans ?_ h2.event
    exact congrArg (fun m => Cells.get (fun _ => 0) m 0x8006) (putForce_evtSeq ..)
  have h4 : s3.LoaderKept s4 := State.LoaderKept.refl.eachC fun t c => ((State.Confined.refl c t).commitChan).loader
  have h5 : s3.LoaderKept s5 := h4.foldl fun _ _ ht => ht.modP
  have h6 : s3.LoaderKept s6 := h5.foldl fun _ _ ht => ht.bucket3.1.ite (ht.bucket3.2.ite ht)
  have hp : s3.LoaderKept ((s6.commitTick old new').commitPolicy new' all) := h6.commitTick.commitPolicy
  have hd7 (c : ChIdx) : s7.chan[c].draining = false := (congrArg Chan.draining undrain_chan :)
  have hm7 : s7.pkg.mould = s3.pkg.mould := (congrArg Pkg.mould undrain_pkg).trans hp.mould
  have he7 : s7.seqOf 0x8006 = s3.seqOf 0x8006 :=
    (congrArg (fun p : Pkg => Cells.get (fun _ => 0) p.evtSeq 0x8006) undrain_pkg).trans hp.event
  have h8 : s7.LoaderKept s8 := (State.LoaderKept.refl.eachC fun t c => ((State.Confined.refl c t).firstLight).loader).ite .refl
  have h9 : s7.LoaderKept s9 := h8.eachC fun t c =>
    ((State.Confined.refl c t).retrainLinks.forwardHeld.commitPark.commitCap).loader
  have h10 : s7.LoaderKept s10 := h9.modP.ite h9
  obtain ⟨hm, he, hd⟩ := postCommit_does (s := s10) (arg := [new'.serial.toNat % 2 ^ 32, new'.serial.toNat / 2 ^ 32])
    fun c => (h10.draining c).trans (hd7 c)
  refine ⟨hm.trans (h10.mould.trans (hm7.trans hm3)), ?_, hd⟩
  rw [← he3, ← he7, ← h10.event]
  exact he

end Sys2Proof.Machine
end

section
/-! SUPPORT. The channels of a staged image drain, and the commit of a boundary (R28, R466, R467). -/

namespace Sys2Proof.Machine

open Sys2Proof

set_option Elab.async false

variable {r s t : State} {ch c : ChIdx}

/-! ## What a drain leaves as it was -/

/-- A counter of the channel's registers: the part holds none. -/
theorem State.SamePart.satF {α : Type} {g : Chan → α} {f n} (hg : ∀ c w, g { c with reg := w } = g c)
    (h : State.SamePart g ch r s) : State.SamePart g ch r (s.satF ch f n) := h.modC fun c => hg c _

/-- The contexts of a channel stay through a wake event. -/
theorem wake_ctx {code : Nat} (h : r.SamePart Chan.ctx ch s) : r.SamePart Chan.ctx ch (s.wake ch code) := by
  have hreg : ∀ (c : Chan) (w : Cells Word), Chan.ctx { c with reg := w } = c.ctx := fun _ _ => rfl
  have pwr {t : State} {f} (ht : r.SamePart Chan.ctx ch t) : r.SamePart Chan.ctx ch (t.modPwr ch f) := ht.modC fun _ => rfl
  unfold State.wake
  refine h.ite ?_
  split
  · exact h
  · refine h.ite ?_
    unfold State.reup
    exact (pwr h).ite (((pwr h).setF hreg).satF hreg |>.post hreg)
  · refine h.ite (State.SamePart.ite h.modP ?_)
    have he : r.SamePart Chan.ctx ch (s.setF ch R.CH_PWR_STAT_LAST_WAKE code) := h.setF hreg
    unfold State.exitBegin State.pwrBegin State.pwrShow
    exact State.SamePart.setF hreg (State.SamePart.setF hreg (pwr (he.post hreg)))

theorem dropEpoch_ctx (h : r.SamePart Chan.ctx ch s) : r.SamePart Chan.ctx ch (s.dropEpoch ch) := by
  have hm : r.SamePart Chan.ctx ch (s.modC ch fun c => { c with mover := { c.mover with phase := .idle } }) := h.modC fun _ => rfl
  unfold State.dropEpoch
  exact h.ite (State.SamePart.satF (fun _ _ => rfl) (State.SamePart.setF (fun _ _ => rfl) hm))

theorem flushAll_ctx : s.SamePart Chan.ctx ch (s.flushAll ch) := by
  have h : s.MovesOnly (s.flushAll ch) :=
    State.moves_tcCount (State.moves_foldl (fun _ _ ht => State.moves_wbStart ht) _ _ (State.moves_modTc (State.moves_refl s)))
  exact (congrArg (fun x : Chan => x.ctx) (h.2 ch) :)

theorem State.Confined.dropEpoch (h : State.Confined ch r s) : State.Confined ch r (s.dropEpoch ch) := by
  have hm : State.Confined ch r (s.modC ch fun c => { c with mover := { c.mover with phase := .idle } }) := h.modC
  exact h.ite hm.setF.satF

/-- The loader, the registers of PF0 but for its event ring, and the contexts are as they were; a channel that drains still does. -/
structure State.DrainStep (r s : State) : Prop where
  mould : s.pkg.mould = r.pkg.mould
  regs : ∀ o, o < 0x7200 → o ∉ eventRegs → s.pkg.rd o = r.pkg.rd o
  drains : ∀ c : ChIdx, r.chan[c].draining = true → s.chan[c].draining = true
  ctx : ∀ c : ChIdx, s.chan[c].ctx = r.chan[c].ctx

namespace State.DrainStep

theorem refl : DrainStep s s := ⟨rfl, fun _ _ _ => rfl, fun _ h => h, fun _ => rfl⟩

theorem trans (h : DrainStep r s) (g : DrainStep s t) : DrainStep r t :=
  ⟨g.mould.trans h.mould, fun o h1 h2 => (g.regs o h1 h2).trans (h.regs o h1 h2), fun c hc => g.drains c (h.drains c hc),
    fun c => (g.ctx c).trans (h.ctx c)⟩

theorem of_confined (h : State.Confined ch r s) (hx : r.SamePart Chan.ctx ch s) : DrainStep r s where
  mould := h.loader.mould
  regs := h.regs
  drains c hc := (h.loader.draining c).trans hc
  ctx c := by
    by_cases e : c = ch
    · exact e ▸ hx
    · rw [h.others c e]

theorem foldl {α : Type} {f : State → α → State} {l : List α} (hf : ∀ t x, DrainStep t (f t x)) : DrainStep s (l.foldl f s) := by
  induction l generalizing s with
  | nil => exact refl
  | cons x l ih => exact (hf s x).trans ih

theorem fld (h : DrainStep r s) {f : Fld} (h1 : f.off < 0x7200) (h2 : f.off ∉ eventRegs) : s.pkg.fld f = r.pkg.fld f :=
  congrArg f.of (h.regs _ h1 h2)

theorem split (h : DrainStep r s) : s.split = r.split := congrArg (· == 1) (h.fld (by decide) (by decide))

end State.DrainStep

theorem drainFlush_step : s.DrainStep s.drainFlush := .foldl fun t c => by
  split
  · exact .of_confined (State.Confined.refl c t).flushAll flushAll_ctx
  · exact .refl

theorem drainFlush_loader : s.LoaderKept s.drainFlush :=
  State.LoaderKept.refl.foldl fun _ c ht => (ht.trans ((State.Confined.refl c _).flushAll).loader).ite ht

/-- A channel drains for the commit: it is woken, and a copy epoch of it is abandoned. -/
def State.drainChan (s : State) (c : ChIdx) : State := ((s.wake c 7).dropEpoch c).modC c fun k => { k with draining := true }

theorem drainChan_step : s.DrainStep (s.drainChan c) := by
  have h1 : s.DrainStep ((s.wake c 7).dropEpoch c) :=
    .of_confined (State.Confined.refl c s).wake.dropEpoch (dropEpoch_ctx (wake_ctx .refl))
  refine h1.trans ⟨rfl, fun _ _ _ => rfl, fun d hd => ?_, fun d => ?_⟩
  · by_cases e : d = c
    · subst e
      rw [State.drainChan, State.modC_same]
    · rw [State.drainChan, State.modC_other _ _ e]
      exact hd
  · by_cases e : d = c
    · subst e
      rw [State.drainChan, State.modC_same]
    · rw [State.drainChan, State.modC_other _ _ e]

theorem drainChan_drains : (s.drainChan c).chan[c].draining = true := by
  rw [State.drainChan, State.modC_same]

theorem drainChans_step {l : List ChIdx} : s.DrainStep (l.foldl State.drainChan s) := .foldl fun _ _ => drainChan_step

theorem drainChans_drain {l : List ChIdx} (h : c ∈ l) : (l.foldl State.drainChan s).chan[c].draining = true := by
  induction l generalizing s with
  | nil => cases h
  | cons d l ih =>
    by_cases hl : c ∈ l
    · exact ih hl
    · obtain rfl : c = d := (List.mem_cons.mp h).resolve_right hl
      rw [List.foldl_cons]
      exact (drainChans_step (s := s.drainChan c) (l := l)).drains c drainChan_drains

/-- The jobs of the drained channels are killed, and that is noted. -/
theorem drainKill_does : s.drainKill.pkg.mould = { s.pkg.mould with killed := true } := by
  have h : s.LoaderKept (s.drains.foldl (fun s c => s.killAll c 8) s) :=
    State.LoaderKept.refl.foldl fun _ c ht => ht.trans ((State.Confined.refl c _).killAll).loader
  exact congrArg (fun m : Mould => { m with killed := true }) h.mould

/-! ## The commit of a boundary -/

theorem commitDue_none (h : s.mouldState ≠ mouldDraining) (h' : s.mouldState ≠ mouldHeld) : s.commitDue = s :=
  if_pos (by simp [h, h'])

/-- A commit that drains or is held: it waits, is held by a split, or is made. -/
theorem commitDue_eq {new : Image} (h : s.mouldState = mouldDraining ∨ s.mouldState = mouldHeld) (hs : s.pkg.mould.staged = some new) :
    s.commitDue =
      if !s.drainFlush.drained || !s.drainFlush.atReached then s.drainFlush
      else if s.split then s.drainFlush.toMould mouldHeld
      else s.drainFlush.commitImage new s.pkg.mould.loadBytes s.pkg.mould.key0 ((affected s.pkg.mould.force new).length == 8) := by
  have hm := drainFlush_step (s := s).mould
  have hp := drainFlush_step (s := s).split
  unfold State.commitDue
  rw [if_neg (by rcases h with h | h <;> simp [h])]
  dsimp only
  rw [hm, hs, hp]

theorem withCal_of_mould {new : Image} (h : t.pkg.mould = s.pkg.mould) : t.withCal new = s.withCal new := by
  unfold State.withCal
  rw [h]

end Sys2Proof.Machine
end

section
/-! SUPPORT. The commands of HUB_MOULD_CMD (R24, R462, R465). -/

namespace Sys2Proof.Machine

open Sys2Proof

set_option Elab.async false

variable {s t u : State} {w : Writer} {cmd e : Nat} {f : State → State}

/-! ## A command arrives -/

/-- The state in which a writer's command finds the register: the host's access has been answered. -/
def State.heard (s : State) (w : Writer) : State := if w = .host then s.answer .ok 0 else s

/-- CMD holds the command. -/
def State.commanded (s : State) (w : Writer) (cmd : Nat) : State := (s.heard w).modP (·.setFld R.HUB_MOULD_CMD_CMD cmd)

theorem heard_cases (P : State → Prop) (h : P s) (h' : P (s.answer .ok 0)) : P (s.heard w) := by
  unfold State.heard
  split
  · exact h'
  · exact h

theorem commanded_chan : (s.commanded w cmd).chan = s.chan := heard_cases (fun t => t.chan = s.chan) rfl rfl

theorem commanded_mould : (s.commanded w cmd).pkg.mould = s.pkg.mould :=
  heard_cases (fun t => t.pkg.mould = s.pkg.mould) rfl rfl

theorem commanded_flash : (s.commanded w cmd).pkg.flash = s.pkg.flash :=
  heard_cases (fun t => t.pkg.flash = s.pkg.flash) rfl rfl

theorem commanded_host : (s.commanded w cmd).pkg.host = s.pkg.host := heard_cases (fun t => t.pkg.host = s.pkg.host) rfl rfl

theorem commanded_cmd (h : cmd < 8) : (s.commanded w cmd).pkg.fld R.HUB_MOULD_CMD_CMD = cmd :=
  Pkg.fld_setFld_self (by
    simp only [Fld.holds, Bool.and_eq_true, decide_eq_true_eq]
    exact ⟨by decide, h⟩)

theorem commanded_fld {x : Fld} (h : R.HUB_MOULD_CMD_CMD.disjoint x = true) : (s.commanded w cmd).pkg.fld x = s.pkg.fld x :=
  (Pkg.fld_setFld_disjoint h).trans (heard_cases (fun t => t.pkg.fld x = s.pkg.fld x) rfl rfl)

theorem commanded_state : (s.commanded w cmd).mouldState = s.mouldState := commanded_fld (by decide)

theorem commanded_live : (s.commanded w cmd).live = s.live := by
  funext c
  have h : (s.commanded w cmd).pkg.rd 0x14 = s.pkg.rd 0x14 :=
    (Pkg.rd_setFld_other (by decide)).trans (heard_cases (fun t => t.pkg.rd 0x14 = s.pkg.rd 0x14) rfl rfl)
  unfold State.live
  rw [h]

theorem commanded_gateOpen : (s.commanded w cmd).gateOpen w = s.gateOpen w := by
  unfold State.gateOpen State.leaseValid State.split State.holder
  rw [commanded_fld (by decide), commanded_fld (by decide), commanded_fld (by decide)]

/-- The command arrives at the loader: from the host through its register, from a gaffer while the hub runs. -/
def State.arrives (s : State) (w : Writer) : Prop := if w = .host then s.reaches 0 else s.hubOn = true

theorem mouldCmd_arrives (h : s.arrives w) : s.mouldCmd w cmd f =
    if cmd != 4 && !s.gateOpen w then (s.commanded w cmd).countFenced.mouldErr 0xB else f (s.commanded w cmd) := by
  rw [← commanded_gateOpen (cmd := cmd)]
  cases w with
  | host =>
    have hr : s.reaches 0 := h
    unfold State.mouldCmd
    exact State.hostWr_reaches hr
  | gaffer g =>
    have hr : s.hubOn = true := h
    unfold State.mouldCmd
    exact if_pos hr

theorem mouldCmd_gated (h : s.arrives w) (hg : s.gateOpen w = true) : s.mouldCmd w cmd f = f (s.commanded w cmd) := by
  rw [mouldCmd_arrives h, if_neg (by simp [hg])]

theorem mouldCmd_store (h : s.arrives w) : s.mouldCmd w 4 f = f (s.commanded w 4) := by
  rw [mouldCmd_arrives h, if_neg (by simp)]

theorem mouldCmd_fenced (h : s.arrives w) (hg : s.gateOpen w = false) (h4 : cmd ≠ 4) :
    s.mouldCmd w cmd f = (s.commanded w cmd).countFenced.mouldErr 0xB := by
  rw [mouldCmd_arrives h, if_pos (by simp [hg, h4])]

/-! ## What a command leaves as it was -/

/-- A command has been taken: the channels stay, CMD holds it, and the host's answer is that of the access. -/
structure State.Taken (s : State) (w : Writer) (cmd : Nat) (t : State) : Prop where
  chan : t.chan = s.chan
  cmd : t.pkg.fld R.HUB_MOULD_CMD_CMD = cmd
  out : t.pkg.out = (s.heard w).pkg.out

theorem commanded_taken (h : cmd < 8) : s.Taken w cmd (s.commanded w cmd) := ⟨commanded_chan, commanded_cmd h, rfl⟩

theorem State.Taken.setFld {x : Fld} {v : Nat} (h : s.Taken w cmd t) (hx : x.disjoint R.HUB_MOULD_CMD_CMD = true := by decide) :
    s.Taken w cmd (t.modP (·.setFld x v)) := ⟨h.chan, (Pkg.fld_setFld_disjoint hx).trans h.cmd, h.out⟩

theorem State.Taken.mouldErr (h : s.Taken w cmd t) : s.Taken w cmd (t.mouldErr e) := h.setFld

theorem State.Taken.toMould (h : s.Taken w cmd t) : s.Taken w cmd (t.toMould e) := h.setFld

theorem State.Taken.modMould {g : Mould → Mould} (h : s.Taken w cmd t) : s.Taken w cmd (t.modMould g) := ⟨h.chan, h.cmd, h.out⟩

theorem State.Taken.countFenced (h : s.Taken w cmd t) : s.Taken w cmd t.countFenced :=
  ⟨h.chan, (Pkg.fld_satFld_disjoint (by decide)).trans h.cmd, h.out⟩

/-! ## ERR and STATE -/

theorem mouldErr_err (h : e < 16) : (t.mouldErr e).pkg.fld R.HUB_MOULD_STAT_ERR = e :=
  Pkg.fld_setFld_self (by
    simp only [Fld.holds, Bool.and_eq_true, decide_eq_true_eq]
    exact ⟨by decide, h⟩)

theorem mouldErr_fld {x : Fld} (h : R.HUB_MOULD_STAT_ERR.disjoint x = true) : (t.mouldErr e).pkg.fld x = t.pkg.fld x :=
  Pkg.fld_setFld_disjoint h

theorem mouldErr_state : (t.mouldErr e).mouldState = t.mouldState := mouldErr_fld (by decide)

theorem toMould_state (h : e < 8) : (t.toMould e).mouldState = e :=
  Pkg.fld_setFld_self (by
    simp only [Fld.holds, Bool.and_eq_true, decide_eq_true_eq]
    exact ⟨by decide, h⟩)

theorem toMould_fld {x : Fld} (h : R.HUB_MOULD_STAT_STATE.disjoint x = true) : (t.toMould e).pkg.fld x = t.pkg.fld x :=
  Pkg.fld_setFld_disjoint h

theorem mouldErr_mould : (t.mouldErr e).pkg.mould = t.pkg.mould := rfl

theorem countFenced_mould : t.countFenced.pkg.mould = t.pkg.mould := rfl

/-- A command refused with a status: the loader is as it was. -/
theorem refused_does (h : cmd < 8) (he : e < 16) :
    let t := (s.commanded w cmd).mouldErr e
    s.Taken w cmd t ∧ t.pkg.fld R.HUB_MOULD_STAT_ERR = e ∧ t.mouldState = s.mouldState ∧ t.pkg.mould = s.pkg.mould :=
  ⟨(commanded_taken h).mouldErr, mouldErr_err he, mouldErr_state.trans commanded_state,
    mouldErr_mould.trans commanded_mould⟩

/-- A command that the gate discards: FENCED, and counted (R24, R26). -/
theorem fenced_does (h : cmd < 8) :
    let t := (s.commanded w cmd).countFenced.mouldErr 0xB
    s.Taken w cmd t ∧ t.pkg.fld R.HUB_MOULD_STAT_ERR = 0xB ∧ t.mouldState = s.mouldState ∧ t.pkg.mould = s.pkg.mould ∧
      t.pkg.fld R.GAF_SPLIT_FENCED_WRITES = min 255 (s.pkg.fld R.GAF_SPLIT_FENCED_WRITES + 1) := by
  have hstate : (s.commanded w cmd).countFenced.mouldState = s.mouldState :=
    (Pkg.fld_satFld_disjoint (by decide)).trans commanded_state
  have hcount : (s.commanded w cmd).countFenced.pkg.fld R.GAF_SPLIT_FENCED_WRITES =
      min 255 (s.pkg.fld R.GAF_SPLIT_FENCED_WRITES + 1) := by
    rw [← commanded_fld (s := s) (w := w) (cmd := cmd) (x := R.GAF_SPLIT_FENCED_WRITES) (by decide)]
    refine Pkg.fld_setFld_self ?_
    simp only [Fld.holds, Bool.and_eq_true, decide_eq_true_eq]
    exact ⟨by decide, Nat.lt_succ_of_le (min_le_left 255 _)⟩
  exact ⟨(commanded_taken h).countFenced.mouldErr, mouldErr_err (by decide), mouldErr_state.trans hstate,
    mouldErr_mould.trans (countFenced_mould.trans commanded_mould), (mouldErr_fld (by decide)).trans hcount⟩

theorem unlessBusy_free (h : t.mouldState = mouldIdle ∨ t.mouldState = mouldStaged) : t.unlessBusy f = f t :=
  if_neg (by rcases h with h | h <;> simp [State.mouldBusy, h])

theorem unlessBusy_busy (h : ¬ (t.mouldState = mouldIdle ∨ t.mouldState = mouldStaged)) : t.unlessBusy f = t.mouldErr 0xA :=
  if_pos (by simpa [State.mouldBusy, not_or] using h)

/-- Where the image of LOAD stands in host memory. -/
def State.loadAddr (s : State) : Nat :=
  s.pkg.fld R.HUB_MOULD_ADDR_LO_ADDR_LO * 64 + s.pkg.fld R.HUB_MOULD_ADDR_HI_ADDR_HI * 2 ^ 32

theorem commanded_loadAddr : (s.commanded w cmd).loadAddr = s.loadAddr := by
  unfold State.loadAddr
  rw [commanded_fld (by decide), commanded_fld (by decide)]

theorem commanded_drains : (s.commanded w cmd).drains = s.drains := by
  unfold State.drains
  rw [commanded_mould, commanded_live]

end Sys2Proof.Machine
end

section
/-! SUPPORT. LOAD, COMMIT, ABANDON and STORE of an image (R460, R462, R465 to R467). -/

namespace Sys2Proof.Machine

open Sys2Proof

set_option Elab.async false

variable {s t u : State} {w : Writer} {cmd e : Nat} {c : ChIdx}

/-! ## What each command does -/

/-- LOAD: the image is read. -/
def State.loadInto (u : State) : State :=
  ((u.modMould fun m => { m with staged := none, loadBytes := u.pkg.host.read u.loadAddr (u.pkg.fld R.HUB_MOULD_LEN_LEN) }).toMould
    mouldLoading).mouldErr 0

/-- A drain begins, before its channels are told. -/
def State.drainReady (u : State) : State :=
  ((u.toMould mouldDraining).mouldErr 0).modMould fun m => { m with boundaries := 0, killed := false }

/-- The channels of the staged image drain. -/
def State.drainBegin (u : State) : State := (u.drainReady.drains.foldl State.drainChan u.drainReady).drainFlush

/-- COMMIT. -/
def State.commitBegin (u : State) : State :=
  if u.mouldState != mouldStaged then u
  else if u.drainBegin.pkg.fld R.HUB_MOULD_CFG_DRAIN_LIM == 0 then u.drainBegin.drainKill else u.drainBegin

/-- ABANDON of an image that is staged, drains or is held. -/
def State.dropStaged (u : State) : State :=
  ((u.undrain.modMould fun m => { m with staged := none, loadBytes := [] }).toMould mouldIdle).mouldErr 0

/-- ABANDON. -/
def State.abandonNow (u : State) : State :=
  if u.mouldState == mouldStaged || u.mouldState == mouldDraining || u.mouldState == mouldHeld then u.dropStaged else u

/-- STORE begins. -/
def State.storeReady (u : State) : State :=
  ((u.modMould fun m => { m with staged := none, loadBytes := [] }).toMould mouldStoring).mouldErr 0

/-- STORE. -/
def State.storeBegin (u : State) : State :=
  match u.pkg.mould.force with
  | none => u
  | some i => if i.delta && 15 ≤ u.pkg.fld R.HUB_MOULD_STAT_DELTAS then u.mouldErr 0xC else u.storeReady

theorem execLoad_eq : exec (.load w) s = .next (s.mouldCmd w 1 (·.unlessBusy State.loadInto)) := rfl

theorem execCommit_eq : exec (.commit w) s = .next (s.mouldCmd w 2 (·.unlessBusy State.commitBegin)) := rfl

theorem execAbandon_eq : exec (.abandon w) s = .next (s.mouldCmd w 3 State.abandonNow) := rfl

theorem execStore_eq : exec (.store w) s = .next (s.mouldCmd w 4 (·.unlessBusy State.storeBegin)) := rfl

/-! ## LOAD -/

theorem loadInto_taken (h : s.Taken w cmd u) : s.Taken w cmd u.loadInto := h.modMould.toMould.mouldErr

theorem loadInto_does : u.loadInto.pkg.fld R.HUB_MOULD_STAT_ERR = 0 ∧ u.loadInto.mouldState = mouldLoading ∧
    u.loadInto.pkg.mould.staged = none ∧ u.loadInto.pkg.mould.force = u.pkg.mould.force ∧
    u.loadInto.pkg.mould.loadBytes = u.pkg.host.read u.loadAddr (u.pkg.fld R.HUB_MOULD_LEN_LEN) :=
  ⟨mouldErr_err (by decide), mouldErr_state.trans (toMould_state (by decide)), rfl, rfl, rfl⟩

/-! ## COMMIT -/

theorem commitBegin_idle (h : u.mouldState = mouldIdle) : u.commitBegin = u := if_pos (by simp [h, mouldIdle, mouldStaged])

theorem drainReady_drains : u.drainReady.drains = u.drains := by
  have h : u.drainReady.live = u.live := by
    funext c
    have hr : u.drainReady.pkg.rd 0x14 = u.pkg.rd 0x14 :=
      (Pkg.rd_setFld_other (p := u.pkg.setFld R.HUB_MOULD_STAT_STATE mouldDraining) (by decide)).trans
        (Pkg.rd_setFld_other (by decide))
    unfold State.live
    rw [hr]
  unfold State.drains
  rw [h]
  rfl

/-- The drain from the moment its channels are told. -/
theorem drainBegin_step : u.drainReady.DrainStep u.drainBegin := drainChans_step.trans drainFlush_step

theorem drainBegin_drains (h : c ∈ u.drains) : u.drainBegin.chan[c].draining = true :=
  drainFlush_step.drains c (drainChans_drain (drainReady_drains.symm ▸ h))

theorem drainBegin_does : u.drainBegin.mouldState = mouldDraining ∧ u.drainBegin.pkg.fld R.HUB_MOULD_STAT_ERR = 0 ∧
    u.drainBegin.pkg.mould.boundaries = 0 ∧ u.drainBegin.pkg.mould.staged = u.pkg.mould.staged ∧
    u.drainBegin.pkg.mould.force = u.pkg.mould.force ∧ ∀ c : ChIdx, u.drainBegin.chan[c].ctx = u.chan[c].ctx := by
  have h := drainBegin_step (u := u)
  have hstate : u.drainReady.mouldState = mouldDraining := mouldErr_state.trans (toMould_state (by decide))
  have herr : u.drainReady.pkg.fld R.HUB_MOULD_STAT_ERR = 0 := mouldErr_err (by decide)
  exact ⟨(h.fld (by decide) (by decide)).trans hstate, (h.fld (by decide) (by decide)).trans herr,
    (congrArg Mould.boundaries h.mould :), (congrArg Mould.staged h.mould :), (congrArg Mould.force h.mould :), h.ctx⟩

theorem commitBegin_staged (h : u.mouldState = mouldStaged) (hl : u.pkg.fld R.HUB_MOULD_CFG_DRAIN_LIM ≠ 0) :
    u.commitBegin = u.drainBegin := by
  have hlim : u.drainBegin.pkg.fld R.HUB_MOULD_CFG_DRAIN_LIM = u.pkg.fld R.HUB_MOULD_CFG_DRAIN_LIM := by
    refine (drainBegin_step.fld (by decide) (by decide)).trans ?_
    exact (mouldErr_fld (by decide)).trans (toMould_fld (by decide))
  unfold State.commitBegin
  rw [if_neg (by simp [h]), if_neg (by simpa [hlim] using hl)]

/-! ## ABANDON -/

theorem abandonNow_idle (h : u.mouldState = mouldIdle) : u.abandonNow = u :=
  if_neg (by simp [h, mouldIdle, mouldStaged, mouldDraining, mouldHeld])

theorem abandonNow_drops (h : u.mouldState = mouldStaged ∨ u.mouldState = mouldDraining ∨ u.mouldState = mouldHeld) :
    u.abandonNow = u.dropStaged := if_pos (by simpa [or_assoc] using h)

theorem dropStaged_does : u.dropStaged.mouldState = mouldIdle ∧ u.dropStaged.pkg.fld R.HUB_MOULD_STAT_ERR = 0 ∧
    u.dropStaged.pkg.mould.staged = none ∧ u.dropStaged.pkg.mould.force = u.pkg.mould.force ∧
    ∀ c : ChIdx, u.dropStaged.chan[c].draining = false ∧ u.dropStaged.chan[c].ctx = u.chan[c].ctx := by
  refine ⟨mouldErr_state.trans (toMould_state (by decide)), mouldErr_err (by decide), rfl, ?_, fun c => ?_⟩
  · exact (congrArg (fun p : Pkg => p.mould.force) (undrain_pkg (s := u)) :)
  · have h : u.dropStaged.chan[c] = { u.chan[c] with draining := false } := undrain_chan
    rw [h]
    exact ⟨rfl, rfl⟩

/-! ## STORE -/

theorem storeBegin_full {i : Image} (hi : u.pkg.mould.force = some i) (hd : i.delta = true)
    (h : 15 ≤ u.pkg.fld R.HUB_MOULD_STAT_DELTAS) : u.storeBegin = u.mouldErr 0xC := by
  unfold State.storeBegin
  rw [hi]
  exact if_pos (by simp [hd, h])

theorem storeBegin_ready {i : Image} (hi : u.pkg.mould.force = some i)
    (h : i.delta = false ∨ u.pkg.fld R.HUB_MOULD_STAT_DELTAS < 15) : u.storeBegin = u.storeReady := by
  unfold State.storeBegin
  rw [hi]
  refine if_neg ?_
  rcases h with h | h
  · simp [h]
  · simp [Nat.not_le.mpr h]

theorem storeReady_taken (h : s.Taken w cmd u) : s.Taken w cmd u.storeReady := h.modMould.toMould.mouldErr

theorem storeReady_does : u.storeReady.pkg.fld R.HUB_MOULD_STAT_ERR = 0 ∧ u.storeReady.mouldState = mouldStoring ∧
    u.storeReady.pkg.flash = u.pkg.flash :=
  ⟨mouldErr_err (by decide), mouldErr_state.trans (toMould_state (by decide)), rfl⟩

/-! ## Verification and the end of a store -/

theorem execMouldStaged_none (h : s.mouldState ≠ mouldLoading) : exec .mouldStaged s = .next s := if_pos (by simpa using h)

theorem execMouldStaged_eq (h : s.mouldState = mouldLoading) : exec .mouldStaged s =
    match verify s.pkg.otp s.fuses s.locked s.pkg.mould.force s.pkg.mould.loadBytes with
    | .ok i => .next ((s.modMould fun m => { m with staged := some i, key0 := (hdrOf m.loadBytes).keyIdx == 0 }).toMould mouldStaged)
    | .error e =>
      .next (((s.modMould fun m => { m with loadBytes := [] }).toMould mouldIdle).modP fun p =>
        (p.setFld R.HUB_MOULD_STAT_ERR e.err).setFld R.HUB_MOULD_STAT_SECT e.sect) := by
  refine (if_neg (by simp [h])).trans ?_
  cases verify s.pkg.otp s.fuses s.locked s.pkg.mould.force s.pkg.mould.loadBytes with
  | ok i => rfl
  | error e => rfl

/-- An image that fails verification leaves the loader IDLE and names its error. -/
theorem verifyFailed_does {f : Mould → Mould} {err sect : Nat} :
    let t := ((s.modMould f).toMould mouldIdle).modP fun p => (p.setFld R.HUB_MOULD_STAT_ERR err).setFld R.HUB_MOULD_STAT_SECT sect
    t.mouldState = mouldIdle ∧ t.pkg.fld R.HUB_MOULD_STAT_ERR = err % 16 := by
  refine ⟨?_, ?_⟩
  · refine ((Pkg.fld_setFld_disjoint (by decide)).trans (Pkg.fld_setFld_disjoint (by decide))).trans ?_
    exact toMould_state (by decide)
  · exact (Pkg.fld_setFld_disjoint (by decide)).trans (Pkg.fld_setFld_same _ _ _ ⟨by decide, by decide⟩)

/-- What is written is read back. -/
theorem Mem.read_write (m : Mem) (a : Nat) (bs : List Byte) : (m.write a bs).read a bs.length = bs := by
  refine List.ext_getElem (by simp [Mem.read]) fun i hi _ => ?_
  simp only [Mem.read, List.length_map, List.length_range] at hi
  simp [Mem.read, Mem.byte_write m a bs i hi]

/-- A FULL image fills the other slot, which becomes active. -/
theorem storeDone_does {i : Image} (hi : s.pkg.mould.force = some i) (hd : i.delta = false) :
    let t := s.storeNow.toMould mouldIdle
    s.onlyPkg t ∧ t.mouldState = mouldIdle ∧ t.pkg.flash.active = 1 - s.pkg.flash.active ∧
      t.pkg.fld R.HUB_MOULD_STAT_DELTAS = 0 ∧
      t.pkg.flash.bytes.read (slotBase (1 - s.pkg.flash.active)) s.pkg.mould.forceBytes.length = s.pkg.mould.forceBytes := by
  have h : s.storeNow = s.modP fun p => (({ p with flash := { p.flash with
      bytes := p.flash.bytes.write (slotBase (1 - s.pkg.flash.active)) s.pkg.mould.forceBytes, active := 1 - s.pkg.flash.active } }).setFld
        R.HUB_MOULD_STAT_DELTAS 0).setFld R.HUB_MOULD_STAT_SLOT (1 - s.pkg.flash.active) := by
    unfold State.storeNow
    rw [hi]
    exact if_neg (by simp [hd])
  rw [h]
  refine ⟨⟨rfl, rfl, rfl⟩, toMould_state (by decide), rfl, ?_, Mem.read_write ..⟩
  refine (toMould_fld (by decide)).trans ((Pkg.fld_setFld_disjoint (by decide)).trans ?_)
  exact Pkg.fld_setFld_self (by decide)

theorem execDrainLimit_kills (h : s.mouldState = mouldDraining) (hk : s.pkg.mould.killed = false)
    (hl : s.pkg.fld R.HUB_MOULD_CFG_DRAIN_LIM ≤ s.pkg.mould.boundaries) : exec .drainLimit s = .next s.drainKill :=
  if_neg (by simp [h, hk, hl])

theorem execDrainLimit_none (h : s.mouldState ≠ mouldDraining ∨ s.pkg.mould.killed = true ∨
    s.pkg.mould.boundaries < s.pkg.fld R.HUB_MOULD_CFG_DRAIN_LIM) : exec .drainLimit s = .next s :=
  if_pos (by simpa [or_assoc] using h)

theorem execMouldCommit_eq : exec .mouldCommit s = .next s.commitDue := rfl

theorem execStoreDone_stores (h : s.mouldState = mouldStoring) : exec .storeDone s = .next (s.storeNow.toMould mouldIdle) :=
  if_neg (by simp [h])

theorem execStoreDone_none (h : s.mouldState ≠ mouldStoring) : exec .storeDone s = .next s := if_pos (by simpa using h)

end Sys2Proof.Machine
end

section
/-! SUPPORT. The commands of the mould loader settle their statement (R24, R26, R28, R460 to R467). -/

namespace Sys2Proof.Machine

open Sys2Proof

set_option Elab.async false

variable {s : State} {w : Writer}

/-- A command that goes on, was taken, and did what it should. -/
theorem taken_outcome {i : Instr} {cmd : Nat} {t : State} {P : State → Prop} (hi : exec i s = .next t) (ht : s.Taken w cmd t)
    (hP : P t) : goesTo (exec i s) fun t => t.chan = s.chan ∧ t.pkg.fld R.HUB_MOULD_CMD_CMD = cmd ∧
      t.pkg.out = (s.heard w).pkg.out ∧ P t := ⟨t, hi, ht.chan, ht.cmd, ht.out, hP⟩

theorem commanded_free {cmd : Nat} (h : s.mouldState = mouldIdle ∨ s.mouldState = mouldStaged) :
    (s.commanded w cmd).mouldState = mouldIdle ∨ (s.commanded w cmd).mouldState = mouldStaged := by
  rw [commanded_state]
  exact h

theorem commanded_busy {cmd : Nat} (h : ¬ (s.mouldState = mouldIdle ∨ s.mouldState = mouldStaged)) :
    ¬ ((s.commanded w cmd).mouldState = mouldIdle ∨ (s.commanded w cmd).mouldState = mouldStaged) := by
  rw [commanded_state]
  exact h

/-- A closed gate discards LOAD, COMMIT and ABANDON. -/
theorem command_fenced (ha : s.arrives w) (hg : s.gateOpen w = false) :
    ∀ i cmd, (i, cmd) ∈ ([(.load w, 1), (.commit w, 2), (.abandon w, 3)] : List (Instr × Nat)) →
      cmd < 8 ∧ exec i s = .next ((s.commanded w cmd).countFenced.mouldErr 0xB) := by
  intro i cmd hi
  simp only [List.mem_cons, Prod.mk.injEq, List.not_mem_nil, or_false] at hi
  rcases hi with ⟨rfl, rfl⟩ | ⟨rfl, rfl⟩ | ⟨rfl, rfl⟩
  · exact ⟨by decide, by rw [execLoad_eq, mouldCmd_fenced ha hg (by decide)]⟩
  · exact ⟨by decide, by rw [execCommit_eq, mouldCmd_fenced ha hg (by decide)]⟩
  · exact ⟨by decide, by rw [execAbandon_eq, mouldCmd_fenced ha hg (by decide)]⟩

/-- COMMIT of a staged image drains its channels. -/
theorem commit_staged (ha : s.arrives w) (hg : s.gateOpen w = true) (h : s.mouldState = mouldStaged)
    (hl : s.pkg.fld R.HUB_MOULD_CFG_DRAIN_LIM ≠ 0) : exec (.commit w) s = .next (s.commanded w 2).drainBegin := by
  have hs : (s.commanded w 2).mouldState = mouldStaged := commanded_state.trans h
  have hlim : (s.commanded w 2).pkg.fld R.HUB_MOULD_CFG_DRAIN_LIM ≠ 0 := (commanded_fld (by decide)).trans_ne hl
  rw [execCommit_eq, mouldCmd_gated ha hg, unlessBusy_free (.inr hs), commitBegin_staged hs hlim]

/-- COMMIT without a staged image, and ABANDON, change nothing but CMD. -/
theorem commands_idle (ha : s.arrives w) (hg : s.gateOpen w = true) (h : s.mouldState = mouldIdle) :
    exec (.commit w) s = .next (s.commanded w 2) ∧ exec (.abandon w) s = .next (s.commanded w 3) := by
  have h2 : (s.commanded w 2).mouldState = mouldIdle := commanded_state.trans h
  have h3 : (s.commanded w 3).mouldState = mouldIdle := commanded_state.trans h
  exact ⟨by rw [execCommit_eq, mouldCmd_gated ha hg, unlessBusy_free (.inl h2), commitBegin_idle h2],
    by rw [execAbandon_eq, mouldCmd_gated ha hg, abandonNow_idle h3]⟩

theorem abandon_drops (ha : s.arrives w) (hg : s.gateOpen w = true)
    (h : s.mouldState = mouldStaged ∨ s.mouldState = mouldDraining ∨ s.mouldState = mouldHeld) :
    exec (.abandon w) s = .next (s.commanded w 3).dropStaged := by
  rw [← commanded_state (w := w) (cmd := 3)] at h
  rw [execAbandon_eq, mouldCmd_gated ha hg, abandonNow_drops h]

theorem load_free (ha : s.arrives w) (hg : s.gateOpen w = true) (h : s.mouldState = mouldIdle ∨ s.mouldState = mouldStaged) :
    exec (.load w) s = .next (s.commanded w 1).loadInto := by
  rw [execLoad_eq, mouldCmd_gated ha hg, unlessBusy_free (commanded_free h)]

theorem store_free (ha : s.arrives w) (h : s.mouldState = mouldIdle ∨ s.mouldState = mouldStaged) :
    exec (.store w) s = .next (s.commanded w 4).storeBegin := by
  rw [execStore_eq, mouldCmd_store ha, unlessBusy_free (commanded_free h)]

/-- A busy loader refuses LOAD and COMMIT that pass the gate, and STORE. -/
theorem commands_busy (ha : s.arrives w) (h : ¬ (s.mouldState = mouldIdle ∨ s.mouldState = mouldStaged)) :
    (s.gateOpen w = true → exec (.load w) s = .next ((s.commanded w 1).mouldErr 0xA) ∧
      exec (.commit w) s = .next ((s.commanded w 2).mouldErr 0xA)) ∧
      exec (.store w) s = .next ((s.commanded w 4).mouldErr 0xA) := by
  refine ⟨fun hg => ⟨?_, ?_⟩, ?_⟩
  · rw [execLoad_eq, mouldCmd_gated ha hg, unlessBusy_busy (commanded_busy h)]
  · rw [execCommit_eq, mouldCmd_gated ha hg, unlessBusy_busy (commanded_busy h)]
  · rw [execStore_eq, mouldCmd_store ha, unlessBusy_busy (commanded_busy h)]

/-- A commit that is due and not held brings the image into force. -/
theorem commit_made {new : Image} (h : s.mouldState = mouldDraining ∨ s.mouldState = mouldHeld)
    (hs : s.pkg.mould.staged = some new) (hd : s.drainFlush.drained = true) (hr : s.drainFlush.atReached = true)
    (hp : s.split = false) : goesTo (exec .mouldCommit s) fun t =>
      t.pkg.mould.force = some (s.withCal new) ∧ t.pkg.mould.staged = none ∧ t.pkg.mould.forceBytes = s.pkg.mould.loadBytes ∧
        t.seqOf 0x8006 = (s.seqOf 0x8006 + 1) % 2 ^ 32 ∧ ∀ c : Fin 8, (t.chan[c]).draining = false := by
  have hk := drainFlush_loader (s := s)
  have hall : (s.drainFlush.withCal new) = s.withCal new := withCal_of_mould hk.mould
  refine ⟨s.drainFlush.commitImage new s.pkg.mould.loadBytes s.pkg.mould.key0 ((affected s.pkg.mould.force new).length == 8), ?_, ?_⟩
  · rw [execMouldCommit_eq, commitDue_eq h hs, if_neg (by simp [hd, hr]), if_neg (by simp [hp])]
  · obtain ⟨hm, he, hdr⟩ := commitImage_does (s := s.drainFlush) (new := new) (bytes := s.pkg.mould.loadBytes)
      (key0 := s.pkg.mould.key0) (all := (affected s.pkg.mould.force new).length == 8)
    rw [hall] at hm
    rw [hk.event] at he
    rw [hm]
    exact ⟨rfl, rfl, rfl, he, hdr⟩

/-- Settles O51: the commands through the gate and the busy loader; the drain and the commit leave the loader to the one write
that brings the image into force. -/
theorem mouldImages : Obligations.MouldImages := by
  intro s w b arrives free err outcome same addr
  refine ⟨fun ha => ⟨?_, ?_, ?_, ?_, ?_, ?_, ?_⟩, execMouldStaged_none, fun hl => ⟨?_, ?_⟩, ?_, execDrainLimit_none,
    ⟨?_, ?_⟩, ?_, execStoreDone_none⟩
  · intro i cmd hi hg
    obtain ⟨hc, he⟩ := command_fenced ha hg i cmd hi
    obtain ⟨ht, herr, hst, hm, hcount⟩ := fenced_does (s := s) (w := w) hc
    exact taken_outcome he ht ⟨herr, ⟨hst, hm⟩, hcount⟩
  · intro hb
    obtain ⟨hgated, hstore⟩ := commands_busy ha hb
    have refused {i cmd} (h : cmd < 8) (he : exec i s = .next ((s.commanded w cmd).mouldErr 0xA)) :
        outcome i cmd fun t => err t = 0xA ∧ same t := by
      obtain ⟨ht, herr, hsame⟩ := refused_does (s := s) (w := w) h (e := 0xA) (by decide)
      exact taken_outcome he ht ⟨herr, hsame⟩
    exact ⟨fun hg => ⟨refused (by decide) (hgated hg).1, refused (by decide) (hgated hg).2⟩, refused (by decide) hstore⟩
  · intro hf hg
    obtain ⟨herr, hst, hs, hforce, hbytes⟩ := loadInto_does (u := s.commanded w 1)
    rw [commanded_mould] at hforce
    rw [commanded_host, commanded_loadAddr, commanded_fld (by decide)] at hbytes
    exact taken_outcome (load_free ha hg hf) (loadInto_taken (commanded_taken (by decide))) ⟨herr, hst, hs, hforce, hbytes⟩
  · intro hst hg hl
    obtain ⟨h1, h2, h3, h4, h5, h6⟩ := drainBegin_does (u := s.commanded w 2)
    rw [commanded_mould] at h4 h5
    refine ⟨_, commit_staged ha hg hst hl, h1, h2, h3, h4, h5, fun c hc => ?_, fun c jc => ?_⟩
    · exact drainBegin_drains (commanded_drains.symm ▸ hc)
    · unfold State.ctx
      rw [h6, commanded_chan]
  · intro hst hg
    obtain ⟨hcommit, habandon⟩ := commands_idle ha hg hst
    exact ⟨taken_outcome hcommit (commanded_taken (by decide)) ⟨commanded_state, commanded_mould⟩,
      taken_outcome habandon (commanded_taken (by decide)) ⟨commanded_state, commanded_mould⟩⟩
  · intro hst hg
    obtain ⟨h1, h2, h3, h4, h5⟩ := dropStaged_does (u := s.commanded w 3)
    rw [commanded_mould] at h4
    rw [commanded_chan] at h5
    exact ⟨_, abandon_drops ha hg hst, h1, h2, h3, h4, h5⟩
  · intro hf i hi
    have hi' : (s.commanded w 4).pkg.mould.force = some i := by rw [commanded_mould, hi]
    have hdelta : (s.commanded w 4).pkg.fld R.HUB_MOULD_STAT_DELTAS = s.pkg.fld R.HUB_MOULD_STAT_DELTAS :=
      commanded_fld (by decide)
    refine ⟨fun hd h15 => ?_, fun h => ?_⟩
    · obtain ⟨ht, herr, hsame⟩ := refused_does (s := s) (w := w) (cmd := 4) (by decide) (e := 0xC) (by decide)
      have hfull := storeBegin_full hi' hd (hdelta.symm ▸ h15)
      exact taken_outcome (by rw [store_free ha hf, hfull]) ht ⟨herr, hsame⟩
    · obtain ⟨herr, hst, hflash⟩ := storeReady_does (u := s.commanded w 4)
      rw [commanded_flash] at hflash
      have hready := storeBegin_ready hi' (hdelta.symm ▸ h)
      exact taken_outcome (by rw [store_free ha hf, hready]) (storeReady_taken (commanded_taken (by decide))) ⟨herr, hst, hflash⟩
  · intro i hv
    have he := execMouldStaged_eq hl
    rw [hv] at he
    exact ⟨_, he, ⟨rfl, rfl, rfl⟩, toMould_state (by decide), rfl, rfl⟩
  · intro e hv
    have he := execMouldStaged_eq hl
    rw [hv] at he
    obtain ⟨hst, herr⟩ := verifyFailed_does (s := s) (f := fun m => { m with loadBytes := [] }) (err := e.err) (sect := e.sect)
    exact ⟨_, he, ⟨rfl, rfl, rfl⟩, hst, herr, rfl⟩
  · intro hst hk hl
    refine ⟨_, execDrainLimit_kills hst hk hl, ?_⟩
    beta_reduce
    rw [drainKill_does]
    exact ⟨rfl, rfl⟩
  · intro h h'
    rw [execMouldCommit_eq, commitDue_none h h']
  · intro h new hs
    refine ⟨fun hw => ?_, fun hd hr hp => ?_, fun hd hr hp => commit_made h hs hd hr hp⟩
    · rw [execMouldCommit_eq, commitDue_eq h hs, if_pos (by rcases hw with hw | hw <;> simp [hw])]
    · rw [execMouldCommit_eq, commitDue_eq h hs, if_neg (by simp [hd, hr]), if_pos hp]
  · intro hst i hi hd
    exact ⟨_, execStoreDone_stores hst, storeDone_does hi hd⟩

end Sys2Proof.Machine
end

section
/-! SUPPORT. Semaphores stay within their bounds. -/

namespace Sys2Proof.Machine

/-- Settles O58: no command takes a semaphore out of its bounds. -/
theorem stepKeepsSemaphoresBounded : Obligations.StepKeepsSemaphoresBounded :=
  fun _ _ hb h => (step_evolves h).bounded hb

end Sys2Proof.Machine
end

section
/-! SUPPORT. Scalar instructions that compute: the ALU, immediates, branches, descriptors and CSRs (R42, R45, R48, R522). -/

namespace Sys2Proof.Machine
open Sys2Proof

theorem shAmt_eq (b : DWord) : (b % 64#64).toNat = shAmt b := by simp [shAmt]

theorem sub_eq_ofInt (a b : DWord) : a - b = BitVec.ofInt 64 (a.toInt - b.toInt) := by
  rw [Int.sub_eq_add_neg, BitVec.ofInt_add, BitVec.ofInt_neg, BitVec.ofInt_toInt, BitVec.ofInt_toInt, BitVec.sub_eq_add_neg]

theorem add_eq_ofNat (a b : DWord) : a + b = BitVec.ofNat 64 (a.toNat + b.toNat) := by
  rw [BitVec.ofNat_add, BitVec.ofNat_toNat, BitVec.ofNat_toNat]; simp

theorem mul_eq_ofNat (a b : DWord) : a * b = BitVec.ofNat 64 (a.toNat * b.toNat) := by
  rw [BitVec.ofNat_mul]; simp

theorem shiftLeft_eq_ofNat (a : DWord) (n : Nat) : a <<< n = BitVec.ofNat 64 (a.toNat * 2 ^ n) := by
  apply BitVec.eq_of_toNat_eq; simp [Nat.shiftLeft_eq]

theorem shiftRight_eq_ofNat (a : DWord) (n : Nat) : a >>> n = BitVec.ofNat 64 (a.toNat / 2 ^ n) := by
  apply BitVec.eq_of_toNat_eq
  have : a.toNat / 2 ^ n < 2 ^ 64 := Nat.lt_of_le_of_lt (Nat.div_le_self _ _) a.isLt
  rw [BitVec.toNat_ushiftRight, Nat.shiftRight_eq_div_pow, BitVec.toNat_ofNat, Nat.mod_eq_of_lt this]

theorem sshiftRight_eq_ofInt (a : DWord) (n : Nat) : a.sshiftRight n = BitVec.ofInt 64 (a.toInt / (2 : Int) ^ n) := by
  rw [BitVec.sshiftRight, Int.shiftRight_eq_div_pow]; norm_cast

theorem ofBool_slt (a b : DWord) : ofBool (a.slt b) = if a.toInt < b.toInt then 1 else 0 := by
  simp [ofBool, BitVec.slt]
theorem ofBool_ult (a b : DWord) : ofBool (a.ult b) = if a.toNat < b.toNat then 1 else 0 := by
  simp [ofBool, BitVec.ult]

theorem toInt_min (a b : DWord) : (if a.slt b then a else b).toInt = min a.toInt b.toInt := by
  by_cases h : a.toInt < b.toInt <;> simp [BitVec.slt, h] <;> omega
theorem toInt_max (a b : DWord) : (if a.slt b then b else a).toInt = max a.toInt b.toInt := by
  by_cases h : a.toInt < b.toInt <;> simp [BitVec.slt, h] <;> omega

theorem mulHU_split (a b : DWord) :
    ∃ low : Nat, low < 2 ^ 64 ∧ a.toNat * b.toNat = (mulHU a b).toNat * 2 ^ 64 + low := by
  have h : a.toNat * b.toNat < 2 ^ 64 * 2 ^ 64 := Nat.mul_lt_mul'' a.isLt b.isLt
  have hh : (mulHU a b).toNat = a.toNat * b.toNat / 2 ^ 64 := by
    rw [mulHU, BitVec.toNat_ofNat, Nat.mod_eq_of_lt (Nat.div_lt_of_lt_mul h)]
  exact ⟨a.toNat * b.toNat % 2 ^ 64, Nat.mod_lt _ (by decide), by rw [hh, Nat.div_add_mod']⟩

theorem mulHS_split (a b : DWord) :
    ∃ low : Int, 0 ≤ low ∧ low < 2 ^ 64 ∧ a.toInt * b.toInt = (mulHS a b).toInt * 2 ^ 64 + low := by
  have la := a.le_toInt
  have lb := b.le_toInt
  have ua := a.toInt_lt
  have ub := b.toInt_lt
  norm_num at la lb ua ub
  have hl : -(2 ^ 126) ≤ a.toInt * b.toInt := by nlinarith
  have hu : a.toInt * b.toInt ≤ 2 ^ 126 := by nlinarith
  have hh : (mulHS a b).toInt = a.toInt * b.toInt / 2 ^ 64 := by
    rw [mulHS, BitVec.toInt_ofInt]
    exact Int.bmod_eq_of_le (by omega) (by omega)
  exact ⟨a.toInt * b.toInt % 2 ^ 64, Int.emod_nonneg _ (by decide), Int.emod_lt_of_pos _ (by decide), by
    rw [hh, Int.ediv_mul_add_emod]⟩

theorem divS_eq (a b : DWord) : divS a b = if b = 0 then BitVec.allOnes 64 else BitVec.ofInt 64 (Int.tdiv a.toInt b.toInt) := by
  unfold divS; split
  · rfl
  · apply BitVec.eq_of_toInt_eq
    rw [BitVec.toInt_sdiv, BitVec.toInt_ofInt]
theorem divU_eq (a b : DWord) : divU a b = if b = 0 then BitVec.allOnes 64 else BitVec.ofNat 64 (a.toNat / b.toNat) := by
  unfold divU; split
  · rfl
  · exact BitVec.udiv_def
theorem remU_eq (a b : DWord) : remU a b = if b = 0 then a else BitVec.ofNat 64 (a.toNat - b.toNat * (a.toNat / b.toNat)) := by
  unfold remU; split
  · rfl
  · apply BitVec.eq_of_toNat_eq
    have : a.toNat % b.toNat < 2 ^ 64 := Nat.lt_of_le_of_lt (Nat.mod_le _ _) a.isLt
    rw [← Nat.mod_eq_sub_mul_div, BitVec.toNat_umod, BitVec.toNat_ofNat, Nat.mod_eq_of_lt this]
theorem remS_eq (a b : DWord) : remS a b = if b = 0 then a else BitVec.ofInt 64 (a.toInt - b.toInt * Int.tdiv a.toInt b.toInt) := by
  unfold remS; split
  · rfl
  · rw [← Int.tmod_def, ← BitVec.toInt_srem, BitVec.ofInt_toInt]

/-! ## Outcomes -/

theorem goesTo.imp {o : Out} {P Q : State → Prop} (h : goesTo o P) (hi : ∀ t, P t → Q t) : goesTo o Q := by
  obtain ⟨t, ht, hp⟩ := h
  exact ⟨t, ht, hi t hp⟩

variable {s : State} {ch : ChIdx} {jc : JcIdx}

theorem scalar_goesTo {P : State → Prop} (h : s.fetches ch jc 4) {effect : State → State} (hp : P (effect (s.begun ch jc))) :
    goesTo (.next (s.scalar ch jc effect)) P := ⟨_, rfl, by rwa [State.scalar_eq h]⟩

theorem setRd_goesTo (h : s.fetches ch jc 4) {rd : Fin 32} {effect : State → State} {v : DWord}
    (he : effect (s.begun ch jc) = (s.begun ch jc).setRd ch jc rd v) :
    goesTo (.next (s.scalar ch jc effect)) fun t => s.sets t ch jc rd v :=
  scalar_goesTo h (by rw [he]; exact State.setRd_sets s ch jc rd v)

theorem alu_goesTo (h : s.fetches ch jc 4) {rd ra rb : Fin 32} {f : DWord → DWord → DWord} {v : DWord}
    (hv : f (s.g ch jc ra) (s.g ch jc rb) = v) : goesTo (s.alu ch jc rd ra rb f) fun t => s.sets t ch jc rd v :=
  hv ▸ State.alu_sets h rd ra rb f

theorem aluImm_goesTo (h : s.fetches ch jc 4) {rd ra : Fin 32} {f : DWord → DWord} {v : DWord}
    (hv : f (s.g ch jc ra) = v) : goesTo (s.aluImm ch jc rd ra f) fun t => s.sets t ch jc rd v :=
  hv ▸ State.aluImm_sets h rd ra f

theorem shi_fields (n : Fin 64) {k : Nat} (hk : k < 4) :
    bits (BitVec.ofNat 16 (64 * k + n.val)).toNat 15 8 = 0 ∧ bits (BitVec.ofNat 16 (64 * k + n.val)).toNat 7 6 = k ∧
      bits (BitVec.ofNat 16 (64 * k + n.val)).toNat 5 0 = n.val := by
  obtain ⟨n, hn⟩ := n
  simp only [bits, BitVec.toNat_ofNat]
  omega

theorem shi_goesTo (h : s.fetches ch jc 4) {rd ra : Fin 32} {imm : BitVec 16} {v : DWord}
    (hv : shiValue imm (s.g ch jc ra) = some v) : goesTo (execShi ch jc rd ra imm s) fun t => s.sets t ch jc rd v :=
  setRd_goesTo h (by
    have e : shiValue imm ((s.ctx ch jc).rg ra) = some v := hv
    simp only [State.begun_ctx, e])

theorem shiValue_sll (n : Fin 64) (a : DWord) : shiValue (BitVec.ofNat 16 n.val) a = some (a <<< n.val) := by
  obtain ⟨h1, h2, h3⟩ := shi_fields n (k := 0) (by decide)
  rw [Nat.mul_zero, Nat.zero_add] at h1 h2 h3
  simp only [shiValue, h1, h2, h3]; rfl

theorem shiValue_srl (n : Fin 64) (a : DWord) : shiValue (BitVec.ofNat 16 (64 + n.val)) a = some (a >>> n.val) := by
  obtain ⟨h1, h2, h3⟩ := shi_fields n (k := 1) (by decide)
  rw [Nat.mul_one] at h1 h2 h3
  simp only [shiValue, h1, h2, h3]; rfl

theorem shiValue_sra (n : Fin 64) (a : DWord) : shiValue (BitVec.ofNat 16 (128 + n.val)) a = some (a.sshiftRight n.val) := by
  obtain ⟨h1, h2, h3⟩ := shi_fields n (k := 2) (by decide)
  simp only [shiValue, h1, h2, h3]; rfl

theorem alu_goesTo_of (h : s.fetches ch jc 4) {rd ra rb : Fin 32} (f : DWord → DWord → DWord) {Q : DWord → Prop}
    (hv : Q (f (s.g ch jc ra) (s.g ch jc rb))) : goesTo (s.alu ch jc rd ra rb f) fun t => ∃ v, s.sets t ch jc rd v ∧ Q v :=
  (State.alu_sets h rd ra rb f).imp fun _ ht => ⟨_, ht, hv⟩

/-- Settles O3: each function of the model is the integer one of the statement, and writing its register is `State.sets`. -/
theorem aluResults : Obligations.AluResults := by
  intro s ch jc rd ra rb h
  refine ⟨alu_goesTo h (f := (· + ·)) (add_eq_ofNat ..), alu_goesTo h (f := (· - ·)) (sub_eq_ofInt ..),
    alu_goesTo h (f := (· &&& ·)) rfl, alu_goesTo h (f := (· ||| ·)) rfl, alu_goesTo h (f := (· ^^^ ·)) rfl,
    alu_goesTo h (f := fun a b => a <<< shAmt b) ?_, alu_goesTo h (f := fun a b => a >>> shAmt b) ?_,
    alu_goesTo h (f := fun a b => a.sshiftRight (shAmt b)) ?_,
    alu_goesTo h (f := fun a b => ofBool (a.slt b)) (ofBool_slt ..), alu_goesTo h (f := fun a b => ofBool (a.ult b)) (ofBool_ult ..),
    alu_goesTo_of h (fun a b => if a.slt b then a else b) (toInt_min ..),
    alu_goesTo_of h (fun a b => if a.slt b then b else a) (toInt_max ..), alu_goesTo h (f := (· * ·)) (mul_eq_ofNat ..),
    alu_goesTo_of h mulHS (mulHS_split ..), alu_goesTo_of h mulHU (mulHU_split ..), alu_goesTo h (f := divS) (divS_eq ..),
    alu_goesTo h (f := divU) (divU_eq ..), alu_goesTo h (f := remS) (remS_eq ..), alu_goesTo h (f := remU) (remU_eq ..),
    fun n => ⟨shi_goesTo h ?_, shi_goesTo h ?_, shi_goesTo h ?_⟩⟩
  · rw [shAmt_eq]; exact shiftLeft_eq_ofNat ..
  · rw [shAmt_eq]; exact shiftRight_eq_ofNat ..
  · rw [shAmt_eq]; exact sshiftRight_eq_ofInt ..
  · rw [shiValue_sll, shiftLeft_eq_ofNat]
  · rw [shiValue_srl, shiftRight_eq_ofNat]
  · rw [shiValue_sra, sshiftRight_eq_ofInt]

/-! ## Immediates -/

theorem sext64_eq_ofInt {n : Nat} (v : BitVec n) : sext64 v = BitVec.ofInt 64 v.toInt := rfl

theorem zext64_eq_ofNat (v : BitVec 16) : v.zeroExtend 64 = BitVec.ofNat 64 v.toNat := BitVec.eq_of_toNat_eq (by simp)

theorem add_sext64 {n : Nat} (a : DWord) (v : BitVec n) : a + sext64 v = BitVec.ofInt 64 (a.toInt + v.toInt) := by
  rw [sext64_eq_ofInt, BitVec.ofInt_add, BitVec.ofInt_toInt]

theorem sext64_toInt (v : BitVec 16) : (sext64 v).toInt = v.toInt := BitVec.toInt_signExtend_of_le (by decide)

theorem zext64_shiftLeft (v : BitVec 16) (n : Nat) : v.zeroExtend 64 <<< n = BitVec.ofNat 64 (v.toNat * 2 ^ n) := by
  rw [shiftLeft_eq_ofNat, zext64_eq_ofNat, BitVec.toNat_ofNat, Nat.mod_eq_of_lt (by omega)]

theorem getLsbD_halfword (j : Nat) : (0xFFFF#64).getLsbD j = decide (j < 16) := by
  rw [show (0xFFFF#64) = BitVec.ofNat 64 (2 ^ 16 - 1) from rfl, BitVec.getLsbD_ofNat, Nat.testBit_two_pow_sub_one,
    ← Bool.decide_and]
  exact decide_eq_decide.2 (by omega)

theorem getLsbD_putHalf (v : DWord) (hw : Fin 4) (imm : BitVec 16) (i : Nat) (hi : i < 64) : (putHalf v hw imm).getLsbD i =
    if 16 * hw.val ≤ i ∧ i < 16 * hw.val + 16 then imm.getLsbD (i - 16 * hw.val) else v.getLsbD i := by
  unfold putHalf
  simp only [BitVec.getLsbD_or, BitVec.getLsbD_and, BitVec.getLsbD_not, BitVec.getLsbD_shiftLeft, getLsbD_halfword, hi,
    BitVec.getLsbD_setWidth, BitVec.zeroExtend]
  by_cases h1 : i < 16 * hw.val
  · simp [h1]
  · by_cases h2 : i < 16 * hw.val + 16
    · simp [h1, h2, show i - 16 * hw.val < 16 by omega, show i - 16 * hw.val < 64 by omega]
    · simp [h1, h2, show ¬ i - 16 * hw.val < 16 by omega, show i - 16 * hw.val < 64 by omega,
        BitVec.getLsbD_of_ge imm _ (show 16 ≤ i - 16 * hw.val by omega)]

theorem movz_goesTo (h : s.fetches ch jc 4) {rd : Fin 32} {hw : Fin 4} {imm : BitVec 16} :
    goesTo (execMovz ch jc rd hw 0 imm s) fun t => s.sets t ch jc rd (imm.zeroExtend 64 <<< (16 * hw.val)) :=
  setRd_goesTo h (if_neg (not_not.2 rfl))

theorem movk_goesTo (h : s.fetches ch jc 4) {rd : Fin 32} {hw : Fin 4} {imm : BitVec 16} :
    goesTo (execMovk ch jc rd hw 0 imm s) fun t => s.sets t ch jc rd (putHalf (s.g ch jc rd) hw imm) :=
  setRd_goesTo h (by rw [if_neg (not_not.2 rfl), State.begun_ctx]; rfl)

/-- Settles O4: sign and zero extension as integers, and MOVK bit by bit. -/
theorem immediates : Obligations.Immediates := by
  intro s ch jc rd ra imm hw h
  refine ⟨aluImm_goesTo h (f := fun a => a + sext64 imm) (add_sext64 ..),
    aluImm_goesTo h (f := fun a => a &&& imm.zeroExtend 64) (by rw [zext64_eq_ofNat]),
    aluImm_goesTo h (f := fun a => a ||| imm.zeroExtend 64) (by rw [zext64_eq_ofNat]),
    aluImm_goesTo h (f := fun a => a ^^^ imm.zeroExtend 64) (by rw [zext64_eq_ofNat]),
    aluImm_goesTo h (f := fun a => ofBool (a.slt (sext64 imm))) (by rw [ofBool_slt, sext64_toInt]), ?_, ?_⟩
  · exact zext64_shiftLeft imm _ ▸ movz_goesTo h
  · exact (movk_goesTo h).imp fun t ht => ⟨_, ht, getLsbD_putHalf _ hw imm⟩

/-! ## Branches and jumps -/

theorem mul_four_sext64 {n : Nat} (v : BitVec n) : sext64 v * 4 = BitVec.ofInt 64 (4 * v.toInt) := by
  rw [BitVec.ofInt_mul, sext64_eq_ofInt, BitVec.mul_comm]; rfl

theorem toNat_clear_low2 (a : DWord) : (a &&& ~~~ 3#64).toNat = 4 * (a.toNat / 4) := by
  have e : a &&& ~~~ 3#64 = (a >>> 2) <<< 2 := by
    refine BitVec.eq_of_getLsbD_eq fun i hi => ?_
    have three : (3#64).getLsbD i = decide (i < 2) := by
      rw [show (3#64) = BitVec.ofNat 64 (2 ^ 2 - 1) from rfl, BitVec.getLsbD_ofNat, Nat.testBit_two_pow_sub_one]
      simp [hi]
    rw [BitVec.getLsbD_and, BitVec.getLsbD_not, three, BitVec.getLsbD_shiftLeft, BitVec.getLsbD_ushiftRight]
    by_cases h : i < 2
    · simp [h]
    · simp [h, hi, show 2 + (i - 2) = i by omega]
  rw [e, BitVec.toNat_shiftLeft, BitVec.toNat_ushiftRight, Nat.shiftRight_eq_div_pow, Nat.shiftLeft_eq]
  omega

/-- What a change of the context that issues leads to. -/
theorem modX_goesTo (h : s.fetches ch jc 4) {effect : State → State} (f : Ctx → Ctx)
    (he : effect (s.begun ch jc) = (s.begun ch jc).modX ch jc f) {P : State → Prop}
    (hp : ∀ t, s.ranOnly t ch jc → t.ctx ch jc = f (s.ctx ch jc) → P t) : goesTo (.next (s.scalar ch jc effect)) P :=
  scalar_goesTo h (by rw [he]; exact hp _ (State.ranOnly_modX s ch jc f) (State.begun_modX_ctx s ch jc f))

theorem branch_goesTo (h : s.fetches ch jc 4) {ra rb : Fin 32} {off : BitVec 16} (cmp : DWord → DWord → Bool) {c : Bool}
    (hc : cmp (s.g ch jc ra) (s.g ch jc rb) = c) : goesTo (s.branch ch jc ra rb off cmp) fun t => s.ranOnly t ch jc ∧
      t.ctx ch jc = { s.ctx ch jc with pc := if c then s.pcOf ch jc + BitVec.ofInt 64 (4 * off.toInt) else s.pcOf ch jc + 4 } := by
  have e : cmp ((s.ctx ch jc).rg ra) ((s.ctx ch jc).rg rb) = c := hc
  cases c with
  | false => exact modX_goesTo h Ctx.next (by simp only [State.begun_ctx, e]; rfl) fun t h1 h2 => ⟨h1, h2⟩
  | true =>
    refine modX_goesTo h (fun c => { c with pc := c.pc + sext64 off * 4 }) (by simp only [State.begun_ctx, e]; rfl) fun t h1 h2 => ⟨h1, ?_⟩
    rw [h2, mul_four_sext64]; rfl

/-- A jump that links: a register takes the address behind it, and the thread goes on elsewhere. -/
theorem jump_goesTo (h : s.fetches ch jc 4) {effect : State → State} (rd : Fin 32) (dst : Ctx → DWord)
    (he : effect (s.begun ch jc) = (s.begun ch jc).modX ch jc fun c => { (c.wg rd (c.pc + 4)) with pc := dst c }) :
    goesTo (.next (s.scalar ch jc effect)) fun t => s.ranOnly t ch jc ∧
      t.ctx ch jc = { s.ctx ch jc with g := (t.ctx ch jc).g, pc := dst (s.ctx ch jc) } ∧
      (t.ctx ch jc).rg rd = (if rd = 0 then 0 else s.pcOf ch jc + 4) ∧ ∀ q, q ≠ rd → (t.ctx ch jc).rg q = s.g ch jc q := by
  refine modX_goesTo h _ he fun t h1 h2 => ⟨h1, ?_, ?_, fun q hq => ?_⟩
  · rw [h2, Ctx.wg_eq]
  · rw [h2]
    by_cases hr : rd = 0
    · subst hr; rfl
    · rw [if_neg hr]; exact Ctx.rg_wg_same (s.ctx ch jc) rd _ hr
  · rw [h2]; exact Ctx.rg_wg_other (s.ctx ch jc) _ hq

/-- Settles O5: a branch by its comparison, a jump by its target and the register that takes the link. -/
theorem branchesAndJumps : Obligations.BranchesAndJumps := by
  intro s ch jc rd ra rb off far h
  refine ⟨branch_goesTo h (· == ·) ?_, branch_goesTo h (· != ·) ?_, branch_goesTo h BitVec.slt ?_,
    branch_goesTo h (fun a b => !a.slt b) ?_, branch_goesTo h BitVec.ult ?_, branch_goesTo h (fun a b => !a.ult b) ?_, ?_, ?_⟩
  · rfl
  · simp [bne, beq_eq_decide]
  · rfl
  · simp [BitVec.slt, ← decide_not]
  · rfl
  · simp [BitVec.ult, ← decide_not]
  · rw [← mul_four_sext64]
    exact jump_goesTo h 31 (fun c => c.pc + sext64 far * 4) rfl
  · refine (jump_goesTo h rd (fun c => (c.rg ra + sext64 off) &&& ~~~ 3#64) rfl).imp fun t ht => ⟨_, ht, ?_, ?_⟩
    · rw [toNat_clear_low2]; omega
    · rw [toNat_clear_low2, Nat.mul_div_cancel_left _ (by decide)]; rfl

/-! ## Descriptors and CSRs -/

theorem tdWord_putTdWord (d : Desc) (w v : Fin 4) (x : DWord) : tdWord (putTdWord d w x) v = if v = w then x else tdWord d v := by
  have hb : putBits d.toNat (64 * w.val + 63) (64 * w.val) x.toNat < 2 ^ 256 :=
    putBits_lt _ _ _ _ 256 (by omega) (by omega) d.isLt
  unfold tdWord putTdWord
  rw [BitVec.toNat_ofNat, Nat.mod_eq_of_lt hb]
  split
  · next e =>
    subst e
    rw [bits_putBits_same _ _ _ _ (by omega), show 64 * v.val + 63 + 1 - 64 * v.val = 64 by omega, Nat.mod_eq_of_lt x.isLt,
      BitVec.ofNat_toNat, BitVec.setWidth_eq]
  · next e =>
    have hn : v.val ≠ w.val := fun h => e (Fin.ext h)
    rcases Nat.lt_or_gt_of_ne hn with h | h
    · rw [bits_putBits_below _ _ _ _ _ _ (by omega) (by omega) (by omega)]
    · rw [bits_putBits_above _ _ _ _ _ _ (by omega) (by omega)]

@[simp] theorem State.begun_free (s : State) (ch : ChIdx) (jc : JcIdx) : (s.begun ch jc).free = s.free := by
  obtain ⟨tlb, h⟩ := s.begun_cases ch jc
  rw [h, State.modC_free]

@[simp] theorem State.begun_pkg (s : State) (ch : ChIdx) (jc : JcIdx) : (s.begun ch jc).pkg = s.pkg := by
  obtain ⟨tlb, h⟩ := s.begun_cases ch jc
  rw [h, State.modC_pkg]

/-- CSRR draws a free value and writes its register. -/
theorem csrr_goesTo (h : s.fetches ch jc 4) {rd : Fin 32} {num : BitVec 16} : goesTo (execCsrr ch jc rd 0 num s) fun t =>
    t.free = s.free + 1 ∧ s.sets { t with free := s.free } ch jc rd ((s.begun ch jc).draw.2.csr ch jc num.toNat (s.begun ch jc).draw.1) := by
  refine scalar_goesTo h ?_
  rw [if_neg (not_not.2 rfl)]
  refine ⟨congrArg (· + 1) (s.begun_free ch jc), ?_⟩
  rw [← s.begun_free ch jc]
  exact State.setRd_sets s ch jc rd _

/-- The CSRs of a context read the same once its instruction has been fetched. -/
theorem csr_begun {num d : Nat} : (s.begun ch jc).draw.2.csr ch jc num d = s.csr ch jc num d := by
  obtain ⟨tlb, h⟩ := s.begun_cases ch jc
  have hc : (s.begun ch jc).draw.2.ctx ch jc = s.ctx ch jc := s.begun_ctx ch ch jc jc
  have hp : (s.begun ch jc).draw.2.pkg = s.pkg := s.begun_pkg ch jc
  unfold State.csr
  simp only [hc, hp, State.place, State.node]

theorem csr_other {num d : Nat} (hn : 8 < num) : s.csr ch jc num d = 0 := by
  obtain ⟨k, rfl⟩ : ∃ k, num = k + 9 := ⟨num - 9, by omega⟩
  rfl

/-- Settles O6: words of a descriptor are fields that do not overlap, and a CSR is read from what the fetch leaves as it was. -/
theorem descriptorsAndCsrs : Obligations.DescriptorsAndCsrs := by
  intro s ch jc rd ra td w num h
  refine ⟨?_, ?_, ?_⟩
  · refine modX_goesTo h (fun c => { c with td := c.td.set td (putTdWord c.td[td] w (c.rg ra)), pc := c.pc + 4 }) rfl
      fun t h1 h2 => ⟨h1, by rw [h2]; rfl, fun k hk => ?_, fun v => ?_⟩
    · have hn : td.val ≠ k.val := fun e => hk (Fin.ext e.symm)
      rw [h2]
      exact Vector.getElem_set_ne td.isLt k.isLt hn
    · rw [h2]
      simp [tdWord_putTdWord, State.g]
  · exact setRd_goesTo h (by simp)
  · refine csrr_goesTo h |>.imp fun t ht => ⟨ht.1, _, ht.2, ?_⟩
    rw [csr_begun]
    exact ⟨(by rw [·]; rfl), (by rw [·]; rfl), (by rw [·]; rfl), (by rw [·]; rfl), (by rw [·]; rfl), (by rw [·]; rfl),
      (by rw [·]; rfl), (by rw [·]; rfl), csr_other⟩

end Sys2Proof.Machine
end

section
/-! SUPPORT. Scalar loads, stores and the local store (R47, R524). -/

namespace Sys2Proof.Machine
open Sys2Proof
variable {s t u : State} {ch : ChIdx} {jc : JcIdx}

/-- Only one channel changes when one context does. -/
theorem State.onlyChan_modX (s : State) (ch : ChIdx) (jc : JcIdx) (f : Ctx → Ctx) : s.onlyChan (s.modX ch jc f) ch :=
  ⟨rfl, rfl, rfl, fun _ hc => State.modX_otherC s jc f hc⟩

/-! ## Loads -/

theorem drainStores_empty (h : (s.ctx ch jc).stores = []) :
    s.drainStores ch jc = .ok (s.modX ch jc fun c => { c with stores := [] }) := by
  rw [State.drainStores, h]; rfl

theorem startLoad_aligned {kind : LoadKind} {dst align : Nat} {va : DWord} (ha : va.toNat % align = 0)
    (hd : s.drainStores ch jc = .ok u) :
    s.startLoad ch jc kind dst align va = u.modX ch jc fun c => { c with load := some ⟨kind, dst, va, false⟩ } := by
  rw [State.startLoad, if_neg (by simp [ha]), hd]

theorem modX_modX (s : State) (ch : ChIdx) (jc : JcIdx) (f g : Ctx → Ctx) :
    (s.modX ch jc f).modX ch jc g = s.modX ch jc fun c => g (f c) := by
  unfold State.modX
  rw [State.modC_modC]
  simp

theorem load_goesTo (h : s.fetches ch jc 4) {kind : LoadKind} {dst align : Nat} {addr : State → DWord} {va : DWord}
    (hv : addr (s.begun ch jc) = va) (ha : va.toNat % align = 0) :
    let o : Out := .next (s.scalar ch jc fun s => s.startLoad ch jc kind dst align (addr s))
    let l : PendLoad := ⟨kind, dst, va, false⟩
    ((s.ctx ch jc).stores = [] → goesTo o (fun t => s.ranOnly t ch jc ∧ t.ctx ch jc = { s.ctx ch jc with load := some l })) ∧
      ∀ u, (s.begun ch jc).drainStores ch jc = .ok u →
        goesTo o (fun t => t.ctx ch jc = { u.ctx ch jc with load := some l } ∧ u.onlyChan t ch ∧
          t.chan[ch] = { u.chan[ch] with ctx := (t.chan[ch]).ctx } ∧ ∀ j, j ≠ jc → t.ctx ch j = u.ctx ch j) := by
  intro o l
  refine ⟨fun he => ?_, fun u hu => scalar_goesTo h ?_⟩
  · refine modX_goesTo h (fun c => { c with stores := [], load := some l }) ?_ fun t h1 h2 => ⟨h1, by rw [h2]; simp only [he]⟩
    rw [hv, startLoad_aligned ha (drainStores_empty (by rw [State.begun_ctx, he])), modX_modX]
  · rw [hv, startLoad_aligned ha hu]
    exact ⟨State.modX_ctx .., State.onlyChan_modX .., by rw [State.modX_same], fun j hj => State.modX_ctxOther u ch _ hj⟩

theorem begun_ea {ra : Fin 32} {imm : BitVec 16} :
    (s.begun ch jc).ea ch jc ra imm = s.g ch jc ra + BitVec.ofInt 64 imm.toInt := by
  rw [State.ea, State.begun_ctx]; rfl

theorem begun_tdEa {ra : Fin 32} {imm : BitVec 15} :
    (s.begun ch jc).tdEa ch jc ra imm = s.g ch jc ra + BitVec.ofInt 64 (32 * imm.toInt) := by
  rw [State.tdEa, State.begun_ctx, BitVec.ofInt_mul, BitVec.mul_comm]; rfl

/-- Settles O7: an aligned load leaves its context waiting on the state after its stores. -/
theorem loadsWait : Obligations.LoadsWait := by
  intro s ch jc rd ra td imm far h va ta waits
  exact ⟨load_goesTo h begun_ea, load_goesTo h begun_ea, load_goesTo h begun_ea, load_goesTo h begun_tdEa (Nat.mod_one _)⟩

/-! ## Stores -/

/-- The state after the fetch of an instruction and translations entering the cache. -/
def State.Fetched (s u : State) (ch : ChIdx) (jc : JcIdx) : Prop :=
  ∃ tlb, u = s.modC ch fun c =>
    { c with sched := { c.sched with nextIssue := (jc.val + 1) % 16 }, mem := { c.mem with tlb := tlb } }

theorem fetched_begun (s : State) (ch : ChIdx) (jc : JcIdx) : s.Fetched (s.begun ch jc) ch jc := s.begun_cases ch jc

theorem State.Fetched.tlbFill {va : Nat} (h : s.Fetched u ch jc) : s.Fetched (u.tlbFill ch va) ch jc := by
  obtain ⟨tlb, rfl⟩ := h
  obtain ⟨tlb', h'⟩ := State.tlbFill_cases (s.modC ch fun c =>
    { c with sched := { c.sched with nextIssue := (jc.val + 1) % 16 }, mem := { c.mem with tlb := tlb } }) ch va
  exact ⟨tlb', by rw [h', State.modC_modC]⟩

theorem State.Fetched.ctx (h : s.Fetched u ch jc) (c : ChIdx) (j : JcIdx) : u.ctx c j = s.ctx c j := by
  obtain ⟨tlb, rfl⟩ := h
  exact State.modC_ctx s ch c j _ rfl

theorem State.Fetched.ranOnly_modX (h : s.Fetched u ch jc) (f : Ctx → Ctx) : s.ranOnly (u.modX ch jc f) ch jc := by
  obtain ⟨tlb, hu⟩ := h
  have hx := State.Fetched.ctx ⟨tlb, hu⟩
  refine ⟨⟨by rw [hu]; rfl, by rw [hu]; rfl, by rw [hu]; rfl, fun c hc => ?_⟩, fun j hj => ?_, tlb, ?_⟩
  · rw [State.modX_otherC _ _ _ hc, hu, State.modC_other s _ hc]
  · rw [State.modX_ctxOther _ _ _ hj, hx]
  · rw [State.modX_same, hu, State.modC_same]

theorem store_goesTo (h : s.fetches ch jc 4) {n align : Nat} {addr : State → DWord} {val : State → Desc} {va : DWord} {v : Desc}
    (hv : addr (s.begun ch jc) = va) (hw : val (s.begun ch jc) = v) (ha : va.toNat % align = 0)
    (hm : ((s.begun ch jc).vaPlaces ch va.toNat n).isOk = true) :
    goesTo (.next (s.scalar ch jc fun s => s.startStore ch jc n align (addr s) (val s))) fun t => s.ranOnly t ch jc ∧
      t.ctx ch jc = { s.ctx ch jc with pc := s.pcOf ch jc + 4, stores := (s.ctx ch jc).stores ++ [⟨va, n, v⟩] } := by
  refine scalar_goesTo h ?_
  rw [hv, hw, State.startStore, if_neg (by simp [ha])]
  have hf := (fetched_begun s ch jc).tlbFill (va := va.toNat)
  split
  · next e he => rw [he] at hm; cases hm
  · exact ⟨hf.ranOnly_modX _, by rw [State.modX_ctx, hf.ctx]; rfl⟩

/-! ## The local store -/

theorem leBytes_length (n v : Nat) : (leBytes n v).length = n := by
  induction n generalizing v with
  | zero => rfl
  | succ n ih => simp [leBytes, ih]

theorem leBytes_getElem (n v i : Nat) (h : i < (leBytes n v).length) : (leBytes n v)[i] = BitVec.ofNat 8 (v / 256 ^ i) := by
  induction n generalizing v i with
  | zero => simp [leBytes] at h
  | succ n ih =>
    cases i with
    | zero => simp [leBytes]
    | succ i => 
      simp only [leBytes, List.getElem_cons_succ]
      rw [ih, Nat.div_div_eq_div_mul, Nat.pow_succ, Nat.mul_comm]

theorem lsAccess_inside {off : DWord} {effect : State → State} (ha : off.toNat % 8 = 0) (hr : off.toNat + 8 ≤ 0x0C000000) :
    s.lsAccess ch jc off effect = effect s := by
  rw [State.lsAccess, if_neg (by simp [ha]), if_neg (by unfold lsBytes; omega)]

@[simp] theorem State.begun_ls (s : State) (ch : ChIdx) (jc : JcIdx) : ((s.begun ch jc).chan[ch]).mem.ls = (s.chan[ch]).mem.ls := by
  obtain ⟨tlb, h⟩ := s.begun_cases ch jc
  rw [h, State.modC_same]

theorem ldl_goesTo (h : s.fetches ch jc 4) {rd ra : Fin 32} {imm : BitVec 16} {va : DWord}
    (hv : (s.begun ch jc).ea ch jc ra imm = va) (ha : va.toNat % 8 = 0) (hr : va.toNat + 8 ≤ 0x0C000000) :
    goesTo (execLdl ch jc rd ra imm s) fun t => s.sets t ch jc rd
      (BitVec.ofNat 64 (leNat ((List.range 8).map fun i => (s.chan[ch]).mem.ls.byte (va.toNat + i)))) :=
  setRd_goesTo h (by rw [hv, lsAccess_inside ha hr, hv, State.begun_ls]; rfl)

theorem stl_goesTo (h : s.fetches ch jc 4) {rd ra : Fin 32} {imm : BitVec 16} {va : DWord}
    (hv : (s.begun ch jc).ea ch jc ra imm = va) (ha : va.toNat % 8 = 0) (hr : va.toNat + 8 ≤ 0x0C000000) :
    goesTo (execStl ch jc rd ra imm s) fun t => s.onlyChan t ch ∧ (∀ j, j ≠ jc → t.ctx ch j = s.ctx ch j) ∧
        t.ctx ch jc = { s.ctx ch jc with pc := s.pcOf ch jc + 4 } ∧
        (∀ i, i < 8 → (t.chan[ch]).mem.ls.byte (va.toNat + i) = BitVec.ofNat 8 ((s.g ch jc rd).toNat / 256 ^ i)) ∧
        (∀ a, a < va.toNat ∨ va.toNat + 8 ≤ a → (t.chan[ch]).mem.ls.byte a = (s.chan[ch]).mem.ls.byte a) ∧
        ∃ tlb, t.chan[ch] = { s.chan[ch] with
          ctx := (t.chan[ch]).ctx, sched := { (s.chan[ch]).sched with nextIssue := (jc.val + 1) % 16 },
          mem := { (s.chan[ch]).mem with tlb := tlb, ls := (t.chan[ch]).mem.ls } } := by
  refine scalar_goesTo h ?_
  rw [hv, lsAccess_inside ha hr]
  extract_lets off bs
  have hoff : off = va.toNat := by rw [← hv]
  have hls : ((((s.begun ch jc).modMem ch fun m => { m with ls := m.ls.write off bs }).modX ch jc Ctx.next).chan[ch]).mem.ls =
      (s.chan[ch]).mem.ls.write va.toNat bs := by
    rw [State.modX_same, State.modMem_same, ← hoff]
    exact congrArg (·.write off bs) (s.begun_ls ch jc)
  have hx (j : JcIdx) : ((s.begun ch jc).modMem ch fun m => { m with ls := m.ls.write off bs }).ctx ch j = s.ctx ch j :=
    (State.modC_ctx _ _ _ _ _ rfl).trans (s.begun_ctx ..)
  have hbs : bs.length = 8 := leBytes_length ..
  refine ⟨⟨s.begun_pkg .., s.begun_free .., ?_, fun c hc => ?_⟩, fun j hj => ?_, ?_, fun i hi => ?_, fun a ha => ?_, ?_⟩
  · obtain ⟨tlb, hb⟩ := s.begun_cases ch jc
    rw [State.modX_pending, State.modMem_pending, hb, State.modC_pending]
  · obtain ⟨tlb, hb⟩ := s.begun_cases ch jc
    rw [State.modX_otherC _ _ _ hc, State.modMem, State.modC_other _ _ hc, hb, State.modC_other _ _ hc]
  · rw [State.modX_ctxOther _ _ _ hj, hx]
  · rw [State.modX_ctx, hx]; rfl
  · rw [hls, Mem.byte_write _ _ _ _ (by omega), leBytes_getElem, State.begun_ctx]; rfl
  · rw [hls, Mem.byte_write_other _ _ _ (by omega)]
  · obtain ⟨tlb, hb⟩ := s.begun_cases ch jc
    refine ⟨tlb, ?_⟩
    rw [hls, State.modX_same, State.modMem_same, hb, State.modC_same, hoff]

/-- Settles O9: an aligned store joins the buffer, and an access of the local store reads or writes its 8 bytes. -/
theorem storesAndLocalStore : Obligations.StoresAndLocalStore := by
  intro s ch jc rd ra td imm far h va ta mapped joins
  refine ⟨fun ha hm => ?_, fun ha hm => ?_, fun hm => ?_, fun ha hr => ⟨ldl_goesTo h begun_ea ha hr, stl_goesTo h begun_ea ha hr⟩⟩
  · exact store_goesTo h (val := fun s => ((s.ctx ch jc).rg rd).zeroExtend 256) begun_ea (by rw [State.begun_ctx]; exact BitVec.eq_of_toNat_eq (by simp [State.g])) ha hm
  · exact store_goesTo h (val := fun s => (((s.ctx ch jc).rg rd).truncate 32).zeroExtend 256) begun_ea (by rw [State.begun_ctx]; exact BitVec.eq_of_toNat_eq (by simp [State.g])) ha hm
  · exact store_goesTo h (val := fun s => (s.ctx ch jc).td[td]) begun_tdEa (by rw [State.begun_ctx]) (Nat.mod_one _) hm
end Sys2Proof.Machine
end

section
/-! SUPPORT. What the units beside the sequencer leave of it: power and wakes, links, communicator slots, the futures store, the
recurrent states and memory change no semaphore, context, queue or scheduler of a channel. -/

namespace Sys2Proof.Machine

open Sys2Proof

set_option Elab.async false

variable {r s t : State} {ch : ChIdx} {jc : JcIdx}

/-- The sequencer's side of a channel. -/
def Chan.seqSide (c : Chan) : Vector Sem 256 × Vector Ctx 16 × Vector EngQ 11 × List Access × Sched :=
  (c.sem, c.ctx, c.q, c.log, c.sched)

/-- The sequencer's side of a channel is as it was. -/
def State.SeqKept (ch : ChIdx) (r s : State) : Prop := r.SamePart Chan.seqSide ch s

namespace State.SeqKept

theorem refl : SeqKept ch s s := rfl

theorem trans (h : SeqKept ch r s) (g : SeqKept ch s t) : SeqKept ch r t := SamePart.trans h g

theorem ite {c : Prop} {_ : Decidable c} {a b : State} (ha : SeqKept ch r a) (hb : SeqKept ch r b) :
    SeqKept ch r (if c then a else b) := SamePart.ite ha hb

theorem foldl {α : Type} {f : State → α → State} {l : List α} (hf : ∀ t x, SeqKept ch r t → SeqKept ch r (f t x))
    (h : SeqKept ch r s) : SeqKept ch r (l.foldl f s) := SamePart.foldl hf h

/-- A change of the channel beside its sequencer. -/
theorem modC {f : Chan → Chan} (h : SeqKept ch r s) (hf : ∀ c, (f c).seqSide = c.seqSide := by exact fun _ => rfl) :
    SeqKept ch r (s.modC ch f) := SamePart.modC h hf

theorem modP {f} (h : SeqKept ch r s) : SeqKept ch r (s.modP f) := h

theorem setF {f v} (h : SeqKept ch r s) : SeqKept ch r (s.setF ch f v) := h.modC

theorem satF {f n} (h : SeqKept ch r s) : SeqKept ch r (s.satF ch f n) := h.modC

theorem modMem {f} (h : SeqKept ch r s) : SeqKept ch r (s.modMem ch f) := h.modC

/-- What changes memories and registers alone. -/
theorem of_moves (h : SeqKept ch r s) (hm : s.MovesOnly t) : SeqKept ch r t := h.trans (by
  unfold SeqKept SamePart
  rw [hm.2 ch]
  rfl)

theorem post {src code arg} (h : SeqKept ch r s) : SeqKept ch r (s.post src code arg) := h.of_moves (moves_post (moves_refl s))

theorem vaWrite {va bs host} (h : SeqKept ch r s) : Gives (SeqKept ch r) (s.vaWrite ch va bs host) :=
  gives_of fun _ ht => h.of_moves (moves_vaWrite (moves_refl s) ht)

theorem vaTouch {va n} (h : SeqKept ch r s) : SeqKept ch r (s.vaTouch ch va n) := h.of_moves (moves_vaTouch (moves_refl s))

theorem flushAll (h : SeqKept ch r s) : SeqKept ch r (s.flushAll ch) :=
  h.of_moves (moves_tcCount (moves_foldl (fun _ _ ht => moves_wbStart ht) _ _ (moves_modTc (moves_refl s))))

/-! ## Changes of power state and wake events -/

theorem modPwr {f} (h : SeqKept ch r s) : SeqKept ch r (s.modPwr ch f) := h.modC

theorem wake {code} (h : SeqKept ch r s) : SeqKept ch r (s.wake ch code) := by
  unfold State.wake
  refine h.ite ?_
  split
  · exact h
  · refine h.ite ?_
    unfold State.reup
    exact h.modPwr.ite h.modPwr.setF.satF.post
  · refine h.ite (SeqKept.ite h.modP ?_)
    unfold State.exitBegin State.pwrBegin State.pwrShow
    exact h.setF.post.modPwr.setF.setF

/-! ## Links -/

theorem modFab {f} (h : SeqKept ch r s) : SeqKept ch r (s.modFab ch f) := h.modC

theorem modLink {p f} (h : SeqKept ch r s) : SeqKept ch r (s.modLink ch p f) := h.modFab

theorem idles {p} : ∀ {n s}, SeqKept ch r s → SeqKept ch r (s.idles ch p n)
  | 0, _, h => h
  | _ + 1, _, h => h.ite (h.modLink (p := p)).idles

theorem idle {p} (h : SeqKept ch r s) : SeqKept ch r (s.idle ch p) := h.idles.ite h

theorem deliver {c} (h : SeqKept ch r s) : SeqKept ch r (s.deliver ch c) := h.wake.satF.ite (h.wake.ite h.wake.modFab)

theorem freeInput {inp vc} (h : SeqKept ch r s) : SeqKept ch r (s.freeInput ch inp vc) := h.ite (h.modLink.ite h.modLink.idle)

theorem noRoute {q} (h : SeqKept ch r s) : SeqKept ch r (s.noRoute ch q) := by
  unfold State.noRoute
  split
  · exact h.modFab.ite h.modFab.modFab.post
  · exact h.satF.freeInput

theorem forward {q front} (h : SeqKept ch r s) : SeqKept ch r (s.forward ch q front) := by
  unfold State.forward
  split
  · exact h.deliver.freeInput
  · exact h.modLink
  · exact h.noRoute

theorem sendMsg {dst vc typ bf16 order head data} (h : SeqKept ch r s) :
    SeqKept ch r (s.sendMsg ch dst vc typ bf16 order head data) := h.modFab.foldl fun _ _ ht => ht.satF.satF.forward

theorem unreserve {order} (h : SeqKept ch r s) : SeqKept ch r (s.unreserve ch order) := h.foldl fun _ _ ht => ht.modLink

/-! ## Communicator slots -/

theorem modSlot {k f} (h : SeqKept ch r s) : SeqKept ch r (s.modSlot ch k f) := h.modC

theorem clSend {k rank kind seq tree index bf16 order data} (h : SeqKept ch r s) :
    SeqKept ch r (s.clSend ch k rank kind seq tree index bf16 order data) := h.sendMsg

theorem clAbort {k seq status} (h : SeqKept ch r s) : SeqKept ch r (s.clAbort ch k seq status) :=
  h.setF.foldl fun _ _ ht => ht.clSend

theorem clEntryDone {e status} (h : SeqKept ch r s) : SeqKept ch r (s.clEntryDone ch e status) := by
  unfold State.clEntryDone
  refine h.ite ?_
  extract_lets k s1 s2 s3
  have h2 : SeqKept ch r s2 := h.unreserve.modSlot
  have h3 : SeqKept ch r s3 := h2.satF.ite (h2.satF.ite (h2.satF.ite h2))
  exact h3.ite h3.clAbort

/-! ## The futures store and the recurrent states -/

theorem ftSync (h : SeqKept ch r s) : SeqKept ch r (s.ftSync ch) := h.modC.modC.post.ite (h.modC.modC.ite h.modC)

theorem modFt {g} (h : SeqKept ch r s) : SeqKept ch r (s.modFt ch g) := h.modC.ftSync

theorem ftEntryDone {order} (h : SeqKept ch r s) : SeqKept ch r (s.ftEntryDone ch order) := h.modFt.ite h

theorem rcMod {i f} (h : SeqKept ch r s) : SeqKept ch r (s.rcMod ch i f) := h.modC.setF

theorem rcStore {space addr bs} (h : SeqKept ch r s) : Gives (SeqKept ch r) (s.rcStore ch space addr bs) := by
  unfold State.rcStore
  split
  · exact h.modMem
  · exact h.modMem
  · exact h.vaWrite

theorem rcMove {i dst} (h : SeqKept ch r s) : Gives (SeqKept ch r) (s.rcMove ch i dst) := by
  unfold State.rcMove
  split
  · trivial
  · split
    · trivial
    · next _ ht => exact (h.rcStore.of_ok ht).rcMod

theorem rcSwapOut {i} (h : SeqKept ch r s) : SeqKept ch r (s.rcSwapOut ch i) := by
  unfold State.rcSwapOut
  extract_lets
  split
  · exact h
  · next _ ht =>
      extract_lets s1
      have h1 : SeqKept ch r s1 := (h.rcMove.of_ok ht).post
      exact h1.setF.ite h1

theorem rcModH {n f} (h : SeqKept ch r s) : SeqKept ch r (s.rcModH ch n f) := by
  unfold State.rcModH
  split
  · exact h.rcMod
  · exact h

theorem rcEntryDone {e} (h : SeqKept ch r s) : SeqKept ch r (s.rcEntryDone ch e) :=
  h.ite ((h.foldl fun _ _ ht => ht.rcModH).foldl fun _ _ ht => ht.rcSwapOut)

theorem rcJobEnd (h : SeqKept ch r s) : SeqKept ch r (s.rcJobEnd ch jc) := h.foldl fun _ _ ht => ht.rcMod

/-! ## Records and the end of a job -/

theorem cqPut {x} (h : SeqKept ch r s) : Gives (SeqKept ch r) (s.cqPut ch jc x) := by
  unfold State.cqPut
  split
  · trivial
  · next _ ht => exact (h.vaWrite.of_ok ht).setF

theorem jcrPut {q id rec} (h : SeqKept ch r s) : SeqKept ch r (s.jcrPut ch q id rec) := by
  unfold State.jcrPut
  split
  · next _ ht => exact (h.vaWrite.of_ok ht).setF
  · exact h.setF.post

theorem arwsJobEnd (h : SeqKept ch r s) : SeqKept ch r (s.arwsJobEnd ch jc) := by
  unfold State.arwsJobEnd
  exact h.modC

theorem drainEnd (h : SeqKept ch r s) : SeqKept ch r (s.drainEnd ch) := h.flushAll.ite h

/-! ## The parts of the sequencer's side -/

theorem ctx (h : SeqKept ch r s) (j : JcIdx) : s.ctx ch j = r.ctx ch j := by
  have e : (s.chan[ch]).ctx = (r.chan[ch]).ctx := congrArg (fun x => x.2.1) h
  unfold State.ctx
  rw [e]

theorem eq (h : SeqKept ch r s) (e : Fin 11) : s.eq ch e = r.eq ch e := by
  have e : (s.chan[ch]).q = (r.chan[ch]).q := congrArg (fun x => x.2.2.1) h
  unfold State.eq
  rw [e]

theorem sem (h : SeqKept ch r s) : (s.chan[ch]).sem = (r.chan[ch]).sem := congrArg (fun x => x.1) h

end State.SeqKept
end Sys2Proof.Machine
end

section
/-! SUPPORT. How jobs wind down: what ends entries and jobs starts no entry, takes back no completion, and leaves a context that
stopped on a fault with that fault (R62, R71 to R73, R519). -/

namespace Sys2Proof.Machine

open Sys2Proof

set_option Elab.async false

variable {r s t : State} {ch : ChIdx} {jc : JcIdx}

/-- The job of a context stopped on a fault, or has ended. -/
def Ctx.down (c : Ctx) : Prop := c.st = .faulted ∨ c.st = .free

/-- A context after changes that take back no completion and replace no fault. -/
structure Ctx.Winds (c d : Ctx) : Prop where
  done : c.job.done ≤ d.job.done
  down : c.down → d.down ∧ d.fStatus = c.fStatus ∧ d.fEng = c.fEng

theorem Ctx.Winds.refl (c : Ctx) : c.Winds c := ⟨Nat.le_refl _, fun h => ⟨h, rfl, rfl⟩⟩

theorem Ctx.Winds.trans {c d e : Ctx} (h : c.Winds d) (g : d.Winds e) : c.Winds e where
  done := h.done.trans g.done
  down hc := by
    obtain ⟨h1, h2, h3⟩ := h.down hc
    obtain ⟨g1, g2, g3⟩ := g.down h1
    exact ⟨g1, g2.trans h2, g3.trans h3⟩

/-- A change of a context whose job is not over, beside its count of completions. -/
theorem Ctx.Winds.of_job {c d : Ctx} (hj : d.job = c.job) (h : ¬ c.down) : c.Winds d :=
  ⟨by rw [hj], fun hc => absurd hc h⟩

/-- A blocked thread that goes on. -/
theorem Ctx.unblock_winds (c : Ctx) (pc : DWord) : c.Winds { c.unblock with pc := pc } := by
  have same : c.Winds { c with waitOn := .none, pc := pc } := ⟨Nat.le_refl _, fun h => ⟨h, rfl, rfl⟩⟩
  unfold Ctx.unblock
  dsimp only
  split
  · next e => exact .of_job rfl (by simp [Ctx.down, show c.st = .waitSem from e])
  · next e => exact .of_job rfl (by simp [Ctx.down, show c.st = .waitQueue from e])
  · next e => exact .of_job rfl (by simp [Ctx.down, show c.st = .waitFence from e])
  · exact ⟨Nat.le_refl _, fun h => ⟨h, rfl, rfl⟩⟩
  · exact ⟨Nat.le_refl _, fun h => ⟨h, rfl, rfl⟩⟩
  · exact same

/-- A state of a channel whose engines took no entry, while its contexts wound down. -/
structure State.Winds (ch : ChIdx) (r s : State) : Prop where
  run : ∀ e : Fin 11, (r.eq ch e).run = none → (s.eq ch e).run = none
  ctx : ∀ j : JcIdx, (r.ctx ch j).Winds (s.ctx ch j)

/-- The same without what becomes of faults. -/
structure State.Drains (ch : ChIdx) (r s : State) : Prop where
  run : ∀ e : Fin 11, (r.eq ch e).run = none → (s.eq ch e).run = none
  done : ∀ j : JcIdx, (r.ctx ch j).job.done ≤ (s.ctx ch j).job.done

theorem State.Drains.trans (h : State.Drains ch r s) (g : State.Drains ch s t) : State.Drains ch r t :=
  ⟨fun e he => g.run e (h.run e he), fun j => (h.done j).trans (g.done j)⟩

/-- The last stores of a context change nothing of the sequencer but its store buffer. -/
theorem State.lastStores_eq (s : State) (ch : ChIdx) (jc : JcIdx) :
    ∃ u, s.SeqKept ch u ∧ s.lastStores ch jc = u.modX ch jc fun c => { c with stores := [] } := by
  refine ⟨_, State.SeqKept.foldl (fun t _ ht => ?_) State.SeqKept.refl, rfl⟩
  split
  · exact ht
  · next _ hu => exact ht.vaWrite.of_ok hu

namespace State.Winds

theorem drains (h : Winds ch r s) : Drains ch r s := ⟨h.run, fun j => (h.ctx j).done⟩

theorem refl : Winds ch s s := ⟨fun _ h => h, fun _ => .refl _⟩

theorem trans (h : Winds ch r s) (g : Winds ch s t) : Winds ch r t :=
  ⟨fun e he => g.run e (h.run e he), fun j => (h.ctx j).trans (g.ctx j)⟩

theorem ite {c : Prop} {_ : Decidable c} {a b : State} (ha : Winds ch r a) (hb : Winds ch r b) :
    Winds ch r (if c then a else b) := by
  split
  · exact ha
  · exact hb

theorem foldl {α : Type} {f : State → α → State} (hf : ∀ t x, Winds ch r t → Winds ch r (f t x)) :
    ∀ {l : List α} {s : State}, Winds ch r s → Winds ch r (l.foldl f s)
  | [], _, h => h
  | x :: l, s, h => foldl hf (l := l) (hf s x h)

theorem of_seq (h : Winds ch r s) (g : s.SeqKept ch t) : Winds ch r t :=
  h.trans ⟨fun e he => by rw [g.eq]; exact he, fun j => by rw [g.ctx]; exact .refl _⟩

/-- A change of the channel beside its contexts and queues. -/
theorem modC {f : Chan → Chan} (h : Winds ch r s) (hf : ∀ c, ((f c).ctx, (f c).q) = (c.ctx, c.q) := by exact fun _ => rfl) :
    Winds ch r (s.modC ch f) := h.trans (by
  have e := Prod.mk.inj (hf s.chan[ch])
  refine ⟨fun q hq => ?_, fun j => ?_⟩
  · unfold State.eq at *
    rw [State.modC_same, e.2]
    exact hq
  · rw [State.modC_ctx _ _ _ _ _ e.1]
    exact .refl _)

theorem modX_of {f : Ctx → Ctx} (h : Winds ch r s) (hf : (s.ctx ch jc).Winds (f (s.ctx ch jc))) :
    Winds ch r (s.modX ch jc f) := h.trans (by
  refine ⟨fun q hq => ?_, fun j => ?_⟩
  · unfold State.eq at *
    rw [State.modX_same]
    exact hq
  · by_cases e : j = jc
    · subst e
      rwa [State.modX_ctx]
    · rw [State.modX_ctxOther s ch f e]
      exact .refl _)

theorem modX {f : Ctx → Ctx} (h : Winds ch r s)
    (hf : ∀ c : Ctx, c.Winds (f c) := by exact fun _ => ⟨Nat.le_refl _, fun h => ⟨h, rfl, rfl⟩⟩) :
    Winds ch r (s.modX ch jc f) := h.modX_of (hf _)

/-- A change of an engine's queue that starts no entry. -/
theorem modQ {e : Fin 11} {f : EngQ → EngQ} (h : Winds ch r s) (hf : ∀ q, (f q).run = q.run ∨ (f q).run = none := by exact fun _ => .inl rfl) :
    Winds ch r (s.modQ ch e f) := h.trans (by
  refine ⟨fun q hq => ?_, fun j => ?_⟩
  · by_cases he : q = e
    · subst he
      rw [State.modQ_eq]
      rcases hf (s.eq ch q) with h | h
      · rw [h, hq]
      · exact h
    · have hn : e.val ≠ q.val := fun x => he (Fin.ext x.symm)
      unfold State.eq at *
      rw [State.modQ_same]
      simpa [Vector.getElem_set_ne, hn] using hq
  · rw [State.modQ, State.modC_ctx _ _ _ _ _ rfl]
    exact .refl _)

theorem post {src code arg} (h : Winds ch r s) : Winds ch r (s.post src code arg) := h.of_seq SeqKept.refl.post

theorem setF {f v} (h : Winds ch r s) : Winds ch r (s.setF ch f v) := h.modC

/-! ## Semaphores -/

theorem modSem {n f} (h : Winds ch r s) : Winds ch r (s.modSem ch n f) := h.modC

theorem takeWaits {ws} (h : Winds ch r s) : Winds ch r (s.takeWaits ch ws) := h.foldl fun _ _ ht => ht.modSem

theorem moverWait (h : Winds ch r s) : Winds ch r (s.moverWait ch) := h.takeWaits.modC.ite h

theorem semWake (h : Winds ch r s) : Winds ch r (s.semWake ch) := (h.of_seq SeqKept.refl.wake).ite h

theorem learn {p} (h : Winds ch r s) : Winds ch r (s.learn ch jc p) := h.modC

theorem semServe (h : Winds ch r s) : Winds ch r (s.semServe ch) := by
  unfold State.semServe
  refine (h.moverWait.foldl fun _ _ ht => ?_).semWake
  split
  · exact (ht.modSem.learn.modX fun c => c.unblock_winds _).ite ht
  · exact ht

theorem semAdd {unit n k} (h : Winds ch r s) : Winds ch r (s.semAdd ch unit n k) := h.modSem.post.ite h.modSem

theorem semSignal {unit n k} (h : Winds ch r s) : Winds ch r (s.semSignal ch unit n k) := h.semAdd.semServe

theorem semReturn (h : Winds ch r s) : Winds ch r (s.semReturn ch jc) := by
  unfold State.semReturn
  exact h.modC.semServe

/-! ## Faults and records -/

theorem logDone {e signals} (h : Winds ch r s) : Winds ch r (s.logDone ch e signals) := by
  unfold State.logDone
  exact h.modC

theorem faultCtx {status eng td arg} (h : Winds ch r s) (hn : ¬ (s.ctx ch jc).down) :
    Winds ch r (s.faultCtx ch jc status eng td arg) := by
  obtain ⟨u, hu, e⟩ := lastStores_eq s ch jc
  unfold State.faultCtx
  rw [e, modX_modX]
  exact ((h.of_seq hu).modX_of (.of_job rfl (by rwa [hu.ctx]))).modC.post

theorem cqLost {e} (h : Winds ch r s) : Winds ch r (s.cqLost ch jc e) := by
  unfold State.cqLost
  split
  extract_lets s1 s2
  have h2 : Winds ch r s2 := h.setF.modX.post
  split
  · exact h2
  · next hs => exact h2.faultCtx fun ho => hs (by rcases ho with ho | ho <;> rw [ho] <;> rfl)

theorem emit {x} (h : Winds ch r s) : Winds ch r (s.emit ch jc x) := by
  unfold State.emit
  refine h.ite (h.modX.ite ?_)
  split
  · next _ ht => exact h.of_seq (SeqKept.refl.cqPut.of_ok ht)
  · exact h.modX.ite h.cqLost

theorem entryDone {order : Nat} {e : Entry} {status : Nat} (h : Winds ch r s) :
    Winds ch r (((s.ftEntryDone ch order).rcEntryDone ch e).clEntryDone ch e status) :=
  h.of_seq (SeqKept.refl.ftEntryDone.rcEntryDone.clEntryDone)

theorem countDone (h : Winds ch r s) : Winds ch r (s.modX ch jc fun c => { c with job := { c.job with done := c.job.done + 1 } }) :=
  h.modX fun _ => ⟨Nat.le_succ _, fun h => ⟨h, rfl, rfl⟩⟩

theorem dropEntry {e status partly} (h : Winds ch r s) : Winds ch r (s.dropEntry ch e status partly) := by
  unfold State.dropEntry
  extract_lets jc s1 s2
  have h2 : Winds ch r s2 := h.countDone.logDone.entryDone
  exact h2.emit.ite h2

theorem sweep {status} (h : Winds ch r s) : Winds ch r (s.sweep ch jc status) :=
  h.foldl fun _ _ ht => (ht.modQ.foldl fun _ _ hu => hu.dropEntry).foldl fun _ _ hu => hu.dropEntry

/-! ## The end of a job -/

theorem killNote (h : Winds ch r s) : Winds ch r (s.killNote ch jc) := by
  unfold State.killNote
  extract_lets c
  split
  · exact h
  · next hk =>
    have hc : c.st = .killing := by
      by_contra hne
      exact hk (by simp [hne])
    exact (h.modX_of (.of_job rfl (by rintro (e | e) <;> simp [c, e] at hc))).post

theorem ftJobEnd (h : Winds ch r s) : Winds ch r (s.ftJobEnd ch jc) := by
  unfold State.ftJobEnd
  extract_lets wait pins s1
  have h1 : Winds ch r s1 := h.of_seq SeqKept.refl.modFt
  exact h1.modX (f := fun c => { c with pins := [] })

theorem drainEnd (h : Winds ch r s) : Winds ch r (s.drainEnd ch) := h.of_seq SeqKept.refl.drainEnd

theorem forget (h : Winds ch r s) : Winds ch r (s.forget ch jc) := h.modC

theorem vacate (h : Winds ch r s) : Winds ch r (s.modX ch jc Ctx.vacate) := h.modX fun _ => ⟨Nat.le_refl _, fun _ => ⟨.inr rfl, rfl, rfl⟩⟩

theorem incFld_jobs (c : Chan) (f : Fld) (n : Nat) : ((c.incFld f n).ctx, (c.incFld f n).q) = (c.ctx, c.q) := rfl

theorem tryEnd (h : Winds ch r s) : Winds ch r (s.tryEnd ch jc) := by
  unfold State.tryEnd
  extract_lets s1 s2 c killed status s3 s4
  have h1 : Winds ch r s1 := h.killNote
  have h2 : Winds ch r s2 := h1.ite (((h1.of_seq SeqKept.refl.rcJobEnd).ftJobEnd.semReturn.of_seq
    SeqKept.refl.arwsJobEnd).forget.modX)
  have h4 : Winds ch r s4 := by
    refine (h2.of_seq SeqKept.refl.jcrPut).modC fun k => ?_
    split
    · exact incFld_jobs ..
    · exact incFld_jobs ..
  exact h.ite (h1.ite (h2.ite h4.vacate.modC.drainEnd))

/-! ## The end of an entry -/

theorem settle (h : Winds ch r s) : Winds ch r (s.settle ch jc) := by
  unfold State.settle
  split
  · next e =>
    have hp : (s.ctx ch jc).st = .preempted := by
      simp only [Bool.and_eq_true, beq_iff_eq] at e
      exact e.1
    exact h.modX_of (.of_job rfl (by simp [Ctx.down, hp]))
  · exact h

theorem fenceServe (h : Winds ch r s) : Winds ch r (s.fenceServe ch) := by
  unfold State.fenceServe
  refine h.foldl fun _ _ ht => ?_
  split
  · exact (ht.learn.modX fun c => c.unblock_winds _).ite ht
  · exact ht

theorem overDone {e} (h : Winds ch r s) : Winds ch r (s.overDone ch e) := by
  have hd : Winds ch r s.draw.2 := h.of_seq rfl
  exact h.ite hd.modX

end State.Winds

/-! ## What a fault leaves -/

/-- A context that stops on a fault shows it (R73). -/
theorem faultCtx_ctx (s : State) (ch : ChIdx) (jc : JcIdx) (status eng td arg : Nat) :
    let c := (s.faultCtx ch jc status eng td arg).ctx ch jc
    c.st = .faulted ∧ c.fStatus = status ∧ c.fEng = eng := by
  obtain ⟨u, hu, e⟩ := State.lastStores_eq s ch jc
  unfold State.faultCtx
  rw [e, modX_modX]
  extract_lets s1 s2 c
  have hs : c = s1.ctx ch jc := (State.SeqKept.refl.post.ctx jc).trans (State.modC_ctx s1 ch ch jc _ rfl)
  have h1 : s1.ctx ch jc = { ({ u.ctx ch jc with stores := [] } : Ctx).stop .faulted with fStatus := status, fEng := eng, fTd := td } := State.modX_ctx ..
  rw [hs, h1]
  exact ⟨rfl, rfl, rfl⟩

/-- A job that has stopped shows its fault still when it has wound down. -/
theorem State.Winds.stoppedBy {status eng : Nat} (h : State.Winds ch s t) (hs : (s.ctx ch jc).st = .faulted)
    (h1 : (s.ctx ch jc).fStatus = status) (h2 : (s.ctx ch jc).fEng = eng) : t.stoppedBy ch jc status eng := by
  obtain ⟨g1, g2, g3⟩ := (h.ctx jc).down (.inl hs)
  exact ⟨g2.trans h1, g3.trans h2, g1⟩

theorem scalarFault_stopped (s : State) (ch : ChIdx) (jc : JcIdx) (status td arg : Nat) :
    (s.scalarFault ch jc status td arg).stoppedBy ch jc status 0xF := by
  obtain ⟨h1, h2, h3⟩ := faultCtx_ctx s ch jc status 0xF td arg
  exact State.Winds.refl.emit.sweep.tryEnd.stoppedBy h1 h2 h3

theorem issueFault_stopped (s : State) (ch : ChIdx) (jc : JcIdx) (w : Wide) (status td arg : Nat) :
    (s.issueFault ch jc w status td arg).stoppedBy ch jc status (bits w.toNat 23 20) := by
  obtain ⟨h1, h2, h3⟩ := faultCtx_ctx s ch jc status (bits w.toNat 23 20) td arg
  exact State.Winds.refl.emit.sweep.tryEnd.stoppedBy h1 h2 h3

end Sys2Proof.Machine
end

section
/-! SUPPORT. Faults of the scalar thread (R45 to R47, R73). -/

namespace Sys2Proof.Machine
open Sys2Proof
set_option Elab.async false
variable {s t : State} {ch : ChIdx} {jc : JcIdx}

/-! ## Scalar instructions that fault -/

theorem fault_goesTo (h : s.fetches ch jc 4) {effect : State → State} {status td arg : Nat}
    (he : effect (s.begun ch jc) = (s.begun ch jc).scalarFault ch jc status td arg) :
    goesTo (.next (s.scalar ch jc effect)) fun t => t.stoppedBy ch jc status 0xF :=
  scalar_goesTo h (by rw [he]; exact scalarFault_stopped ..)

theorem shiValue_reserved {imm : BitVec 16} {a : DWord} (h : bits imm.toNat 15 8 ≠ 0 ∨ bits imm.toNat 7 6 = 3) :
    shiValue imm a = none := by
  unfold shiValue
  rcases h with h | h
  · simp [h]
  · simp [h]

theorem startLoad_misaligned {kind : LoadKind} {dst align : Nat} {va : DWord} (ha : va.toNat % align ≠ 0) :
    s.startLoad ch jc kind dst align va = s.scalarFault ch jc 0x22 0 (va.toNat % 2 ^ 32) := by
  rw [State.startLoad, if_pos (by simpa using ha)]; rfl

theorem startStore_misaligned {n align : Nat} {va : DWord} {v : Desc} (ha : va.toNat % align ≠ 0) :
    s.startStore ch jc n align va v = s.scalarFault ch jc 0x22 0 (va.toNat % 2 ^ 32) := by
  rw [State.startStore, if_pos (by simpa using ha)]; rfl

theorem lsAccess_misaligned {off : DWord} {effect : State → State} (ha : off.toNat % 8 ≠ 0) :
    s.lsAccess ch jc off effect = s.scalarFault ch jc 0x22 0 (off.toNat % 2 ^ 32) := by
  rw [State.lsAccess, if_pos (by simpa using ha)]; rfl

theorem lsAccess_beyond {off : DWord} {effect : State → State} (ha : off.toNat % 8 = 0) (hr : 0x0C000000 < off.toNat + 8) :
    s.lsAccess ch jc off effect = s.scalarFault ch jc 0x23 0 (s.pcArg ch jc) := by
  rw [State.lsAccess, if_neg (by simp [ha]), if_pos (show lsBytes < _ from hr)]; rfl

theorem fence_reserved {imm : BitVec 16} (h : 16 ≤ imm.toNat ∨ (0xB ≤ imm.toNat ∧ imm.toNat ≤ 0xE)) :
    (bits imm.toNat 15 4 != 0 || (bits imm.toNat 3 0 != 0xF && decide (0xA < bits imm.toNat 3 0))) = true := by
  have hl := imm.isLt
  have h4 : bits imm.toNat 15 4 = imm.toNat / 16 := by simp only [bits]; omega
  have h0 : bits imm.toNat 3 0 = imm.toNat % 16 := by simp only [bits]; omega
  rw [h4, h0]
  simp only [Bool.or_eq_true, bne_iff_ne, Bool.and_eq_true, decide_eq_true_eq]
  omega

@[simp] theorem State.begun_sem (s : State) (ch : ChIdx) (jc : JcIdx) : ((s.begun ch jc).chan[ch]).sem = (s.chan[ch]).sem := by
  obtain ⟨tlb, h⟩ := s.begun_cases ch jc
  rw [h, State.modC_same]

theorem semAt_val (s : State) (ch : ChIdx) (n : Fin 256) : s.semAt ch n.val = (s.chan[ch]).sem[n] := by
  simp [State.semAt]

theorem begun_semAt (s : State) (ch : ChIdx) (jc : JcIdx) (n : Fin 256) : (s.begun ch jc).semAt ch n.val = (s.chan[ch]).sem[n] := by
  rw [semAt_val, State.begun_sem]

theorem claim_busy_goesTo (h : s.fetches ch jc 4) {ra : Fin 32} {n : Fin 256} {o : Nat}
    (ho : ((s.chan[ch]).sem[n]).owner = some o) (hne : o ≠ jc.val) :
    goesTo (execClaim ch jc ra n s) fun t => t.stoppedBy ch jc 0x17 0xF := by
  refine fault_goesTo h (td := 0) (arg := (s.begun ch jc).pcArg ch jc) ?_
  rw [begun_semAt, ho]
  exact if_pos (by simpa using hne)

theorem illegal_goesTo (h : s.fetches ch jc 4) {w : BitVec 512} (hw : bits w.toNat 31 26 ≠ 0x3F)
    (hi : scalarIllegal (bits w.toNat 31 0) = true) : goesTo (execIllegalOp ch jc w s) fun t => t.stoppedBy ch jc 0x12 0xF := by
  unfold execIllegalOp
  rw [if_neg (by simp [h.1]), if_neg (by simpa using hw), if_pos hi]
  exact fault_goesTo h rfl

/-- Settles O12: each of these instructions is a scalar fault, and a scalar fault stops its job. -/
theorem scalarThreadStops : Obligations.ScalarThreadStops := by
  intro s ch jc rd ra n hw imm tg h va stops
  refine ⟨fault_goesTo h rfl, fun w h1 h2 => illegal_goesTo h h1 h2, fun hs => ?_, fun r hr => ⟨?_, ?_⟩, fun r hr => ?_, fun hf => ?_,
    fun ha => ⟨?_, ?_, ?_, ?_⟩, fun ha => ⟨?_, ?_, ?_⟩, fun ha hb => ⟨?_, ?_⟩, ?_, ?_, fun o ho hne => claim_busy_goesTo h ho hne⟩
  · exact fault_goesTo h (effect := fun s => match shiValue imm ((s.ctx ch jc).rg ra) with
      | some v => s.setRd ch jc rd v
      | none => s.trapPc ch jc stIllegalOp) (by rw [shiValue_reserved hs]; rfl)
  · exact fault_goesTo h (if_pos hr)
  · exact fault_goesTo h (if_pos hr)
  · exact fault_goesTo h (if_pos hr)
  · exact fault_goesTo h (if_pos (fence_reserved hf))
  · exact fault_goesTo h (startLoad_misaligned (begun_ea (s := s) ▸ ha))
  · exact fault_goesTo h (startStore_misaligned (begun_ea (s := s) ▸ ha))
  · exact fault_goesTo h (lsAccess_misaligned (begun_ea (s := s) ▸ ha))
  · exact fault_goesTo h (lsAccess_misaligned (begun_ea (s := s) ▸ ha))
  · exact fault_goesTo h (startLoad_misaligned (begun_ea (s := s) ▸ ha))
  · exact fault_goesTo h (startLoad_misaligned (begun_ea (s := s) ▸ ha))
  · exact fault_goesTo h (startStore_misaligned (begun_ea (s := s) ▸ ha))
  · exact fault_goesTo h (lsAccess_beyond (begun_ea (s := s) ▸ ha) (begun_ea (s := s) ▸ hb))
  · exact fault_goesTo h (lsAccess_beyond (begun_ea (s := s) ▸ ha) (begun_ea (s := s) ▸ hb))
  · exact fault_goesTo h (if_pos rfl)
  · exact fault_goesTo h (if_pos rfl)

end Sys2Proof.Machine
end

section
/-! SUPPORT. Semaphores on a channel where nothing waits for them (R60 to R65). -/

namespace Sys2Proof.Machine

open Sys2Proof

set_option Elab.async false

variable {s t u : State} {ch : ChIdx} {jc : JcIdx}

/-! ## Waiters -/

/-- A wake event changes nothing of a channel in RUN (R477). -/
theorem wake_run {code : Nat} (h : (s.chan[ch]).power.st = .run) (hm : (s.chan[ch]).power.move = .none) : s.wake ch code = s := by
  unfold State.wake State.pwr
  simp only [hm, h]
  split <;> rfl

theorem semWake_run (h : (s.chan[ch]).power.st = .run) (hm : (s.chan[ch]).power.move = .none) : s.semWake ch = s := by
  unfold State.semWake
  rw [wake_run h hm, ite_self]

/-- A fold in which one element alone acts. -/
theorem foldl_once {α β : Type} {f : α → β → α} {a : α} {b : β} {l : List β} (hn : l.Nodup) (hb : b ∈ l)
    (h0 : ∀ x, x ≠ b → f a x = a) (h1 : ∀ x, x ≠ b → f (f a b) x = f a b) : l.foldl f a = f a b := by
  have rest {a : α} {l : List β} (h : ∀ x ∈ l, f a x = a) : l.foldl f a = a := by
    induction l with
    | nil => rfl
    | cons x l ih => rw [List.foldl_cons, h x (by simp)]; exact ih fun y hy => h y (by simp [hy])
  induction l with
  | nil => cases hb
  | cons x l ih =>
    rw [List.nodup_cons] at hn
    rw [List.foldl_cons]
    by_cases e : x = b
    · subst e
      exact rest fun y hy => h1 y fun e => hn.1 (e ▸ hy)
    · rw [h0 x e]
      exact ih hn.2 (by simpa [Ne.symm e] using hb)

theorem moverWait_idle (h : (s.chan[ch]).mover.phase ≠ .waiting) : s.moverWait ch = s :=
  if_neg (by rw [beq_false_of_ne h, Bool.false_and]; exact Bool.false_ne_true)

/-- The test of one context's wait (R63). -/
def State.serveOne (s : State) (ch : ChIdx) (jc : JcIdx) : State :=
  match (s.ctx ch jc).st, (s.ctx ch jc).waitOn with
  | .waitSem, .sem n k tg =>
    if k + s.claimed ch n ≤ (s.semAt ch n).count then
      let s := s.modSem ch n fun m => { m with count := m.count - k, owner := if tg then some jc.val else m.owner }
      (s.learn ch jc fun a => a.sems.contains n).modX ch jc fun c => { c.unblock with pc := c.pc + 4 }
    else s
  | _, _ => s

theorem semServe_eq (s : State) (ch : ChIdx) :
    s.semServe ch = ((List.finRange 16).foldl (fun s jc => s.serveOne ch jc) (s.moverWait ch)).semWake ch := rfl

theorem serveOne_other (h : (s.ctx ch jc).st ≠ .waitSem) : s.serveOne ch jc = s := by
  unfold State.serveOne
  split
  · next e _ => exact absurd e h
  · rfl

/-- Where nothing waits, nothing is served. -/
theorem semServe_idle (h : s.noWaiters ch) : s.semServe ch = s.semWake ch := by
  rw [semServe_eq, moverWait_idle h.2]
  have idle : ∀ j : JcIdx, s.serveOne ch j = s := fun j => serveOne_other (h.1 j)
  have fold := foldl_once (f := fun s jc => State.serveOne s ch jc) (a := s) (b := (0 : JcIdx)) (List.nodup_finRange 16)
    (List.mem_finRange _) (fun x _ => idle x) (fun x _ => by rw [idle, idle])
  rw [fold, idle]

theorem semServe_run (h : s.noWaiters ch) (hp : (s.chan[ch]).power.st = .run) (hm : (s.chan[ch]).power.move = .none) :
    s.semServe ch = s := (semServe_idle h).trans (semWake_run hp hm)

/-! ## SEM_TIMEOUT and CH_SEM (R63, R65) -/

theorem semBlocked_iff : s.semBlocked ch jc = true ↔ ∃ n k tg, (s.ctx ch jc).waitOn = .sem n k tg ∧
    ((s.ctx ch jc).st = .waitSem ∨ ((s.ctx ch jc).st = .ready ∧ (s.semAt ch n).count < k)) := by
  unfold State.semBlocked
  dsimp only
  cases (s.ctx ch jc).waitOn with
  | sem n k tg => simp
  | none => simp
  | fence code => simp

theorem chSemWrite_goesTo {n : Fin 256} {val : BitVec 32} (hr : s.reaches (pfOf ch)) (hw : s.noWaiters ch)
    (hp : (s.chan[ch]).power.st = .run) (hm : (s.chan[ch]).power.move = .none) :
    exec (.chSemWrite ch n val) s =
      .next ((s.answer .ok 0).modSem ch n.val fun m => { m with count := val.toNat % 65536 }) := by
  have e : exec (.chSemWrite ch n val) s = .next (s.hostWr (pfOf ch) (0x2000 + 4 * n.val) fun s =>
      (s.modSem ch n.val fun m => { m with count := val.toNat % 65536 }).semServe ch) := rfl
  rw [e, State.hostWr_reaches hr, semServe_run ⟨?_, ?_⟩ ?_ ?_]
  · intro j
    rw [State.modSem, State.modC_ctx _ _ _ _ _ rfl]
    exact hw.1 j
  · rw [State.modSem_same]; exact hw.2
  · rw [State.modSem_same]; exact hp
  · rw [State.modSem_same]; exact hm

theorem set_semAt (v : Vector Sem 256) (n : Fin 256) (x : Sem) :
    (v.set (Fin.ofNat 256 n.val) x)[n] = x ∧ ∀ k : Fin 256, k ≠ n → (v.set (Fin.ofNat 256 n.val) x)[k] = v[k] := by
  have e : (Fin.ofNat 256 n.val).val = n.val := Nat.mod_eq_of_lt n.isLt
  refine ⟨?_, fun k hk => ?_⟩
  · rw [Fin.getElem_fin, Vector.getElem_set, if_pos e]
  · rw [Fin.getElem_fin, Vector.getElem_set, if_neg fun h => hk (Fin.ext (h.symm.trans e))]
    rfl

/-- Settles O13: the timeout is a scalar fault, and a count that the host writes serves nothing where nothing waits. -/
theorem semaphoreTimeoutAndHostWrite : Obligations.SemaphoreTimeoutAndHostWrite := by
  intro s ch jc n val blocked
  refine ⟨fun hl hf hb => ?_, fun h => ?_, fun hr hw hp hm => ?_⟩
  · have e : exec (.semTimeout ch jc none) s = .next (s.trapPc ch jc stSemTimeout) :=
      (if_neg (by simp [hl, hf])).trans (if_pos (semBlocked_iff.2 hb))
    exact ⟨_, e, scalarFault_stopped ..⟩
  · by_cases hc : (s.f ch R.CH_SEM_WAITLIM_LIMIT == 0 || s.fenced) = true
    · exact if_pos hc
    · simp only [Bool.or_eq_true, beq_iff_eq, not_or] at hc
      have hb : ¬ blocked := h.resolve_left hc.1 |>.resolve_left hc.2
      exact (if_neg (by simp [hc])).trans (if_neg (mt semBlocked_iff.1 hb))
  · refine ⟨_, chSemWrite_goesTo hr hw hp hm, ⟨rfl, rfl, rfl, fun c hc => State.modC_other _ _ hc⟩, ?_, ?_, fun k hk => ?_⟩
    · rw [State.modSem_same]
      refine (set_semAt _ n _).1.trans ?_
      rw [semAt_val]
      rfl
    · rw [State.modSem_same]; rfl
    · rw [State.modSem_same]
      exact (set_semAt _ n _).2 k hk

end Sys2Proof.Machine
end

section
/-! SUPPORT. What may start does not depend on a context's registers, and an event reads the event paths alone (R67, R456). -/

namespace Sys2Proof.Machine

open Sys2Proof

set_option Elab.async false

variable {s t u : State} {ch : ChIdx} {jc : JcIdx}

/-! ## What may start -/

/-- Two states that agree on what the start of an entry looks at. -/
structure State.SameStart (ch : ChIdx) (s t : State) : Prop where
  pkg : t.pkg = s.pkg
  reg : (t.chan[ch]).reg = (s.chan[ch]).reg
  sem : (t.chan[ch]).sem = (s.chan[ch]).sem
  q : (t.chan[ch]).q = (s.chan[ch]).q
  ft : (t.chan[ch]).ft = (s.chan[ch]).ft
  cl : (t.chan[ch]).cl = (s.chan[ch]).cl
  starts : ∀ j, (t.ctx ch j).st.starts = (s.ctx ch j).st.starts
  lc : ∀ j, (t.ctx ch j).sched.lc = (s.ctx ch j).sched.lc

namespace State.SameStart

theorem f (h : SameStart ch s t) (x : Fld) : t.f ch x = s.f ch x := by
  unfold State.f Chan.fld Chan.rd
  rw [h.reg]

theorem eq (h : SameStart ch s t) (e : Fin 11) : t.eq ch e = s.eq ch e := by
  unfold State.eq
  rw [h.q]

theorem semAt (h : SameStart ch s t) (n : Nat) : t.semAt ch n = s.semAt ch n := by
  unfold State.semAt
  rw [h.sem]

theorem slot (h : SameStart ch s t) (k : SlotIdx) : t.slot ch k = s.slot ch k := by
  unfold State.slot
  rw [h.cl]

theorem waitsMet (h : SameStart ch s t) (ws : List (Nat × Nat)) : t.waitsMet ch ws = s.waitsMet ch ws := by
  simp only [State.waitsMet, h.semAt]

theorem entryReady (h : SameStart ch s t) (e : Entry) : t.entryReady ch e = s.entryReady ch e := by
  simp only [State.entryReady, State.ftReady, State.rcReady, State.clReady, State.served?, State.slotEntries, State.slotErr,
    State.joinedAll, State.slotState, State.partIdx, State.place, h.f, h.eq, h.slot, h.ft, h.pkg]
  rfl

theorem mayStart (h : SameStart ch s t) (e : Entry) : t.mayStart ch e = s.mayStart ch e := by
  simp only [State.mayStart, State.cqOn, State.cqFull, State.cqSize, State.cqUnread, h.starts, h.waitsMet, h.f, h.entryReady]
  rfl

theorem before (h : SameStart ch s t) (a b : Entry) : t.before ch a b = s.before ch a b := by
  simp only [State.before, h.lc]

theorem first (h : SameStart ch s t) : ∀ l, t.first ch l = s.first ch l
  | [] => rfl
  | e :: es => by simp only [State.first, h.first es, h.before]

theorem pick (h : SameStart ch s t) (e : Fin 11) : t.pick ch e = s.pick ch e := by
  have hm : t.mayStart ch = s.mayStart ch := funext h.mayStart
  simp only [State.pick, State.candidates, h.first, h.eq, h.starts, hm]

theorem mayHold (h : SameStart ch s t) (e : Entry) : t.mayHold ch e = s.mayHold ch e := by
  simp only [State.mayHold, State.arrayFree, h.eq, h.pick, h.before]

/-- What starting entries ask of a semaphore. -/
theorem claimed (h : SameStart ch s t) (n : Nat) : t.claimed ch n = s.claimed ch n := by
  simp only [State.claimed, h.eq, h.pick, h.mayHold]

end State.SameStart

/-! ## Events -/

/-- Two states that agree on what the post of an event looks at. -/
structure State.SameEvents (s t : State) : Prop where
  pkg : t.pkg = s.pkg
  free : t.free = s.free
  reg : ∀ c : ChIdx, (t.chan[c]).reg = (s.chan[c]).reg

namespace State.SameEvents

theorem modP {f : Pkg → Pkg} (h : SameEvents s t) : SameEvents (s.modP f) (t.modP f) :=
  ⟨by rw [State.modP_pkg, State.modP_pkg, h.pkg], h.free, h.reg⟩

theorem fnRd (h : SameEvents s t) (pf : Fin 9) (off : Nat) : t.fnRd pf off = s.fnRd pf off := by
  unfold State.fnRd
  split
  · rw [h.pkg]
  · unfold Chan.rd
    rw [h.reg]

theorem fnFld (h : SameEvents s t) (pf : Fin 9) (f : Fld) : t.fnFld pf f = s.fnFld pf f := by
  unfold State.fnFld
  rw [h.fnRd]

theorem fnWr {pf : Fin 9} {off : Nat} {v : Word} (h : SameEvents s t) : SameEvents (s.fnWr pf off v) (t.fnWr pf off v) := by
  unfold State.fnWr
  split
  · exact h.modP
  · next ch _ =>
    refine ⟨h.pkg, h.free, fun c => ?_⟩
    by_cases e : c = ch
    · subst e
      rw [State.modC_same, State.modC_same]
      unfold Chan.wr
      rw [h.reg]
    · rw [State.modC_other _ _ e, State.modC_other _ _ e, h.reg]

theorem fnSet {pf : Fin 9} {f : Fld} {v : Nat} (h : SameEvents s t) : SameEvents (s.fnSet pf f v) (t.fnSet pf f v) := by
  unfold State.fnSet
  rw [h.fnRd]
  exact h.fnWr

theorem irq {pf : Fin 9} (h : SameEvents s t) : SameEvents (s.irq pf) (t.irq pf) := by
  have e : t.enumerated pf = s.enumerated pf := by unfold State.enumerated; rw [h.pkg]
  unfold State.irq
  rw [e]
  split
  · exact h
  · exact h.modP

/-- The vector fires after a record, or not (R457). -/
theorem fire {pf : Fin 9} (h : SameEvents s t) :
    SameEvents
      (if s.fnFld pf R.EVT_CFG_IRQ == 1 && s.fnFld pf R.EVT_CFG_DELAY == 0 && !(s.pkg.evt[pf]).fired then s.irq pf else s)
      (if t.fnFld pf R.EVT_CFG_IRQ == 1 && t.fnFld pf R.EVT_CFG_DELAY == 0 && !(t.pkg.evt[pf]).fired then t.irq pf else t) := by
  rw [h.fnFld, h.fnFld, h.pkg]
  split
  · exact h.irq
  · exact h

theorem evtWrite {pf : Fin 9} {r : EvRec} {rest : List EvRec} (h : SameEvents s t) :
    SameEvents (s.evtWrite pf r rest) (t.evtWrite pf r rest) := by
  unfold State.evtWrite
  simp only [h.fnFld]
  exact h.modP.fnSet.fire

theorem evtUnread (h : SameEvents s t) (pf : Fin 9) : t.evtUnread pf = s.evtUnread pf := by
  unfold State.evtUnread
  rw [h.fnFld, h.fnFld]

theorem evtDrain {pf : Fin 9} : ∀ {n s t}, SameEvents s t → SameEvents (s.evtDrain pf n) (t.evtDrain pf n)
  | 0, _, _, h => h
  | n + 1, s, t, h => by
    unfold State.evtDrain
    rw [h.pkg]
    split
    · exact h
    · rw [h.evtUnread, h.fnFld, h.fnFld]
      split
      · exact h.evtWrite.evtDrain
      · exact h

/-- Records beyond those held are dropped, and counted (R457). -/
theorem drop {pf : Fin 9} {f : Pkg → Pkg} (h : SameEvents s t) :
    SameEvents
      (if (s.pkg.evt[pf]).held.length > 256 then
        (s.modP f).fnSet pf R.EVT_CFG_DROPPED (min 127 ((s.modP f).fnFld pf R.EVT_CFG_DROPPED + 1)) else s)
      (if (t.pkg.evt[pf]).held.length > 256 then
        (t.modP f).fnSet pf R.EVT_CFG_DROPPED (min 127 ((t.modP f).fnFld pf R.EVT_CFG_DROPPED + 1)) else t) := by
  rw [h.modP.fnFld, h.pkg]
  split
  · exact h.modP.fnSet
  · exact h

/-- An event is the same in both. -/
theorem post {src : Nat} {code : Ev} {arg : List Nat} (h : SameEvents s t) :
    SameEvents (s.post src code arg) (t.post src code arg) := by
  have hd : SameEvents s.draw.2 t.draw.2 := ⟨h.pkg, congrArg (· + 1) h.free, h.reg⟩
  unfold State.post
  simp only [State.draw, h.pkg, h.free] at hd ⊢
  exact hd.modP.evtDrain.drop

end State.SameEvents
end Sys2Proof.Machine
end

section
/-! SUPPORT. WAIT, SIG, CLAIM, FREE and READ (R60, R63). -/

namespace Sys2Proof.Machine

open Sys2Proof

set_option Elab.async false

variable {s t u : State} {ch : ChIdx} {jc : JcIdx} {n : Fin 256} {v : Sem} {k : BitVec 8} {tg : Bool}

/-! ## What a semaphore instruction may change -/

/-- `State.semOnly` without the value: one context and one semaphore may have changed. -/
structure State.SemMoves (ch : ChIdx) (jc : JcIdx) (n : Fin 256) (s t : State) : Prop where
  only : s.onlyChan t ch
  ctx : ∀ j, j ≠ jc → t.ctx ch j = s.ctx ch j
  sem : ∀ k : Fin 256, k ≠ n → (t.chan[ch]).sem[k] = (s.chan[ch]).sem[k]
  chan : ∃ tlb, t.chan[ch] = { s.chan[ch] with
    ctx := (t.chan[ch]).ctx, sem := (t.chan[ch]).sem, log := (t.chan[ch]).log,
    sched := { (s.chan[ch]).sched with nextIssue := (jc.val + 1) % 16 }, mem := { (s.chan[ch]).mem with tlb := tlb } }

namespace State.SemMoves

theorem semOnly (h : SemMoves ch jc n s t) (hv : (t.chan[ch]).sem[n] = v) : s.semOnly t ch jc n v :=
  ⟨h.only, h.ctx, hv, h.sem, h.chan⟩

theorem begun : SemMoves ch jc n s (s.begun ch jc) := by
  obtain ⟨ho, hc, tlb, ht⟩ := State.ranOnly_begun s ch jc
  obtain ⟨tlb', hb⟩ := s.begun_cases ch jc
  exact ⟨ho, hc, fun k _ => by rw [State.begun_sem], tlb', by rw [hb, State.modC_same]⟩

theorem modC {f : Chan → Chan} (h : SemMoves ch jc n s t) (hc : ∀ j, j ≠ jc → (t.modC ch f).ctx ch j = t.ctx ch j)
    (hs : ∀ k : Fin 256, k ≠ n → (f t.chan[ch]).sem[k] = (t.chan[ch]).sem[k])
    (hf : ∀ c, f c = { c with ctx := (f c).ctx, sem := (f c).sem, log := (f c).log }) : SemMoves ch jc n s (t.modC ch f) := by
  obtain ⟨⟨hp, hfr, hpe, ho⟩, hx, hse, tlb, ht⟩ := h
  refine ⟨⟨hp, hfr, hpe, fun c hne => (State.modC_other _ _ hne).trans (ho c hne)⟩, fun j hj => ?_, fun k hk => ?_, tlb, ?_⟩
  · rw [hc j hj, hx j hj]
  · rw [State.modC_same, hs k hk, hse k hk]
  · rw [State.modC_same, hf, ht]

theorem modX {f : Ctx → Ctx} (h : SemMoves ch jc n s t) : SemMoves ch jc n s (t.modX ch jc f) :=
  h.modC (fun _ hj => State.modX_ctxOther t ch f hj) (fun _ _ => rfl) fun _ => rfl

theorem learn {p : Access → Bool} (h : SemMoves ch jc n s t) : SemMoves ch jc n s (t.learn ch jc p) := by
  unfold State.learn
  exact h.modC (fun _ _ => State.modC_ctx _ _ _ _ _ rfl) (fun _ _ => rfl) fun _ => rfl

theorem tell {k : Nat} (h : SemMoves ch jc n s t) : SemMoves ch jc n s (t.tell ch jc k) := by
  unfold State.tell
  exact h.modC (fun _ _ => State.modC_ctx _ _ _ _ _ rfl) (fun _ _ => rfl) fun _ => rfl

theorem modSem {f : Sem → Sem} (h : SemMoves ch jc n s t) : SemMoves ch jc n s (t.modSem ch n.val f) :=
  h.modC (fun _ _ => State.modC_ctx _ _ _ _ _ rfl) (fun k hk => (set_semAt _ n _).2 k hk) fun _ => rfl

theorem power (h : SemMoves ch jc n s t) : (t.chan[ch]).power = (s.chan[ch]).power := by
  obtain ⟨tlb, e⟩ := h.chan
  rw [e]

theorem mover (h : SemMoves ch jc n s t) : (t.chan[ch]).mover = (s.chan[ch]).mover := by
  obtain ⟨tlb, e⟩ := h.chan
  rw [e]

/-- The post of an event is the same after a semaphore instruction. -/
theorem events (h : SemMoves ch jc n s t) : SameEvents s t := by
  refine ⟨h.only.1, h.only.2.1, fun c => ?_⟩
  by_cases e : c = ch
  · obtain ⟨tlb, e'⟩ := h.chan
    rw [e, e']
  · rw [h.only.2.2.2 c e]

end State.SemMoves

/-! ## Channels that serve nobody -/

/-- A channel in RUN on whose semaphores nothing but entries waits: serving its waiters changes nothing. -/
structure State.Quiet (s : State) (ch : ChIdx) : Prop where
  idle : s.noWaiters ch
  run : (s.chan[ch]).power.st = .run
  move : (s.chan[ch]).power.move = .none

theorem State.Quiet.serve (h : s.Quiet ch) : s.semServe ch = s := semServe_run h.idle h.run h.move

theorem State.Quiet.of_moves (h : s.Quiet ch) (hm : State.SemMoves ch jc n s t) (hs : (t.ctx ch jc).st ≠ .waitSem) : t.Quiet ch := by
  refine ⟨⟨fun j => ?_, by rw [hm.mover]; exact h.idle.2⟩, by rw [hm.power]; exact h.run, by rw [hm.power]; exact h.move⟩
  by_cases e : j = jc
  · exact e ▸ hs
  · rw [hm.ctx j e]
    exact h.idle.1 j

theorem canIssue_run (h : s.canIssue ch jc = true) : (s.chan[ch]).power.st = .run ∧ (s.chan[ch]).power.move = .none ∧
    (s.ctx ch jc).st = .run ∧ (s.ctx ch jc).load = none := by
  unfold State.canIssue Ctx.issues at h
  simp only [Bool.and_eq_true, beq_iff_eq, Option.isNone_iff_eq_none] at h
  obtain ⟨⟨⟨⟨-, hp⟩, hm⟩, hs, hl⟩, -⟩ := h
  exact ⟨hp, hm, hs, hl⟩

theorem State.fetches.quiet (h : s.fetches ch jc 4) (hw : s.noWaiters ch) : s.Quiet ch :=
  ⟨hw, (canIssue_run h.1).1, (canIssue_run h.1).2.1⟩

theorem State.modSem_val (s : State) (ch : ChIdx) (n : Fin 256) (f : Sem → Sem) :
    ((s.modSem ch n.val f).chan[ch]).sem[n] = f ((s.chan[ch]).sem[n]) := by
  rw [State.modSem, State.modC_same]
  refine (set_semAt _ n _).1.trans ?_
  simp only [show Fin.ofNat 256 n.val = n from Fin.ext (Nat.mod_eq_of_lt n.isLt)]

@[simp] theorem State.modSem_ctx (s : State) (ch c : ChIdx) (j : JcIdx) (m : Nat) (f : Sem → Sem) :
    (s.modSem ch m f).ctx c j = s.ctx c j := State.modC_ctx _ _ _ _ _ rfl

@[simp] theorem State.tell_ctx (s : State) (ch c : ChIdx) (jc j : JcIdx) (m : Nat) : (s.tell ch jc m).ctx c j = s.ctx c j :=
  State.modC_ctx _ _ _ _ _ rfl

@[simp] theorem State.learn_ctx (s : State) (ch c : ChIdx) (jc j : JcIdx) (p : Access → Bool) :
    (s.learn ch jc p).ctx c j = s.ctx c j := State.modC_ctx _ _ _ _ _ rfl

@[simp] theorem State.tell_sem (s : State) (ch : ChIdx) (jc : JcIdx) (m : Nat) :
    ((s.tell ch jc m).chan[ch]).sem = (s.chan[ch]).sem := by rw [State.tell, State.modC_same]

@[simp] theorem State.learn_sem (s : State) (ch : ChIdx) (jc : JcIdx) (p : Access → Bool) :
    ((s.learn ch jc p).chan[ch]).sem = (s.chan[ch]).sem := by rw [State.learn, State.modC_same]

@[simp] theorem State.modX_sem (s : State) (ch : ChIdx) (jc : JcIdx) (f : Ctx → Ctx) :
    ((s.modX ch jc f).chan[ch]).sem = (s.chan[ch]).sem := by rw [State.modX, State.modC_same]

/-! ## SIG, CLAIM and FREE -/

/-- The context's ownership ends when it is the owner. -/
def Sem.freedBy (m : Sem) (jc : JcIdx) : Sem := if m.owner = some jc.val then { m with owner := none } else m

/-- FREE of a semaphore, as FREE and SIG with TG = 1 do it. -/
def State.freeSem (s : State) (ch : ChIdx) (jc : JcIdx) (n : Fin 256) : State :=
  if (s.semAt ch n.val).owner == some jc.val then s.modSem ch n.val fun m => { m with owner := none } else s

theorem freeSem_cases (s : State) (ch : ChIdx) (jc : JcIdx) (n : Fin 256) :
    (((s.chan[ch]).sem[n]).owner ≠ some jc.val ∧ s.freeSem ch jc n = s) ∨
    (((s.chan[ch]).sem[n]).owner = some jc.val ∧ s.freeSem ch jc n = s.modSem ch n.val fun m => { m with owner := none }) := by
  unfold State.freeSem
  rw [semAt_val]
  by_cases h : ((s.chan[ch]).sem[n]).owner = some jc.val
  · exact .inr ⟨h, if_pos (by rw [h]; exact beq_self_eq_true _)⟩
  · exact .inl ⟨h, if_neg (by rw [beq_false_of_ne h]; exact Bool.false_ne_true)⟩

theorem freeSem_at : ((s.freeSem ch jc n).chan[ch]).sem[n] = ((s.chan[ch]).sem[n]).freedBy jc := by
  unfold Sem.freedBy
  obtain ⟨h, e⟩ | ⟨h, e⟩ := freeSem_cases s ch jc n
  · rw [e, if_neg h]
  · rw [e, if_pos h, State.modSem_val]

theorem State.SemMoves.freeSem (h : SemMoves ch jc n s t) : SemMoves ch jc n s (t.freeSem ch jc n) := by
  obtain ⟨-, e⟩ | ⟨-, e⟩ := freeSem_cases t ch jc n
  · rwa [e]
  · rw [e]; exact h.modSem

@[simp] theorem freeSem_ctx {j : JcIdx} : (s.freeSem ch jc n).ctx ch j = s.ctx ch j := by
  obtain ⟨-, e⟩ | ⟨-, e⟩ := freeSem_cases s ch jc n
  · rw [e]
  · rw [e, State.modSem_ctx]

theorem freeSem_pkg : (s.freeSem ch jc n).pkg = s.pkg := by
  obtain ⟨-, e⟩ | ⟨-, e⟩ := freeSem_cases s ch jc n
  · rw [e]
  · rw [e, State.modSem_pkg]

theorem freeSem_other {j : Fin 256} (h : j ≠ n) : ((s.freeSem ch jc n).chan[ch]).sem[j] = (s.chan[ch]).sem[j] := by
  obtain ⟨-, e⟩ | ⟨-, e⟩ := freeSem_cases s ch jc n
  · rw [e]
  · rw [e, State.modSem_same]
    exact (set_semAt _ n _).2 j h

theorem freeSem_quiet (h : s.Quiet ch) : (s.freeSem ch jc n).Quiet ch := by
  obtain ⟨-, e⟩ | ⟨-, e⟩ := freeSem_cases s ch jc n
  · rwa [e]
  · rw [e]
    refine ⟨⟨fun j => by rw [State.modSem_ctx]; exact h.idle.1 j, ?_⟩, ?_, ?_⟩
    · rw [State.modSem_same]; exact h.idle.2
    · rw [State.modSem_same]; exact h.run
    · rw [State.modSem_same]; exact h.move

theorem Sem.freedBy_count (m : Sem) (jc : JcIdx) : (m.freedBy jc).count = m.count := by
  unfold Sem.freedBy
  split <;> rfl

/-- The state of SIG once its count is in. -/
def State.signalled (s : State) (ch : ChIdx) (jc : JcIdx) (n : Fin 256) (k : Nat) : State :=
  (((s.begun ch jc).modX ch jc Ctx.next).tell ch jc n.val).modSem ch n.val fun m =>
    { m with count := min 65535 (((s.chan[ch]).sem[n]).count + k) }

theorem signalled_moves {k : Nat} : State.SemMoves ch jc n s (s.signalled ch jc n k) :=
  State.SemMoves.begun.modX.tell.modSem

@[simp] theorem signalled_ctx {k : Nat} : (s.signalled ch jc n k).ctx ch jc = (s.ctx ch jc).next := by
  simp [State.signalled]

theorem signalled_at {k : Nat} : ((s.signalled ch jc n k).chan[ch]).sem[n] =
    { (s.chan[ch]).sem[n] with count := min 65535 (((s.chan[ch]).sem[n]).count + k) } := by
  simp only [State.signalled, State.modSem_val, State.tell_sem, State.modX_sem, State.begun_sem]

/-- SIG, with its event when the count saturates (R60). -/
def State.sigEnd (s : State) (ch : ChIdx) (jc : JcIdx) (n : Fin 256) (k : Nat) (tg : Bool) : State :=
  let t := if 65535 < ((s.chan[ch]).sem[n]).count + k then (s.signalled ch jc n k).post (srcOf ch jc.val) .semSat [n.val]
    else s.signalled ch jc n k
  if tg then t.freeSem ch jc n else t

theorem sig_goesTo (h : s.fetches ch jc 4) (hk : k ≠ 0) {P : State → Prop} (hq : (s.sigEnd ch jc n k.toNat tg).Quiet ch)
    (hp : P (s.sigEnd ch jc n k.toNat tg)) : goesTo (exec (.sig ch jc n k tg) s) P := by
  refine scalar_goesTo h ?_
  rw [if_neg hk]
  rw [← hq.serve] at hp
  convert hp using 2
  unfold State.sigEnd State.semAdd State.freeSem
  have e : (((s.begun ch jc).modX ch jc Ctx.next).tell ch jc n.val).semAt ch n.val = (s.chan[ch]).sem[n] := by
    rw [semAt_val, State.tell_sem, State.modX_sem, State.begun_sem]
  simp only [e]
  cases tg with
  | false => rfl
  | true => rfl

/-- A signal that does not saturate. -/
theorem sig_fits (h : s.fetches ch jc 4) (hw : s.noWaiters ch) (hk : k ≠ 0) (hc : ((s.chan[ch]).sem[n]).count + k.toNat ≤ 65535) :
    goesTo (exec (.sig ch jc n k tg) s) fun t =>
      s.semOnly t ch jc n
        (let v := { (s.chan[ch]).sem[n] with count := ((s.chan[ch]).sem[n]).count + k.toNat }; if tg then v.freedBy jc else v) ∧
      t.ctx ch jc = (s.ctx ch jc).next := by
  have hv := signalled_at (s := s) (ch := ch) (jc := jc) (n := n) (k := k.toNat)
  rw [Nat.min_eq_right hc] at hv
  have hm : State.SemMoves ch jc n s (s.sigEnd ch jc n k.toNat tg) := by
    unfold State.sigEnd
    rw [if_neg (Nat.not_lt.2 hc)]
    cases tg with
    | false => exact signalled_moves
    | true => exact signalled_moves.freeSem
  have hx : (s.sigEnd ch jc n k.toNat tg).ctx ch jc = (s.ctx ch jc).next := by
    unfold State.sigEnd
    rw [if_neg (Nat.not_lt.2 hc)]
    cases tg with
    | false => exact signalled_ctx
    | true => exact freeSem_ctx.trans signalled_ctx
  have hr : ((s.ctx ch jc).next).st ≠ .waitSem := hw.1 jc
  refine sig_goesTo h hk ((h.quiet hw).of_moves hm (by rw [hx]; exact hr)) ⟨hm.semOnly ?_, hx⟩
  unfold State.sigEnd
  rw [if_neg (Nat.not_lt.2 hc)]
  cases tg with
  | false => exact hv
  | true => exact freeSem_at.trans (congrArg (Sem.freedBy · jc) hv)

/-- What the post of an event leaves of a channel. -/
theorem post_chan (s : State) (src : Nat) (code : Ev) (arg : List Nat) (ch : ChIdx) :
    (s.post src code arg).chan[ch] = { s.chan[ch] with reg := ((s.post src code arg).chan[ch]).reg } := by
  obtain ⟨he, -⟩ := ((State.post_does s src code arg).1.2.2.2 ch)
  rw [← he]

theorem ctx_of_chan (e : t.chan[ch] = { s.chan[ch] with reg := (t.chan[ch]).reg }) (j : JcIdx) : t.ctx ch j = s.ctx ch j := by
  unfold State.ctx
  rw [e]

theorem State.Quiet.of_chan (h : s.Quiet ch) (e : t.chan[ch] = { s.chan[ch] with reg := (t.chan[ch]).reg }) : t.Quiet ch := by
  refine ⟨⟨fun j => ?_, by rw [e]; exact h.idle.2⟩, by rw [e]; exact h.run, by rw [e]; exact h.move⟩
  rw [ctx_of_chan e]
  exact h.idle.1 j

/-- A signal that saturates posts SEM_SAT. -/
theorem sig_saturates (h : s.fetches ch jc 4) (hw : s.noWaiters ch) (hk : k ≠ 0)
    (hc : 65535 < ((s.chan[ch]).sem[n]).count + k.toNat) :
    goesTo (exec (.sig ch jc n k tg) s) fun t =>
      ((t.chan[ch]).sem[n]).count = 65535 ∧ t.ctx ch jc = (s.ctx ch jc).next ∧ s.postedBy t (srcOf ch jc.val) ∧
      t.pkg = (s.post (srcOf ch jc.val) .semSat [n.val]).pkg ∧
      ∀ j : Fin 256, j ≠ n → (t.chan[ch]).sem[j] = (s.chan[ch]).sem[j] := by
  obtain ⟨u, hu⟩ : ∃ u, u = s.signalled ch jc n k.toNat := ⟨_, rfl⟩
  obtain ⟨p, hp⟩ : ∃ p, p = u.post (srcOf ch jc.val) .semSat [n.val] := ⟨_, rfl⟩
  have hm : State.SemMoves ch jc n s u := hu ▸ signalled_moves
  have hux : u.ctx ch jc = (s.ctx ch jc).next := hu ▸ signalled_ctx
  have hr : ((s.ctx ch jc).next).st ≠ .waitSem := hw.1 jc
  have hq : u.Quiet ch := (h.quiet hw).of_moves hm (by rw [hux]; exact hr)
  have hpk := (hm.events.post (src := srcOf ch jc.val) (code := .semSat) (arg := [n.val])).pkg
  have hpc := post_chan u (srcOf ch jc.val) .semSat [n.val] ch
  rw [← hp] at hpk hpc
  have hps : (p.chan[ch]).sem = (u.chan[ch]).sem := by rw [hpc]
  have hpx : p.ctx ch jc = (s.ctx ch jc).next := (ctx_of_chan hpc jc).trans hux
  have hpq : p.Quiet ch := hq.of_chan hpc
  have hpost : s.postedBy p (srcOf ch jc.val) := by
    have := (State.post_does s (srcOf ch jc.val) .semSat [n.val]).2
    unfold State.postedBy State.seqOf at this ⊢
    rw [hpk]
    exact this
  have hcount : ((p.chan[ch]).sem[n]).count = 65535 := by
    rw [hps, hu, signalled_at]
    exact Nat.min_eq_left (by omega)
  have hsem : ∀ j : Fin 256, j ≠ n → (p.chan[ch]).sem[j] = (s.chan[ch]).sem[j] := fun j hj => by rw [hps, hm.sem j hj]
  have he : s.sigEnd ch jc n k.toNat tg = if tg then p.freeSem ch jc n else p := by
    rw [State.sigEnd, if_pos hc, hp, hu]
  cases tg with
  | false => exact sig_goesTo h hk (he ▸ hpq) (he ▸ ⟨hcount, hpx, hpost, hpk, hsem⟩)
  | true =>
    refine sig_goesTo h hk (he ▸ freeSem_quiet hpq) (he ▸ ⟨?_, freeSem_ctx.trans hpx, ?_, freeSem_pkg.trans hpk, fun j hj => ?_⟩)
    · rw [if_pos rfl, freeSem_at, Sem.freedBy_count, hcount]
    · unfold State.postedBy State.seqOf
      rw [if_pos rfl, freeSem_pkg]
      exact hpost
    · rw [if_pos rfl, freeSem_other hj, hsem j hj]

/-- CLAIM of a semaphore that no other context owns. -/
theorem claim_goesTo (h : s.fetches ch jc 4) (hw : s.noWaiters ch) {ra : Fin 32}
    (ho : ((s.chan[ch]).sem[n]).owner = none ∨ ((s.chan[ch]).sem[n]).owner = some jc.val) :
    goesTo (exec (.claim ch jc ra n) s) fun t =>
      s.semOnly t ch jc n ⟨(s.g ch jc ra).toNat % 65536, (s.g ch jc ra).toNat % 65536, some jc.val⟩ ∧
      t.ctx ch jc = (s.ctx ch jc).next := by
  let x := (s.g ch jc ra).toNat % 65536
  have claim (f : Sem → Sem) (hf : f (s.chan[ch]).sem[n] = ⟨x, x, some jc.val⟩) :
      let t := (((s.begun ch jc).modSem ch n.val f).modX ch jc Ctx.next).semServe ch
      s.semOnly t ch jc n ⟨x, x, some jc.val⟩ ∧ t.ctx ch jc = (s.ctx ch jc).next := by
    have hm : State.SemMoves ch jc n s (((s.begun ch jc).modSem ch n.val f).modX ch jc Ctx.next) :=
      State.SemMoves.begun.modSem.modX
    have hx : (((s.begun ch jc).modSem ch n.val f).modX ch jc Ctx.next).ctx ch jc = (s.ctx ch jc).next := by
      rw [State.modX_ctx, State.modSem_ctx, State.begun_ctx]
    have hr : ((s.ctx ch jc).next).st ≠ .waitSem := hw.1 jc
    dsimp only
    rw [((h.quiet hw).of_moves hm (by rw [hx]; exact hr)).serve]
    exact ⟨hm.semOnly (by rw [State.modX_sem, State.modSem_val, State.begun_sem, hf]), hx⟩
  refine scalar_goesTo h ?_
  rw [begun_semAt, State.begun_ctx]
  rcases ho with ho | ho
  · simp only [ho]
    exact claim _ rfl
  · simp only [ho, bne_self_eq_false, Bool.false_eq_true, if_false]
    exact claim _ (by rw [ho]; rfl)

theorem free_goesTo (h : s.fetches ch jc 4) :
    goesTo (exec (.free ch jc n) s) fun t =>
      s.semOnly t ch jc n (((s.chan[ch]).sem[n]).freedBy jc) ∧ t.ctx ch jc = (s.ctx ch jc).next := by
  refine scalar_goesTo (effect := fun s => (s.modX ch jc Ctx.next).freeSem ch jc n) h ⟨?_, ?_⟩
  · exact State.SemMoves.begun.modX.freeSem.semOnly (by rw [freeSem_at, State.modX_sem, State.begun_sem])
  · rw [freeSem_ctx, State.begun_modX_ctx]

/-! ## WAIT -/

/-- The state in which the wait of WAIT is tested. -/
def State.waiting (s : State) (ch : ChIdx) (jc : JcIdx) (n : Fin 256) (k : Nat) (tg : Bool) : State :=
  (s.begun ch jc).modX ch jc fun c => { (c.enter .waitSem) with waitOn := .sem n.val k tg }

section
variable {k : Nat}

theorem waiting_moves : State.SemMoves ch jc n s (s.waiting ch jc n k tg) := State.SemMoves.begun.modX

theorem waiting_ctx : (s.waiting ch jc n k tg).ctx ch jc =
    { ((s.ctx ch jc).enter .waitSem) with waitOn := .sem n.val k tg } := State.begun_modX_ctx ..

theorem waiting_semAt : (s.waiting ch jc n k tg).semAt ch n.val = (s.chan[ch]).sem[n] := by
  rw [semAt_val, State.waiting, State.modX_sem, State.begun_sem]

/-- Starting entries ask as much of a semaphore as before. -/
theorem waiting_claimed (hr : (s.ctx ch jc).st = .run) : (s.waiting ch jc n k tg).claimed ch n.val = s.claimed ch n.val := by
  have hm : State.SemMoves ch jc n s (s.waiting ch jc n k tg) := waiting_moves
  obtain ⟨tlb, hb⟩ := hm.chan
  have hsem : ((s.waiting ch jc n k tg).chan[ch]).sem = (s.chan[ch]).sem := by rw [State.waiting, State.modX_sem, State.begun_sem]
  refine State.SameStart.claimed ⟨hm.only.1, by rw [hb], hsem, by rw [hb], by rw [hb], by rw [hb], fun j => ?_, fun j => ?_⟩ _
  · by_cases e : j = jc
    · rw [e, waiting_ctx, hr]; rfl
    · rw [hm.ctx j e]
  · by_cases e : j = jc
    · rw [e, waiting_ctx]; rfl
    · rw [hm.ctx j e]

/-- The state of WAIT once its count is taken. -/
def State.waitTaken (s : State) (ch : ChIdx) (jc : JcIdx) (n : Fin 256) (k : Nat) (tg : Bool) : State :=
  (((s.waiting ch jc n k tg).modSem ch n.val fun m =>
    { m with count := m.count - k, owner := if tg then some jc.val else m.owner }).learn ch jc fun a => a.sems.contains n.val).modX
      ch jc fun c => { c.unblock with pc := c.pc + 4 }

theorem waitTaken_moves : State.SemMoves ch jc n s (s.waitTaken ch jc n k tg) := waiting_moves.modSem.learn.modX

theorem waitTaken_ctx : (s.waitTaken ch jc n k tg).ctx ch jc =
    { ((s.ctx ch jc).enter .waitSem).enter .run with waitOn := .none, pc := (s.ctx ch jc).pc + 4 } := by
  rw [State.waitTaken, State.modX_ctx, State.learn_ctx, State.modSem_ctx, waiting_ctx]
  rfl

theorem waitTaken_at : ((s.waitTaken ch jc n k tg).chan[ch]).sem[n] = { (s.chan[ch]).sem[n] with
    count := ((s.chan[ch]).sem[n]).count - k, owner := if tg then some jc.val else ((s.chan[ch]).sem[n]).owner } := by
  rw [State.waitTaken, State.modX_sem, State.learn_sem, State.modSem_val, State.waiting, State.modX_sem, State.begun_sem]

theorem waiting_serveOne (hr : (s.ctx ch jc).st = .run) : (s.waiting ch jc n k tg).serveOne ch jc =
    if k + s.claimed ch n.val ≤ ((s.chan[ch]).sem[n]).count then s.waitTaken ch jc n k tg else s.waiting ch jc n k tg := by
  have hst : ((s.waiting ch jc n k tg).ctx ch jc).st = .waitSem := by rw [waiting_ctx]; rfl
  have hwo : ((s.waiting ch jc n k tg).ctx ch jc).waitOn = .sem n.val k tg := by rw [waiting_ctx]
  unfold State.serveOne
  rw [hst, hwo]
  simp only [waiting_claimed hr, waiting_semAt]
  rfl

/-- The wait that WAIT enters is the only one, and is tested at once (R63). -/
theorem waiting_serve (hq : s.Quiet ch) (hr : (s.ctx ch jc).st = .run) : (s.waiting ch jc n k tg).semServe ch =
    if k + s.claimed ch n.val ≤ ((s.chan[ch]).sem[n]).count then s.waitTaken ch jc n k tg else s.waiting ch jc n k tg := by
  have hmv : State.SemMoves ch jc n s (s.waiting ch jc n k tg) := waiting_moves
  have h1 : State.SemMoves ch jc n s ((s.waiting ch jc n k tg).serveOne ch jc) := by
    rw [waiting_serveOne hr]
    split
    · exact waitTaken_moves
    · exact waiting_moves
  have others {t : State} (ht : State.SemMoves ch jc n s t) (x : JcIdx) (hx : x ≠ jc) : t.serveOne ch x = t :=
    serveOne_other (by rw [ht.ctx x hx]; exact hq.idle.1 x)
  have fold := foldl_once (f := fun s jc => State.serveOne s ch jc) (List.nodup_finRange 16) (List.mem_finRange jc)
    (others hmv) (others h1)
  rw [semServe_eq, moverWait_idle (by rw [hmv.mover]; exact hq.idle.2), fold,
    semWake_run (by rw [h1.power]; exact hq.run) (by rw [h1.power]; exact hq.move), waiting_serveOne hr]

end

/-- WAIT enters its wait, and goes on at once when the count covers it and what starting entries ask (R60, R63). -/
theorem wait_goesTo (h : s.fetches ch jc 4) (hw : s.noWaiters ch) (hk : k ≠ 0) {P : State → Prop}
    (hp : P (if k.toNat + s.claimed ch n.val ≤ ((s.chan[ch]).sem[n]).count then s.waitTaken ch jc n k.toNat tg
      else s.waiting ch jc n k.toNat tg)) : goesTo (exec (.wait ch jc n k tg) s) P := by
  refine scalar_goesTo h ?_
  rw [if_neg hk]
  have e := waiting_serve (n := n) (k := k.toNat) (tg := tg) (h.quiet hw) (canIssue_run h.1).2.2.1
  rw [← e] at hp
  exact hp

/-- Settles O10: with nothing else blocked, serving the waiters is the instruction's own wait alone. -/
theorem semaphoreInstructions : Obligations.SemaphoreInstructions := by
  intro s ch jc rd ra n k tg h hw m on freed
  refine ⟨fun hk hc => sig_fits h hw hk hc, fun hk hc => sig_saturates h hw hk hc, fault_goesTo h (if_pos rfl),
    fault_goesTo h (if_pos rfl), fun ho => claim_goesTo h hw ho, free_goesTo h, ?_, fun hk hc => ?_, fun hk hc => ?_⟩
  · exact setRd_goesTo h (by rw [begun_semAt])
  · refine wait_goesTo h hw hk ?_
    rw [if_pos hc]
    refine ⟨waitTaken_moves.semOnly waitTaken_at, ?_⟩
    rw [waitTaken_ctx]
    exact ⟨rfl, rfl, rfl⟩
  · have hn : ¬ k.toNat + s.claimed ch n.val ≤ ((s.chan[ch]).sem[n]).count := fun hle =>
      Nat.not_lt.2 (Nat.le_of_add_right_le hle) hc
    refine wait_goesTo h hw hk ?_
    rw [if_neg hn]
    refine ⟨waiting_moves.semOnly (by rw [State.waiting, State.modX_sem, State.begun_sem]), ?_⟩
    rw [waiting_ctx]
    exact ⟨rfl, rfl, rfl, rfl⟩

end Sys2Proof.Machine
end

section
/-! SUPPORT. The registers of a completion ring (R72, R74). -/

namespace Sys2Proof.Machine

open Sys2Proof

set_option Elab.async false

variable {s t : State} {ch : ChIdx} {jc : JcIdx}

/-- The offset of CH_JC_CQ_LO or CH_JC_CQ_HI. -/
def cqBaseOff (jc : JcIdx) (hi : Bool) : Nat := (if hi then 0x100C else 0x1008) + 0x40 * jc.val

/-- A value of CH_JC_CQ_LO or CH_JC_CQ_HI without its reserved bits. -/
def cqBaseMask (hi : Bool) (val : BitVec 32) : BitVec 32 := val &&& (if hi then 0x8FFFFFFF#32 else 0xFFFFF000#32)

/-- The base write of a ring on the state that has answered it. -/
theorem cqBaseWrite_eq (h : s.reaches (pfOf ch)) (hi : Bool) (val : BitVec 32) :
    exec (.cqBaseWrite ch jc hi val) s = .next
      (if (s.chan[ch]).rd (cqBaseOff jc hi) == cqBaseMask hi val then s.answer .ok 0
      else if (s.ctx ch jc).st == .free then (s.answer .ok 0).modC ch (·.wr (cqBaseOff jc hi) (cqBaseMask hi val))
      else (s.answer .ok 0).postReg (pfOf ch) .cqLocked [jc.val]) :=
  congrArg _ (State.hostWr_reaches h)

theorem cqBaseWrite_free (h : s.reaches (pfOf ch)) {hi : Bool} {val : BitVec 32} (hf : (s.ctx ch jc).st = .free) :
    goesTo (exec (.cqBaseWrite ch jc hi val) s) fun t => (s.answer .ok 0).onlyChan t ch ∧
      Chan.differAt [cqBaseOff jc hi] s.chan[ch] t.chan[ch] ∧ (t.chan[ch]).rd (cqBaseOff jc hi) = cqBaseMask hi val := by
  refine ⟨_, cqBaseWrite_eq h hi val, ?_⟩
  by_cases e : (s.chan[ch]).rd (cqBaseOff jc hi) = cqBaseMask hi val
  · rw [if_pos (by rw [e]; exact beq_self_eq_true _)]
    exact ⟨⟨rfl, rfl, rfl, fun _ _ => rfl⟩, Chan.differAt_refl _ _, e⟩
  · rw [if_neg (by rw [beq_false_of_ne e]; exact Bool.false_ne_true), if_pos (by rw [hf]; rfl)]
    refine ⟨⟨rfl, rfl, rfl, fun c hc => State.modC_other _ _ hc⟩, ?_, ?_⟩
    · rw [State.modC_same]
      exact Chan.differAt_wr _ _ (List.mem_singleton.2 rfl)
    · rw [State.modC_same, Chan.rd_wr_same]

theorem cqBaseWrite_locked (h : s.reaches (pfOf ch)) {hi : Bool} {val : BitVec 32} (hf : (s.ctx ch jc).st ≠ .free)
    (hn : (s.chan[ch]).rd (cqBaseOff jc hi) ≠ cqBaseMask hi val) :
    goesTo (exec (.cqBaseWrite ch jc hi val) s) fun t =>
      State.butEvents (s.answer .ok 0) t ∧ s.postedBy t (ch.val * 4096 + 0x71) := by
  refine ⟨_, cqBaseWrite_eq h hi val, ?_⟩
  rw [if_neg (by rw [beq_false_of_ne hn]; exact Bool.false_ne_true), if_neg (by rw [beq_false_of_ne hf]; exact Bool.false_ne_true)]
  exact State.post_does (s.answer .ok 0) (srcOf ch 0x071) .cqLocked [jc.val]

/-- Unread records if RD of a ring were `rd`. -/
def State.cqUnreadAt (s : State) (ch : ChIdx) (jc : JcIdx) (rd : Nat) : Nat :=
  (s.f ch (R.CH_JC_CQ_PTR_WR jc) + 65536 - rd) % 65536

/-- What a write of RD does once it has been answered. -/
def State.cqRdMove (s : State) (ch : ChIdx) (jc : JcIdx) (rd : Nat) : State :=
  if s.cqUnread ch jc < s.cqUnreadAt ch jc rd then s
  else
    let s := (s.setF ch (R.CH_JC_CQ_PTR_RD jc) rd).cqDrain ch jc (s.ctx ch jc).held.length
    let s := if (s.ctx ch jc).st == .faulted then s.sweep ch jc 2 else s
    s.tryEnd ch jc

theorem cqRdWrite_eq (h : s.reaches (pfOf ch)) (val : BitVec 32) :
    exec (.cqRdWrite ch jc val) s = .next ((s.answer .ok 0).cqRdMove ch jc (bits val.toNat 31 16)) := by
  have e : exec (.cqRdWrite ch jc val) s =
    .next (s.hostWr (pfOf ch) (0x1010 + 0x40 * jc.val) fun s => s.cqRdMove ch jc (bits val.toNat 31 16)) := rfl
  rw [e, State.hostWr_reaches h]

/-- A write past WR is discarded. -/
theorem cqRdMove_past {rd : Nat} (hu : s.cqUnread ch jc < s.cqUnreadAt ch jc rd) : s.cqRdMove ch jc rd = s := if_pos hu

/-- Where no record is held and the job goes on, RD moves and nothing follows. -/
theorem cqRdMove_quiet {rd : Nat} (hu : s.cqUnreadAt ch jc rd ≤ s.cqUnread ch jc) (hh : (s.ctx ch jc).held = [])
    (hs : (s.ctx ch jc).st.stopping = false) : s.cqRdMove ch jc rd = s.setF ch (R.CH_JC_CQ_PTR_RD jc) rd := by
  have hx : (s.setF ch (R.CH_JC_CQ_PTR_RD jc) rd).ctx ch jc = s.ctx ch jc := State.modC_ctx _ _ _ _ _ rfl
  have hf : ((s.ctx ch jc).st == .faulted) = false := beq_false_of_ne fun e => by rw [e] at hs; cases hs
  rw [State.cqRdMove, if_neg (Nat.not_lt.2 hu), hh]
  simp only [List.length_nil, State.cqDrain, hx, hf, Bool.false_eq_true, if_false]
  exact if_pos (by rw [hx, hs]; rfl)

theorem bits_high (v : BitVec 32) : bits v.toNat 31 16 < 65536 := by
  have := v.isLt
  simp only [bits]
  omega

theorem cqRd_ok : (R.CH_JC_CQ_PTR_RD jc).ok := (by decide : 16 ≤ 31 ∧ 31 < 32)
theorem cqWr_ok : (R.CH_JC_CQ_PTR_WR jc).ok := (by decide : 0 ≤ 15 ∧ 15 < 32)
theorem cqWr_below : (R.CH_JC_CQ_PTR_WR jc).hi < (R.CH_JC_CQ_PTR_RD jc).lo := (by decide : 15 < 16)

/-- Settles O30: each write of a ring's registers is one register write of the channel, or an event alone. -/
theorem completionRing : Obligations.CompletionRing := by
  intro s ch jc hi val hr off new rd unread
  refine ⟨cqBaseWrite_free hr, cqBaseWrite_locked hr, fun hu hh hs => ?_, fun hu => ?_⟩
  · refine ⟨_, cqRdWrite_eq hr val, ?_⟩
    rw [cqRdMove_quiet (s := s.answer .ok 0) hu hh hs]
    refine ⟨⟨rfl, rfl, rfl, fun c hc => State.setF_other _ _ _ hc⟩, ?_, ?_, ?_⟩
    · rw [State.setF_same]
      exact Chan.differAt_wr _ _ (List.mem_singleton.2 rfl)
    · unfold State.f
      rw [State.setF_same, Chan.fld_setFld_same _ _ _ cqRd_ok]
      exact Nat.mod_eq_of_lt (bits_high val)
    · unfold State.f
      rw [State.setF_same, Chan.fld_setFld_other _ _ _ _ cqRd_ok cqWr_ok (.inr (.inr cqWr_below))]
      rfl
  · rw [cqRdWrite_eq hr, cqRdMove_past (s := s.answer .ok 0) hu]

end Sys2Proof.Machine
end

section
/-! SUPPORT. The rows of wide instructions: each issues its words under the form of its operation (R49, Table 2.7). -/

namespace Sys2Proof.Machine

open Sys2Proof

set_option Elab.async false

variable {s t : State} {ch : ChIdx} {jc : JcIdx}

/-! ## Words that carry what their row fixes -/

theorem putBits_same {v hi lo x : Nat} (h : bits v hi lo = x) : putBits v hi lo x = v := by
  have hx : x % 2 ^ (hi + 1 - lo) = x := by rw [← h]; exact Nat.mod_mod _ _
  have hle : x * 2 ^ lo ≤ v := by
    rw [← h]
    exact (Nat.mul_le_mul_right _ (Nat.mod_le _ _)).trans (Nat.div_mul_le_self v _)
  rw [putBits, hx, h, Nat.sub_add_cancel hle]

theorem asOp_same {e o : Nat} {w : Wide} (he : wEng w = e) (ho : wOp w = o) : asOp e o w = w := by
  unfold asOp
  rw [putBits_same he, putBits_same ho, BitVec.ofNat_toNat, BitVec.setWidth_eq]

theorem asMode_same {hi lo v : Nat} {w : Wide} (h : wPar w hi lo = v) : asMode hi lo v w = w := by
  unfold asMode
  rw [putBits_same h, BitVec.ofNat_toNat, BitVec.setWidth_eq]

/-- The words of a row's command: ENG, OP and mode set to the row's own. -/
def rowWord (r : WideRow) (w : Wide) : Wide :=
  match r.mode with
  | none => asOp r.eng r.op w
  | some (hi, lo, v) => asMode hi lo v (asOp r.eng r.op w)

/-- The bits of PARAM that a row fixes hold its mode. -/
def rowMode (r : WideRow) (w : Wide) : Prop :=
  match r.mode with
  | none => True
  | some (hi, lo, v) => wPar w hi lo = v

theorem extract_eq_bits (w : Wide) (hi lo : Nat) (n : Nat) (h : n = hi + 1 - lo) :
    (w.extractLsb' lo n).toNat = bits w.toNat hi lo := by
  rw [BitVec.extractLsb'_toNat, Nat.shiftRight_eq_div_pow, h, bits]

theorem fits_iff {r : WideRow} {w : Wide} : r.fits w = true ↔ wEng w = r.eng ∧ wOp w = r.op ∧ rowMode r w := by
  obtain ⟨e, o, m⟩ := r
  unfold WideRow.fits rowMode
  rw [extract_eq_bits w 23 20 4 rfl, extract_eq_bits w 19 12 8 rfl, Bool.and_eq_true, Bool.and_eq_true, beq_iff_eq, beq_iff_eq,
    and_assoc]
  cases m with
  | none => simp [wEng, wOp]
  | some x =>
    obtain ⟨hi, lo, v⟩ := x
    dsimp only
    rw [show (w.extractLsb' (392 + lo) (hi + 1 - lo)).toNat = wPar w hi lo from extract_eq_bits w _ _ _ (by omega), beq_iff_eq]
    rfl

theorem rowWord_same {r : WideRow} {w : Wide} (h : r.fits w = true) : rowWord r w = w := by
  obtain ⟨he, ho, hm⟩ := fits_iff.1 h
  unfold rowWord
  unfold rowMode at hm
  split
  · exact asOp_same he ho
  · next e =>
    rw [e] at hm
    rw [asOp_same he ho, asMode_same hm]

/-! ## The form of a row's operation -/

/-- The form of an operation, by ENG, OP and the low bits of PARAM. -/
def rowForm (eng op mode : Nat) : OpForm :=
  match eng, op with
  | 0, 1 => formGemm
  | 0, 2 => formGemv
  | 0, 3 => formConv
  | 0, _ => formAt
  | 1, 1 => formMap
  | 1, 2 => formReduce
  | 1, _ => formSample
  | 2, 1 => formFork
  | 2, 2 => formPrune
  | 2, 3 => formLookup mode
  | 2, _ => formPin
  | 3, 1 => formRc true
  | 3, 3 => formExport
  | 3, 4 => formImport
  | 3, _ => formRc false
  | 4, _ => formCl
  | 5, 1 => formDispatch
  | 5, _ => formCombine
  | 10, _ => formGather
  | _, 1 => formLsCopy
  | _, _ => formLsFill

theorem formOf_eq (w : Wide) : formOf w = rowForm (wEng w) (wOp w) (wPar w 1 0) := rfl

/-- Each row issues its own words under its own form. -/
theorem exec_row {i : Instr} {w : Wide} {r : WideRow} (h : i.wideRow = some (ch, jc, w, r)) (hm : rowMode r w) :
    exec i s = .next (s.issueWide ch jc (rowWord r w) (rowForm r.eng r.op (wPar w 1 0))) := by
  unfold Instr.wideRow at h
  split at h
  case h_24 | h_25 | h_26 | h_27 =>
    cases h
    rw [show wPar w 1 0 = _ from hm]
    rfl
  case h_42 | h_43 | h_44 | h_45 =>
    cases h
    next ls =>
    fin_cases ls <;> rfl
  case h_55 => cases h
  all_goals
    cases h
    rfl

/-- A row whose words carry what it fixes is the issue of these words. -/
theorem exec_wideRow {i : Instr} {w : Wide} {r : WideRow} (h : i.wideRow = some (ch, jc, w, r)) (hf : r.fits w = true) :
    exec i s = .next (s.issueWide ch jc w (formOf w)) := by
  obtain ⟨he, ho, hm⟩ := fits_iff.1 hf
  rw [exec_row h hm, rowWord_same hf, formOf_eq, he, ho]

/-! ## The attempt at a wide instruction -/

/-- What an attempt does with the outcome of its checks. -/
def State.proceed (s : State) (ch : ChIdx) (jc : JcIdx) (w : Wide) (f : OpForm) (k : Except XErr Iss) : State :=
  match k with
  | .error e => s.issueErr ch jc w e
  | .ok i =>
    match s.drainStores ch jc with
    | .error e => s.memFault ch jc e
    | .ok s => s.enter i f

/-- The attempt that the checks see after the fetch. -/
def State.attempted (s : State) (ch : ChIdx) (jc : JcIdx) (w : Wide) : Iss :=
  ⟨s.begun ch jc, ch, jc, w, (s.ctx ch jc).td, (s.pcOf ch jc).toNat % 2 ^ 32, []⟩

theorem attempt_eq (h : (s.vaRead ch (s.ctx ch jc).pc.toNat 64).isOk = true) (w : Wide) (f : OpForm) :
    s.attempt ch jc w f = (s.begun ch jc).proceed ch jc w f ((s.attempted ch jc w).checks f) := by
  rw [← State.vaRead_congr (s.issued_sight ch jc)] at h
  have e : s.attempted ch jc w =
      ⟨s.begun ch jc, ch, jc, w, ((s.begun ch jc).ctx ch jc).td, (s.begun ch jc).pcArg ch jc, []⟩ := by
    unfold State.pcArg
    rw [State.begun_ctx]
    rfl
  rw [e]
  unfold State.attempt State.begun
  dsimp only
  split
  · next e' he => rw [he] at h; cases h
  · rfl

theorem checks_align {i : Iss} (f : OpForm) (h : i.pc % 64 ≠ 0) : i.checks f = .error (i.fault 0x13) :=
  if_pos (by simpa using h)

theorem checks_illegal {i : Iss} (f : OpForm) (ha : i.pc % 64 = 0) (h : wideIllegal i.w = true) :
    i.checks f = .error (i.fault 0x12) := by
  rw [Iss.checks, if_neg (by simp [ha]), if_pos h]

theorem checks_sem {i : Iss} (f : OpForm) (ha : i.pc % 64 = 0) (h : wideIllegal i.w = false) (hs : semIllegal i.w = true) :
    i.checks f = .error (i.fault 0x16) := by
  rw [Iss.checks, if_neg (by simp [ha]), if_neg (by simp [h]), if_pos hs]

/-- A fault at the checks stops the job, with the instruction's engine. -/
theorem issueErr_stopped {w : Wide} {status arg : Nat} (h : status ≠ 0x25) :
    (s.issueErr ch jc w (xerr status arg)).stoppedBy ch jc status (bits w.toNat 23 20) := by
  unfold State.issueErr
  rw [show (xerr status arg).status = status from rfl, if_neg (by simpa using h)]
  exact issueFault_stopped ..

/-! ## Faults at the address and the encoding -/

/-- The instruction word `w` is the command of a row, or an illegal wide one. -/
def carriesWide (i : Instr) (ch : ChIdx) (jc : JcIdx) (w : Wide) (r : WideRow) : Prop :=
  (i.wideRow = some (ch, jc, w, r) ∧ r.fits w = true) ∨ (i = .illegalOp ch jc w ∧ bits w.toNat 31 26 = 0x3F)

/-- An attempt that fails at its address or its encoding, by a row's command or an illegal one, stops its job. -/
theorem wide_stops {i : Instr} {w : Wide} {r : WideRow} {status : Nat} (hc : s.canIssue ch jc = true)
    (hf : (s.vaRead ch (s.ctx ch jc).pc.toNat 64).isOk = true) (hi : carriesWide i ch jc w r)
    (hs : status ∈ [0x12, 0x13, 0x15, 0x16])
    (hk : ∀ u : State, Iss.checks ⟨u, ch, jc, w, (s.ctx ch jc).td, (s.pcOf ch jc).toNat % 2 ^ 32, []⟩ (formOf w) =
      .error (xerr status ((s.pcOf ch jc).toNat % 2 ^ 32))) :
    goesTo (exec i s) fun t => t.stoppedBy ch jc status (bits w.toNat 23 20) := by
  have ha : (s.attempt ch jc w (formOf w)).stoppedBy ch jc status (bits w.toNat 23 20) := by
    rw [attempt_eq hf, show (s.attempted ch jc w).checks (formOf w) = _ from hk (s.begun ch jc)]
    exact issueErr_stopped fun e => by subst e; revert hs; decide
  rcases hi with ⟨hr, hfit⟩ | ⟨rfl, hp⟩
  · exact ⟨_, exec_wideRow hr hfit, by rw [State.issueWide, if_pos hc]; exact ha⟩
  · refine ⟨s.wideFault ch jc w, ?_, ?_⟩
    · refine congrArg _ ((if_neg ?_).trans (if_pos ?_))
      · rw [hc]; decide
      · rw [hp]; rfl
    · have e : s.wideFault ch jc w = s.attempt ch jc w (formOf w) := by
        unfold State.wideFault
        rw [show Iss.checks ⟨s, ch, jc, w, (s.ctx ch jc).td, s.pcArg ch jc, []⟩ (formOf w) = _ from hk s]
        exact if_pos (List.contains_iff_mem.2 hs)
      rw [e]
      exact ha

/-- Settles O27: the first three checks read the program counter and the words alone. -/
theorem wideIssueFaults : Obligations.WideIssueFaults := by
  intro i ch jc w r s hc hf hi stops aligned
  refine ⟨fun ha => ?_, fun ha hw => ?_, fun ha hw hs => ?_⟩
  · exact wide_stops hc hf hi (by decide) fun u => checks_align _ ha
  · exact wide_stops hc hf hi (by decide) fun u => checks_illegal _ ha hw
  · exact wide_stops hc hf hi (by decide) fun u => checks_sem _ ha hw hs

end Sys2Proof.Machine
end

section
/-! SUPPORT. A wide instruction that passes its checks joins its queue (R58, R66). -/

namespace Sys2Proof.Machine

open Sys2Proof

set_option Elab.async false

variable {s t u v : State} {ch : ChIdx} {jc : JcIdx}

/-- A change of a channel that keeps its queues keeps every queue. -/
theorem State.modC_eq {c : ChIdx} {e : Fin 11} {f : Chan → Chan} (h : (f s.chan[ch]).q = (s.chan[ch]).q) :
    (s.modC ch f).eq c e = s.eq c e := by
  unfold State.eq
  by_cases hc : c = ch
  · subst hc; rw [State.modC_same, h]
  · rw [State.modC_other _ _ hc]

theorem State.modQ_eqOther {e x : Fin 11} {f : EngQ → EngQ} (h : x ≠ e) : (s.modQ ch e f).eq ch x = s.eq ch x := by
  unfold State.eq
  rw [State.modQ_same]
  exact Vector.getElem_set_ne e.isLt x.isLt fun h' => h (Fin.ext h'.symm)

/-- Checks that pass change the resolved sizes alone. -/
theorem checks_ok {i k : Iss} {f : OpForm} (h : i.checks f = .ok k) : k = { i with size := k.size } := by
  unfold Iss.checks at h
  iterate 4
    split at h
    · cases h
  split at h
  · cases h
  · dsimp only at h
    split at h
    · cases h
    · cases h; rfl

/-- Draining its stores takes them from a context and changes nothing else of it. -/
theorem drainStores_ctx (h : s.drainStores ch jc = .ok u) : u.ctx ch jc = { s.ctx ch jc with stores := [] } := by
  unfold State.drainStores at h
  split at h
  · cases h
  · next d hd =>
    have start : Gives (State.SeqKept ch s) (Except.ok s : Except MemErr State) := State.SeqKept.refl
    have hk : State.SeqKept ch s d := (gives_foldl (fun x st hx => by
      cases x with
      | error e => trivial
      | ok t => exact hx.vaWrite) start).of_ok hd
    cases h
    rw [State.modX_ctx, hk.ctx jc]

/-! ## The entry that joins -/

/-- The entry of an instruction that joins its queue, issued as number `seq` and as entry `order` of its channel. -/
def Iss.entry (i : Iss) (f : OpForm) (aux : List Nat) (seq order : Nat) : Entry :=
  ⟨i.jc.val, (engOf (wEng i.w)).val, i.w, i.td, i.size, seq, order, i.zeroArg f, aux,
    0, false, false, false, 0, false, false, none, [], 0, false, []⟩

/-- An instruction that passed its checks is in its queue: the last step of an issue. -/
def State.join (v : State) (i : Iss) (e : Entry) : State :=
  ((v.modQ i.ch (engOf (wEng i.w)) fun q => { q with waiting := q.waiting ++ [e] }).modC i.ch fun c =>
    { c with sched := { c.sched with order := c.sched.order + 1 } }).modX i.ch i.jc fun c =>
      { c with st := .run, pc := c.pc + 64, job := { c.job with issued := c.job.issued + 1 } }

theorem enter_room {i : Iss} {f : OpForm} {aux : List Nat} (ha : f.atIssue { i with s := u } = .ok (v, aux))
    (hr : (u.eq i.ch (engOf (wEng i.w))).room i.jc = true) :
    u.enter i f = v.join i (i.entry f aux (u.ctx i.ch i.jc).job.issued ((u.chan[i.ch]).sched.order)) := by
  unfold State.enter
  rw [ha]
  exact if_neg (by rw [hr]; decide)

theorem enter_full {i : Iss} {f : OpForm} {aux : List Nat} (ha : f.atIssue { i with s := u } = .ok (v, aux))
    (hr : (u.eq i.ch (engOf (wEng i.w))).room i.jc = false) :
    ∃ x, State.SeqKept i.ch u x ∧ u.enter i f = x.modX i.ch i.jc fun c => { c with st := .waitQueue, wide := i.w } := by
  refine ⟨if (u.ctx i.ch i.jc).st == .waitQueue then u else u.satF i.ch (fullStalls (engOf (wEng i.w)).val) 1, ?_, ?_⟩
  · exact State.SeqKept.refl.ite State.SeqKept.refl.satF
  · unfold State.enter
    rw [ha]
    exact if_pos (by rw [hr]; decide)

/-! ## What joining changes -/

section
variable {i : Iss} {e : Entry}

theorem join_chan : (v.join i e).chan[i.ch] = { v.chan[i.ch] with
    q := (v.chan[i.ch]).q.set (engOf (wEng i.w)) { v.eq i.ch (engOf (wEng i.w)) with
      waiting := (v.eq i.ch (engOf (wEng i.w))).waiting ++ [e] }
    sched := { (v.chan[i.ch]).sched with order := (v.chan[i.ch]).sched.order + 1 }
    ctx := ((v.join i e).chan[i.ch]).ctx } := by
  rw [State.join, State.modX_same, State.modC_same, State.modQ_same]

theorem join_reg : ((v.join i e).chan[i.ch]).reg = (v.chan[i.ch]).reg := by rw [join_chan]

theorem join_sem : ((v.join i e).chan[i.ch]).sem = (v.chan[i.ch]).sem := by rw [join_chan]

theorem join_mem : ((v.join i e).chan[i.ch]).mem = (v.chan[i.ch]).mem := by rw [join_chan]

theorem join_eq : (v.join i e).eq i.ch (engOf (wEng i.w)) = { v.eq i.ch (engOf (wEng i.w)) with
    waiting := (v.eq i.ch (engOf (wEng i.w))).waiting ++ [e] } := by
  rw [State.eq, join_chan]
  simp

theorem join_run : ((v.join i e).eq i.ch (engOf (wEng i.w))).run = (v.eq i.ch (engOf (wEng i.w))).run := by rw [join_eq]

theorem join_eqOther {x : Fin 11} (h : x ≠ engOf (wEng i.w)) : (v.join i e).eq i.ch x = v.eq i.ch x := by
  rw [State.join, State.modX, State.modC_eq rfl, State.modC_eq rfl, State.modQ_eqOther h]

theorem join_ctx : (v.join i e).ctx i.ch i.jc =
    { v.ctx i.ch i.jc with st := .run, pc := (v.ctx i.ch i.jc).pc + 64,
                           job := { (v.ctx i.ch i.jc).job with issued := (v.ctx i.ch i.jc).job.issued + 1 } } := by
  rw [State.join, State.modX_ctx, State.modC_ctx _ _ _ _ _ rfl, State.modQ, State.modC_ctx _ _ _ _ _ rfl]

theorem join_thread : ((v.join i e).ctx i.ch i.jc).st = .run ∧ ((v.join i e).ctx i.ch i.jc).pc = (v.ctx i.ch i.jc).pc + 64 ∧
    ((v.join i e).ctx i.ch i.jc).job.issued = (v.ctx i.ch i.jc).job.issued + 1 ∧
    ((v.join i e).ctx i.ch i.jc).g = (v.ctx i.ch i.jc).g := by
  rw [join_ctx]
  exact ⟨rfl, rfl, rfl, rfl⟩

theorem join_ctxOther {j : JcIdx} (h : j ≠ i.jc) : (v.join i e).ctx i.ch j = v.ctx i.ch j := by
  rw [State.join, State.modX_ctxOther _ _ _ h, State.modC_ctx _ _ _ _ _ rfl, State.modQ, State.modC_ctx _ _ _ _ _ rfl]

theorem join_chanOther {c : ChIdx} (h : c ≠ i.ch) : (v.join i e).chan[c] = v.chan[c] := by
  rw [State.join, State.modX_otherC _ _ _ h, State.modC_other _ _ h, State.modQ, State.modC_other _ _ h]

end

/-- Settles O26: with its checks passed and its stores drained, what is left of the issue is to join, or to wait. -/
theorem wideJoinsItsQueue : Obligations.WideJoinsItsQueue := by
  intro i ch jc w r s u v k aux hf hk hd ha eng joined
  obtain ⟨size, rfl⟩ : ∃ size, k = ⟨s.begun ch jc, ch, jc, w, (s.ctx ch jc).td, (s.pcOf ch jc).toNat % 2 ^ 32, size⟩ :=
    ⟨k.size, checks_ok hk⟩
  have goesOn : s.attempt ch jc w (formOf w) =
      u.enter ⟨s.begun ch jc, ch, jc, w, (s.ctx ch jc).td, (s.pcOf ch jc).toNat % 2 ^ 32, size⟩ (formOf w) := by
    rw [attempt_eq hf]
    unfold State.proceed State.attempted
    rw [hk]
    dsimp only
    rw [hd]
  have joins (hroom : (u.eq ch eng).room jc = true) : joined (s.attempt ch jc w (formOf w)) := by
    rw [goesOn, enter_room ha hroom]
    obtain ⟨hst, hpc, his, hg⟩ := join_thread
    refine ⟨rfl, fun c hc => join_chanOther hc, ⟨_, congrArg EngQ.waiting join_eq, rfl, rfl, rfl, rfl, rfl, rfl, rfl, rfl, rfl⟩,
      join_run, fun e he => join_eqOther he, fun j hj => join_ctxOther hj,
      hst, hpc, his, hg,
      join_sem, join_mem, join_reg⟩
  refine ⟨fun hi hfit hc => ⟨fun hroom => ?_, fun hroom => ?_⟩, fun hcl hst hw hq hroom => ?_⟩
  · exact ⟨_, exec_wideRow hi hfit, by rw [State.issueWide, if_pos hc]; exact joins hroom⟩
  · refine ⟨_, exec_wideRow hi hfit, ?_⟩
    obtain ⟨x, hx, he⟩ := enter_full ha hroom
    dsimp only at hx he
    rw [State.issueWide, if_pos hc, goesOn, he]
    refine ⟨congrArg Ctx.st (State.modX_ctx ..), congrArg Ctx.wide (State.modX_ctx ..), ?_, fun e => ?_⟩
    · rw [State.modX_ctx, hx.ctx jc, drainStores_ctx hd, State.begun_ctx]
      rfl
    · rw [← hx.eq e, State.eq, State.modX_same, State.eq]
  · refine ⟨s.attempt ch jc w (formOf w), ?_, joins hroom⟩
    subst hw
    exact congrArg _ (if_pos (by rw [hcl, hst]; exact hq))

end Sys2Proof.Machine
end

section
/-! SUPPORT. FENCE, YIELD and HALT (R44, R46, R70, R96, R99). -/

namespace Sys2Proof.Machine

open Sys2Proof

set_option Elab.async false

variable {s t u : State} {ch : ChIdx} {jc j : JcIdx} {n : Fin 256}

/-! ## Entries of a context -/

theorem State.begun_eq (s : State) (ch : ChIdx) (jc : JcIdx) (e : Fin 11) : (s.begun ch jc).eq ch e = s.eq ch e := by
  obtain ⟨tlb, h⟩ := s.begun_cases ch jc
  rw [h, State.modC_eq rfl]

theorem State.modX_eq (s : State) (ch : ChIdx) (jc : JcIdx) (f : Ctx → Ctx) (e : Fin 11) :
    (s.modX ch jc f).eq ch e = s.eq ch e := State.modC_eq rfl

theorem entriesOf_congr (h : ∀ e, t.eq ch e = s.eq ch e) (jc : JcIdx) : t.entriesOf ch jc = s.entriesOf ch jc := by
  unfold State.entriesOf
  simp only [h]

theorem runningOf_congr (h : ∀ e, t.eq ch e = s.eq ch e) (jc : JcIdx) : t.runningOf ch jc = s.runningOf ch jc := by
  unfold State.runningOf
  simp only [h]

/-! ## FENCE -/

/-- With the record of who knows of which entry put back, an instruction that moved no semaphore changed its context alone. -/
theorem State.SemMoves.ranOnly_logOf (h : SemMoves ch jc n s t) (hs : (t.chan[ch]).sem = (s.chan[ch]).sem) :
    s.ranOnly (s.logOf t ch) ch jc := by
  obtain ⟨⟨hp, hf, hq, ho⟩, hx, -, tlb, ht⟩ := h
  refine ⟨⟨hp, hf, hq, fun c hc => (State.modC_other _ _ hc).trans (ho c hc)⟩, fun j hj => ?_, tlb, ?_⟩
  · rw [State.logOf, State.modC_ctx _ _ _ _ _ rfl, hx j hj]
  · rw [State.logOf, State.modC_same, ht, hs]

theorem State.logOf_ctx : (s.logOf t ch).ctx ch j = t.ctx ch j := State.modC_ctx _ _ _ _ _ rfl

/-- A FENCE waits exactly while an entry that it covers remains. -/
theorem fenceMet_iff {code : Nat} :
    s.fenceMet ch jc code = !((s.entriesOf ch jc).any fun e => code == 0xF || e.eng == code) := by
  unfold State.fenceMet
  rw [List.not_any_eq_all_not]
  congr 1
  funext e
  rw [Bool.not_or]
  rfl

/-- The code of a FENCE that is not reserved. -/
theorem fence_code {imm : BitVec 16} (h : imm.toNat = 0xF ∨ imm.toNat ≤ 0xA) :
    bits imm.toNat 3 0 = imm.toNat ∧ (bits imm.toNat 15 4 != 0 || (imm.toNat != 0xF && decide (0xA < imm.toNat))) = false := by
  have h4 : bits imm.toNat 15 4 = 0 := by simp only [bits]; omega
  have h0 : bits imm.toNat 3 0 = imm.toNat := by simp only [bits]; omega
  refine ⟨h0, ?_⟩
  rw [h4]
  simp only [bne_self_eq_false, Bool.false_or, Bool.and_eq_false_iff, bne_eq_false_iff_eq, decide_eq_false_iff_not]
  omega

theorem fence_goesTo (h : s.fetches ch jc 4) {imm : BitVec 16} (hi : imm.toNat = 0xF ∨ imm.toNat ≤ 0xA) {P : State → Prop}
    (hp : P (if (s.entriesOf ch jc).any fun e => imm.toNat == 0xF || e.eng == imm.toNat then
        (s.begun ch jc).modX ch jc fun c => { (c.enter .waitFence) with waitOn := .fence imm.toNat }
      else ((s.begun ch jc).fenceLearn ch jc imm.toNat).modX ch jc Ctx.next)) : goesTo (exec (.fence ch jc imm) s) P := by
  obtain ⟨h0, hr⟩ := fence_code hi
  refine scalar_goesTo h ?_
  rw [h0, if_neg (by rw [hr]; decide), fenceMet_iff, entriesOf_congr (State.begun_eq s ch jc)]
  cases hc : (s.entriesOf ch jc).any fun e => imm.toNat == 0xF || e.eng == imm.toNat with
  | false => rw [hc] at hp; exact hp
  | true => rw [hc] at hp; exact hp

/-! ## HALT -/

theorem halt_goesTo (h : s.fetches ch jc 4) (hs : (s.ctx ch jc).stores = []) (he : s.entriesOf ch jc ≠ []) :
    goesTo (exec (.halt ch jc) s) fun t => s.ranOnly t ch jc ∧ t.ctx ch jc = { s.ctx ch jc with st := .halted } := by
  refine scalar_goesTo h ?_
  rw [drainStores_empty (by rw [State.begun_ctx, hs])]
  dsimp only
  rw [modX_modX]
  set t := (s.begun ch jc).modX ch jc fun c => { c with stores := [], st := .halted } with ht
  have hx : t.ctx ch jc = { s.ctx ch jc with stores := [], st := .halted } := by rw [ht, State.begun_modX_ctx]
  have hent : t.entriesOf ch jc ≠ [] := by
    rw [ht, entriesOf_congr (State.modX_eq _ ch jc _), entriesOf_congr (State.begun_eq s ch jc)]
    exact he
  have hend : t.tryEnd ch jc = t := if_pos (by
    rw [hx, Bool.or_eq_true, Bool.not_eq_true', Bool.not_eq_true']
    exact .inr (by simpa using hent))
  rw [hend]
  refine ⟨State.ranOnly_modX s ch jc _, ?_⟩
  rw [hx, ← hs]

/-! ## YIELD -/

/-- The package and the contexts of a channel are as they were. -/
structure State.CtxKept (ch : ChIdx) (s t : State) : Prop where
  pkg : t.pkg = s.pkg
  ctx : ∀ j, t.ctx ch j = s.ctx ch j

namespace State.CtxKept

theorem refl : CtxKept ch s s := ⟨rfl, fun _ => rfl⟩

theorem modC {f : Chan → Chan} (h : CtxKept ch s t) (hf : ∀ c, (f c).ctx = c.ctx := by exact fun _ => rfl) :
    CtxKept ch s (t.modC ch f) := ⟨h.pkg, fun j => by rw [State.modC_ctx _ _ _ _ _ (hf _), h.ctx j]⟩

theorem foldl {α : Type} {f : State → α → State} {l : List α} (hf : ∀ t x, CtxKept ch s t → CtxKept ch s (f t x))
    (h : CtxKept ch s t) : CtxKept ch s (l.foldl f t) := by
  induction l generalizing t with
  | nil => exact h
  | cons x l ih => exact ih (hf t x h)

theorem modQ {e : Fin 11} {f : EngQ → EngQ} (h : CtxKept ch s t) : CtxKept ch s (t.modQ ch e f) := h.modC

theorem modLink {p : LinkIdx} {f : Link → Link} (h : CtxKept ch s t) : CtxKept ch s (t.modLink ch p f) := by
  unfold State.modLink State.modFab
  exact h.modC

theorem unreserve {order : Nat} (h : CtxKept ch s t) : CtxKept ch s (t.unreserve ch order) := by
  unfold State.unreserve
  exact h.foldl fun _ _ ht => ht.modLink

theorem clYield (h : CtxKept ch s t) : CtxKept ch s (t.clYield ch jc) := by
  unfold State.clYield
  exact h.foldl fun _ _ ht => ht.modQ.unreserve

theorem modAtomic {f : Entry → Entry} (h : CtxKept ch s t) : CtxKept ch s (t.modAtomic ch jc f) := by
  unfold State.modAtomic
  exact h.modC

end State.CtxKept

/-- The program counter, registers and descriptors of a context. -/
def Ctx.thread (c : Ctx) : DWord × Vector DWord 32 × Vector Desc 64 := (c.pc, c.g, c.td)

theorem modX_thread {f : Ctx → Ctx} {k : JcIdx} (hf : ∀ c, (f c).thread = c.thread) :
    ((s.modX ch k f).ctx ch j).thread = (s.ctx ch j).thread := by
  by_cases e : j = k
  · rw [e, State.modX_ctx, hf]
  · rw [State.modX_ctxOther _ _ _ e]

theorem chargeOne_thread : ((s.chargeOne ch jc).ctx ch j).thread = (s.ctx ch j).thread := by
  unfold State.chargeOne
  extract_lets c payer s1 s2
  have h1 : (s1.ctx ch j).thread = (s.ctx ch j).thread := modX_thread fun _ => rfl
  have h2 : (s2.ctx ch j).thread = (s1.ctx ch j).thread := modX_thread fun _ => rfl
  split
  · rw [State.modC_ctx _ _ _ _ _ rfl, h2, h1]
  · exact h2.trans h1

theorem chargeOne_pkg : (s.chargeOne ch jc).pkg = s.pkg := by
  unfold State.chargeOne
  extract_lets
  split <;> rfl

theorem chargeOne_eq {e : Fin 11} : (s.chargeOne ch jc).eq ch e = s.eq ch e := by
  unfold State.chargeOne
  extract_lets c payer s1 s2
  have h2 : s2.eq ch e = s.eq ch e := (State.modX_eq ..).trans (State.modX_eq ..)
  split
  · rw [State.modC_eq rfl, h2]
  · exact h2

/-- The end of a slice, by YIELD: the context waits for another, and its thread stays where it was. -/
theorem releaseSlice_yields : (s.releaseSlice ch jc false false true).pkg = s.pkg ∧
    ∃ resume job sched, (s.releaseSlice ch jc false false true).ctx ch jc = { s.ctx ch jc with
      resume := resume, job := job, sched := sched,
      st := if (s.runningOf ch jc).isEmpty then .ready else .preempted } ∧ sched.slice = false := by
  unfold State.releaseSlice
  extract_lets running atomic s1 s2 s3
  have hk : State.CtxKept ch s1 s3 := State.CtxKept.refl.modAtomic.clYield
  have h1 : s1.ctx ch jc = _ := State.modX_ctx ..
  split
  · exact ⟨hk.pkg, _, _, _, (hk.ctx jc).trans h1, rfl⟩
  · exact ⟨hk.pkg, _, _, _, (hk.modC.ctx jc).trans h1, rfl⟩

/-- YIELD with a slice: what it charges, and the end of the slice. -/
def State.charged (s : State) (ch : ChIdx) (jc : JcIdx) : State := if (s.ctx ch jc).sched.busy then s.chargeOne ch jc else s

theorem charged_keeps : (s.charged ch jc).pkg = s.pkg ∧ ((s.charged ch jc).ctx ch jc).thread = (s.ctx ch jc).thread ∧
    (s.charged ch jc).runningOf ch jc = s.runningOf ch jc := by
  unfold State.charged
  split
  · exact ⟨chargeOne_pkg, chargeOne_thread, runningOf_congr (fun e => chargeOne_eq) jc⟩
  · exact ⟨rfl, rfl, rfl⟩

theorem yield_goesTo (h : s.fetches ch jc 4) : goesTo (exec (.yield ch jc) s) fun t =>
    t.pkg = s.pkg ∧ (t.ctx ch jc).pc = s.pcOf ch jc + 4 ∧ (t.ctx ch jc).g = (s.ctx ch jc).g ∧
      (t.ctx ch jc).td = (s.ctx ch jc).td ∧ (t.ctx ch jc).sched.slice = false ∧
      ((s.ctx ch jc).sched.slice = true → (t.ctx ch jc).st = if (s.runningOf ch jc).isEmpty then .ready else .preempted) ∧
      ((s.ctx ch jc).sched.slice = false → (t.ctx ch jc).st = .run) := by
  refine scalar_goesTo h ?_
  obtain ⟨u, hu⟩ : ∃ u, u = (s.begun ch jc).modX ch jc Ctx.next := ⟨_, rfl⟩
  have hx : u.ctx ch jc = (s.ctx ch jc).next := hu ▸ State.begun_modX_ctx ..
  have hp : u.pkg = s.pkg := hu ▸ State.begun_pkg ..
  have hr : u.runningOf ch jc = s.runningOf ch jc := by
    rw [hu, runningOf_congr (State.modX_eq _ ch jc _), runningOf_congr (State.begun_eq s ch jc)]
  have hs : (u.ctx ch jc).sched.slice = (s.ctx ch jc).sched.slice := congrArg (fun c => c.sched.slice) hx
  dsimp only
  rw [← hu, hs]
  cases hsl : (s.ctx ch jc).sched.slice with
  | false =>
    simp only [Bool.false_eq_true, if_false, hx]
    exact ⟨hp, rfl, rfl, rfl, hsl, fun e => (by cases e), fun _ => (canIssue_run h.1).2.2.1⟩
  | true =>
    simp only [if_true]
    obtain ⟨kp, kc, kr⟩ := charged_keeps (s := u) (ch := ch) (jc := jc)
    obtain ⟨rp, resume, job, sched, rx, rs⟩ := releaseSlice_yields (s := u.charged ch jc) (ch := ch) (jc := jc)
    have rx' : ((u.charged ch jc).releaseSlice ch jc false false true).ctx ch jc = _ := rx
    have hk : ((u.charged ch jc).ctx ch jc).thread = ((s.ctx ch jc).next).thread := kc.trans (congrArg Ctx.thread hx)
    rw [show (if (u.ctx ch jc).sched.busy then u.chargeOne ch jc else u) = u.charged ch jc from rfl, rx']
    refine ⟨rp.trans (kp.trans hp), congrArg (·.1) hk, congrArg (·.2.1) hk, congrArg (·.2.2) hk, rs, fun _ => ?_, fun e => by cases e⟩
    rw [kr, hr]

/-- Settles O11: each of the three moves its own context alone, and YIELD the scheduler with it. -/
theorem controlInstructions : Obligations.ControlInstructions := by
  intro s ch jc h
  refine ⟨fun imm hi => ?_, yield_goesTo h, halt_goesTo h⟩
  intro covered
  refine fence_goesTo h hi ?_
  cases hc : covered with
  | false =>
    rw [if_neg (show ¬ covered = true by rw [hc]; decide)]
    have hm : State.SemMoves ch jc 0 s (((s.begun ch jc).fenceLearn ch jc imm.toNat).modX ch jc Ctx.next) :=
      State.SemMoves.begun.learn.modX
    refine ⟨hm.ranOnly_logOf ?_, fun _ => ?_, Bool.noConfusion⟩
    · rw [State.modX_sem, State.fenceLearn, State.learn_sem, State.begun_sem]
    · rw [State.modX_ctx, State.fenceLearn, State.learn_ctx, State.begun_ctx]
      rfl
  | true =>
    rw [if_pos hc]
    have hm : State.SemMoves ch jc 0 s ((s.begun ch jc).modX ch jc fun c =>
      { (c.enter .waitFence) with waitOn := .fence imm.toNat }) := State.SemMoves.begun.modX
    refine ⟨hm.ranOnly_logOf ?_, Bool.noConfusion, fun _ => ?_⟩
    · rw [State.modX_sem, State.begun_sem]
    · rw [State.begun_modX_ctx]
      exact ⟨rfl, rfl, rfl, rfl⟩

end Sys2Proof.Machine
end

section
/-! SUPPORT. An entry that starts (R61, R67): what its start leaves of the channel, and the pass that begins. -/

namespace Sys2Proof.Machine

open Sys2Proof

set_option Elab.async false

variable {r s t u : State} {ch : ChIdx} {jc : JcIdx} {e x : Entry} {eng : Fin 11}

/-! ## Bytes that become unpredictable -/

theorem moves_spWrite {space addr : Nat} {bs : List Byte} (h : r.MovesOnly s) (hw : s.spWrite ch space addr bs = .ok t) :
    r.MovesOnly t := by
  unfold State.spWrite at hw
  split at hw
  · cases hw; exact State.moves_modMem h
  · cases hw; exact State.moves_modMem h
  · split at hw
    · next hv => cases hw; exact State.moves_vaWrite h hv
    · cases hw

theorem moves_blur {space : Nat} {as : List Nat} (h : r.MovesOnly s) : r.MovesOnly (s.blur ch space as) := by
  unfold State.blur
  split
  · exact h
  · refine State.moves_foldl (fun t a ht => ?_) _ _ (State.moves_draw h)
    split
    · next hw => exact moves_spWrite ht hw
    · exact ht

theorem moves_blurShared {outs others : List Tens} (h : r.MovesOnly s) : r.MovesOnly (s.blurShared ch outs others) :=
  State.moves_foldl (fun _ _ => moves_blur) _ _ h

theorem moves_race {order : Nat} (h : r.MovesOnly s) : r.MovesOnly (s.race ch order) := by
  unfold State.race
  extract_lets
  split
  · exact h
  · exact moves_blurShared (moves_blurShared h)

/-! ## What a start leaves -/

/-- What decides who is served and what an engine holds: the states of the contexts, the queues, the copy mover and the power
state of a channel. -/
def Chan.startSide (c : Chan) : (JcIdx → CtxSt) × Vector EngQ 11 × Mover × Power :=
  (fun j => (c.ctx[j]).st, c.q, c.mover, c.power)

/-- `Chan.startSide` is as it was. -/
def State.SideKept (ch : ChIdx) (r s : State) : Prop := r.SamePart Chan.startSide ch s

namespace State.SideKept

theorem refl : SideKept ch s s := rfl

theorem trans (h : SideKept ch r s) (g : SideKept ch s t) : SideKept ch r t := SamePart.trans h g

theorem foldl {α : Type} {f : State → α → State} {l : List α} (hf : ∀ t x, SideKept ch r t → SideKept ch r (f t x))
    (h : SideKept ch r s) : SideKept ch r (l.foldl f s) := SamePart.foldl hf h

theorem modC {f : Chan → Chan} (h : SideKept ch r s) (hf : ∀ c, (f c).startSide = c.startSide := by exact fun _ => rfl) :
    SideKept ch r (s.modC ch f) := SamePart.modC h hf

theorem of_moves (h : SideKept ch r s) (hm : s.MovesOnly t) : SideKept ch r t := h.trans (by
  unfold SideKept SamePart
  rw [hm.2 ch]
  rfl)

/-- A change of a context that keeps its state. -/
theorem modX {f : Ctx → Ctx} (h : SideKept ch r s) (hf : ∀ c, (f c).st = c.st := by exact fun _ => rfl) :
    SideKept ch r (s.modX ch jc f) := h.modC fun c => by
  unfold Chan.startSide
  congr 1
  funext j
  by_cases e : jc.val = j.val
  · simp [e, hf]
  · simp [Vector.getElem_set_ne, e]

theorem modSem {n : Nat} {f : Sem → Sem} (h : SideKept ch r s) : SideKept ch r (s.modSem ch n f) := h.modC

theorem takeWaits {ws : List (Nat × Nat)} (h : SideKept ch r s) : SideKept ch r (s.takeWaits ch ws) :=
  h.foldl fun _ _ ht => ht.modSem

theorem modMx {f : MxSt → MxSt} (h : SideKept ch r s) : SideKept ch r (s.modMx ch f) := h.modC

theorem chargeLanes {n : Nat} (h : SideKept ch r s) : SideKept ch r (s.chargeLanes ch n) := by
  unfold State.chargeLanes State.incF
  exact h.modC.modMx

theorem rcModH {n : Nat} {f : RcEnt → RcEnt} (h : SideKept ch r s) : SideKept ch r (s.rcModH ch n f) := by
  unfold State.rcModH
  split
  · unfold State.rcMod
    exact h.modC.modC
  · exact h

theorem noteStart (h : SideKept ch r s) : SideKept ch r (s.noteStart ch e) := by
  unfold State.noteStart
  have h1 : SideKept ch r (s.modX ch (jcOf e.jc) fun c => { c with sched := { c.sched with busy := true } }) := h.modX
  split
  · exact h1
  · refine SideKept.of_moves ?_ (moves_race (State.moves_refl _))
    unfold State.logStart
    exact h1.modC

/-- Nothing is served where nothing was. -/
theorem quiet (h : SideKept ch s t) (hq : s.Quiet ch) : t.Quiet ch := by
  have hst : ∀ j, (t.ctx ch j).st = (s.ctx ch j).st := fun j => congrFun (congrArg (·.1) h) j
  have hm : (t.chan[ch]).mover = (s.chan[ch]).mover := congrArg (·.2.2.1) h
  have hp : (t.chan[ch]).power = (s.chan[ch]).power := congrArg (·.2.2.2) h
  exact ⟨⟨fun j => by rw [hst]; exact hq.idle.1 j, by rw [hm]; exact hq.idle.2⟩, by rw [hp]; exact hq.run, by rw [hp]; exact hq.move⟩

theorem eq (h : SideKept ch s t) (e : Fin 11) : t.eq ch e = s.eq ch e := by
  have hq : (t.chan[ch]).q = (s.chan[ch]).q := congrArg (·.2.1) h
  unfold State.eq
  rw [hq]

end State.SideKept

theorem State.Quiet.modQ {e : Fin 11} {f : EngQ → EngQ} (h : s.Quiet ch) : (s.modQ ch e f).Quiet ch := by
  refine ⟨⟨fun j => ?_, ?_⟩, ?_, ?_⟩
  · rw [State.modQ, State.modC_ctx _ _ _ _ _ rfl]; exact h.idle.1 j
  · rw [State.modQ_same]; exact h.idle.2
  · rw [State.modQ_same]; exact h.run
  · rw [State.modQ_same]; exact h.move

/-! ## The start checks of a chapter -/

/-- A start gives the state it found, but for its channel's memories, registers and recurrent states. -/
def StartKeeps (ch : ChIdx) (f : State → ChIdx → Entry → Try (State × Entry)) : Prop :=
  ∀ s e, Gives (fun x => State.SideKept ch s x.1) (f s ch e)

theorem plainStart_keeps : StartKeeps ch (fun s _ e => .ok (s, e)) := fun _ _ => State.SideKept.refl

theorem epStart_keeps : StartKeeps ch (fun s ch e => .ok (s.chargeLanes ch 16, e)) := fun _ _ => State.SideKept.refl.chargeLanes

theorem atStart_keeps : StartKeeps ch State.atStart := fun _ _ => gives_bind fun _ => State.SideKept.refl

theorem ftStart_keeps : StartKeeps ch State.ftStartEntry := fun _ _ => by
  unfold State.ftStartEntry
  split
  · trivial
  · refine gives_bind fun _ => gives_bind fun _ => gives_ite trivial ?_
    split
    · trivial
    · exact State.SideKept.refl

theorem rcStart_keeps : StartKeeps ch State.rcStart := fun _ _ => by
  unfold State.rcStart
  extract_lets
  refine gives_ite trivial ?_
  split
  · trivial
  · exact gives_ite trivial (State.SideKept.refl.foldl fun _ _ ht => ht.rcModH)

theorem exportStart_keeps : StartKeeps ch State.exportStart := fun _ _ => by
  unfold State.exportStart
  extract_lets
  refine gives_ite trivial ?_
  split
  · trivial
  · exact gives_ite trivial State.SideKept.refl

theorem importStart_keeps : StartKeeps ch State.importStart := fun _ _ => by
  unfold State.importStart
  exact gives_ite trivial (gives_bind fun _ => gives_ite trivial (gives_bind fun _ => State.SideKept.refl))

theorem gtStart_keeps : StartKeeps ch State.gtStart := fun _ _ => gives_bind fun _ => gives_bind fun _ => State.SideKept.refl

theorem runOf_start (w : Wide) : StartKeeps ch (runOf w).start := by
  unfold runOf
  split
  · exact plainStart_keeps
  · exact plainStart_keeps
  · exact plainStart_keeps
  · exact atStart_keeps
  · exact epStart_keeps
  · exact epStart_keeps
  · exact epStart_keeps
  · exact ftStart_keeps
  · exact exportStart_keeps
  · exact importStart_keeps
  · exact rcStart_keeps
  · exact plainStart_keeps
  · exact plainStart_keeps
  · exact gtStart_keeps
  · exact plainStart_keeps

/-! ## The pass that begins -/

/-- What holds back the start of an array pass, and what it leaves alone: `Chan.startSide`, semaphores and memories. -/
def Chan.passSide (c : Chan) : ((JcIdx → CtxSt) × Vector EngQ 11 × Mover × Power) × Vector Sem 256 × ChMem :=
  (c.startSide, c.sem, c.mem)

/-- No start of an array pass is held (R471, R482, R483, R510). -/
def State.passFree (s : State) (ch : ChIdx) : Prop :=
  (s.pwr ch).thermHold = false ∧ s.capHeld ch = false ∧ ∀ cls, s.currentHeld cls = false

theorem passFree_congr (hp : t.pkg = s.pkg) (hw : (t.chan[ch]).power = (s.chan[ch]).power) : t.passFree ch ↔ s.passFree ch := by
  unfold State.passFree State.capHeld State.currentHeld State.stepMa State.pwr
  rw [hp, hw]

theorem takeArray_keeps {b2b : Bool} : s.SamePart Chan.passSide ch (s.takeArray ch e b2b).2 ∧ (s.takeArray ch e b2b).2.pkg = s.pkg := by
  unfold State.takeArray State.modMx
  split
  · exact ⟨State.SamePart.refl, rfl⟩
  · exact ⟨State.SamePart.refl.modC fun _ => rfl, rfl⟩

theorem startPass_keeps {run : OpRun} : s.SamePart Chan.passSide ch (s.startPass ch e run).1 := by
  unfold State.startPass State.modMx
  split
  · exact State.SamePart.refl
  · extract_lets
    split
    · exact State.SamePart.refl
    · exact (State.SamePart.refl.modP).modC fun _ => rfl

/-- The next pass goes on unless it is an array pass that is held. -/
theorem startPass_entry {run : OpRun} : (s.startPass ch e run).2 = { e with going := (s.startPass ch e run).2.going } ∧
    (e.array = false ∨ s.passFree ch → (s.startPass ch e run).2.going = true) := by
  unfold State.startPass
  by_cases ha : e.array = true
  · rw [if_neg (by rw [ha]; decide)]
    dsimp only
    by_cases hh : ((s.chan[ch]).power.thermHold || s.capHeld ch || s.currentHeld (run.cls s ch e)) = true
    · rw [if_pos hh]
      refine ⟨rfl, fun hf => ?_⟩
      obtain hf | ⟨h1, h2, h3⟩ := hf
      · rw [ha] at hf; cases hf
      · have h1' : (s.chan[ch]).power.thermHold = false := h1
        rw [h1', h2, h3] at hh
        cases hh
    · rw [if_neg hh]
      exact ⟨rfl, fun _ => rfl⟩
  · rw [if_pos (by rw [Bool.not_eq_true] at ha; rw [ha]; rfl)]
    exact ⟨rfl, fun _ => rfl⟩

/-! ## The start of an entry -/

theorem engOf_val (e : Fin 11) : engOf e.val = e := Fin.ext (Nat.mod_eq_of_lt e.isLt)

/-- The state in which an entry has left its queue and its waits are taken. -/
def State.taken (s : State) (ch : ChIdx) (e : Entry) : State := ((s.noteStart ch e).pullEntry ch e).takeWaits ch e.waits

theorem taken_quiet (h : s.Quiet ch) : (s.taken ch e).Quiet ch := by
  have hn : (s.noteStart ch e).Quiet ch := State.SideKept.refl.noteStart.quiet h
  have hp : ((s.noteStart ch e).pullEntry ch e).Quiet ch := by unfold State.pullEntry; exact hn.modQ
  exact State.SideKept.refl.takeWaits.quiet hp

theorem taken_gone (he : e.eng = eng.val) : ∀ x ∈ ((s.taken ch e).eq ch eng).waiting, x.order ≠ e.order := by
  have hk : State.SideKept ch ((s.noteStart ch e).pullEntry ch e) (s.taken ch e) := State.SideKept.refl.takeWaits
  rw [hk.eq, State.pullEntry, he, engOf_val, State.modQ_eq]
  intro x hx
  simpa using (List.mem_filter.1 hx).2

/-- The engine runs an entry. -/
def State.holds (s : State) (ch : ChIdx) (e : Entry) : State := s.modQ ch (engOf e.eng) fun q => { q with run := some e }

theorem holds_eq (he : e.eng = eng.val) : (s.holds ch e).eq ch eng = { s.eq ch eng with run := some e } := by
  rw [State.holds, he, engOf_val, State.modQ_eq]

theorem holds_chan : ((s.holds ch e).chan[ch]).sem = (s.chan[ch]).sem ∧ ((s.holds ch e).chan[ch]).mem = (s.chan[ch]).mem := by
  rw [State.holds, State.modQ_same]
  exact ⟨rfl, rfl⟩

theorem State.Quiet.holds (h : s.Quiet ch) : (s.holds ch e).Quiet ch := by
  unfold State.holds
  exact h.modQ

/-- The state in which an entry that started as `x` begins its first pass. -/
def State.firstPass (u : State) (ch : ChIdx) (x : Entry) (run : OpRun) (b2b : Bool) : State :=
  let v := u.takeArray ch x b2b
  let p := v.2.startPass ch { x with cyc := x.cyc + v.1 + run.setup x false } run
  p.1.holds ch p.2

theorem freshEntry_noop {b2b : Bool} (hz : e.zero.isSome = true) : (s.noteStart ch e).freshEntry ch e b2b =
    ((s.taken ch e).noopArray ch { e with started := true } b2b).holds ch { e with started := true, going := true } := by
  have hn : e.zero.isNone = false := by rw [← Option.not_isSome, hz]; rfl
  unfold State.freshEntry
  rw [hn, Bool.false_and, Bool.false_and, if_neg Bool.false_ne_true, if_neg Bool.false_ne_true]
  exact if_pos hz

theorem freshEntry_ok {b2b : Bool} (hz : e.zero = none) (h4 : e.eng ≠ 4) (h5 : e.eng ≠ 5)
    (ho : (s.taken ch e).ownerErr ch { e with started := true } (formOf e.word) = none)
    (hs : (runOf e.word).start (s.taken ch e) ch { e with started := true } = .ok (u, x)) :
    (s.noteStart ch e).freshEntry ch e b2b = u.firstPass ch x (runOf e.word) b2b := by
  unfold State.freshEntry
  rw [if_neg (by simp [h4]), if_neg (by simp [h5])]
  extract_lets s0 run hold t e1
  have ho' : t.ownerErr ch e1 (formOf e.word) = none := ho
  have hs' : run.start t ch e1 = .ok (u, x) := hs
  rw [if_neg (show ¬ e1.zero.isSome = true by rw [show e1.zero = none from hz]; decide), ho']
  dsimp only
  rw [hs']
  rfl

/-- ENTRY_START of the entry that the engine takes, when its start leaves it in no queue and nobody waiting. -/
theorem entryStart_goesTo {b2b : Bool} {P : State → Prop} (hc : s.clocked ch = true) (h4 : eng ≠ 4) (h5 : eng ≠ 5) (h10 : eng ≠ 10)
    (hr : (s.eq ch eng).run = none) (hp : s.pick ch eng = some e) (hm : s.mayHold ch e = true) (hs : e.stopped = false)
    (hg : ∀ x ∈ (((s.noteStart ch e).freshEntry ch e b2b).eq ch eng).waiting, x.order ≠ e.order)
    (hq : ((s.noteStart ch e).freshEntry ch e b2b).Quiet ch) (ht : P ((s.noteStart ch e).freshEntry ch e b2b)) :
    goesTo (exec (.entryStart ch eng b2b) s) P := by
  refine ⟨_, ?_, ht⟩
  have hn : ((((s.noteStart ch e).freshEntry ch e b2b).eq ch eng).waiting.any (·.order == e.order)) = false := by
    rw [List.any_eq_false]
    intro x hx
    simpa using hg x hx
  have e1 : exec (.entryStart ch eng b2b) s = execEntryStart ch eng b2b s := rfl
  rw [e1]
  unfold execEntryStart
  rw [hc, hr]
  simp only [beq_false_of_ne h4, beq_false_of_ne h5, Bool.or_false, Bool.not_true, Option.isSome_none, Bool.false_eq_true, if_false,
    hp, hm, hs, hn]
  rw [show (eng == gtEng) = false from beq_false_of_ne h10, if_neg Bool.false_ne_true, hq.serve]

theorem clocked_quiet (hc : s.clocked ch = true) (hw : s.noWaiters ch) : s.Quiet ch := by
  unfold State.clocked at hc
  simp only [Bool.and_eq_true, beq_iff_eq] at hc
  obtain ⟨⟨-, hp⟩, hm⟩ := hc
  exact ⟨hw, hp, hm⟩

theorem entryStart_idle {b2b : Bool} (h4 : eng ≠ 4) (h5 : eng ≠ 5)
    (h : (s.eq ch eng).run.isSome = true ∨ s.pick ch eng = none) : exec (.entryStart ch eng b2b) s = .next s := by
  have e1 : exec (.entryStart ch eng b2b) s = execEntryStart ch eng b2b s := rfl
  rw [e1]
  unfold execEntryStart
  rcases h with h | h
  · rw [h, Bool.or_true, if_pos rfl]
  · split
    · rfl
    · simp only [beq_false_of_ne h4, beq_false_of_ne h5, Bool.or_false, Bool.false_eq_true, if_false, h]

/-- An entry whose first pass begins runs on its engine. -/
def State.runsAs (u t : State) (ch : ChIdx) (eng : Fin 11) (e x : Entry) : Prop :=
  (∀ y ∈ (t.eq ch eng).waiting, y.order ≠ e.order) ∧ (t.chan[ch]).sem = (u.chan[ch]).sem ∧ (t.chan[ch]).mem = (u.chan[ch]).mem ∧
    ∃ y, (t.eq ch eng).run = some y ∧ y.order = x.order ∧ y.jc = x.jc ∧ y.word = x.word ∧ y.pass = x.pass ∧
      (x.array = false ∨ u.passFree ch → y.going = true)

theorem firstPass_runs {run : OpRun} {b2b : Bool} (hx : x.eng = eng.val)
    (hg : ∀ y ∈ (u.eq ch eng).waiting, y.order ≠ e.order) (hq : u.Quiet ch) :
    u.runsAs (u.firstPass ch x run b2b) ch eng e x ∧ (u.firstPass ch x run b2b).Quiet ch := by
  unfold State.firstPass
  extract_lets v p
  obtain ⟨hv, hvp⟩ : u.SamePart Chan.passSide ch v.2 ∧ v.2.pkg = u.pkg := takeArray_keeps
  have hp : v.2.SamePart Chan.passSide ch p.1 := startPass_keeps
  obtain ⟨hpe, hpg⟩ : p.2 = { x with cyc := x.cyc + v.1 + run.setup x false, going := p.2.going } ∧
      (x.array = false ∨ v.2.passFree ch → p.2.going = true) := startPass_entry
  have hup : u.SamePart Chan.passSide ch p.1 := hv.trans hp
  have side : State.SideKept ch u p.1 := congrArg Prod.fst hup
  have pe : p.2.eng = eng.val := by rw [hpe]; exact hx
  have hfree : v.2.passFree ch ↔ u.passFree ch := passFree_congr hvp (congrArg (fun c => c.1.2.2.2) hv)
  refine ⟨⟨?_, ?_, ?_, p.2, ?_, by rw [hpe], by rw [hpe], by rw [hpe], by rw [hpe], fun h => hpg (h.imp id hfree.2)⟩, ?_⟩
  · rw [holds_eq pe, side.eq]; exact hg
  · rw [holds_chan.1]; exact congrArg (fun c => c.2.1) hup
  · rw [holds_chan.2]; exact congrArg (fun c => c.2.2) hup
  · rw [holds_eq pe]
  · exact (side.quiet hq).modQ

/-! ## ZERO_SHAPE no-ops, and engines without start checks -/

theorem noopArray_cases (s : State) (ch : ChIdx) (e : Entry) (b2b : Bool) :
    ∃ f, s.noopArray ch e b2b = s ∨ s.noopArray ch e b2b = s.modMx ch f := by
  unfold State.noopArray
  split
  · exact ⟨id, .inl rfl⟩
  · exact ⟨_, .inr rfl⟩

/-- A no-op's hold of the array leaves every part of a channel that is not the array's own. -/
theorem noopArray_keeps {α : Type} {g : Chan → α} {b2b : Bool} (hg : ∀ c m, g { c with mx := m } = g c) :
    s.SamePart g ch (s.noopArray ch e b2b) := by
  obtain ⟨f, h | h⟩ := noopArray_cases s ch e b2b
  · rw [h]; exact State.SamePart.refl
  · rw [h]; exact State.SamePart.refl.modC fun c => hg c _

/-- The state in which a no-op holds its engine. -/
def State.noopHeld (s : State) (ch : ChIdx) (e : Entry) (b2b : Bool) : State :=
  ((s.taken ch e).noopArray ch { e with started := true } b2b).holds ch { e with started := true, going := true }

theorem noop_holds {b2b : Bool} (he : e.eng = eng.val) (hq : s.Quiet ch) :
    ((s.noopHeld ch e b2b).eq ch eng).run = some { e with started := true, going := true } ∧
    (∀ x ∈ ((s.noopHeld ch e b2b).eq ch eng).waiting, x.order ≠ e.order) ∧ (s.noopHeld ch e b2b).Quiet ch := by
  have side : State.SideKept ch (s.taken ch e) ((s.taken ch e).noopArray ch { e with started := true } b2b) :=
    noopArray_keeps fun _ _ => rfl
  have held : (s.noopHeld ch e b2b).eq ch eng = _ := holds_eq (e := { e with started := true, going := true }) he
  refine ⟨by rw [held], ?_, (side.quiet (taken_quiet hq)).holds⟩
  rw [held, side.eq]
  exact taken_gone he

theorem noop_sem {b2b : Bool} : ((s.noopHeld ch e b2b).chan[ch]).sem = ((s.taken ch e).chan[ch]).sem :=
  holds_chan.1.trans (noopArray_keeps (g := Chan.sem) fun _ _ => rfl)

/-- The contexts and the memories of a channel. -/
def Chan.ctxMem (c : Chan) : Vector Ctx 16 × ChMem := (c.ctx, c.mem)

theorem taken_ctxMem : (s.noteStart ch e).SamePart Chan.ctxMem ch (s.taken ch e) := by
  have pulled : (s.noteStart ch e).SamePart Chan.ctxMem ch ((s.noteStart ch e).pullEntry ch e) := by
    unfold State.pullEntry State.modQ
    exact State.SamePart.refl.modC fun _ => rfl
  unfold State.taken State.takeWaits State.modSem
  exact pulled.foldl fun _ _ ht => ht.modC fun _ => rfl

theorem noop_ctxMem {b2b : Bool} : (s.noteStart ch e).SamePart Chan.ctxMem ch (s.noopHeld ch e b2b) := by
  unfold State.noopHeld State.holds State.modQ
  exact (taken_ctxMem.trans (noopArray_keeps fun _ _ => rfl)).modC fun _ => rfl

/-- A no-op starts without a change of memory, and of its context the scheduler's part alone. -/
theorem noop_keeps {b2b : Bool} (hz : e.zero.isSome = true) : ((s.noopHeld ch e b2b).chan[ch]).mem = (s.chan[ch]).mem ∧
    ∀ j : JcIdx, { (s.noopHeld ch e b2b).ctx ch j with sched := (s.ctx ch j).sched } = s.ctx ch j := by
  have note : s.noteStart ch e = s.modX ch (jcOf e.jc) fun c => { c with sched := { c.sched with busy := true } } :=
    if_pos (by rw [hz, Bool.or_true])
  have part := noop_ctxMem (s := s) (ch := ch) (e := e) (b2b := b2b)
  refine ⟨(congrArg Prod.snd part).trans ?_, fun j => ?_⟩
  · rw [note, State.modX_same]
    rfl
  · have hx : (s.noopHeld ch e b2b).ctx ch j = (s.noteStart ch e).ctx ch j :=
      congrArg (fun v : Vector Ctx 16 × ChMem => v.1[j]) part
    rw [hx, note]
    by_cases hj : j = jcOf e.jc
    · rw [hj, State.modX_ctx]
    · rw [State.modX_ctxOther _ _ _ hj]

theorem runOf_ep {w : Wide} (h : wEng w = 1) : ∃ n pass, runOf w = runEp n pass := by
  unfold runOf
  rw [h]
  split
  case h_5 | h_6 | h_7 => exact ⟨_, _, rfl⟩
  all_goals contradiction

theorem runOf_ls {w : Wide} (h : 6 ≤ wEng w) (h' : wEng w < 10) : runOf w = runLs := by
  unfold runOf
  split
  case h_15 => rfl
  all_goals omega

theorem chargeLanes_chan {n : Nat} : ((s.chargeLanes ch n).chan[ch]).sem = (s.chan[ch]).sem ∧
    ((s.chargeLanes ch n).chan[ch]).mem = (s.chan[ch]).mem := by
  unfold State.chargeLanes State.incF State.modMx
  rw [State.modC_same, State.modC_same]
  exact ⟨rfl, rfl⟩

/-- The epilogue and the load/store engines start their entries unchecked. -/
theorem unchecked_start {w : Wide} (hw : wEng w = eng.val) (h10 : eng ≠ 10) (he : eng = 1 ∨ 6 ≤ eng.val) :
    ∃ u, (runOf w).start s ch e = .ok (u, e) ∧ (u.chan[ch]).sem = (s.chan[ch]).sem ∧ (u.chan[ch]).mem = (s.chan[ch]).mem := by
  rcases he with he | he
  · obtain ⟨n, pass, hr⟩ := runOf_ep (w := w) (by rw [hw, he]; rfl)
    exact ⟨s.chargeLanes ch 16, by rw [hr]; rfl, chargeLanes_chan⟩
  · have h10' : eng.val ≠ 10 := fun h => h10 (Fin.ext h)
    have hr := runOf_ls (w := w) (by omega) (by omega)
    exact ⟨s, by rw [hr]; rfl, rfl, rfl⟩

/-- Settles O28: a start moves what its engine, its waits and its chapter's checks own, and so serves nobody. -/
theorem entriesStart : Obligations.EntriesStart := by
  intro s ch eng b2b e hc h4 h5 h10 goes
  refine ⟨fun h => entryStart_idle h4 h5 (.inl h), fun _ h => entryStart_idle h4 h5 (.inr h), fun hr hp hm hs he hw => ?_⟩
  intro taken mine gone runs
  have hq := clocked_quiet hc hw
  have htq : (s.taken ch e).Quiet ch := taken_quiet hq
  have htg := taken_gone (s := s) (ch := ch) he
  have h4' : e.eng ≠ 4 := fun h => h4 (Fin.ext (he ▸ h))
  have h5' : e.eng ≠ 5 := fun h => h5 (Fin.ext (he ▸ h))
  have start : ∀ u x, (runOf e.word).start (s.taken ch e) ch mine = .ok (u, x) → e.zero = none →
      (s.taken ch e).ownerErr ch mine (formOf e.word) = none → x.eng = e.eng → goes fun t => u.runsAs t ch eng e x := by
    intro u x hst hz ho hxe
    have side : State.SideKept ch (s.taken ch e) u := (runOf_start e.word _ _).of_ok hst
    have hf := freshEntry_ok (b2b := b2b) hz h4' h5' ho hst
    obtain ⟨hruns, hquiet⟩ := firstPass_runs (run := runOf e.word) (b2b := b2b) (e := e) (hxe.trans he)
      (by rw [side.eq]; exact htg) (side.quiet htq)
    exact entryStart_goesTo hc h4 h5 h10 hr hp hm hs (by rw [hf]; exact hruns.1) (by rw [hf]; exact hquiet) (by rw [hf]; exact hruns)
  refine ⟨fun hz => ?_, fun hz ho => ⟨fun hwe hep => ?_, fun u x hst hxe _ => start u x hst hz ho hxe⟩⟩
  · have hf := freshEntry_noop (s := s) (ch := ch) (b2b := b2b) hz
    obtain ⟨hrun, hgone, hquiet⟩ := noop_holds (s := s) (b2b := b2b) he hq
    refine entryStart_goesTo hc h4 h5 h10 hr hp hm hs (by rw [hf]; exact hgone) (by rw [hf]; exact hquiet) ?_
    rw [hf]
    obtain ⟨hmem, hctx⟩ := noop_keeps (s := s) (ch := ch) (b2b := b2b) hz
    exact ⟨hrun, hgone, noop_sem, hmem, hctx⟩
  · obtain ⟨u, hu, hsem, hmem⟩ := unchecked_start (s := s.taken ch e) (ch := ch) (e := mine) (w := e.word) hwe h10 hep
    exact (start u mine hu hz ho rfl).imp fun t ht => ⟨u, hsem, hmem, ht⟩

end Sys2Proof.Machine
end

section
/-! SUPPORT. Passes and completions (R57, R62, R68, R71). -/

namespace Sys2Proof.Machine

open Sys2Proof

set_option Elab.async false

variable {r s t u v : State} {ch : ChIdx} {jc : JcIdx} {e x y : Entry} {eng : Fin 11}

/-! ## The end of an entry -/

theorem faultCtx_drains {status en td arg : Nat} : State.Drains ch s (s.faultCtx ch jc status en td arg) := by
  obtain ⟨u, hu, e⟩ := State.lastStores_eq s ch jc
  unfold State.faultCtx
  rw [e, modX_modX]
  refine State.Drains.trans ⟨fun q hq => ?_, fun j => ?_⟩ State.Winds.refl.modC.post.drains
  · rw [State.modX_eq, hu.eq]
    exact hq
  · by_cases hj : j = jc
    · rw [hj, State.modX_ctx, hu.ctx]
      exact Nat.le_refl _
    · rw [State.modX_ctxOther _ _ _ hj, hu.ctx]

/-- One more entry of a context has completed. -/
def State.counted (s : State) (ch : ChIdx) (jc : JcIdx) : State :=
  s.modX ch jc fun c => { c with job := { c.job with done := c.job.done + 1 } }

/-- The end of an entry: its signals, its count, and what follows for its context. -/
theorem finish_parts {status arg td : Nat} {partly : Bool} :
    ∃ m, State.Winds ch s m ∧ State.Drains ch (m.counted ch (jcOf e.jc)) (s.finish ch e status arg td partly) := by
  unfold State.finish
  extract_lets jc s1 s2 s3 s4 rec stopped s5 s6 s7
  have h1 : State.Winds ch s s1 := State.Winds.refl.logDone
  have h4 : State.Winds ch s3 s4 := State.Winds.refl.entryDone
  have h5 : State.Drains ch s4 s5 := by
    unfold s5
    split
    · exact faultCtx_drains
    · exact State.Winds.refl.drains
  have h6 : State.Winds ch s5 s6 := State.Winds.refl.emit.ite State.Winds.refl
  have h7 : State.Winds ch s5 s7 := h6.sweep.ite h6
  exact ⟨s2.overDone ch e, ((h1.foldl fun _ _ ht => ht.semSignal).ite h1).overDone,
    (h4.drains.trans h5).trans h7.settle.fenceServe.semServe.tryEnd.drains⟩

/-- An entry that ends counts as completed, and what follows for its context starts no entry. -/
theorem finish_counts {status arg td : Nat} {partly : Bool} (hr : (s.eq ch eng).run = none) :
    ((s.finish ch e status arg td partly).eq ch eng).run = none ∧ (s.ctx ch (jcOf e.jc)).job.done + 1 ≤
      ((s.finish ch e status arg td partly).ctx ch (jcOf e.jc)).job.done := by
  obtain ⟨m, hm, hf⟩ := finish_parts (s := s) (ch := ch) (e := e) (status := status) (arg := arg) (td := td) (partly := partly)
  have hc : State.Winds ch m (m.counted ch (jcOf e.jc)) := State.Winds.refl.countDone
  have hd : ((m.counted ch (jcOf e.jc)).ctx ch (jcOf e.jc)).job.done = (m.ctx ch (jcOf e.jc)).job.done + 1 :=
    congrArg (fun c => c.job.done) (State.modX_ctx ..)
  have after := hf.done (jcOf e.jc)
  rw [hd] at after
  exact ⟨hf.run eng ((hm.trans hc).run eng hr), (Nat.add_le_add_right (hm.drains.done _) 1).trans after⟩

theorem leave_run (he : e.eng = eng.val) : ((s.leave ch e).eq ch eng).run = none := by
  rw [State.leave, he, engOf_val, State.modQ_eq]

@[simp] theorem leave_ctx {j : JcIdx} : (s.leave ch e).ctx ch j = s.ctx ch j := State.modC_ctx _ _ _ _ _ rfl

/-- An entry that leaves its engine and ends counts as completed. -/
theorem leave_finish_counts {status arg td : Nat} {partly : Bool} (he : e.eng = eng.val) (hj : y.jc = e.jc) :
    (((s.leave ch e).finish ch y status arg td partly).eq ch eng).run = none ∧ (s.ctx ch (jcOf e.jc)).job.done + 1 ≤
      (((s.leave ch e).finish ch y status arg td partly).ctx ch (jcOf e.jc)).job.done := by
  have h := finish_counts (e := y) (status := status) (arg := arg) (td := td) (partly := partly) (leave_run (s := s) (ch := ch) he)
  rw [hj, leave_ctx] at h
  exact h

/-! ## An access that met no error -/

theorem eccDone_eq (s : State) (ch : ChIdx) (e : Fin 11) : (s.eccDone ch).eq ch e = s.eq ch e := by
  unfold State.eq
  rw [State.eccDone_same]

theorem eccDone_ctx (s : State) (ch : ChIdx) (j : JcIdx) : (s.eccDone ch).ctx ch j = s.ctx ch j := by
  unfold State.ctx
  rw [State.eccDone_same]

/-! ## A pass -/

/-- The entry behind a pass that did not fail. -/
def passed (x y : Entry) (stall : Nat) : Entry := { y with cyc := y.cyc + stall, pass := x.pass + 1 }

/-- A pass that runs and does not fail ends at a boundary, or completes its entry. -/
theorem advance_eq {run : OpRun} {last : Bool} {stall : Nat} (hr : (s.eq ch eng).run = some e) (hg : e.going = true)
    (hl : last = true ∨ e.pass + 1 < run.passes s ch e) (hb : run.before s ch e = .ok (u, x))
    (hp : run.pass u ch x 0 = (v, y, none)) :
    s.advance ch eng run last stall [] = if x.pass + 1 < run.passes s ch e then v.passBoundary ch (passed x y stall) run
      else v.complete ch (passed x y stall) run := by
  have hn : ¬ (!last && decide (run.passes s ch e ≤ e.pass + 1)) = true := by
    rcases hl with h | h
    · simp [h]
    · simp [Nat.not_le.2 h]
  unfold State.advance
  rw [hr]
  dsimp only
  rw [if_neg hn, if_pos hg]
  dsimp only
  rw [if_neg (by rw [hg]; decide)]
  simp only [List.map_nil, ite_self, residues, List.take_nil, List.flatten_nil, List.foldl_nil, hb, hp, State.residueCe,
    List.isEmpty_nil, if_true]
  rfl

/-- At a boundary an entry that does not stop begins its next pass. -/
theorem passBoundary_goes {run : OpRun} (hst : (v.ctx ch (jcOf y.jc)).st = .run) (ha : y.array = false) :
    v.passBoundary ch y run = v.holds ch { y with going := true } := by
  unfold State.passBoundary
  extract_lets en st
  have h1 : st = .run := hst
  rw [h1, if_neg (by simp), if_neg (by simp)]
  unfold State.startPass
  rw [if_pos (by rw [ha]; rfl)]
  rfl

/-! ## Completion -/

theorem moves_touchTens {x : Tens} (h : r.MovesOnly s) : r.MovesOnly (s.touchTens ch x) := by
  unfold State.touchTens
  split
  · exact h
  · exact State.moves_foldl (fun _ _ ht => State.moves_vaTouch ht) _ _ h

theorem moves_touchOps (h : r.MovesOnly s) : r.MovesOnly (s.touchOps ch e) := by
  unfold State.touchOps
  refine State.moves_foldl (fun t n ht => ?_) _ _ h
  have h1 : r.MovesOnly (t.touchTens ch (tensOf e.td n)) := moves_touchTens ht
  dsimp only
  split
  · exact moves_touchTens h1
  · exact h1

theorem moves_overlap {d : Tens} {place : Option Tens} {ins : List Tens} (h : r.MovesOnly s) :
    r.MovesOnly (s.overlap ch e d place ins) := moves_blurShared (moves_blurShared h)

theorem moves_ite {c : Prop} {_ : Decidable c} (hs : r.MovesOnly s) (ht : r.MovesOnly t) : r.MovesOnly (if c then s else t) := by
  split
  · exact hs
  · exact ht

theorem moves_blurOps (h : r.MovesOnly s) : r.MovesOnly (s.blurOps ch e) :=
  moves_race (moves_ite (moves_overlap h) (moves_ite (moves_overlap h) h))

theorem moves_gtDone (h : r.MovesOnly s) : r.MovesOnly (s.gtDone ch e).1 := by
  unfold State.gtDone
  split
  · exact h
  · next g _ =>
    have h1 : r.MovesOnly (g.rs.foldl (fun (s : State) r => match g.ss[r.stream]? with
        | some x => s.vaTouch ch r.addr (s.gtRead ch x r)
        | none => s) s) := State.moves_foldl (fun t x ht => by
      split
      · exact State.moves_vaTouch ht
      · exact ht) _ _ h
    exact moves_ite (moves_overlap h1) (moves_blur (moves_overlap h1))

/-- What closes an operation moves bytes alone, and its entry stays on its engine and in its context. -/
def DoneKeeps (ch : ChIdx) (f : State → ChIdx → Entry → State × Entry × Nat) : Prop :=
  ∀ s e, s.MovesOnly (f s ch e).1 ∧ (f s ch e).2.1.eng = e.eng ∧ (f s ch e).2.1.jc = e.jc

theorem DoneKeeps.of_state {f : State → ChIdx → Entry → State × Entry × Nat} (hs : ∀ s e, (f s ch e).1 = s := by intros; rfl)
    (he : ∀ s e, (f s ch e).2.1.eng = e.eng := by intros; rfl) (hj : ∀ s e, (f s ch e).2.1.jc = e.jc := by intros; rfl) :
    DoneKeeps ch f := fun s e => ⟨by rw [hs]; exact State.moves_refl s, he s e, hj s e⟩

theorem gtDone_keeps : DoneKeeps ch (fun s ch e => s.gtDone ch e) := fun s e => by
  refine ⟨moves_gtDone (State.moves_refl s), ?_, ?_⟩
  · dsimp only [State.gtDone]
    split <;> rfl
  · dsimp only [State.gtDone]
    split <;> rfl

theorem runOf_done (w : Wide) : DoneKeeps ch (runOf w).done := by
  unfold runOf
  split
  case h_14 => exact gtDone_keeps
  all_goals exact .of_state

/-- An entry that has run its last pass leaves its engine and counts. -/
theorem complete_counts {w : Wide} (he : y.eng = eng.val) :
    ((v.complete ch y (runOf w)).eq ch eng).run = none ∧
      (v.ctx ch (jcOf y.jc)).job.done + 1 ≤ ((v.complete ch y (runOf w)).ctx ch (jcOf y.jc)).job.done := by
  unfold State.complete
  obtain ⟨b, hb⟩ : ∃ b, b = (v.touchOps ch y).blurOps ch y := ⟨_, rfl⟩
  have hvb : v.MovesOnly b := hb ▸ moves_blurOps (moves_touchOps (State.moves_refl v))
  obtain ⟨hm, heng, hjc⟩ := runOf_done w b y (ch := ch)
  rw [← hb]
  generalize (runOf w).done b ch y = o at hm heng hjc ⊢
  obtain ⟨d, y', status⟩ := o
  dsimp only at hm heng hjc ⊢
  have kept : v.SeqKept ch d := (State.SeqKept.refl.of_moves hvb).of_moves hm
  obtain ⟨h1, h2⟩ := finish_counts (s := d.leave ch y') (ch := ch) (e := y') (status := status) (arg := 0) (td := 0) (partly := false)
    (leave_run (heng.trans he))
  rw [hjc, leave_ctx, kept.ctx] at h2
  exact ⟨h1, h2⟩

/-! ## PASS_BOUNDARY and ENTRY_COMPLETE -/

theorem noop_of {z : Option Entry} (hr : (s.eq ch eng).run = some e) (h : (some e).filter (·.zero.isSome) = z) :
    s.noop ch eng = z := by rw [State.noop, hr, h]

theorem noop_some (hr : (s.eq ch eng).run = some e) (hz : e.zero.isSome = true) : s.noop ch eng = some e :=
  noop_of hr (by rw [Option.filter_some, if_pos hz])

theorem noop_none (hr : (s.eq ch eng).run = some e) (hz : e.zero = none) : s.noop ch eng = none :=
  noop_of hr (by rw [Option.filter_some, if_neg (by rw [hz]; decide)])

theorem passBoundary_noop {stall : Nat} (hr : (s.eq ch eng).run = some e) (hz : e.zero.isSome = true) :
    exec (.passBoundary ch eng stall [] []) s = .next s :=
  if_pos (by rw [noop_some hr hz, Option.isSome_some, Bool.or_true])

theorem passBoundary_eq {stall : Nat} (hc : s.clocked ch = true) (h5 : eng ≠ 5) (h10 : eng ≠ 10) (hr : (s.eq ch eng).run = some e)
    (hz : e.zero = none) : exec (.passBoundary ch eng stall [] []) s =
      .next ((s.advance ch eng (runOf e.word) false stall []).eccDone ch) := by
  have e1 : exec (.passBoundary ch eng stall [] []) s = execPassBoundary ch eng stall [] [] s := rfl
  rw [e1]
  unfold execPassBoundary
  rw [if_neg (by rw [hc, hr, noop_none hr hz]; exact Bool.false_ne_true)]
  dsimp only
  rw [if_neg (by rw [beq_false_of_ne h5]; decide), show (eng == gtEng) = false from beq_false_of_ne h10, if_neg Bool.false_ne_true]
  unfold State.runNow State.ecc
  rw [List.foldl_nil, hr]

theorem entryComplete_noop {stall : Nat} (hc : s.clocked ch = true) (hr : (s.eq ch eng).run = some e) (hz : e.zero.isSome = true) :
    exec (.entryComplete ch eng stall [] []) s = .next ((s.leave ch e).finish ch { e with cyc := 8 } 1 (e.zero.getD 0) 0 false) := by
  have e1 : exec (.entryComplete ch eng stall [] []) s = execEntryComplete ch eng stall [] [] s := rfl
  rw [e1]
  unfold execEntryComplete
  rw [if_neg (by rw [hc]; decide), noop_some hr hz]

theorem entryComplete_eq {stall : Nat} (hc : s.clocked ch = true) (h4 : eng ≠ 4) (h5 : eng ≠ 5) (h10 : eng ≠ 10)
    (hr : (s.eq ch eng).run = some e) (hz : e.zero = none) : ∃ n, exec (.entryComplete ch eng stall [] []) s =
      .next (((s.advance ch eng (runOf e.word) true stall []).advanceAll ch eng (runOf e.word) e.order n).eccDone ch) := by
  have e1 : exec (.entryComplete ch eng stall [] []) s = execEntryComplete ch eng stall [] [] s := rfl
  rw [e1]
  unfold execEntryComplete State.ecc
  rw [if_neg (by rw [hc]; decide), noop_none hr hz]
  dsimp only
  rw [List.foldl_nil, if_neg (by rw [beq_false_of_ne h4]; decide), if_neg (by rw [beq_false_of_ne h5]; decide), hr]
  dsimp only
  rw [show (eng == gtEng) = false from beq_false_of_ne h10, if_neg Bool.false_ne_true]
  exact ⟨_, rfl⟩

theorem advanceAll_idle {run : OpRun} {order n : Nat} (h : (s.eq ch eng).run = none) : s.advanceAll ch eng run order n = s := by
  cases n with
  | zero => rfl
  | succ n => rw [State.advanceAll, h]

/-! ## LS.FILL -/

/-- Memory in which runs of bytes were filled with one value. -/
def Mem.fillAll (m : Mem) (addrs : List Nat) (n : Nat) (b : Byte) : Mem :=
  addrs.foldl (fun m a => m.write a (List.replicate n b)) m

/-- A run that holds one value holds it still when another run has been filled with it. -/
theorem fill_keeps {m : Mem} {a c n : Nat} {b : Byte} (h : m.byte c = b) : (m.write a (List.replicate n b)).byte c = b := by
  by_cases hc : c < a ∨ a + n ≤ c
  · rw [Mem.byte_write_other _ _ _ (by rwa [List.length_replicate]), h]
  · obtain ⟨i, rfl⟩ : ∃ i, c = a + i := ⟨c - a, by omega⟩
    rw [Mem.byte_write _ _ _ i (by rw [List.length_replicate]; omega), List.getElem_replicate]

theorem fillAll_byte {m : Mem} {addrs : List Nat} {n : Nat} {b : Byte} {c : Nat}
    (h : m.byte c = b ∨ ∃ a ∈ addrs, ∃ k, k < n ∧ c = a + k) : (m.fillAll addrs n b).byte c = b := by
  induction addrs generalizing m with
  | nil =>
    rcases h with h | ⟨a, ha, -⟩
    · exact h
    · cases ha
  | cons x l ih =>
    refine ih ?_
    rcases h with h | ⟨a, ha, k, hk, rfl⟩
    · exact .inl (fill_keeps h)
    · rcases List.mem_cons.1 ha with rfl | ha
      · refine .inl ?_
        rw [Mem.byte_write _ _ _ k (by rwa [List.length_replicate]), List.getElem_replicate]
      · exact .inr ⟨a, ha, k, hk, rfl⟩

/-- The bytes of equal codes of 8 bits. -/
theorem leBytes_packCodes {c : Nat} (hc : c < 256) (n : Nat) :
    leBytes n (packCodes 8 (List.replicate n c)) = List.replicate n (BitVec.ofNat 8 c) := by
  induction n with
  | zero => rfl
  | succ n ih =>
    have low : BitVec.ofNat 8 (c + 2 ^ 8 * packCodes 8 (List.replicate n c)) = BitVec.ofNat 8 c := by
      apply BitVec.eq_of_toNat_eq
      rw [BitVec.toNat_ofNat, BitVec.toNat_ofNat, Nat.add_mul_mod_self_left]
    have high : (c + 2 ^ 8 * packCodes 8 (List.replicate n c)) / 256 = packCodes 8 (List.replicate n c) := by omega
    rw [List.replicate_succ, packCodes, leBytes, low, high, ih, List.replicate_succ]

/-- Equal codes of 8 bits from the start of a row of the local store. -/
theorem putCodes_bytes {d : Tens} {row : Nat × Nat × Nat} {n c : Nat} (hs : d.space = 1) (hb : fmtBits d.fmt = 8) (hc : c < 256) :
    s.putCodes ch d (0, row) (List.replicate n c) = .ok (s.modMem ch fun m =>
      { m with ls := m.ls.write (d.base + d.rowOff (0, row)) (List.replicate n (BitVec.ofNat 8 c)) }) := by
  have hn : ceilDiv (0 + 8 * n) 8 = n := by
    simp only [ceilDiv]
    split
    · contradiction
    · omega
  unfold State.putCodes
  rw [hb]
  simp only [Nat.zero_mul, Nat.zero_mod, Nat.zero_div, Nat.add_zero, pow_zero, Nat.mul_one, List.length_replicate, hn,
    leBytes_packCodes hc, Nat.mul_mod_right, beq_self_eq_true, Bool.and_self, if_true]
  rw [hs]
  rfl

/-- The addresses of rows of D. -/
def Entry.rowAddrs (e : Entry) (rows : List (Nat × Nat × Nat)) : List Nat := rows.map fun x => (e.t 3).base + (e.t 3).rowOff (0, x)

/-- The value of an LS.FILL of bytes. -/
def Entry.fillByte (e : Entry) : Byte := BitVec.ofNat 8 (wPar e.word 47 0)

/-- The state in which rows of D in the local store hold the value of an LS.FILL of bytes. -/
def State.filled (s : State) (ch : ChIdx) (e : Entry) (rows : List (Nat × Nat × Nat)) : State :=
  s.modMem ch fun m => { m with ls := m.ls.fillAll (e.rowAddrs rows) (e.sz 0) e.fillByte }

theorem State.filled_nil : s.filled ch e [] = s := by
  unfold State.filled State.modMem
  refine State.ext_parts rfl (fun c => ?_) rfl rfl
  by_cases h : c = ch
  · subst h
    rw [State.modC_same]
    rfl
  · rw [State.modC_other _ _ h]

theorem State.filled_cons {row : Nat × Nat × Nat} {rows : List (Nat × Nat × Nat)} :
    (s.filled ch e [row]).filled ch e rows = s.filled ch e (row :: rows) := by
  unfold State.filled State.modMem
  rw [State.modC_modC]
  rfl

theorem fillRow_bytes {row : Nat × Nat × Nat} (hs : (e.t 3).space = 1) (hb : fmtBits (e.t 3).fmt = 8) (hk : isBlock (e.t 3).fmt = false) :
    s.fillRow ch e row = .ok (s.filled ch e [row]) := by
  have hsc : (e.t 3).scale e.td = none := if_neg (by rw [Tens.needsScale, hk]; exact Bool.false_ne_true)
  have hv : BitVec.ofNat 8 (wPar e.word 47 0 % 2 ^ 8) = e.fillByte := by
    apply BitVec.eq_of_toNat_eq
    rw [Entry.fillByte, BitVec.toNat_ofNat, BitVec.toNat_ofNat, Nat.mod_mod]
  have hlt : wPar e.word 47 0 % 2 ^ 8 < 256 := Nat.mod_lt _ (by decide)
  unfold State.fillRow
  dsimp only
  rw [hb, putCodes_bytes hs hb hlt, hsc, hv]
  rfl

theorem fillRows_eq {rows : List (Nat × Nat × Nat)} (hs : (e.t 3).space = 1) (hb : fmtBits (e.t 3).fmt = 8)
    (hk : isBlock (e.t 3).fmt = false) : tryFold (fun (s : State) x => s.fillRow ch e x) s rows = .ok (s.filled ch e rows) := by
  induction rows generalizing s with
  | nil => exact (congrArg Except.ok State.filled_nil).symm
  | cons x l ih =>
    rw [tryFold, fillRow_bytes hs hb hk]
    dsimp only
    rw [ih, State.filled_cons]

/-- A pass of LS.FILL of bytes of the local store fills its rows. -/
theorem lsPass_fills (h2 : e.op = 2) (hs : (e.t 3).space = 1) (hb : fmtBits (e.t 3).fmt = 8) (hk : isBlock (e.t 3).fmt = false) :
    ∃ c, runLs.pass s ch e 0 = (s.filled ch e (e.lsPasses.getD e.pass []), { e with cyc := c }, none) := by
  have hop : (e.op == 1) = false := by rw [h2]; rfl
  have hl : ∃ c, s.lsPass ch e = .ok (s.filled ch e (e.lsPasses.getD e.pass []), { e with cyc := c }) := by
    unfold State.lsPass
    simp only [hop, Bool.false_eq_true, if_false]
    rw [fillRows_eq hs hb hk]
    exact ⟨_, rfl⟩
  obtain ⟨c, hl⟩ := hl
  refine ⟨c, ?_⟩
  have hp : runLs.pass s ch e 0 = ofTry s e (if e.op == 1 && wPar e.word 1 0 != 0 then s.rangePass ch e else s.lsPass ch e) := rfl
  rw [hp, hop, Bool.false_and, if_neg Bool.false_ne_true, hl]
  rfl

theorem State.filled_ctx {rows : List (Nat × Nat × Nat)} (j : JcIdx) : (s.filled ch e rows).ctx ch j = s.ctx ch j :=
  State.modC_ctx _ _ _ _ _ rfl

/-- A filled row holds the value. -/
theorem State.filled_byte {rows : List (Nat × Nat × Nat)} {row : Nat × Nat × Nat} {k : Nat} (hrow : row ∈ rows) (hk : k < e.sz 0) :
    ((s.filled ch e rows).chan[ch]).mem.ls.byte ((e.t 3).base + (e.t 3).rowOff (0, row) + k) = e.fillByte := by
  rw [State.filled, State.modMem_same]
  exact fillAll_byte (.inr ⟨_, List.mem_map_of_mem hrow, k, hk, rfl⟩)

/-! ## The statement -/

/-- A pass that is not the last, at a boundary where its context runs: its entry begins the next one. -/
theorem passBoundary_next {stall : Nat} (hc : s.clocked ch = true) (h5 : eng ≠ 5) (h10 : eng ≠ 10) (hr : (s.eq ch eng).run = some e)
    (hz : e.zero = none) (hg : e.going = true) (hb : (runOf e.word).before s ch e = .ok (u, x))
    (hp : (runOf e.word).pass u ch x 0 = (v, y, none)) (hx : x.pass + 1 < (runOf e.word).passes s ch e)
    (he : e.pass + 1 < (runOf e.word).passes s ch e) (hst : (v.ctx ch (jcOf y.jc)).st = .run) (hy : y.eng = eng.val)
    (ha : y.array = false) : goesTo (exec (.passBoundary ch eng stall [] []) s) fun t =>
      (t.eq ch eng).run = some { y with pass := x.pass + 1, cyc := y.cyc + stall, going := true } ∧
        (t.chan[ch]).mem = { (v.chan[ch]).mem with bad3 := [] } ∧ ∀ j : JcIdx, t.ctx ch j = v.ctx ch j := by
  refine ⟨_, passBoundary_eq hc h5 h10 hr hz, ?_⟩
  rw [advance_eq hr hg (.inr he) hb hp, if_pos hx, passBoundary_goes (y := passed x y stall) hst ha]
  refine ⟨?_, ?_, fun j => ?_⟩
  · rw [eccDone_eq, holds_eq (e := { passed x y stall with going := true }) hy]
    rfl
  · rw [State.eccDone_same, holds_chan.2]
  · rw [eccDone_ctx]
    exact State.modC_ctx _ _ _ _ _ rfl

/-- An entry in its last pass, whose work succeeds, leaves its engine and counts. -/
theorem entryComplete_last {stall : Nat} (hc : s.clocked ch = true) (h4 : eng ≠ 4) (h5 : eng ≠ 5) (h10 : eng ≠ 10)
    (hr : (s.eq ch eng).run = some e) (hz : e.zero = none) (hg : e.going = true)
    (hb : (runOf e.word).before s ch e = .ok (u, x)) (hp : (runOf e.word).pass u ch x 0 = (v, y, none))
    (hx : (runOf e.word).passes s ch e ≤ x.pass + 1) (hy : y.eng = eng.val) (hj : y.jc = e.jc)
    (hd : (v.ctx ch (jcOf e.jc)).job = (s.ctx ch (jcOf e.jc)).job) :
    goesTo (exec (.entryComplete ch eng stall [] []) s) fun t => (t.eq ch eng).run = none ∧
      (s.ctx ch (jcOf e.jc)).job.done + 1 ≤ (t.ctx ch (jcOf e.jc)).job.done := by
  obtain ⟨n, he⟩ := entryComplete_eq (stall := stall) hc h4 h5 h10 hr hz
  refine ⟨_, he, ?_⟩
  obtain ⟨hrun, hdone⟩ := complete_counts (v := v) (ch := ch) (y := passed x y stall) (w := e.word) (eng := eng) hy
  rw [advance_eq hr hg (.inl rfl) hb hp, if_neg (Nat.not_lt.2 hx), advanceAll_idle hrun, eccDone_eq, eccDone_ctx]
  rw [show (passed x y stall).jc = e.jc from hj, hd] at hdone
  exact ⟨hrun, hdone⟩

theorem entryComplete_noop_counts {stall : Nat} (hc : s.clocked ch = true) (hr : (s.eq ch eng).run = some e) (he : e.eng = eng.val)
    (hz : e.zero.isSome = true) : goesTo (exec (.entryComplete ch eng stall [] []) s) fun t => (t.eq ch eng).run = none ∧
      (s.ctx ch (jcOf e.jc)).job.done + 1 ≤ (t.ctx ch (jcOf e.jc)).job.done := by
  refine ⟨_, entryComplete_noop hc hr hz, leave_finish_counts he ?_⟩
  rfl

/-- Only entries of the matrix and attention engines can hold the array. -/
theorem array_false (h : 4 ≤ e.eng) : e.array = false := by
  unfold Entry.array
  rw [beq_false_of_ne (show e.eng ≠ 0 by omega), beq_false_of_ne (show e.eng ≠ 3 by omega), Bool.false_and]
  rfl

/-- Settles O29: a pass's work is followed by a boundary or by the entry's completion, which counts it. -/
theorem passesAndCompletion : Obligations.PassesAndCompletion := by
  intro s ch eng stall e hc h4 h5 h10 hr he hjc op done
  refine ⟨fun hz => ⟨passBoundary_noop hr hz, entryComplete_noop_counts hc hr he hz⟩,
    fun hz h6 hw h2 hg hs hb hk hp hst => ?_, fun hz hg u x v y hb hp => ⟨?_, ?_⟩⟩
  · have h10' : eng.val ≠ 10 := fun h => h10 (Fin.ext h)
    have hls : runOf e.word = runLs := runOf_ls (by omega) (by omega)
    obtain ⟨c, hpass⟩ := lsPass_fills (s := s) (ch := ch) h2 hs hb hk
    have hn : runLs.passes s ch e = e.lsPasses.length := if_neg (by rw [h2]; exact Bool.false_ne_true)
    have hlt : e.pass + 1 < (runOf e.word).passes s ch e := by rw [hls, hn]; exact hp
    have h4' : 4 ≤ e.eng := by omega
    obtain ⟨t, ht, hrun, hmem, hctx⟩ := passBoundary_next (stall := stall) hc h5 h10 hr hz hg (u := s) (x := e)
      (y := { e with cyc := c }) (by rw [hls]; rfl) (by rw [hls]; exact hpass) hlt hlt (by rw [State.filled_ctx]; exact hst) he (array_false h4')
    refine ⟨t, ht, _, hrun, rfl, rfl, rfl, fun j => (hctx j).trans (State.filled_ctx j), fun row hrow k hk => ?_⟩
    rw [hmem]
    exact State.filled_byte hrow hk
  · exact fun h1 h1' hst hye hya => passBoundary_next hc h5 h10 hr hz hg hb hp h1 h1' hst hye hya
  · exact fun hx h1 hy hj hd => entryComplete_last hc h4 h5 h10 hr hz hg hb hp hx (by rw [hy, h1]; rfl) hj hd

end Sys2Proof.Machine
end

section
/-! SUPPORT. The registers of a submission queue (R89, R92). -/

namespace Sys2Proof.Machine

open Sys2Proof

set_option Elab.async false

variable {s t : State} {ch : ChIdx} {q : Fin 8} {val : BitVec 32} {off : Nat}

/-! ## One register written -/

/-- One register of one channel may have changed, and nothing else. -/
def State.OneReg (s t : State) (ch : ChIdx) (off : Nat) : Prop := s.onlyChan t ch ∧ Chan.differAt [off] s.chan[ch] t.chan[ch]

theorem State.OneReg.refl : s.OneReg s ch off := ⟨⟨rfl, rfl, rfl, fun _ _ => rfl⟩, Chan.differAt_refl _ _⟩

/-- A field of that register. -/
theorem State.OneReg.setF {f : Fld} {v : Nat} (h : s.OneReg t ch off) (hf : f.off = off) : s.OneReg (t.setF ch f v) ch off := by
  obtain ⟨⟨hp, hfr, hq, ho⟩, hd⟩ := h
  refine ⟨⟨hp, hfr, hq, fun c hc => (State.setF_other _ _ _ hc).trans (ho c hc)⟩, Chan.differAt_trans hd ?_⟩
  rw [State.setF_same]
  exact Chan.differAt_wr _ _ (List.mem_singleton.2 hf)

theorem setF_f_same {f : Fld} {v : Nat} (hf : f.sound = true) : (s.setF ch f v).f ch f = v % 2 ^ (f.hi + 1 - f.lo) := by
  unfold State.f
  rw [State.setF_same, Chan.fld_setFld_same _ _ _ (Fld.ok_of_sound hf)]

theorem setF_f_other {f g : Fld} {v : Nat} (h : f.disjoint g = true) : (s.setF ch f v).f ch g = s.f ch g := by
  unfold State.f
  rw [State.setF_same, Chan.fld_setFld_disjoint h]

/-- Bits read from a word fit the field of as many bits. -/
theorem setF_f_bits {f : Fld} {v hi lo : Nat} (hf : f.sound = true) (hw : f.hi + 1 - f.lo = hi + 1 - lo) :
    (s.setF ch f (bits v hi lo)).f ch f = bits v hi lo := by
  rw [setF_f_same hf, hw, bits, Nat.mod_mod]

/-! ## The doorbell -/

/-- A doorbell of a channel in RUN sets TAIL and wakes nothing. -/
theorem sqDoorbell_eq (h : s.reaches (pfOf ch)) (hp : (s.chan[ch]).power.st = .run) (hm : (s.chan[ch]).power.move = .none) :
    exec (.sqDoorbell ch q val) s = .next ((s.answer .ok 0).setF ch (R.CH_SQ_PTR_TAIL q) (bits val.toNat 31 16)) := by
  have e : exec (.sqDoorbell ch q val) s = .next (s.hostWr (pfOf ch) (0x808 + 0x10 * q.val) fun s =>
      (s.setF ch (R.CH_SQ_PTR_TAIL q) (bits val.toNat 31 16)).wake ch 1) := rfl
  rw [e, State.hostWr_reaches h, wake_run]
  · rw [State.setF_same]; exact hp
  · rw [State.setF_same]; exact hm

/-! ## The base -/

theorem sqBaseWrite_eq (h : s.reaches (pfOf ch)) (hi : Bool) :
    exec (.sqBaseWrite ch q hi val) s = .next ((s.answer .ok 0).sqBaseWrite ch q.val hi val.toNat) :=
  congrArg _ (State.hostWr_reaches h)

theorem sqBaseWrite_lo {v : Nat} (h : s.f ch (R.CH_SQ_BASE_HI_EN q) = 0) :
    s.sqBaseWrite ch q.val false v = s.setF ch (R.CH_SQ_BASE_LO_BASE_LO q) (bits v 31 12) := if_neg (by simp [h])

theorem sqBaseWrite_lo_locked {v : Nat} (h : s.f ch (R.CH_SQ_BASE_HI_EN q) = 1)
    (hn : bits v 31 12 ≠ s.f ch (R.CH_SQ_BASE_LO_BASE_LO q)) : s.sqBaseWrite ch q.val false v = s := if_pos (by simp [h, hn])

/-- The fields of CH_SQ_BASE_HI written. -/
def State.sqHiSet (s : State) (ch : ChIdx) (q : Fin 8) (v : Nat) : State :=
  ((s.setF ch (R.CH_SQ_BASE_HI_BASE_HI q) (bits v 23 0)).setF ch (R.CH_SQ_BASE_HI_SIZE q) (bits v 27 24)).setF ch
    (R.CH_SQ_BASE_HI_EN q) (bits v 31 31)

theorem sqBaseWrite_hi {v : Nat} (h : s.f ch (R.CH_SQ_BASE_HI_EN q) = 0 ∨
    (bits v 23 0 = s.f ch (R.CH_SQ_BASE_HI_BASE_HI q) ∧ bits v 27 24 = s.f ch (R.CH_SQ_BASE_HI_SIZE q))) :
    s.sqBaseWrite ch q.val true v = s.sqHiSet ch q v := if_neg (by
  rcases h with h | ⟨h1, h2⟩
  · simp [h]
  · simp [h1, h2])

theorem sqBaseWrite_hi_locked {v : Nat} (h : s.f ch (R.CH_SQ_BASE_HI_EN q) = 1)
    (hn : bits v 23 0 ≠ s.f ch (R.CH_SQ_BASE_HI_BASE_HI q) ∨ bits v 27 24 ≠ s.f ch (R.CH_SQ_BASE_HI_SIZE q)) :
    s.sqBaseWrite ch q.val true v = s := if_pos (by
  rcases hn with hn | hn
  · simp [h, hn]
  · simp [h, hn])

/-- What each field of CH_SQ_BASE_HI holds after its write. -/
theorem sqHiSet_fields {v : Nat} : (s.sqHiSet ch q v).f ch (R.CH_SQ_BASE_HI_BASE_HI q) = bits v 23 0 ∧
    (s.sqHiSet ch q v).f ch (R.CH_SQ_BASE_HI_SIZE q) = bits v 27 24 ∧
    (s.sqHiSet ch q v).f ch (R.CH_SQ_BASE_HI_EN q) = bits v 31 31 := by
  have d1 : (R.CH_SQ_BASE_HI_BASE_HI q).disjoint (R.CH_SQ_BASE_HI_SIZE q) = true := by revert q; decide
  have d2 : (R.CH_SQ_BASE_HI_SIZE q).disjoint (R.CH_SQ_BASE_HI_BASE_HI q) = true := by revert q; decide
  have d3 : (R.CH_SQ_BASE_HI_EN q).disjoint (R.CH_SQ_BASE_HI_BASE_HI q) = true := by revert q; decide
  have d4 : (R.CH_SQ_BASE_HI_EN q).disjoint (R.CH_SQ_BASE_HI_SIZE q) = true := by revert q; decide
  unfold State.sqHiSet
  refine ⟨?_, ?_, setF_f_bits rfl rfl⟩
  · rw [setF_f_other d3, setF_f_other d2]
    exact setF_f_bits rfl rfl
  · rw [setF_f_other d4]
    exact setF_f_bits rfl rfl

/-- CH_SQ_BASE_HI, CH_SQ_PTR and CH_SQ_JPTR stand behind CH_SQ_BASE_LO of their queue. -/
theorem sqReg_off : 0x804 + 16 * q.val = 0x800 + 16 * q.val + 4 ∧ 0x808 + 16 * q.val = 0x800 + 16 * q.val + 8 ∧
    0x80C + 16 * q.val = 0x800 + 16 * q.val + 12 := by omega

theorem sqHiSet_oneReg {v : Nat} : s.OneReg (s.sqHiSet ch q v) ch (0x800 + 16 * q.val + 4) := by
  have h1 : (R.CH_SQ_BASE_HI_BASE_HI q).off = 0x800 + 16 * q.val + 4 := sqReg_off.1
  have h2 : (R.CH_SQ_BASE_HI_SIZE q).off = 0x800 + 16 * q.val + 4 := h1
  have h3 : (R.CH_SQ_BASE_HI_EN q).off = 0x800 + 16 * q.val + 4 := h1
  exact ((State.OneReg.refl.setF h1).setF h2).setF h3

/-! ## RD of the job-completion ring -/

/-- Where no context is stopping, no job ends. -/
theorem tryEndAll_quiet (h : ∀ jc : JcIdx, (s.ctx ch jc).st.stopping = false) : s.tryEndAll ch = s := by
  have none_ends (jc : JcIdx) : s.tryEnd ch jc = s := if_pos (by simp [h jc])
  unfold State.tryEndAll
  induction ctxs with
  | nil => rfl
  | cons jc l ih => rw [List.foldl_cons, none_ends, ih]

/-- What a write of RD does once it has been answered. -/
def State.jcrRdMove (s : State) (ch : ChIdx) (q : Fin 8) (new : Nat) : State :=
  if rdOk (s.f ch (R.CH_SQ_JPTR_WR q)) (s.f ch (R.CH_SQ_JPTR_RD q)) new 65536 then
    (s.setF ch (R.CH_SQ_JPTR_RD q) new).tryEndAll ch
  else s

theorem jcrRdWrite_eq (h : s.reaches (pfOf ch)) :
    exec (.jcrRdWrite ch q val) s = .next ((s.answer .ok 0).jcrRdMove ch q (bits val.toNat 31 16)) :=
  congrArg _ (State.hostWr_reaches h)

theorem jcrRdMove_past {new : Nat}
    (h : (s.f ch (R.CH_SQ_JPTR_WR q) + 65536 - s.f ch (R.CH_SQ_JPTR_RD q)) % 65536 < (s.f ch (R.CH_SQ_JPTR_WR q) + 65536 - new) % 65536) :
    s.jcrRdMove ch q new = s := if_neg (by simp [rdOk, h])

theorem jcrRdMove_quiet {new : Nat}
    (h : (s.f ch (R.CH_SQ_JPTR_WR q) + 65536 - new) % 65536 ≤ (s.f ch (R.CH_SQ_JPTR_WR q) + 65536 - s.f ch (R.CH_SQ_JPTR_RD q)) % 65536)
    (hs : ∀ jc : JcIdx, (s.ctx ch jc).st.stopping = false) : s.jcrRdMove ch q new = s.setF ch (R.CH_SQ_JPTR_RD q) new :=
  (if_pos (by simp [rdOk, h])).trans (tryEndAll_quiet fun jc => by rw [State.setF, State.modC_ctx _ _ _ _ _ rfl, hs])

theorem jcrPtr_apart : (R.CH_SQ_JPTR_RD q).disjoint (R.CH_SQ_JPTR_WR q) = true := by
  revert q
  decide

/-- Settles O31: each write of a queue's registers is a write of fields of one register, or none. -/
theorem submissionQueues : Obligations.SubmissionQueues := by
  intro s ch q hi val hr at_ lo en
  refine ⟨fun hp hm => ⟨_, sqDoorbell_eq hr hp hm, State.OneReg.refl.setF sqReg_off.2.1, setF_f_bits rfl rfl, ?_⟩,
    fun he => ⟨⟨_, sqBaseWrite_eq hr false, ?_⟩, _, sqBaseWrite_eq hr true, ?_⟩, fun he hn => ?_, fun he hn => ?_,
    fun he h1 h2 => ⟨_, sqBaseWrite_eq hr true, ?_⟩, fun hu hs => ⟨_, jcrRdWrite_eq hr, ?_⟩, fun hu => ?_⟩
  · have d : (R.CH_SQ_PTR_TAIL q).disjoint (R.CH_SQ_PTR_HEAD q) = true := by revert q; decide
    exact setF_f_other d
  · rw [sqBaseWrite_lo (s := s.answer .ok 0) he]
    exact ⟨State.OneReg.refl.setF rfl, setF_f_bits rfl rfl⟩
  · rw [sqBaseWrite_hi (s := s.answer .ok 0) (.inl he)]
    exact ⟨sqHiSet_oneReg, sqHiSet_fields⟩
  · rw [sqBaseWrite_eq hr, sqBaseWrite_lo_locked (s := s.answer .ok 0) he hn]
  · rw [sqBaseWrite_eq hr, sqBaseWrite_hi_locked (s := s.answer .ok 0) he hn]
  · rw [sqBaseWrite_hi (s := s.answer .ok 0) (.inr ⟨h1, h2⟩)]
    exact ⟨sqHiSet_oneReg, sqHiSet_fields.2.2⟩
  · rw [jcrRdMove_quiet (s := s.answer .ok 0) hu hs]
    exact ⟨State.OneReg.refl.setF sqReg_off.2.2, setF_f_bits rfl rfl, setF_f_other jcrPtr_apart⟩
  · rw [jcrRdWrite_eq hr, jcrRdMove_past (s := s.answer .ok 0) hu]

end Sys2Proof.Machine
end

section
/-! SUPPORT. TICK messages over the fabric (R77, R80, R81, R369). -/

namespace Sys2Proof.Machine

open Sys2Proof

set_option Elab.async false

variable {r s t : State} {ch : ChIdx} {link : LinkIdx} {cell : TickCell} {err : Int}

/-! ## Cells outside the sequence -/

/-- The link unit of one channel may have changed, and nothing else. -/
def State.FabOnly (ch : ChIdx) (s t : State) : Prop :=
  s.onlyChan t ch ∧ ∃ b, t.chan[ch] = { s.chan[ch] with fab := b }

namespace State.FabOnly

theorem refl : FabOnly ch s s := ⟨⟨rfl, rfl, rfl, fun _ _ => rfl⟩, _, rfl⟩

theorem ite {c : Prop} {_ : Decidable c} {a b : State} (ha : FabOnly ch r a) (hb : FabOnly ch r b) :
    FabOnly ch r (if c then a else b) := by
  split
  · exact ha
  · exact hb

theorem foldl {α : Type} {f : State → α → State} {l : List α} (hf : ∀ t x, FabOnly ch r t → FabOnly ch r (f t x))
    (h : FabOnly ch r s) : FabOnly ch r (l.foldl f s) := by
  induction l generalizing s with
  | nil => exact h
  | cons x l ih => exact ih (hf s x h)

theorem modLink {p f} (h : FabOnly ch r s) : FabOnly ch r (s.modLink ch p f) := by
  obtain ⟨⟨hp, hf, hq, ho⟩, b, hb⟩ := h
  unfold State.modLink State.modFab
  exact ⟨⟨hp, hf, hq, fun c hc => (State.modC_other _ _ hc).trans (ho c hc)⟩, _, by rw [State.modC_same, hb]⟩

theorem sendTicks {p} (h : FabOnly ch r s) : FabOnly ch r (s.sendTicks ch p) :=
  h.ite (h.modLink.foldl fun _ _ ht => ht.modLink)

/-- TICK cells for the child links leave the rest of the package as it was. -/
theorem tickKids {num delay} (h : FabOnly ch r s) : FabOnly ch r (s.tickKids ch num delay) := by
  unfold State.tickKids
  split
  · exact h
  · exact h.foldl fun _ _ ht => ht.modLink.sendTicks.ite ht

end State.FabOnly

/-! ## An edge or a message -/

/-- Within 10% of PERIOD it ends holdover, and an acquisition that runs goes on (R77). -/
theorem tickAccept_inside (h : err.natAbs ≤ s.period) : ∃ t, s.tickAccept err = (t, true) ∧ t.chan = s.chan ∧
    t.pkg.tick.num = s.pkg.tick.num ∧ t.pkg.fld R.HUB_TICK_STAT_HOLDOVER = 0 ∧ t.pkg.tick.silent = 0 ∧
    (s.pkg.tick.acquiring = true → t.pkg.tick.acquiring = true) := by
  refine ⟨_, if_pos h, rfl, rfl, ?_, rfl, fun ha => ?_⟩
  · exact (Pkg.fld_setFld_disjoint (by decide)).trans (Pkg.fld_setFld_self (by decide))
  · simp [Pkg.setFld, Pkg.wr, ha]

/-- One outside counts in STRAY alone. -/
theorem tickAccept_outside (h : s.period < err.natAbs) :
    s.tickAccept err = (s.modP (·.satFld R.HUB_TICK_STAT_STRAY 1), false) := if_neg (Nat.not_le.2 h)

theorem stray_counts {p : Pkg} : (p.satFld R.HUB_TICK_STAT_STRAY 1).fld R.HUB_TICK_STAT_STRAY = min 255 (p.fld R.HUB_TICK_STAT_STRAY + 1) :=
  Pkg.fld_setFld_self (by
    simp only [Fld.holds, Bool.and_eq_true, decide_eq_true_eq]
    exact ⟨by decide, Nat.lt_succ_of_le (min_le_left 255 _)⟩)

/-! ## The message -/

/-- The link brings the master's number: the parent, or the alternate while the parent is down (R80). -/
def State.servesTick (s : State) (ch : ChIdx) (link : LinkIdx) (c : ImgChan) : Bool :=
  s.linkUp ch link && (link.val == c.tickParent || (link.val == c.tickAlt && !s.linkUp ch (linkOf c.tickParent)))

/-- What a message does once it has gone on to the children. -/
def State.tickHear (s : State) (num : DWord) (err : Int) : State :=
  if s.pkg.fld R.HUB_TICK_STAT_SRC_NOW != 2 then s
  else
    let (s, ok) := s.tickAccept err
    if ok && s.pkg.tick.acquiring && err.natAbs ≤ 100 then
      s.modP fun p => { p with tick := { p.tick with adopt := some (num + 1) } }
    else s

theorem tickMessage_serves {c : ImgChan} (hc : s.imgCh ch = some c) (hs : s.servesTick ch link c = true) :
    ∃ delay, exec (.tickMessage ch link cell err) s = .next ((s.tickKids ch cell.num.toNat delay).tickHear cell.num err) := by
  have e : exec (.tickMessage ch link cell err) s = execTickMessage ch link cell err s := rfl
  have hn : ¬ (!s.servesTick ch link c) = true := by rw [hs]; decide
  rw [e, execTickMessage, hc]
  exact ⟨_, congrArg Host.Outcome.next (if_neg hn)⟩

theorem tickMessage_stays (h : ∀ c, s.imgCh ch = some c → s.servesTick ch link c = false) :
    exec (.tickMessage ch link cell err) s = .next s := by
  have e : exec (.tickMessage ch link cell err) s = execTickMessage ch link cell err s := rfl
  rw [e, execTickMessage]
  cases hc : s.imgCh ch with
  | none => rfl
  | some c =>
    have hn : (!s.servesTick ch link c) = true := by rw [h c hc]; rfl
    exact congrArg Host.Outcome.next (if_pos hn)

theorem tickHear_otherSource {num : DWord} (h : s.pkg.fld R.HUB_TICK_STAT_SRC_NOW ≠ 2) : s.tickHear num err = s :=
  if_pos (bne_iff_ne.2 h)

/-- Under FABRIC a message within its window is accepted, and gives its number to a package that acquires the phase. -/
theorem tickHear_inside {num : DWord} (h : s.pkg.fld R.HUB_TICK_STAT_SRC_NOW = 2) (he : err.natAbs ≤ s.period) :
    (s.tickHear num err).chan = s.chan ∧ (s.tickHear num err).pkg.tick.num = s.pkg.tick.num ∧
      (s.tickHear num err).pkg.fld R.HUB_TICK_STAT_HOLDOVER = 0 ∧ (s.tickHear num err).pkg.tick.silent = 0 ∧
      (s.pkg.tick.acquiring = true → err.natAbs ≤ 100 → (s.tickHear num err).pkg.tick.adopt = some (num + 1)) := by
  obtain ⟨t, ht, hc, hn, hh, hs, ha⟩ := tickAccept_inside he
  have e : s.tickHear num err = if t.pkg.tick.acquiring && err.natAbs ≤ 100 then
      t.modP fun p => { p with tick := { p.tick with adopt := some (num + 1) } } else t := by
    unfold State.tickHear
    rw [if_neg (by simp [h]), ht]
    rfl
  rw [e]
  split
  · exact ⟨hc, hn, hh, hs, fun _ _ => rfl⟩
  · next hna => exact ⟨hc, hn, hh, hs, fun hq hl => absurd (by simp [ha hq, hl]) hna⟩

theorem tickHear_outside {num : DWord} (h : s.pkg.fld R.HUB_TICK_STAT_SRC_NOW = 2) (he : s.period < err.natAbs) :
    s.tickHear num err = s.modP (·.satFld R.HUB_TICK_STAT_STRAY 1) := by
  unfold State.tickHear
  rw [if_neg (by simp [h]), tickAccept_outside he]
  rfl

theorem servesTick_iff {c : ImgChan} : s.servesTick ch link c = true ↔ s.linkUp ch link = true ∧
    (link.val = c.tickParent ∨ (link.val = c.tickAlt ∧ s.linkUp ch (Fin.ofNat 16 c.tickParent) = false)) := by
  simp [State.servesTick, linkOf]

/-- Settles O34: the message goes on in the link unit alone, and is then heard like an edge. -/
theorem tickMessages : Obligations.TickMessages := by
  intro s ch link num delay resid err i serves frame
  have heard {c} (hc : s.imgCh ch = some c) (hs : serves c) {P : State → Prop}
      (hp : ∀ u, s.FabOnly ch u → P (u.tickHear num err)) : goesTo (exec i s) P := by
    obtain ⟨d, he⟩ := tickMessage_serves (cell := ⟨num, delay, resid⟩) (err := err) hc (servesTick_iff.2 hs)
    exact ⟨_, he, hp _ State.FabOnly.refl.tickKids⟩
  have framed {u t : State} (hu : s.FabOnly ch u) (hc : t.chan = u.chan) (hn : t.pkg.tick.num = u.pkg.tick.num) : frame t := by
    obtain ⟨⟨hp, -, -, ho⟩, b, hb⟩ := hu
    simp only [frame, hc, hn, hp, hb]
    exact ⟨ho, trivial, trivial, trivial⟩
  refine ⟨fun c hc hs h2 => heard hc hs fun u hu => ?_, fun c hc hs h2 => heard hc hs fun u hu => ?_, fun h => ?_⟩
  · have hp : u.pkg = s.pkg := hu.1.1
    have h2' : u.pkg.fld R.HUB_TICK_STAT_SRC_NOW = 2 := by rw [hp]; exact h2
    have hper : u.period = s.pkg.fld R.HUB_TICK_CFG_PERIOD := by rw [State.period, hp]
    rcases Nat.lt_or_ge u.period err.natAbs with hlt | hge
    · rw [tickHear_outside h2' hlt]
      refine ⟨framed hu rfl rfl, fun h => absurd h (by omega), fun _ => ⟨?_, ?_⟩⟩
      · rw [← hp]; rfl
      · rw [← hp]; exact stray_counts
    · obtain ⟨kc, kn, kh, ks, ka⟩ := tickHear_inside (num := num) h2' hge
      rw [hp] at ka
      exact ⟨framed hu kc kn, fun _ => ⟨kh, ks, ka⟩, fun h => absurd h (by omega)⟩
  · rw [tickHear_otherSource (by rw [hu.1.1]; exact h2)]
    exact ⟨framed hu rfl rfl, by rw [hu.1.1]⟩
  · refine tickMessage_stays fun c hc => ?_
    rcases h with h | h
    · rw [h] at hc; cases hc
    · exact Bool.eq_false_iff.2 fun hs => h c hc (servesTick_iff.1 hs)

end Sys2Proof.Machine
end

section
/-! SUPPORT. A boundary whose mould commit raises SPLIT: the statement of the tick holds only where the T3 words of every image
name T3 registers. -/

namespace Sys2Proof.Machine

open Sys2Proof Sys2Proof.Tests

set_option Elab.async false

/-- The image in force. -/
def plainImage : Image := image ⟨1, false, 9, 0⟩ 0

/-- The same image with one T3 word more, at the offset of GAF_LEASE_STATUS, with the bit of SPLIT. -/
def strayImage : Image := { plainImage with t3Words := [(0x204, 4)] }

/-- A started tick, that image drained and due, and a value latched for HUB_TICK_CFG. -/
def strayTick : State := (on.modP fun p => { p with
  mould := { p.mould with force := some plainImage, staged := some strayImage },
  tick := { p.tick with started := true, latched := [⟨0, 0x100, 5000⟩] } }).toMould mouldDraining

theorem strayTick_due : strayTick.pkg.tick.started = true ∧ strayTick.split = false := by decide +kernel

/-- The commit writes the word into the lease register before the latched values are taken up, so the value waits. -/
theorem strayTick_waits :
    (strayTick.boundary State.commitDue).tickMaster.pkg.tick.latched = [⟨0, 0x100, 5000⟩] := by decide +kernel

theorem strayTick_boundary : exec .tickBoundary strayTick = .next (strayTick.boundary State.commitDue).tickMaster := by
  have e : exec .tickBoundary strayTick = execTickBoundary strayTick := rfl
  rw [e, execTickBoundary, if_pos strayTick_due.1]

/-- Refutes O25: no split stands before the boundary, but the commit in it brings a T3 word that names GAF_LEASE_STATUS and
raises SPLIT, so what was latched for HUB_TICK_CFG does not take effect. -/
theorem not_tickBoundaries : ¬ Obligations.TickBoundaries := by
  unfold Obligations.TickBoundaries
  intro h
  obtain ⟨hstarted, hsplit⟩ := strayTick_due
  obtain ⟨hboundary, -⟩ := h strayTick 0 0
  obtain ⟨t, ht, -, -, -, hnone, -⟩ := hboundary hstarted
  have he : (strayTick.boundary State.commitDue).tickMaster = t := by
    rw [strayTick_boundary] at ht
    injection ht
  have hempty := hnone hsplit
  rw [← he, strayTick_waits] at hempty
  exact List.cons_ne_nil _ _ hempty

end Sys2Proof.Machine
end

section
/-! SUPPORT. How a killed job fades: what ends entries and jobs starts no entry, kills no other job, and leaves a context that is
being killed so, or FREE with its record (R103 to R105, R108). -/

namespace Sys2Proof.Machine

open Sys2Proof

set_option Elab.async false

variable {r s t : State} {ch : ChIdx} {jc : JcIdx} {eng : Fin 11} {x : Entry} {val : BitVec 32} {reason : Nat}

/-! ## Contexts -/

/-- The job of a context is being killed, or has ended killed. -/
def Ctx.gone (c : Ctx) : Prop := c.st = .killing ∨ (c.st = .free ∧ c.fStatus = 3)

/-- A context after changes that kill no job and bring none back. -/
structure Ctx.Fades (c d : Ctx) : Prop where
  gone : c.gone → d.gone
  noted : c.gone → c.fStatus = 3 → d.fStatus = 3
  kills : d.st = .killing → c.st = .killing

theorem Ctx.Fades.refl (c : Ctx) : c.Fades c := ⟨id, fun _ => id, id⟩

theorem Ctx.Fades.trans {c d e : Ctx} (h : c.Fades d) (g : d.Fades e) : c.Fades e :=
  ⟨fun x => g.gone (h.gone x), fun x y => g.noted (h.gone x) (h.noted x y), fun x => h.kills (g.kills x)⟩

/-- A change beside the state of the context and its fault. -/
theorem Ctx.Fades.of_same {c d : Ctx} (hs : d.st = c.st) (hf : d.fStatus = c.fStatus) : c.Fades d := by
  refine ⟨fun h => ?_, fun _ h => hf.trans h, fun h => hs ▸ h⟩
  unfold Ctx.gone at *
  rwa [hs, hf]

/-- A change of a context that is neither killed nor FREE, to one that is not killed. -/
theorem Ctx.Fades.of_alive {c d : Ctx} (hk : c.st ≠ .killing) (hf : c.st ≠ .free) (hd : d.st ≠ .killing) : c.Fades d := by
  have hg : ¬ c.gone := by
    rintro (h | ⟨h, -⟩)
    · exact hk h
    · exact hf h
  exact ⟨fun h => absurd h hg, fun h => absurd h hg, fun h => absurd h hd⟩

/-- A blocked thread that goes on. -/
theorem Ctx.unblock_fades (c : Ctx) (pc : DWord) : c.Fades { c.unblock with pc := pc } := by
  have same {d : Ctx} (hs : d.st = c.st) (hf : d.fStatus = c.fStatus) : c.Fades d := .of_same hs hf
  have runs {st : CtxSt} (h : c.st = st) (hk : st ≠ .killing) (hf : st ≠ .free) {d : Ctx} (hd : d.st = .run) : c.Fades d :=
    .of_alive (h ▸ hk) (h ▸ hf) (by rw [hd]; decide)
  unfold Ctx.unblock
  dsimp only
  split
  · next e => exact runs e (by decide) (by decide) rfl
  · next e => exact runs e (by decide) (by decide) rfl
  · next e => exact runs e (by decide) (by decide) rfl
  · exact same rfl rfl
  · exact same rfl rfl
  · exact same rfl rfl

/-! ## States -/

/-- The entries that an engine runs or has parked. -/
def EngQ.begun (q : EngQ) : List Entry := q.parked ++ q.run.toList

/-- What stands in the scheduler of a channel and no job changes: the quantum and the arbiters. -/
def Chan.timing (c : Chan) : Nat × List Arb := (c.sched.quantum, c.sched.arb)

theorem timing_of_seq (h : s.SeqKept ch t) : s.SamePart Chan.timing ch t :=
  congrArg (fun x : Vector Sem 256 × Vector Ctx 16 × Vector EngQ 11 × List Access × Sched =>
    (x.2.2.2.2.quantum, x.2.2.2.2.arb)) h

/-- A state of a channel whose engines took up no entry, while its contexts faded. -/
structure State.Fades (ch : ChIdx) (r s : State) : Prop where
  begun : ∀ e x, x ∈ (s.eq ch e).begun → x ∈ (r.eq ch e).begun
  ctx : ∀ j : JcIdx, (r.ctx ch j).Fades (s.ctx ch j)
  timing : r.SamePart Chan.timing ch s

namespace State.Fades

theorem refl : Fades ch s s := ⟨fun _ _ h => h, fun _ => .refl _, rfl⟩

theorem trans (h : Fades ch r s) (g : Fades ch s t) : Fades ch r t :=
  ⟨fun e x hx => h.begun e x (g.begun e x hx), fun j => (h.ctx j).trans (g.ctx j), h.timing.trans g.timing⟩

theorem ite {c : Prop} {_ : Decidable c} {a b : State} (ha : Fades ch r a) (hb : Fades ch r b) :
    Fades ch r (if c then a else b) := by
  split
  · exact ha
  · exact hb

theorem foldl {α : Type} {f : State → α → State} (hf : ∀ t x, Fades ch r t → Fades ch r (f t x)) :
    ∀ {l : List α} {s : State}, Fades ch r s → Fades ch r (l.foldl f s)
  | [], _, h => h
  | x :: l, s, h => foldl hf (l := l) (hf s x h)

/-- What leaves the sequencer alone. -/
theorem of_seq (h : Fades ch r s) (g : s.SeqKept ch t) : Fades ch r t :=
  h.trans ⟨fun e x => by rw [g.eq]; exact id, fun j => by rw [g.ctx]; exact .refl _, timing_of_seq g⟩

/-- A change of the channel beside its contexts, queues, quantum and arbiters. -/
theorem modC {f : Chan → Chan} (h : Fades ch r s)
    (hf : ∀ c, ((f c).ctx, (f c).q, (f c).timing) = (c.ctx, c.q, c.timing) := by exact fun _ => rfl) :
    Fades ch r (s.modC ch f) := h.trans (by
  obtain ⟨hc, hq, ht⟩ : (f s.chan[ch]).ctx = (s.chan[ch]).ctx ∧ (f s.chan[ch]).q = (s.chan[ch]).q ∧
      (f s.chan[ch]).timing = (s.chan[ch]).timing := by simpa only [Prod.mk.injEq] using hf s.chan[ch]
  refine ⟨fun e x hx => ?_, fun j => ?_, ?_⟩
  · unfold State.eq at *
    rwa [State.modC_same, hq] at hx
  · rw [State.modC_ctx _ _ _ _ _ hc]
    exact .refl _
  · unfold State.SamePart
    rw [State.modC_same, ht])

theorem modX_of {f : Ctx → Ctx} (h : Fades ch r s) (hf : (s.ctx ch jc).Fades (f (s.ctx ch jc))) :
    Fades ch r (s.modX ch jc f) := h.trans (by
  refine ⟨fun e x hx => ?_, fun j => ?_, ?_⟩
  · unfold State.eq at *
    rwa [State.modX_same] at hx
  · by_cases e : j = jc
    · subst e
      rwa [State.modX_ctx]
    · rw [State.modX_ctxOther s ch f e]
      exact .refl _
  · unfold State.SamePart
    rw [State.modX_same]
    rfl)

theorem modX {f : Ctx → Ctx} (h : Fades ch r s) (hf : ∀ c : Ctx, c.Fades (f c) := by exact fun _ => .of_same rfl rfl) :
    Fades ch r (s.modX ch jc f) := h.modX_of (hf _)

/-- A change of an engine's queue that takes up no entry. -/
theorem modQ {e : Fin 11} {f : EngQ → EngQ} (h : Fades ch r s) (hf : ∀ q, ∀ x ∈ (f q).begun, x ∈ q.begun) :
    Fades ch r (s.modQ ch e f) := h.trans (by
  refine ⟨fun q x hx => ?_, fun j => ?_, ?_⟩
  · by_cases he : q = e
    · subst he
      rw [State.modQ_eq] at hx
      exact hf _ x hx
    · have hn : e.val ≠ q.val := fun x => he (Fin.ext x.symm)
      unfold State.eq at *
      rw [State.modQ_same] at hx
      simpa [Vector.getElem_set_ne, hn] using hx
  · rw [State.modQ, State.modC_ctx _ _ _ _ _ rfl]
    exact .refl _
  · unfold State.SamePart
    rw [State.modQ_same]
    rfl)

theorem post {src code arg} (h : Fades ch r s) : Fades ch r (s.post src code arg) := h.of_seq SeqKept.refl.post

theorem setF {f v} (h : Fades ch r s) : Fades ch r (s.setF ch f v) := h.modC

/-! ## Semaphores -/

theorem modSem {n f} (h : Fades ch r s) : Fades ch r (s.modSem ch n f) := h.modC

theorem takeWaits {ws} (h : Fades ch r s) : Fades ch r (s.takeWaits ch ws) := h.foldl fun _ _ ht => ht.modSem

theorem moverWait (h : Fades ch r s) : Fades ch r (s.moverWait ch) := h.takeWaits.modC.ite h

theorem semWake (h : Fades ch r s) : Fades ch r (s.semWake ch) := (h.of_seq SeqKept.refl.wake).ite h

theorem learn {p} (h : Fades ch r s) : Fades ch r (s.learn ch jc p) := h.modC

theorem semServe (h : Fades ch r s) : Fades ch r (s.semServe ch) := by
  unfold State.semServe
  refine (h.moverWait.foldl fun _ _ ht => ?_).semWake
  split
  · exact (ht.modSem.learn.modX fun c => c.unblock_fades _).ite ht
  · exact ht

theorem fenceServe (h : Fades ch r s) : Fades ch r (s.fenceServe ch) := by
  unfold State.fenceServe
  refine h.foldl fun _ _ ht => ?_
  split
  · exact (ht.learn.modX fun c => c.unblock_fades _).ite ht
  · exact ht

theorem semReturn (h : Fades ch r s) : Fades ch r (s.semReturn ch jc) := by
  unfold State.semReturn
  exact h.modC.semServe

/-! ## Records and faults -/

theorem logDone {e signals} (h : Fades ch r s) : Fades ch r (s.logDone ch e signals) := by
  unfold State.logDone
  exact h.modC

/-- Only a context that is neither killed nor FREE is stopped by a fault. -/
theorem faultCtx {status eng td arg} (h : Fades ch r s) (hk : (s.ctx ch jc).st ≠ .killing) (hf : (s.ctx ch jc).st ≠ .free) :
    Fades ch r (s.faultCtx ch jc status eng td arg) := by
  obtain ⟨u, hu, e⟩ := lastStores_eq s ch jc
  rw [← hu.ctx] at hk hf
  unfold State.faultCtx
  rw [e, modX_modX]
  exact ((h.of_seq hu).modX_of (.of_alive hk hf (by simp [Ctx.stop]))).modC.post

theorem cqLost {e} (h : Fades ch r s) : Fades ch r (s.cqLost ch jc e) := by
  unfold State.cqLost
  split
  extract_lets s1 s2
  have h2 : Fades ch r s2 := h.setF.modX.post
  split
  · exact h2
  · next hs => exact h2.faultCtx (fun hk => hs (by rw [hk]; rfl)) (fun hf => hs (by rw [hf]; rfl))

theorem emit {d} (h : Fades ch r s) : Fades ch r (s.emit ch jc d) := by
  unfold State.emit
  refine h.ite (h.modX.ite ?_)
  split
  · next _ ht => exact h.of_seq (SeqKept.refl.cqPut.of_ok ht)
  · exact h.modX.ite h.cqLost

theorem dropEntry {e status partly} (h : Fades ch r s) : Fades ch r (s.dropEntry ch e status partly) := by
  unfold State.dropEntry
  extract_lets jc s1 s2
  have h2 : Fades ch r s2 := h.modX.logDone.of_seq SeqKept.refl.ftEntryDone.rcEntryDone.clEntryDone
  exact h2.emit.ite h2

theorem begun_filter {q : EngQ} {p : Entry → Bool} {w : List Entry} {y : Entry}
    (hy : y ∈ ({ q with waiting := w, parked := q.parked.filter p } : EngQ).begun) : y ∈ q.begun := by
  simp only [EngQ.begun, List.mem_append] at *
  exact hy.imp_left fun h => (List.mem_filter.1 h).1

theorem sweep {status} (h : Fades ch r s) : Fades ch r (s.sweep ch jc status) :=
  h.foldl fun _ _ ht => ((ht.modQ fun _ _ => begun_filter).foldl fun _ _ hu => hu.dropEntry).foldl fun _ _ hu => hu.dropEntry

theorem settle (h : Fades ch r s) : Fades ch r (s.settle ch jc) := by
  unfold State.settle
  split
  · next e =>
    have hp : (s.ctx ch jc).st = .preempted := by
      simp only [Bool.and_eq_true, beq_iff_eq] at e
      exact e.1
    exact h.modX_of (.of_alive (by simp [hp]) (by simp [hp]) (by simp))
  · exact h

/-! ## The end of a job -/

/-- The kill is noted in CH_JC_FAULT. -/
theorem killNote (h : Fades ch r s) : Fades ch r (s.killNote ch jc) := by
  unfold State.killNote
  extract_lets c
  have hm : Fades ch r (s.modX ch jc fun c => { c with fStatus := 3 }) :=
    h.modX fun c => ⟨Or.imp_right fun hf => ⟨hf.1, rfl⟩, fun _ _ => rfl, id⟩
  exact h.ite hm.post

theorem ftJobEnd (h : Fades ch r s) : Fades ch r (s.ftJobEnd ch jc) := by
  unfold State.ftJobEnd
  extract_lets wait pins s1
  have h1 : Fades ch r s1 := h.of_seq SeqKept.refl.modFt
  exact h1.modX (f := fun c => { c with pins := [] })

theorem forget (h : Fades ch r s) : Fades ch r (s.forget ch jc) := h.modC

/-- A context is FREE once the kill of its job is noted. -/
theorem vacate (h : Fades ch r s) (hk : (s.ctx ch jc).st = .killing → (s.ctx ch jc).fStatus = 3) :
    Fades ch r (s.modX ch jc Ctx.vacate) := by
  have three (hg : (s.ctx ch jc).gone) : (s.ctx ch jc).fStatus = 3 := hg.elim hk And.right
  exact h.modX_of ⟨fun hg => .inr ⟨rfl, three hg⟩, fun _ h3 => h3, nofun⟩

end State.Fades

/-- After the note a context that is being killed shows 0x0003. -/
theorem killNote_notes (h : ((s.killNote ch jc).ctx ch jc).st = .killing) : ((s.killNote ch jc).ctx ch jc).fStatus = 3 := by
  revert h
  unfold State.killNote
  extract_lets c
  split
  · next e =>
    intro hk
    simp only [Bool.or_eq_true, bne_iff_ne, beq_iff_eq] at e
    exact e.resolve_left fun hn => hn hk
  · intro _
    rw [State.SeqKept.refl.post.ctx, State.modX_ctx]

/-- A counter of a client stands beside the sequencer. -/
theorem incFld_timing (c : Chan) (f : Fld) (n : Nat) :
    ((c.incFld f n).ctx, (c.incFld f n).q, (c.incFld f n).timing) = (c.ctx, c.q, c.timing) := rfl

/-- What follows the note when no entry of the job is left: held records, what the job held, its record, and FREE. -/
def State.endRest (s : State) (ch : ChIdx) (jc : JcIdx) : State :=
  if !(s.ctx ch jc).held.isEmpty then s
  else
  let s := if (s.ctx ch jc).closed then s
    else (((((s.rcJobEnd ch jc).ftJobEnd ch jc).semReturn ch jc).arwsJobEnd ch jc).forget ch jc).modX ch jc fun c =>
      { c with closed := true }
  let c := s.ctx ch jc
  if s.jcrFull ch c.job.sq then s
  else
    let killed := c.st == .killing
    let status := if killed then 3 else if c.st == .faulted then c.fStatus else 0
    let s := s.jcrPut ch c.job.sq c.job.id
      (jcrRecord c.job.id status (if killed then c.reason else 0) jc.val c.job.lc true c.job.client c.job.sq
        s.pkg.tick.num.toNat c.job.done c.job.preempts c.job.overruns)
    let s := s.modC ch fun k =>
      if killed then k.incFld (R.CH_CLIENT_KILL_KILL c.job.client) 1
      else k.incFld (R.CH_CLIENT_DONE_DONE c.job.client) 1
    ((s.modX ch jc Ctx.vacate).modC ch fun k =>
      { k with sched := { k.sched with be := k.sched.be.filter (· != jc.val) } }).drainEnd ch

/-- A job goes on towards its end only when it stops and none of its entries is left. -/
theorem tryEnd_eq : s.tryEnd ch jc =
    if !(s.ctx ch jc).st.stopping || !(s.entriesOf ch jc).isEmpty then s else (s.killNote ch jc).endRest ch jc := rfl

namespace State.Fades

theorem endRest (h : Fades ch r s) (hk : (s.ctx ch jc).st = .killing → (s.ctx ch jc).fStatus = 3) :
    Fades ch r (s.endRest ch jc) := by
  refine h.trans ?_
  unfold State.endRest
  extract_lets s2 c killed status s3 s4
  have h0 : Fades ch s s := refl
  have h2 : Fades ch s s2 :=
    h0.ite (((h0.of_seq SeqKept.refl.rcJobEnd).ftJobEnd.semReturn.of_seq SeqKept.refl.arwsJobEnd).forget.modX)
  have h4 : Fades ch s s4 := by
    refine (h2.of_seq SeqKept.refl.jcrPut).modC fun k => ?_
    split
    · exact incFld_timing ..
    · exact incFld_timing ..
  have hk4 (h : (s4.ctx ch jc).st = .killing) : (s4.ctx ch jc).fStatus = 3 := by
    have hs := (h4.ctx jc).kills h
    exact (h4.ctx jc).noted (.inl hs) (hk hs)
  exact h0.ite (h2.ite ((h4.vacate hk4).modC.of_seq SeqKept.refl.drainEnd))

theorem tryEnd (h : Fades ch r s) : Fades ch r (s.tryEnd ch jc) := by
  rw [tryEnd_eq]
  exact h.ite (h.killNote.endRest killNote_notes)

end State.Fades

/-! ## A kill -/

/-- The job was killed: its context is being killed or FREE, and shows 0x0003 once none of its entries remains. -/
def State.killed (s : State) (ch : ChIdx) (jc : JcIdx) : Prop :=
  ((s.ctx ch jc).st = .killing ∨ (s.ctx ch jc).st = .free) ∧ (s.entriesOf ch jc = [] → (s.ctx ch jc).fStatus = 3)

/-- What has gone is killed once it has gone on towards its end. -/
theorem tryEnd_killed (h : (s.ctx ch jc).gone) : (s.tryEnd ch jc).killed ch jc := by
  have hf : State.Fades ch s (s.tryEnd ch jc) := State.Fades.refl.tryEnd
  refine ⟨((hf.ctx jc).gone h).imp_right And.left, ?_⟩
  rcases h with hk | ⟨hfree, h3⟩
  · by_cases he : s.entriesOf ch jc = []
    · intro _
      have hn : s.tryEnd ch jc = (s.killNote ch jc).endRest ch jc := by
        rw [tryEnd_eq, if_neg (by simp [hk, he, CtxSt.stopping])]
      have h1 : State.Fades ch s (s.killNote ch jc) := State.Fades.refl.killNote
      have h2 : State.Fades ch (s.killNote ch jc) (s.tryEnd ch jc) := hn ▸ State.Fades.refl.endRest killNote_notes
      have hg := (h1.ctx jc).gone (.inl hk)
      exact (h2.ctx jc).noted hg (hg.elim killNote_notes And.right)
    · have hs : s.tryEnd ch jc = s := by rw [tryEnd_eq, if_pos (by simp [he])]
      rw [hs]
      exact fun hn => absurd hn he
  · exact fun _ => (hf.ctx jc).noted (.inr ⟨hfree, h3⟩) h3

/-- The context of a killed job as the kill leaves it, before its entries are taken off. -/
def State.struck (s : State) (ch : ChIdx) (jc : JcIdx) (reason : Nat) : State :=
  ((s.lastStores ch jc).modX ch jc fun c => { c.stop .killing with reason := reason }).modC ch fun c =>
    { c with sched := { c.sched with be := c.sched.be.filter (· != jc.val) } }

/-- A job that neither has ended nor is stopping. -/
def Ctx.alive (c : Ctx) : Prop := c.st ≠ .free ∧ c.st ≠ .killing ∧ c.st ≠ .faulted

theorem killJob_alive (h : (s.ctx ch jc).alive) : s.killJob ch jc reason = ((s.struck ch jc reason).sweep ch jc 3).tryEnd ch jc := by
  obtain ⟨h1, h2, h3⟩ := h
  exact if_neg (by simp [h1, h2, h3])

theorem killJob_not_alive (h : ¬ (s.ctx ch jc).alive) : s.killJob ch jc reason = s := by
  refine if_pos ?_
  unfold Ctx.alive at h
  simp only [Bool.or_eq_true, beq_iff_eq]
  tauto

theorem struck_does : ((s.struck ch jc reason).ctx ch jc).st = .killing ∧
    (∀ e, (s.struck ch jc reason).eq ch e = s.eq ch e) ∧ s.SamePart Chan.timing ch (s.struck ch jc reason) := by
  obtain ⟨u, hu, e⟩ := State.lastStores_eq s ch jc
  unfold State.struck
  rw [e, modX_modX]
  refine ⟨?_, fun q => ?_, ?_⟩
  · rw [State.modC_ctx _ _ _ _ _ rfl, State.modX_ctx]
    rfl
  · rw [← hu.eq]
    unfold State.eq
    rw [State.modC_same, State.modX_same]
  · unfold State.SamePart
    rw [State.modC_same, State.modX_same]
    exact timing_of_seq hu

/-- A kill starts no entry, and leaves the quantum and the arbiters. -/
theorem killJob_begun (e : Fin 11) : ∀ x ∈ ((s.killJob ch jc reason).eq ch e).begun, x ∈ (s.eq ch e).begun := by
  by_cases h : (s.ctx ch jc).alive
  · have hf : State.Fades ch (s.struck ch jc reason) (((s.struck ch jc reason).sweep ch jc 3).tryEnd ch jc) :=
      State.Fades.refl.sweep.tryEnd
    intro x hx
    rw [killJob_alive h] at hx
    exact struck_does.2.1 e ▸ hf.begun e x hx
  · rw [killJob_not_alive h]
    exact fun _ => id

theorem killJob_timing : s.SamePart Chan.timing ch (s.killJob ch jc reason) := by
  by_cases h : (s.ctx ch jc).alive
  · rw [killJob_alive h]
    exact (struck_does.2.2).trans (State.Fades.refl.sweep.tryEnd (jc := jc)).timing
  · rw [killJob_not_alive h]
    rfl

/-- Where the job is alive, its kill has it gone before it goes on towards its end. -/
theorem killJob_gone (h : (s.ctx ch jc).alive) : ((s.killJob ch jc reason).ctx ch jc).gone ∧
    (s.killJob ch jc reason).killed ch jc := by
  have hf : State.Fades ch (s.struck ch jc reason) ((s.struck ch jc reason).sweep ch jc 3) := State.Fades.refl.sweep
  have hg := (hf.ctx jc).gone (.inl struck_does.1)
  rw [killJob_alive h]
  exact ⟨((State.Fades.refl.tryEnd (jc := jc)).ctx jc).gone hg, tryEnd_killed hg⟩

/-! ## An entry aborted -/

/-- The entries of an engine without those of the aborted one's order. -/
def EngQ.without (x : Entry) (q : EngQ) : EngQ :=
  { q with run := q.run.filter fun y => y.order != x.order, parked := q.parked.filter fun y => y.order != x.order }

theorem without_begun {q : EngQ} {y : Entry} (h : y ∈ (q.without x).begun) : y ∈ q.begun ∧ y.order ≠ x.order := by
  simp only [EngQ.begun, EngQ.without, List.mem_append, List.mem_filter, bne_iff_ne, Option.mem_toList, Option.filter_eq_some_iff] at *
  tauto

/-- The kill of its job, with the entry off its engine. -/
def State.torn (s : State) (ch : ChIdx) (x : Entry) (reason : Nat) : State :=
  (s.killJob ch (jcOf x.jc) reason).modQ ch (engOf x.eng) (EngQ.without x)

theorem abortEntry_eq : s.abortEntry ch x reason =
    ((((((s.torn ch x reason).dropEntry ch x 3 true).settle ch (jcOf x.jc)).fenceServe ch).semServe ch).tryEnd ch (jcOf x.jc)) := rfl

theorem torn_fades : State.Fades ch (s.killJob ch (jcOf x.jc) reason) (s.torn ch x reason) :=
  State.Fades.refl.modQ fun _ _ h => (without_begun h).1

theorem abortEntry_fades : State.Fades ch (s.torn ch x reason) (s.abortEntry ch x reason) :=
  abortEntry_eq ▸ State.Fades.refl.dropEntry.settle.fenceServe.semServe.tryEnd

theorem abortEntry_timing : s.SamePart Chan.timing ch (s.abortEntry ch x reason) :=
  (killJob_timing.trans torn_fades.timing).trans abortEntry_fades.timing

/-- The entry is off its engine. -/
theorem abortEntry_off : ∀ y ∈ ((s.abortEntry ch x reason).eq ch (engOf x.eng)).begun, y.order ≠ x.order := by
  intro y hy
  have h := abortEntry_fades.begun _ y hy
  unfold State.torn at h
  rw [State.modQ_eq] at h
  exact (without_begun h).2

/-- Its job is killed. -/
theorem abortEntry_killed (h : (s.ctx ch (jcOf x.jc)).alive) : (s.abortEntry ch x reason).killed ch (jcOf x.jc) := by
  have hg := (torn_fades.ctx _).gone (killJob_gone (reason := reason) h).1
  have hf : State.Fades ch (s.torn ch x reason)
      (((((s.torn ch x reason).dropEntry ch x 3 true).settle ch (jcOf x.jc)).fenceServe ch).semServe ch) :=
    State.Fades.refl.dropEntry.settle.fenceServe.semServe
  rw [abortEntry_eq]
  exact tryEnd_killed ((hf.ctx _).gone hg)

/-! ## CH_JOB_KILL -/

theorem jcOf_val : jcOf jc.val = jc := Fin.ext (Nat.mod_eq_of_lt jc.isLt)

/-- The state in which a kill by the host begins. -/
def State.killAsked (s : State) (ch : ChIdx) (jc : JcIdx) : State :=
  ((s.answer .ok 0).setF ch R.CH_JOB_KILL_JC jc.val).wake ch 6

theorem jobKill_eq (hr : s.reaches (pfOf ch)) (hg : val.getLsbD 31 = true) (hv : bits val.toNat 3 0 = jc.val) :
    exec (.jobKill ch val) s = .next ((s.killAsked ch jc).killJob ch jc 1) := by
  have e : exec (.jobKill ch val) s = .next (s.hostWr (pfOf ch) 0x508 fun s =>
      let s := s.setF ch R.CH_JOB_KILL_JC (bits val.toNat 3 0)
      if val.getLsbD 31 then (s.wake ch 6).killJob ch (jcOf (bits val.toNat 3 0)) 1 else s) := rfl
  rw [e, State.hostWr_reaches hr, hg, hv, jcOf_val]
  rfl

theorem killAsked_ctx (j : JcIdx) : (s.killAsked ch jc).ctx ch j = s.ctx ch j :=
  (show s.SeqKept ch (s.killAsked ch jc) from (State.SeqKept.refl (s := s.answer .ok 0)).setF.wake).ctx j

theorem killAsked_run (hp : (s.pwr ch).st = .run) (hm : (s.pwr ch).move = .none) :
    s.killAsked ch jc = (s.answer .ok 0).setF ch R.CH_JOB_KILL_JC jc.val := by
  refine wake_run ?_ ?_
  · rw [State.setF_same]
    exact hp
  · rw [State.setF_same]
    exact hm

/-! ## The limits -/

theorem atomicLimit_some (h : s.atomicOn ch eng = some x) (hf : s.fenced = false) :
    exec (.atomicLimit ch eng) s = .next (s.abortEntry ch x 3) := by
  have e : exec (.atomicLimit ch eng) s = execAtomicLimit ch eng s := rfl
  rw [e, execAtomicLimit, h]
  exact if_neg (by simp [hf])

theorem atomicLimit_idle (h : s.atomicOn ch eng = none ∨ s.fenced = true) : exec (.atomicLimit ch eng) s = .next s := by
  have e : exec (.atomicLimit ch eng) s = execAtomicLimit ch eng s := rfl
  rw [e, execAtomicLimit]
  split
  · next hx => exact if_pos (h.resolve_left (by simp [hx]))
  · rfl

theorem donationLimit_needed (hd : (s.ctx ch jc).sched.donor.isSome = true) (hn : s.needed ch jc = true) (hf : s.fenced = false) :
    exec (.donationLimit ch jc) s = .next (s.killJob ch jc 2) :=
  if_neg (by simp [Option.isSome_iff_ne_none.1 hd, hn, hf])

/-- Settles O32: whatever kills a job has its context gone before the job goes on towards its end. -/
theorem killsAndLimits : Obligations.KillsAndLimits := by
  intro s ch jc eng val killed alive
  refine ⟨fun hr hg hv => ⟨fun ha => ?_, fun ha => ?_⟩, fun e he hj hn hf ha => ?_, fun h => ?_, fun hd hn hf ha => ?_, fun hd => ?_⟩
  · have ha' : ((s.killAsked ch jc).ctx ch jc).alive := killAsked_ctx (s := s) jc ▸ ha
    exact ⟨_, jobKill_eq hr hg hv, (killJob_gone ha').2⟩
  · rw [jobKill_eq hr hg hv, killJob_not_alive (by rw [killAsked_ctx]; exact ha)]
    refine ⟨_, rfl, killAsked_ctx, fun hp hm => ?_⟩
    rw [killAsked_run hp hm]
    exact State.OneReg.refl.setF rfl
  · have hj' : jcOf e.jc = jc := by rw [hj, jcOf_val]
    have hn' : engOf e.eng = eng := by rw [hn, engOf_val]
    have ha' : (s.ctx ch (jcOf e.jc)).alive := by rw [hj']; exact ha
    have hk := abortEntry_killed (reason := 3) ha'
    have ho := abortEntry_off (s := s) (ch := ch) (x := e) (reason := 3)
    rw [hj'] at hk
    rw [hn'] at ho
    exact ⟨_, atomicLimit_some he hf, hk, ho⟩
  · exact atomicLimit_idle (h.imp_left fun h => List.find?_eq_none.2 fun x hx => by rcases h x hx with h | h <;> simp [Entry.atomic, h])
  · exact ⟨_, donationLimit_needed hd hn hf, (killJob_gone ha).2⟩
  · exact if_pos (by simp [hd])

end Sys2Proof.Machine
end

section
/-! SUPPORT. What changes neither the quantum nor an arbiter: the charges and decisions of a quantum boundary, loads, and the
cells of a router output (R87 to R108, R358). -/

namespace Sys2Proof.Machine

open Sys2Proof

set_option Elab.async false

variable {r s t : State} {ch : ChIdx} {jc : JcIdx} {p : LinkIdx}

theorem timing_setFld (c : Chan) (f : Fld) (v : Nat) : (c.setFld f v).timing = c.timing := rfl

/-- The quantum and the arbiters of a channel are as they were. -/
def State.Timed (ch : ChIdx) (r s : State) : Prop := r.SamePart Chan.timing ch s

namespace State.Timed

theorem refl : Timed ch s s := rfl

theorem trans (h : Timed ch r s) (g : Timed ch s t) : Timed ch r t := SamePart.trans h g

theorem ite {c : Prop} {_ : Decidable c} {a b : State} (ha : Timed ch r a) (hb : Timed ch r b) :
    Timed ch r (if c then a else b) := SamePart.ite ha hb

theorem foldl {α : Type} {f : State → α → State} {l : List α} (hf : ∀ t x, Timed ch r t → Timed ch r (f t x))
    (h : Timed ch r s) : Timed ch r (l.foldl f s) := SamePart.foldl hf h

/-- A change of the channel beside its quantum and its arbiters. -/
theorem modC {f : Chan → Chan} (h : Timed ch r s) (hf : ∀ c, (f c).timing = c.timing := by exact fun _ => rfl) :
    Timed ch r (s.modC ch f) := SamePart.modC h hf

theorem of_seq (h : Timed ch r s) (g : s.SeqKept ch t) : Timed ch r t := h.trans (timing_of_seq g)

theorem of_fades (h : Timed ch r s) (g : s.Fades ch t) : Timed ch r t := h.trans g.timing

theorem modX {f} (h : Timed ch r s) : Timed ch r (s.modX ch jc f) := h.modC

theorem modQ {e f} (h : Timed ch r s) : Timed ch r (s.modQ ch e f) := h.modC

theorem setF {f v} (h : Timed ch r s) : Timed ch r (s.setF ch f v) := h.modC

theorem satF {f n} (h : Timed ch r s) : Timed ch r (s.satF ch f n) := h.modC

theorem incF {f n} (h : Timed ch r s) : Timed ch r (s.incF ch f n) := h.modC

theorem post {src code arg} (h : Timed ch r s) : Timed ch r (s.post src code arg) := h.of_seq SeqKept.refl.post

theorem draw (h : Timed ch r s) : Timed ch r s.draw.2 := h

/-! ## Slices -/

theorem modAtomic {f} (h : Timed ch r s) : Timed ch r (s.modAtomic ch jc f) := by
  unfold State.modAtomic
  exact h.modC

theorem chargeOne (h : Timed ch r s) : Timed ch r (s.chargeOne ch jc) := h.modX.modX.modC.ite h.modX.modX

theorem overGrow (h : Timed ch r s) : Timed ch r (s.overGrow ch jc) := h.ite h.draw.modAtomic

theorem overSettle (h : Timed ch r s) : Timed ch r (s.overSettle ch jc) := h.ite h.modX.modAtomic

theorem clYield (h : Timed ch r s) : Timed ch r (s.clYield ch jc) := h.foldl fun _ _ ht => ht.modQ.of_seq SeqKept.refl.unreserve

theorem releaseSlice {count head mid} (h : Timed ch r s) : Timed ch r (s.releaseSlice ch jc count head mid) := by
  unfold State.releaseSlice
  extract_lets running atomic s1 s2 s3
  have h2 : Timed ch r s2 := h.modX.modAtomic.clYield
  have h3 : Timed ch r s3 := h2.incF.ite h2
  exact h3.ite h3.modC

theorem chargeAll (h : Timed ch r s) : Timed ch r (s.chargeAll ch) := h.foldl fun _ _ ht => (ht.chargeOne.ite ht).overGrow

theorem grantSlice (h : Timed ch r s) : Timed ch r (s.grantSlice ch jc) := by
  unfold State.grantSlice
  exact h.overSettle.modX.modC

theorem endDonations (h : Timed ch r s) : Timed ch r (s.endDonations ch) :=
  h.foldl fun _ _ ht => ht.ite (ht.modX.releaseSlice.ite ht.modX)

theorem demote (h : Timed ch r s) : Timed ch r (s.demote ch jc) := h.modX.ite (h.modX.releaseSlice.ite h.modX.modC)

theorem demoteAll (h : Timed ch r s) : Timed ch r (s.demoteAll ch) := h.foldl fun _ _ ht => ht.demote.ite ht

theorem beTurn (h : Timed ch r s) : Timed ch r (s.beTurn ch jc) := by
  unfold State.beTurn
  extract_lets
  split
  · exact h.overSettle.grantSlice.modX
  · exact h.overSettle.modX.modC

theorem expireSlices (h : Timed ch r s) : Timed ch r (s.expireSlices ch) := by
  refine h.foldl fun _ _ ht => ht.ite (ht.releaseSlice.ite ?_)
  split
  · exact ht.modX
  · exact ht.modX.releaseSlice

theorem yieldToLc (h : Timed ch r s) : Timed ch r (s.yieldToLc ch) := h.foldl fun _ _ ht => ht.releaseSlice.ite ht

theorem grantLc (h : Timed ch r s) : Timed ch r (s.grantLc ch) := h.foldl fun _ _ ht => ht.grantSlice.ite ht

theorem donate (h : Timed ch r s) : Timed ch r (s.donate ch) := by
  refine h.foldl fun _ _ ht => ht.ite (ht.foldl fun _ _ hu => ?_)
  dsimp only
  split
  · exact hu
  · exact hu.ite (hu.modX.modC.ite hu.modX.grantSlice)

theorem fillSlots (h : Timed ch r s) : Timed ch r (s.fillSlots ch) := h.foldl fun _ _ ht => ht.beTurn.ite ht

theorem openQuantum (h : Timed ch r s) : Timed ch r (s.openQuantum ch) := h.foldl fun _ _ ht => ht.modX

/-! ## Loads -/

theorem sqConsume {q client} (h : Timed ch r s) : Timed ch r (s.sqConsume ch q client) := h.incF.incF

theorem sqReject {q e reason} (h : Timed ch r s) : Timed ch r (s.sqReject ch q e reason) := by
  unfold State.sqReject
  exact (h.sqConsume.post.of_seq SeqKept.refl.jcrPut).incF

theorem ftJobLoad (h : Timed ch r s) : Timed ch r (s.ftJobLoad ch jc) := by
  unfold State.ftJobLoad
  split
  exact h.of_seq SeqKept.refl.modFt

theorem rcJobLoad (h : Timed ch r s) : Timed ch r (s.rcJobLoad ch jc) := by
  unfold State.rcJobLoad
  exact h.modC

theorem loadJob {q e} (h : Timed ch r s) : Timed ch r (s.loadJob ch jc q e) := by
  unfold State.loadJob
  extract_lets s1 left s2 s3 s4
  have h1 : Timed ch r s1 := h.sqConsume
  have h2 : Timed ch r s2 := h1.modC fun c => by
    iterate 6 rw [timing_setFld]
  have h3 : Timed ch r s3 := h2.modX
  have h4 : Timed ch r s4 := h3.ftJobLoad.rcJobLoad
  exact h4.ite h4.modC

theorem sqFault {q err} (h : Timed ch r s) : Timed ch r (s.sqFault ch q err) := h.setF.post

theorem served {lc q} (h : Timed ch r s) : Timed ch r (s.served ch lc q) := h.modC fun c => by
  cases lc
  · rfl
  · rfl

theorem loadPass {n} (h : Timed ch r s) : Timed ch r (s.loadPass ch n) := by
  induction n generalizing s with
  | zero => exact h
  | succ n ih =>
    unfold State.loadPass
    split
    · exact ih h.sqFault
    · split
      · exact h
      · dsimp only
        split
        · exact h
        · split
          · exact ih h.served.sqReject
          · exact ih h.served.loadJob

theorem noPartition {n} (h : Timed ch r s) : Timed ch r (s.noPartition ch n) := by
  induction n generalizing s with
  | zero => exact h
  | succ n ih =>
    unfold State.noPartition
    split
    · exact ih h.sqFault
    · split
      · exact h
      · exact ih h.sqReject

theorem loads (h : Timed ch r s) : Timed ch r (s.loads ch) := h.ite (h.loadPass.ite (h.ite h.noPartition))

/-- The decisions of a boundary stay within its quantum. -/
theorem decide (h : Timed ch r s) : Timed ch r (s.decide ch) := by
  unfold State.decide
  extract_lets
  have hs := h.loads.endDonations.demoteAll.expireSlices.yieldToLc.grantLc.donate.fillSlots.openQuantum
  exact h.loads.ite (hs.of_fades Fades.refl.semServe.fenceServe)

/-! ## The cells of a router output -/

theorem modLink {f} (h : Timed ch r s) : Timed ch r (s.modLink ch p f) := h.modC

theorem sendTicks (h : Timed ch r s) : Timed ch r (s.sendTicks ch p) := h.ite (h.modLink.foldl fun _ _ ht => ht.modLink)

theorem closeGroup (h : Timed ch r s) : Timed ch r (s.closeGroup ch p) := h.ite (h.modLink.ite h.draw.modLink)

theorem freeInput {inp vc} (h : Timed ch r s) : Timed ch r (s.freeInput ch inp vc) := h.of_seq SeqKept.refl.freeInput

theorem emitCell {q} (h : Timed ch r s) : Timed ch r (s.emitCell ch p q) := h.modLink.freeInput.closeGroup.ite h.modLink.freeInput

theorem setDwrr {d} (h : Timed ch r s) : Timed ch r (s.setDwrr ch p d) := h.modLink

theorem serveVcs {inp fuel left vc fresh idle} (h : Timed ch r s) : Timed ch r (s.serveVcs ch p inp fuel left vc fresh idle) := by
  induction fuel generalizing s left vc fresh idle with
  | zero => exact h
  | succ fuel ih =>
    unfold State.serveVcs
    extract_lets l d head
    clear_value head
    refine h.setDwrr.ite ?_
    split
    · exact ih h.setDwrr
    · exact (h.setDwrr.ite h.setDwrr).ite ((ih h.setDwrr.emitCell).ite (ih h.setDwrr))

theorem routerSend {inp burst} (h : Timed ch r s) : Timed ch r (s.routerSend ch p inp burst) := by
  unfold State.routerSend
  refine h.ite ?_
  extract_lets s1 d
  exact (h.sendTicks.serveVcs).of_seq SeqKept.refl.idle

theorem arb {cls inst : Nat} (h : Timed ch r s) : s.arb ch cls inst = r.arb ch cls inst := by
  have e : (s.chan[ch]).sched.arb = (r.chan[ch]).sched.arb := congrArg Prod.snd h
  unfold State.arb
  rw [e]

end State.Timed

/-! ## The quantum boundary -/

/-- The next quantum is the present one. -/
def State.nextQuantum (s : State) (ch : ChIdx) : State :=
  s.modC ch fun c => { c with sched := { c.sched with quantum := c.sched.quantum + 1 } }

theorem quantumBoundary_last (h : s.quanta ≤ (s.chan[ch]).sched.quantum + 1) : exec (.quantumBoundary ch) s = .next s := if_pos h

theorem quantumBoundary_eq (h : ¬ s.quanta ≤ (s.chan[ch]).sched.quantum + 1) : exec (.quantumBoundary ch) s =
    .next (let u := (if s.clocked ch then s.chargeAll ch else s).nextQuantum ch
      if u.clocked ch then u.decide ch else u) := if_neg h

theorem nextQuantum_quantum : ((s.nextQuantum ch).chan[ch]).sched.quantum = (s.chan[ch]).sched.quantum + 1 := by
  unfold State.nextQuantum
  rw [State.modC_same]

theorem nextQuantum_clocked : (s.nextQuantum ch).clocked ch = s.clocked ch := by
  have e : (s.nextQuantum ch).up ch = s.up ch := by
    unfold State.up State.live State.nextQuantum
    rw [State.modC_same]
    rfl
  unfold State.clocked
  rw [e]
  unfold State.nextQuantum
  rw [State.modC_same]

/-- The quantum rises by one, whatever is charged and decided. -/
theorem quantumBoundary_quantum (h : ¬ s.quanta ≤ (s.chan[ch]).sched.quantum + 1) :
    goesTo (exec (.quantumBoundary ch) s) fun t => (t.chan[ch]).sched.quantum = (s.chan[ch]).sched.quantum + 1 ∧
      (s.clocked ch = false → t = s.nextQuantum ch) := by
  have h0 : State.Timed ch s s := .refl
  have hc : State.Timed ch s (if s.clocked ch then s.chargeAll ch else s) := h0.chargeAll.ite h0
  have hq : ((if s.clocked ch then s.chargeAll ch else s).chan[ch]).sched.quantum = (s.chan[ch]).sched.quantum :=
    congrArg Prod.fst hc
  refine ⟨_, quantumBoundary_eq h, ?_, fun hn => ?_⟩
  · extract_lets u
    have hu : (u.chan[ch]).sched.quantum = (s.chan[ch]).sched.quantum + 1 := nextQuantum_quantum.trans (congrArg (· + 1) hq)
    have hd : State.Timed ch u (if u.clocked ch then u.decide ch else u) := (State.Timed.refl (s := u)).decide.ite .refl
    exact (congrArg Prod.fst hd).trans hu
  · simp only [hn, Bool.false_eq_true, if_false]
    exact if_neg (by rw [nextQuantum_clocked, hn]; decide)

end Sys2Proof.Machine
end

section
/-! SUPPORT. One decision of an arbiter: who is picked among the requesters and the emergency requesters (R112 to R114). -/

namespace Sys2Proof.Machine

open Sys2Proof

set_option Elab.async false

variable {a : Arb} {lim last made : Nat} {lc : Req → Bool} {reqs rs : List Req} {x r : Req} {forced : Bool} {cls : Fin 4}
  {ems : List Emerg} {e : Emerg}

/-! ## Requests in order -/

theorem mem_insertBy {α : Type} {key : α → Nat} {x y : α} {l : List α} : y ∈ insertBy key x l ↔ y = x ∨ y ∈ l := by
  induction l with
  | nil => exact List.mem_cons
  | cons z l ih =>
    unfold insertBy
    split
    · exact List.mem_cons
    · rw [List.mem_cons, ih, List.mem_cons]
      tauto

theorem mem_sortReqs : x ∈ sortReqs reqs ↔ x ∈ reqs := by
  unfold sortReqs sortBy
  induction reqs with
  | nil => rfl
  | cons z l ih => rw [List.foldr_cons, mem_insertBy, ih, List.mem_cons]

theorem sortReqs_ne_nil (h : reqs ≠ []) : sortReqs reqs ≠ [] := by
  obtain ⟨x, hx⟩ := List.exists_mem_of_ne_nil _ h
  exact List.ne_nil_of_mem (mem_sortReqs.2 hx)

/-- The request of the lowest index is one of the list. -/
theorem lowReq_cons (x : Req) (l : List Req) : ∃ r ∈ x :: l, lowReq (x :: l) = some r ∧ ∀ y ∈ x :: l, r.idx ≤ y.idx := by
  induction l generalizing x with
  | nil => exact ⟨x, by simp, rfl, by simp⟩
  | cons z l ih =>
    have step : lowReq (x :: z :: l) = lowReq ((if z.idx < x.idx then z else x) :: l) := by
      unfold lowReq
      simp only [List.foldl_cons]
      split
      · rfl
      · rfl
    obtain ⟨r, hr, he, hlow⟩ := ih (if z.idx < x.idx then z else x)
    rw [step]
    refine ⟨r, ?_, he, ?_⟩
    · simp only [List.mem_cons] at *
      split at hr
      · tauto
      · tauto
    · have h0 := hlow _ List.mem_cons_self
      have hl : ∀ y ∈ l, r.idx ≤ y.idx := fun y hy => hlow y (List.mem_cons_of_mem _ hy)
      have hxz : r.idx ≤ x.idx ∧ r.idx ≤ z.idx := by
        split at h0
        · omega
        · omega
      simp only [List.mem_cons]
      rintro y (rfl | rfl | hy)
      · exact hxz.1
      · exact hxz.2
      · exact hl y hy

theorem lowReq_some (h : rs ≠ []) : ∃ r ∈ rs, lowReq rs = some r ∧ ∀ y ∈ rs, r.idx ≤ y.idx := by
  cases rs with
  | nil => exact absurd rfl h
  | cons x l => exact lowReq_cons x l

/-- Round robin finds a requester where there is one. -/
theorem rrPick_some (h : rs ≠ []) : ∃ r ∈ rs, rrPick last rs = some r := by
  unfold rrPick
  by_cases hl : rs.filter (fun r => last < r.idx) = []
  · obtain ⟨r, hr, he, -⟩ := lowReq_some h
    exact ⟨r, hr, by rw [hl]; exact he⟩
  · obtain ⟨r, hr, he, -⟩ := lowReq_some hl
    exact ⟨r, (List.mem_filter.1 hr).1, by rw [he]⟩

/-! ## A decision -/

/-- Those that have waited WAITLIM decisions. -/
def Arb.due (a : Arb) (lim : Nat) (rs : List Req) : List Req := rs.filter fun r => lim ≤ a.waits r.idx

theorem mem_due : x ∈ a.due lim rs ↔ x ∈ rs ∧ lim ≤ a.waits x.idx := by simp [Arb.due]

/-- The first of those that are due which the arbiter noted. -/
def Arb.noted (a : Arb) (due : List Req) : Option Req := a.reached.findSome? fun i => due.find? (·.idx == i)

theorem noted_mem {due : List Req} (h : a.noted due = some r) : r ∈ due := by
  obtain ⟨i, -, hi⟩ := List.exists_of_findSome?_eq_some h
  exact List.mem_of_find?_eq_some hi

theorem noted_nil : a.noted [] = none := List.findSome?_eq_none_iff.2 fun _ _ => rfl

/-- Without one that is due, the class decides, and round robin within it. -/
def Arb.turn (a : Arb) (lc : Req → Bool) (rs : List Req) : Option (Req × Bool) :=
  match rrPick a.last (rs.filter lc) with
  | some r => some (r, false)
  | none => (rrPick a.last (rs.filter (!lc ·))).map fun r => (r, false)

theorem pick_eq : a.pick lim lc rs =
    match a.noted (a.due lim rs) with
    | some r => some (r, true)
    | none => match lowReq (a.due lim rs) with
      | some r => some (r, true)
      | none => a.turn lc rs := rfl

/-- One that is due is picked, the lowest index where none was noted before. -/
theorem pick_due (h : ∃ r ∈ rs, lim ≤ a.waits r.idx) : ∃ r ∈ rs, a.pick lim lc rs = some (r, true) ∧ lim ≤ a.waits r.idx ∧
    (a.reached = [] → ∀ x ∈ rs, lim ≤ a.waits x.idx → r.idx ≤ x.idx) := by
  obtain ⟨x, hx, hl⟩ := h
  obtain ⟨low, hm, hlow, hle⟩ := lowReq_some (List.ne_nil_of_mem (mem_due.2 ⟨hx, hl⟩))
  rw [pick_eq]
  cases hn : a.noted (a.due lim rs) with
  | some r =>
    obtain ⟨hr, hd⟩ := mem_due.1 (noted_mem hn)
    refine ⟨r, hr, rfl, hd, fun h0 => ?_⟩
    rw [Arb.noted, h0] at hn
    cases hn
  | none =>
    obtain ⟨hr, hd⟩ := mem_due.1 hm
    exact ⟨low, hr, by rw [hlow], hd, fun _ y hy hy' => hle y (mem_due.2 ⟨hy, hy'⟩)⟩

/-- With none due the pick is the turn. -/
theorem pick_turn (h : ∀ r ∈ rs, a.waits r.idx < lim) : a.pick lim lc rs = a.turn lc rs := by
  have hd : a.due lim rs = [] := List.filter_eq_nil_iff.2 fun x hx => by simpa using h x hx
  rw [pick_eq, hd, noted_nil]
  rfl

/-- The turn falls to one of latency-critical class where there is one. -/
theorem turn_some (h : rs ≠ []) : ∃ r ∈ rs, a.turn lc rs = some (r, false) ∧ ((∃ x ∈ rs, lc x = true) → lc r = true) := by
  unfold Arb.turn
  by_cases hl : rs.filter lc = []
  · have hall : rs.filter (!lc ·) = rs := List.filter_eq_self.2 fun x hx => by simpa using List.filter_eq_nil_iff.1 hl x hx
    obtain ⟨r, hr, he⟩ := rrPick_some (last := a.last) h
    refine ⟨r, hr, ?_, fun ⟨x, hx, hlx⟩ => absurd hlx (List.filter_eq_nil_iff.1 hl x hx)⟩
    rw [hl, hall, he]
    rfl
  · obtain ⟨r, hr, he⟩ := rrPick_some (last := a.last) hl
    obtain ⟨hm, hlr⟩ := List.mem_filter.1 hr
    exact ⟨r, hm, by rw [he], fun _ => hlr⟩

theorem pick_nil : a.pick lim lc [] = none := pick_turn fun _ h => absurd h List.not_mem_nil

/-- Whoever is picked asserts. -/
theorem pick_mem (h : a.pick lim lc rs = some (r, forced)) : r ∈ rs := by
  by_cases hd : ∃ x ∈ rs, lim ≤ a.waits x.idx
  · obtain ⟨x, hx, he, -⟩ := pick_due (lc := lc) hd
    obtain ⟨rfl, -⟩ := Prod.mk.inj (Option.some.inj (h.symm.trans he))
    exact hx
  · have hall : ∀ x ∈ rs, a.waits x.idx < lim := fun x hx => Nat.lt_of_not_le fun hl => hd ⟨x, hx, hl⟩
    rcases eq_or_ne rs [] with rfl | hne
    · rw [pick_nil] at h
      cases h
    · obtain ⟨x, hx, he, -⟩ := turn_some (a := a) (lc := lc) hne
      rw [pick_turn hall, he] at h
      obtain ⟨rfl, -⟩ := Prod.mk.inj (Option.some.inj h)
      exact hx

/-! ## What the winner's counter holds -/

/-- Those that lose change their wait counters alone. -/
theorem lose_same : (a.lose lim last).cls = a.cls ∧ (a.lose lim last).inst = a.inst := ⟨rfl, rfl⟩

theorem losers_same {l : List Nat} : (l.foldl (Arb.lose lim) a).cls = a.cls ∧ (l.foldl (Arb.lose lim) a).inst = a.inst := by
  induction l generalizing a with
  | nil => exact ⟨rfl, rfl⟩
  | cons i l ih => exact ⟨ih.1.trans lose_same.1, ih.2.trans lose_same.2⟩

theorem charge_same {w : Nat} : (a.charge lim rs w).cls = a.cls ∧ (a.charge lim rs w).inst = a.inst := losers_same

theorem charge_winner {w : Nat} : (a.charge lim rs w).waits w = 0 ∧ (a.charge lim rs w).last = w :=
  ⟨Cells.get_set_same (fun _ => 0) _ w 0, rfl⟩

/-! ## Emergency requesters -/

/-- Zeroise goes before refresh, which HBM ports alone have, and that before debug. -/
def Emerg.first (cls : Fin 4) (ems : List Emerg) (e : Emerg) : Prop :=
  e ∈ ems ∧ (e = .zeroise ∨ (e = .refresh ∧ cls = 0 ∧ .zeroise ∉ ems) ∨
    (e = .debug ∧ .zeroise ∉ ems ∧ (cls = 0 → .refresh ∉ ems)))

theorem firstEmerg_iff : firstEmerg cls.val ems = some e ↔ Emerg.first cls ems e := by
  have hc : cls.val = 0 ↔ cls = 0 := Fin.val_eq_zero_iff
  unfold firstEmerg Emerg.first
  by_cases hz : Emerg.zeroise ∈ ems
  · cases e <;> simp [hz]
  · by_cases hr : Emerg.refresh ∈ ems ∧ cls = 0
    · cases e <;> simp [hz, hr]
    · rcases not_and_or.1 hr with h | h
      · cases e <;> simp [hz, h]
      · cases e <;> simp [hz, h, hc]

theorem firstEmerg_none (h : ∀ e, ¬ Emerg.first cls ems e) : firstEmerg cls.val ems = none :=
  Option.eq_none_iff_forall_ne_some.2 fun e he => h e (firstEmerg_iff.1 he)

/-! ## The end of a grant -/

/-- A grant has ended where its owner no longer asserts or its burst is spent. -/
def Arb.over (a : Arb) (reqs : List Req) (ems : List Emerg) (made : Nat) : Bool :=
  match a.grant with
  | none => true
  | some (.req j) => a.left ≤ made || reqs.all (·.idx != j)
  | some (.emerg e) => a.left ≤ made || !ems.contains e

theorem ended_sortReqs : a.ended (sortReqs reqs) ems made = a.over reqs ems made := by
  have hany (j : Nat) : (!(sortReqs reqs).any (·.idx == j)) = reqs.all (·.idx != j) := by
    rw [Bool.eq_iff_iff]
    simp only [Bool.not_eq_true', List.any_eq_false, List.all_eq_true, bne_iff_ne, beq_iff_eq, mem_sortReqs]
  unfold Arb.ended Arb.over
  cases a.grant with
  | none => rfl
  | some g => cases g with
    | req j => exact congrArg (decide (a.left ≤ made) || ·) (hany j)
    | emerg e => rfl

end Sys2Proof.Machine
end

section
/-! SUPPORT. An arbitration point: what becomes of an arbiter and of its counters (R112 to R115). -/

namespace Sys2Proof.Machine

open Sys2Proof

set_option Elab.async false

variable {s t u : State} {ch : ChIdx} {cls : Fin 4} {inst made n : Nat} {reqs rs : List Req} {ems : List Emerg} {e : Emerg}
  {g : Grant} {a b : Arb} {r : Req} {forced : Bool} {em : Option Emerg}

/-! ## An arbiter read and written -/

/-- An arbiter has the class and the number it is asked by. -/
theorem arb_names {c i : Nat} : (s.arb ch c i).cls = c ∧ (s.arb ch c i).inst = i := by
  unfold State.arb
  split
  · next h => simpa using List.find?_some h
  · exact ⟨rfl, rfl⟩

/-- An arbiter is as it was written. -/
theorem setArb_arb (hc : a.cls = cls.val) (hi : a.inst = inst) : (s.setArb ch a).arb ch cls inst = a := by
  have hf : (((s.setArb ch a).chan[ch]).sched.arb.find? fun x => x.cls == cls.val && x.inst == inst) = some a := by
    unfold State.setArb
    rw [State.modC_same]
    simp only [hc, hi, List.find?_append]
    have hn : (List.find? (fun x : Arb => x.cls == cls.val && x.inst == inst)
        ((s.chan[ch]).sched.arb.filter fun x => !(x.cls == cls.val && x.inst == inst))) = none :=
      List.find?_eq_none.2 fun x hx => by simpa [imp_iff_not_or] using (List.mem_filter.1 hx).2
    rw [hn]
    simp [hc, hi]
  unfold State.arb
  rw [hf]

theorem setArb_grant (hc : a.cls = cls.val) (hi : a.inst = inst) : ((s.setArb ch a).arb ch cls inst).grant = a.grant := by
  rw [setArb_arb hc hi]

theorem setArb_f {f : Fld} : (s.setArb ch a).f ch f = s.f ch f := by
  unfold State.f State.setArb
  rw [State.modC_same]
  rfl

theorem setArb_onlyChan (h : s.onlyChan t ch) : s.onlyChan (t.setArb ch a) ch := by
  obtain ⟨hp, hf, hq, ho⟩ := h
  exact ⟨hp, hf, hq, fun c hc => (State.modC_other _ _ hc).trans (ho c hc)⟩

theorem onlyChan_refl : s.onlyChan s ch := ⟨rfl, rfl, rfl, fun _ _ => rfl⟩

theorem satF_onlyChan {f : Fld} : s.onlyChan (s.satF ch f n) ch := ⟨rfl, rfl, rfl, fun _ hc => State.modC_other _ _ hc⟩

/-! ## The counters of a class -/

/-- A counter of 8 bits stops at 255. -/
theorem satF_counts {f : Fld} (hs : f.sound = true) (hw : f.hi + 1 - f.lo = 8) :
    (s.satF ch f 1).f ch f = min 255 (s.f ch f + 1) := by
  have hv : satAdd f.max ((s.chan[ch]).fld f) 1 = min 255 ((s.chan[ch]).fld f + 1) := by
    unfold satAdd Fld.max
    rw [hw]
    rfl
  have hl : min 255 ((s.chan[ch]).fld f + 1) < 2 ^ 8 := Nat.lt_succ_of_le (min_le_left 255 _)
  unfold State.f State.satF Chan.satFld
  rw [State.modC_same, hv]
  exact Chan.fld_setFld_self (by simp only [Fld.holds, hs, hw, hl, decide_true, Bool.and_self])

theorem forced_counts : (s.satF ch (R.CH_ARB_STAT_FORCED cls) 1).f ch (R.CH_ARB_STAT_FORCED cls) =
    min 255 (s.f ch (R.CH_ARB_STAT_FORCED cls) + 1) := satF_counts rfl rfl

theorem emerg_counts : (s.satF ch (R.CH_ARB_STAT_EMERG cls) 1).f ch (R.CH_ARB_STAT_EMERG cls) =
    min 255 (s.f ch (R.CH_ARB_STAT_EMERG cls) + 1) := satF_counts rfl rfl

theorem hangs_counts : (s.satF ch (R.CH_ARB_STAT_HANGS cls) 1).f ch (R.CH_ARB_STAT_HANGS cls) =
    min 255 (s.f ch (R.CH_ARB_STAT_HANGS cls) + 1) := satF_counts rfl rfl

/-! ## A decision -/

/-- The decisions that a request waits at most, at this class. -/
def State.waitLim (s : State) (ch : ChIdx) (cls : Fin 4) : Nat := max 1 (s.f ch (R.CH_ARB_CFG_WAITLIM cls))

/-- The arbiter after a requester has won: its transfers, less those that a router output has made at once. -/
def Arb.wonBy (a : Arb) (lim : Nat) (rs : List Req) (r : Req) (left : Nat) : Arb :=
  { a.charge lim rs r.idx with grant := some (.req r.idx), holder := some r.who, left := left }

theorem wonBy_names {lim : Nat} : (a.wonBy lim rs r n).cls = a.cls ∧ (a.wonBy lim rs r n).inst = a.inst := charge_same

theorem arbDecide_emerg : s.arbDecide ch cls a rs (some e) =
    s.setArb ch { a with grant := some (.emerg e), holder := none, left := s.arbBurst ch cls } := rfl

theorem arbDecide_none (h : a.pick (s.waitLim ch cls) (s.reqLc ch) rs = none) :
    s.arbDecide ch cls a rs none = s.setArb ch { a with grant := none, holder := none, left := 0 } := by
  unfold State.waitLim at h
  unfold State.arbDecide
  dsimp only
  rw [h]

/-- A decision for a requester: its count, the arbiter, and the cells of a router output. -/
theorem arbDecide_some (h : a.pick (s.waitLim ch cls) (s.reqLc ch) rs = some (r, forced)) :
    s.arbDecide ch cls a rs none =
      let u := if forced then s.satF ch (R.CH_ARB_STAT_FORCED cls) 1 else s
      let sends := cls.val == 2 && u.maySend ch (linkOf a.inst)
      let won := u.setArb ch (a.wonBy (s.waitLim ch cls) rs r (if sends then 0 else s.arbBurst ch cls))
      if sends then won.routerSend ch (linkOf a.inst) r.idx (s.arbBurst ch cls) else won := by
  unfold State.waitLim at h
  unfold State.arbDecide State.waitLim
  dsimp only
  rw [h]
  rfl

/-- Outside the routers nothing more happens. -/
theorem arbDecide_won (h : a.pick (s.waitLim ch cls) (s.reqLc ch) rs = some (r, forced)) (h2 : cls ≠ 2) :
    s.arbDecide ch cls a rs none = (if forced then s.satF ch (R.CH_ARB_STAT_FORCED cls) 1 else s).setArb ch
      (a.wonBy (s.waitLim ch cls) rs r (s.arbBurst ch cls)) := by
  have h2' : (cls.val == 2) = false := beq_false_of_ne fun e => h2 (Fin.ext e)
  rw [arbDecide_some h, h2']
  rfl

/-- Whoever is granted after a decision was picked, or is the emergency requester. -/
theorem arbDecide_grant (hc : a.cls = cls.val) (hi : a.inst = inst) :
    (∃ x, em = some x ∧ ((s.arbDecide ch cls a rs em).arb ch cls inst).grant = some (.emerg x)) ∨
      ((s.arbDecide ch cls a rs em).arb ch cls inst).grant = none ∨
        ∃ x ∈ rs, ((s.arbDecide ch cls a rs em).arb ch cls inst).grant = some (.req x.idx) := by
  cases em with
  | some x =>
    left
    exact ⟨x, rfl, setArb_grant (a := { a with grant := some (.emerg x), holder := none, left := s.arbBurst ch cls }) hc hi⟩
  | none =>
    right
    cases hp : a.pick (s.waitLim ch cls) (s.reqLc ch) rs with
    | none =>
      left
      rw [arbDecide_none hp]
      exact setArb_grant (a := { a with grant := none, holder := none, left := 0 }) hc hi
    | some x =>
      obtain ⟨x, f⟩ := x
      right
      refine ⟨x, pick_mem hp, ?_⟩
      rw [arbDecide_some hp]
      extract_lets u sends won
      have hw : (won.arb ch cls inst).grant = some (.req x.idx) := setArb_grant (wonBy_names.1.trans hc) (wonBy_names.2.trans hi)
      split
      · rw [(State.Timed.refl (s := won)).routerSend.arb, hw]
      · exact hw

/-! ## An arbitration point -/

section point

variable (hm : (s.arb ch cls inst).masked = [])
include hm

/-- With none masked every requester counts. -/
theorem arbGrant_eq : exec (.arbGrant ch cls inst reqs ⟨ems, made⟩) s =
    if (s.arb ch cls inst).over reqs ems made then
      .next (s.arbDecide ch cls (s.arb ch cls inst) (sortReqs reqs) (firstEmerg cls ems))
    else match (s.arb ch cls inst).grant, firstEmerg cls ems with
      | some (.req _), some _ => .next ((s.satF ch (R.CH_ARB_STAT_EMERG cls) 1).arbDecide ch cls (s.arb ch cls inst)
          (sortReqs reqs) (firstEmerg cls ems))
      | _, _ => .next (s.setArb ch { s.arb ch cls inst with left := (s.arb ch cls inst).left - made }) := by
  have hr : ((sortReqs reqs).filter fun r => !(s.arb ch cls inst).masked.contains (.req r.idx)) = sortReqs reqs :=
    List.filter_eq_self.2 fun _ _ => by rw [hm]; rfl
  have he : (ems.filter fun e => !(s.arb ch cls inst).masked.contains (.emerg e)) = ems := List.filter_eq_self.2 fun _ _ => by rw [hm]; rfl
  have e : exec (.arbGrant ch cls inst reqs ⟨ems, made⟩) s = execArbGrant ch cls inst reqs ⟨ems, made⟩ s := rfl
  rw [e, execArbGrant]
  dsimp only
  rw [hr, he, ended_sortReqs] <;> rfl

theorem arbGrant_over (ho : (s.arb ch cls inst).over reqs ems made = true) : exec (.arbGrant ch cls inst reqs ⟨ems, made⟩) s =
    .next (s.arbDecide ch cls (s.arb ch cls inst) (sortReqs reqs) (firstEmerg cls ems)) := by rw [arbGrant_eq hm, if_pos ho]

/-- An emergency requester takes the grant away from a requester. -/
theorem arbGrant_taken {j : Nat} (ho : (s.arb ch cls inst).over reqs ems made = false)
    (hg : (s.arb ch cls inst).grant = some (.req j)) (he : firstEmerg cls ems = some e) :
    exec (.arbGrant ch cls inst reqs ⟨ems, made⟩) s = .next ((s.satF ch (R.CH_ARB_STAT_EMERG cls) 1).arbDecide ch cls
      (s.arb ch cls inst) (sortReqs reqs) (some e)) := by rw [arbGrant_eq hm, if_neg (by simp [ho]), hg, he]

/-- A grant stays. -/
theorem arbGrant_stays (ho : (s.arb ch cls inst).over reqs ems made = false)
    (h : firstEmerg cls ems = none ∨ ∃ x, (s.arb ch cls inst).grant = some (.emerg x)) :
    exec (.arbGrant ch cls inst reqs ⟨ems, made⟩) s =
      .next (s.setArb ch { s.arb ch cls inst with left := (s.arb ch cls inst).left - made }) := by
  rw [arbGrant_eq hm, if_neg (by simp [ho])]
  split
  · next hg he =>
    rcases h with h | ⟨x, h⟩
    · rw [h] at he
      cases he
    · rw [h] at hg
      cases hg
  · rfl

end point

/-- With a grant that is not held, only a requester or an emergency requester that is not masked is granted. -/
theorem arbGrant_masked (hg : (s.arb ch cls inst).grant = none) (h : g ∈ (s.arb ch cls inst).masked) :
    goesTo (exec (.arbGrant ch cls inst reqs ⟨ems, made⟩) s) fun t => (t.arb ch cls inst).grant ≠ some g := by
  have e : exec (.arbGrant ch cls inst reqs ⟨ems, made⟩) s = execArbGrant ch cls inst reqs ⟨ems, made⟩ s := rfl
  have ho {l : List Req} : (s.arb ch cls inst).ended l ems made = true := by rw [Arb.ended, hg]
  rw [e, execArbGrant]
  dsimp only
  rw [if_pos ho]
  refine ⟨_, rfl, fun hn => ?_⟩
  obtain ⟨hc, hi⟩ := arb_names (s := s) (ch := ch) (c := cls.val) (i := inst)
  rcases arbDecide_grant (s := s) (ch := ch) hc hi with ⟨x, hx, hgr⟩ | hgr | ⟨x, hx, hgr⟩
  · obtain rfl := Option.some.inj (hgr.symm.trans hn)
    have hmem := ((firstEmerg_iff (cls := cls)).1 hx).1
    simpa [h] using (List.mem_filter.1 hmem).2
  · rw [hgr] at hn
    cases hn
  · obtain rfl := Option.some.inj (hgr.symm.trans hn)
    simpa [h] using (List.mem_filter.1 hx).2

end Sys2Proof.Machine
end

section
/-! SUPPORT. What keeps the counters of the arbiters: the registers that ending jobs and their entries change stand above
CH_ARB_STAT, or are those of an event path. -/

namespace Sys2Proof.Machine

open Sys2Proof

set_option Elab.async false

variable {r s t : State} {ch : ChIdx} {jc : JcIdx} {p : LinkIdx} {x : Entry} {reason : Nat}

/-- CH_ARB_STAT of the four classes. -/
def Chan.arbStats (c : Chan) : Fin 4 → Word := fun i => c.rd (0x604 + 8 * i.val)

theorem arbStats_wr {c : Chan} {off : Nat} {v : Word} (h : 0x620 ≤ off) : (c.wr off v).arbStats = c.arbStats :=
  funext fun i => Chan.rd_wr_other _ _ (by omega)

theorem arbStats_incFld {c : Chan} {f : Fld} {n : Nat} (h : 0x620 ≤ f.off) : (c.incFld f n).arbStats = c.arbStats := arbStats_wr h

/-- CH_ARB_STAT is as it was. -/
def State.StatsKept (ch : ChIdx) (r s : State) : Prop := r.SamePart Chan.arbStats ch s

namespace State.StatsKept

theorem refl : StatsKept ch s s := rfl

theorem trans (h : StatsKept ch r s) (g : StatsKept ch s t) : StatsKept ch r t := SamePart.trans h g

theorem ite {c : Prop} {_ : Decidable c} {a b : State} (ha : StatsKept ch r a) (hb : StatsKept ch r b) :
    StatsKept ch r (if c then a else b) := SamePart.ite ha hb

theorem foldl {α : Type} {f : State → α → State} {l : List α} (hf : ∀ t x, StatsKept ch r t → StatsKept ch r (f t x))
    (h : StatsKept ch r s) : StatsKept ch r (l.foldl f s) := SamePart.foldl hf h

/-- A change of the channel beside its registers. -/
theorem modC {f : Chan → Chan} (h : StatsKept ch r s) (hf : ∀ c, (f c).arbStats = c.arbStats := by exact fun _ => rfl) :
    StatsKept ch r (s.modC ch f) := SamePart.modC h hf

theorem modP {f} (h : StatsKept ch r s) : StatsKept ch r (s.modP f) := h

theorem draw (h : StatsKept ch r s) : StatsKept ch r s.draw.2 := h

theorem setF {f v} (h : StatsKept ch r s) (ho : 0x620 ≤ f.off := by decide) : StatsKept ch r (s.setF ch f v) :=
  h.modC fun _ => arbStats_wr ho

theorem satF {f n} (h : StatsKept ch r s) (ho : 0x620 ≤ f.off := by decide) : StatsKept ch r (s.satF ch f n) :=
  h.modC fun _ => arbStats_wr ho

theorem modMem {f} (h : StatsKept ch r s) : StatsKept ch r (s.modMem ch f) := h.modC

theorem post {src code arg} (h : StatsKept ch r s) : StatsKept ch r (s.post src code arg) := h.trans (by
  obtain ⟨-, hd⟩ := (State.post_does s src code arg).1.2.2.2 ch
  refine funext fun i => hd _ ?_
  simp only [eventRegs, List.mem_cons, List.not_mem_nil, or_false]
  omega)

/-! ## Transfers and device virtual memory -/

theorem fnWr {off v} (h : StatsKept ch r s) (ho : 0x620 ≤ off) : StatsKept ch r (s.fnWr (pfOf ch) off v) := by
  rw [State.fnWr_pfOf]
  exact h.modC fun _ => arbStats_wr ho

theorem setB {i f v} (h : StatsKept ch r s) (hi : Confined.reached ch i) (hf : 0x620 ≤ f.off) : StatsKept ch r (s.setB i f v) := by
  rcases hi with rfl | rfl | rfl
  · exact h.fnWr hf
  · exact h.fnWr hf
  · exact h.modP

theorem modBucket {i k f} (h : StatsKept ch r s) (hi : Confined.reached ch i) : StatsKept ch r (s.modBucket i k f) := by
  unfold State.modBucket
  rcases hi with rfl | rfl | rfl
  · exact h.modMem
  · exact h.modMem
  · exact h.modP

theorem instOff_above {i : BucketInst} {k : Nat} : 0x620 ≤ instOff i k + 4 := by
  cases i
  · exact Nat.le_add_right_of_le (Nat.le_add_right_of_le (by decide))
  · exact Nat.le_add_right_of_le (Nat.le_add_right_of_le (by decide))
  · exact Nat.le_add_right_of_le (Nat.le_add_right_of_le (by decide))

theorem transfer {i k n} (h : StatsKept ch r s) (hi : Confined.reached ch i) : StatsKept ch r (s.transfer i k ch n) := by
  unfold State.transfer
  extract_lets n t m s1
  have h1 : StatsKept ch r s1 := (h.setB hi instOff_above).modBucket hi
  exact h.ite (h1.ite ((h1.modBucket hi).setB hi instOff_above))

theorem charge {t n host} (h : StatsKept ch r s) : StatsKept ch r (s.charge ch t n host) := by
  unfold State.charge
  split
  · exact h.transfer (.inl rfl)
  · exact h.transfer (.inr (.inl rfl))
  · exact h
  · exact h
  · exact h.transfer (.inl rfl)
  · exact h.transfer (.inr (.inl rfl))
  · exact h.transfer (.inr (.inr rfl))

theorem submit {a n} (h : StatsKept ch r s) : StatsKept ch r (s.submit ch a n) := by
  unfold State.submit
  split
  · exact h
  · split
    · exact h.modP
    · exact h

theorem moved {t a n host} (h : StatsKept ch r s) : StatsKept ch r (s.moved ch t a n host) := h.charge.submit.ite h.charge

theorem chargeRun {y host} (h : StatsKept ch r s) : StatsKept ch r (s.chargeRun ch y host) := by
  unfold State.chargeRun
  split
  · exact h
  · exact h.charge.ite h.moved

theorem tlbFill {va} (h : StatsKept ch r s) : StatsKept ch r (s.tlbFill ch va) := by
  unfold State.tlbFill
  refine h.ite ?_
  split
  · exact h
  · exact h.modC

theorem homePut {t a b} (h : StatsKept ch r s) : StatsKept ch r (s.homePut ch t a b) := by
  unfold State.homePut
  split
  · exact h.modC
  · exact h.modC
  · split
    · exact h.modP.ite h.modP
    · exact h

theorem modTc {f} (h : StatsKept ch r s) : StatsKept ch r (s.modTc ch f) := h.modC

theorem tcCount (h : StatsKept ch r s) : StatsKept ch r (s.tcCount ch) := by
  unfold State.tcCount
  exact h.setF.setF

theorem toHome {t g m} (h : StatsKept ch r s) : StatsKept ch r (s.toHome ch t g m) := by
  unfold State.toHome
  extract_lets put s1 s2
  have h1 : StatsKept ch r s1 := (h.foldl fun _ _ ht => ht.homePut).ite (h.foldl fun _ _ ht => ht.homePut)
  have h2 : StatsKept ch r s2 := h1.moved
  exact h2.modMem.ite h2

theorem wbFail (h : StatsKept ch r s) : StatsKept ch r (s.wbFail ch) := by
  unfold State.wbFail
  exact h.satF.post

theorem setDirty {t g d} (h : StatsKept ch r s) : StatsKept ch r (s.setDirty ch t g d) := by
  unfold State.setDirty
  exact h.modTc

theorem flushOut {t g} (h : StatsKept ch r s) : StatsKept ch r (s.flushOut ch t g) := h.ite h.modTc

theorem wbEnd {y ok} (h : StatsKept ch r s) : StatsKept ch r (s.wbEnd ch y ok) :=
  h.ite (h.modTc.toHome.flushOut.ite h.modTc.wbFail.setDirty.modTc)

theorem wbRoom (h : StatsKept ch r s) : StatsKept ch r (s.wbRoom ch) := by
  unfold State.wbRoom
  extract_lets flying
  clear_value flying
  split
  · exact h
  · exact h.ite h.wbEnd

theorem wbStart {l} (h : StatsKept ch r s) : StatsKept ch r (s.wbStart ch l) := h.ite h.wbRoom.setDirty.modTc

theorem tcEvict {l} (h : StatsKept ch r s) : StatsKept ch r (s.tcEvict ch l) := by
  induction l generalizing s with
  | nil => exact h
  | cons _ _ ih => exact (ih h).ite h.wbStart.modTc

theorem tcFill {t g way} (h : StatsKept ch r s) : StatsKept ch r (s.tcFill ch t g way) := by
  unfold State.tcFill
  split
  · next e =>
    split at e
    · obtain ⟨-, rfl⟩ := Prod.mk.inj e
      exact h.modMem
    · obtain ⟨-, rfl⟩ := Prod.mk.inj e
      exact h.moved.modMem

theorem tcTouch {t g} (h : StatsKept ch r s) : StatsKept ch r (s.tcTouch ch t g) := by
  unfold State.tcTouch
  split
  · exact h.modTc
  · exact (h.ite h.tcEvict).tcFill

theorem putAt {q b} (h : StatsKept ch r s) : StatsKept ch r (s.putAt ch q b) := by
  unfold State.putAt
  extract_lets s1
  have h1 : StatsKept ch r s1 := h.tcTouch.modTc.ite h.homePut
  split
  · exact h1.modC
  · exact h1

theorem countPromo {va n} (h : StatsKept ch r s) : StatsKept ch r (s.countPromo ch va n) := by
  refine h.foldl fun _ _ ht => ?_
  split
  · exact ht
  · exact ht.modMem.ite ht

theorem healT2 {ps} (h : StatsKept ch r s) : StatsKept ch r (s.healT2 ch ps) := by
  unfold State.healT2
  exact h.modC

theorem vaWrite {va bs host} (h : StatsKept ch r s) : Gives (StatsKept ch r) (s.vaWrite ch va bs host) := by
  unfold State.vaWrite
  split
  · trivial
  · split
    · trivial
    · split
      · trivial
      · extract_lets s1 s2
        have h1 : StatsKept ch r s1 := (h.foldl fun _ _ ht => ht.putAt).healT2
        have h2 : StatsKept ch r s2 := h1.foldl fun _ _ ht => ht.tlbFill.chargeRun
        exact h2.tcCount.countPromo.modC

/-! ## Changes of power state and wake events -/

theorem modPwr {f} (h : StatsKept ch r s) : StatsKept ch r (s.modPwr ch f) := h.modC

theorem reup (h : StatsKept ch r s) : StatsKept ch r (s.reup ch) := by
  unfold State.reup
  exact h.ite h.setF.satF.post

theorem exitBegin {code} (h : StatsKept ch r s) : StatsKept ch r (s.exitBegin ch code) := by
  unfold State.exitBegin State.pwrBegin State.pwrShow
  exact h.setF.post.modPwr.setF.setF

theorem wake {code} (h : StatsKept ch r s) : StatsKept ch r (s.wake ch code) := by
  unfold State.wake
  refine h.ite ?_
  split
  · exact h
  · exact h.ite h.modPwr.reup
  · exact h.ite (StatsKept.ite h.modP h.exitBegin)

/-! ## Links -/

theorem modFab {f} (h : StatsKept ch r s) : StatsKept ch r (s.modFab ch f) := h.modC

theorem modLink {f} (h : StatsKept ch r s) : StatsKept ch r (s.modLink ch p f) := h.modFab

theorem idles {n} (h : StatsKept ch r s) : StatsKept ch r (s.idles ch p n) := by
  induction n generalizing s with
  | zero => exact h
  | succ n ih =>
    have hs {c} : StatsKept ch r (s.sendPlain ch p c) := h.modLink
    exact h.ite (ih hs)

theorem idle (h : StatsKept ch r s) : StatsKept ch r (s.idle ch p) := h.idles.ite h

theorem deliver {c} (h : StatsKept ch r s) : StatsKept ch r (s.deliver ch c) :=
  (h.wake.satF (Nat.le_add_right_of_le (by decide))).ite (h.wake.ite h.wake.modFab)

theorem freeInput {inp vc} (h : StatsKept ch r s) : StatsKept ch r (s.freeInput ch inp vc) :=
  h.ite (h.modLink.ite h.modLink.idle)

theorem noRoute {q} (h : StatsKept ch r s) : StatsKept ch r (s.noRoute ch q) := by
  unfold State.noRoute
  split
  · exact h.modFab.ite h.modFab.modFab.post
  · exact (h.satF (Nat.le_add_right_of_le (by decide))).freeInput

theorem forward {q front} (h : StatsKept ch r s) : StatsKept ch r (s.forward ch q front) := by
  unfold State.forward
  split
  · exact h.deliver.freeInput
  · exact h.modLink
  · exact h.noRoute

theorem sendMsg {dst vc typ bf16 order head data} (h : StatsKept ch r s) :
    StatsKept ch r (s.sendMsg ch dst vc typ bf16 order head data) := by
  refine h.modFab.foldl fun t _ ht => ?_
  have h2 {n m} : StatsKept ch r ((t.satF ch R.CH_FMT_STAT_OVF n).satF ch R.CH_FMT_STAT_NANW m) := ht.satF.satF
  exact h2.forward

theorem unreserve {order} (h : StatsKept ch r s) : StatsKept ch r (s.unreserve ch order) := h.foldl fun _ _ ht => ht.modLink

/-! ## Communicator slots, the futures store and the recurrent states -/

theorem modSlot {k f} (h : StatsKept ch r s) : StatsKept ch r (s.modSlot ch k f) := h.modC

theorem clSend {k rank kind seq tree index bf16 order data} (h : StatsKept ch r s) :
    StatsKept ch r (s.clSend ch k rank kind seq tree index bf16 order data) := h.sendMsg

theorem clAbort {k seq status} (h : StatsKept ch r s) : StatsKept ch r (s.clAbort ch k seq status) := by
  have hs : StatsKept ch r (s.setF ch (R.CH_CL_SLOT_STAT_STATE k) 3) := h.setF (Nat.le_add_right_of_le (by decide))
  exact hs.foldl fun _ _ ht => ht.clSend

theorem clEntryDone {e status} (h : StatsKept ch r s) : StatsKept ch r (s.clEntryDone ch e status) := by
  unfold State.clEntryDone
  refine h.ite ?_
  extract_lets k s1 s2 s3
  have h2 : StatsKept ch r s2 := h.unreserve.modSlot
  have h3 : StatsKept ch r s3 := h2.satF.ite (h2.satF.ite (h2.satF.ite h2))
  exact h3.ite h3.clAbort

theorem ftSync (h : StatsKept ch r s) : StatsKept ch r (s.ftSync ch) := by
  unfold State.ftSync
  extract_lets f pool s1 low
  have h1 : StatsKept ch r s1 := h.modC fun c => by
    iterate 4 rw [Chan.setFld, arbStats_wr (by decide)]
  exact h1.modC.post.ite (h1.modC.ite h1)

theorem modFt {g} (h : StatsKept ch r s) : StatsKept ch r (s.modFt ch g) := h.modC.ftSync

theorem ftJobEnd (h : StatsKept ch r s) : StatsKept ch r (s.ftJobEnd ch jc) := by
  unfold State.ftJobEnd
  exact h.modFt.modC

theorem ftEntryDone {order} (h : StatsKept ch r s) : StatsKept ch r (s.ftEntryDone ch order) := h.modFt.ite h

theorem rcMod {i f} (h : StatsKept ch r s) : StatsKept ch r (s.rcMod ch i f) := by
  unfold State.rcMod State.rcCount
  exact h.modC.setF

theorem rcStore {space addr bs} (h : StatsKept ch r s) : Gives (StatsKept ch r) (s.rcStore ch space addr bs) := by
  unfold State.rcStore
  split
  · exact h.modMem
  · exact h.modMem
  · exact h.vaWrite

theorem rcMove {i dst} (h : StatsKept ch r s) : Gives (StatsKept ch r) (s.rcMove ch i dst) := by
  unfold State.rcMove
  split
  · trivial
  · split
    · trivial
    · next _ ht => exact (h.rcStore.of_ok ht).rcMod

theorem rcSwapOut {i} (h : StatsKept ch r s) : StatsKept ch r (s.rcSwapOut ch i) := by
  unfold State.rcSwapOut
  extract_lets
  split
  · exact h
  · next _ ht =>
      extract_lets s1
      have h1 : StatsKept ch r s1 := (h.rcMove.of_ok ht).post
      exact h1.setF.ite h1

theorem rcModH {n f} (h : StatsKept ch r s) : StatsKept ch r (s.rcModH ch n f) := by
  unfold State.rcModH
  split
  · exact h.rcMod
  · exact h

theorem rcEntryDone {e} (h : StatsKept ch r s) : StatsKept ch r (s.rcEntryDone ch e) :=
  h.ite ((h.foldl fun _ _ ht => ht.rcModH).foldl fun _ _ ht => ht.rcSwapOut)

theorem rcJobEnd (h : StatsKept ch r s) : StatsKept ch r (s.rcJobEnd ch jc) := h.foldl fun _ _ ht => ht.rcMod

/-! ## Contexts, semaphores and records -/

theorem modX {f} (h : StatsKept ch r s) : StatsKept ch r (s.modX ch jc f) := h.modC

theorem modQ {e f} (h : StatsKept ch r s) : StatsKept ch r (s.modQ ch e f) := h.modC

theorem modSem {n f} (h : StatsKept ch r s) : StatsKept ch r (s.modSem ch n f) := h.modC

theorem learn {q} (h : StatsKept ch r s) : StatsKept ch r (s.learn ch jc q) := h.modC

theorem logDone {e signals} (h : StatsKept ch r s) : StatsKept ch r (s.logDone ch e signals) := by
  unfold State.logDone
  exact h.modC

theorem forget (h : StatsKept ch r s) : StatsKept ch r (s.forget ch jc) := h.modC

theorem takeWaits {ws} (h : StatsKept ch r s) : StatsKept ch r (s.takeWaits ch ws) := h.foldl fun _ _ ht => ht.modSem

theorem moverWait (h : StatsKept ch r s) : StatsKept ch r (s.moverWait ch) := h.takeWaits.modC.ite h

theorem semWake (h : StatsKept ch r s) : StatsKept ch r (s.semWake ch) := h.wake.ite h

theorem semServe (h : StatsKept ch r s) : StatsKept ch r (s.semServe ch) := by
  unfold State.semServe
  refine (h.moverWait.foldl fun _ _ ht => ?_).semWake
  split
  · exact ht.modSem.learn.modX.ite ht
  · exact ht

theorem fenceServe (h : StatsKept ch r s) : StatsKept ch r (s.fenceServe ch) := by
  unfold State.fenceServe
  refine h.foldl fun _ _ ht => ?_
  split
  · exact ht.learn.modX.ite ht
  · exact ht

theorem semReturn (h : StatsKept ch r s) : StatsKept ch r (s.semReturn ch jc) := by
  unfold State.semReturn
  exact h.modC.semServe

theorem cqPut {d} (h : StatsKept ch r s) : Gives (StatsKept ch r) (s.cqPut ch jc d) := by
  unfold State.cqPut
  split
  · trivial
  · next _ ht => exact (h.vaWrite.of_ok ht).setF (Nat.le_add_right_of_le (by decide))

theorem lastStores (h : StatsKept ch r s) : StatsKept ch r (s.lastStores ch jc) := by
  unfold State.lastStores
  refine modX (h.foldl fun _ _ ht => ?_)
  split
  · exact ht
  · next _ hu => exact ht.vaWrite.of_ok hu

theorem faultCtx {status eng td arg} (h : StatsKept ch r s) : StatsKept ch r (s.faultCtx ch jc status eng td arg) := by
  unfold State.faultCtx
  exact h.lastStores.modX.modC.post

theorem cqLost {e} (h : StatsKept ch r s) : StatsKept ch r (s.cqLost ch jc e) := by
  unfold State.cqLost
  split
  extract_lets s1 s2
  have h1 : StatsKept ch r s1 := h.setF (Nat.le_add_right_of_le (by decide))
  have h2 : StatsKept ch r s2 := h1.modX.post
  exact h2.ite h2.faultCtx

theorem emit {d} (h : StatsKept ch r s) : StatsKept ch r (s.emit ch jc d) := by
  unfold State.emit
  refine h.ite (h.modX.ite ?_)
  split
  · next _ ht => exact h.cqPut.of_ok ht
  · exact h.modX.ite h.cqLost

theorem dropEntry {e status partly} (h : StatsKept ch r s) : StatsKept ch r (s.dropEntry ch e status partly) := by
  unfold State.dropEntry
  extract_lets jc s1 s2
  have h2 : StatsKept ch r s2 := h.modX.logDone.ftEntryDone.rcEntryDone.clEntryDone
  exact h2.emit.ite h2

theorem sweep {status} (h : StatsKept ch r s) : StatsKept ch r (s.sweep ch jc status) :=
  h.foldl fun _ _ ht => (ht.modQ.foldl fun _ _ hu => hu.dropEntry).foldl fun _ _ hu => hu.dropEntry

theorem settle (h : StatsKept ch r s) : StatsKept ch r (s.settle ch jc) := h.modX.ite h

/-! ## The end of a job -/

theorem jcrPut {q id rec} (h : StatsKept ch r s) : StatsKept ch r (s.jcrPut ch q id rec) := by
  unfold State.jcrPut
  split
  · next _ ht => exact (h.vaWrite.of_ok ht).setF (Nat.le_add_right_of_le (by decide))
  · exact (h.setF (Nat.le_add_right_of_le (by decide))).post

theorem arwsJobEnd (h : StatsKept ch r s) : StatsKept ch r (s.arwsJobEnd ch jc) := by
  unfold State.arwsJobEnd
  exact h.modC

theorem drainEnd (h : StatsKept ch r s) : StatsKept ch r (s.drainEnd ch) := by
  have hf : StatsKept ch r (s.flushAll ch) := (h.modTc.foldl fun _ _ ht => ht.wbStart).tcCount
  exact hf.ite h

theorem killNote (h : StatsKept ch r s) : StatsKept ch r (s.killNote ch jc) := h.ite h.modX.post

theorem endRest (h : StatsKept ch r s) : StatsKept ch r (s.endRest ch jc) := by
  unfold State.endRest
  extract_lets s2 c killed status s3 s4
  have h2 : StatsKept ch r s2 := h.ite h.rcJobEnd.ftJobEnd.semReturn.arwsJobEnd.forget.modX
  have h4 : StatsKept ch r s4 := by
    refine h2.jcrPut.modC fun k => ?_
    split
    · exact arbStats_incFld (Nat.le_add_right_of_le (by decide))
    · exact arbStats_incFld (Nat.le_add_right_of_le (by decide))
  exact h.ite (h2.ite h4.modX.modC.drainEnd)

theorem tryEnd (h : StatsKept ch r s) : StatsKept ch r (s.tryEnd ch jc) := by
  rw [tryEnd_eq]
  exact h.ite h.killNote.endRest

theorem killJob (h : StatsKept ch r s) : StatsKept ch r (s.killJob ch jc reason) :=
  h.ite h.lastStores.modX.modC.sweep.tryEnd

/-- An entry aborted and its job killed. -/
theorem abortEntry (h : StatsKept ch r s) : StatsKept ch r (s.abortEntry ch x reason) :=
  abortEntry_eq ▸ h.killJob.modQ.dropEntry.settle.fenceServe.semServe.tryEnd

theorem hangs {cls : Fin 4} (h : StatsKept ch r s) : s.f ch (R.CH_ARB_STAT_HANGS cls) = r.f ch (R.CH_ARB_STAT_HANGS cls) :=
  congrArg (R.CH_ARB_STAT_HANGS cls).of (congrFun h cls)

end State.StatsKept
end Sys2Proof.Machine
end

section
/-! SUPPORT. The watchdog of the arbiters (R116), and the statement of quanta and arbiters. -/

namespace Sys2Proof.Machine

open Sys2Proof

set_option Elab.async false

variable {s t u : State} {ch : ChIdx} {jc : JcIdx} {cls : Fin 4} {inst made : Nat} {reqs : List Req} {ems : List Emerg} {e : Emerg}
  {g : Grant} {unit : Option (Fin 11)} {eng : Fin 11} {x : Entry}

/-! ## A grant revoked -/

/-- The event is posted and the hang counted; the grant is revoked, and its owner masked. -/
def State.revoke (s : State) (ch : ChIdx) (cls : Fin 4) (inst : Nat) (g : Grant) : State :=
  ((s.draw.2.satF ch (R.CH_ARB_STAT_HANGS cls) 1).post (srcOf ch 0x070) .resourceHang [cls.val, inst, s.hungArg g]).setArb ch
    { s.arb ch cls inst with grant := none, holder := none, left := 0, masked := (s.arb ch cls inst).masked ++ [g] }

/-- The entry that a revoked grant served. -/
def State.servedEntry (s : State) (ch : ChIdx) (jc : JcIdx) (unit : Option (Fin 11)) : Option Entry :=
  unit.bind fun e => ((s.eq ch e).run.toList ++ (s.eq ch e).parked).find? fun x => x.jc == jc.val && x.started

theorem resourceHang_idle (h : (s.arb ch cls inst).grant = none) : exec (.resourceHang ch cls inst unit) s = .next s := by
  have e : exec (.resourceHang ch cls inst unit) s = execResourceHang ch cls inst unit s := rfl
  rw [e, execResourceHang]
  dsimp only
  rw [h]

theorem resourceHang_eq (h : (s.arb ch cls inst).grant = some g) : exec (.resourceHang ch cls inst unit) s =
    match (s.arb ch cls inst).holder with
    | some .host => .next ((s.revoke ch cls inst g).answer .abort 0)
    | some (.ctx jc) => match (s.revoke ch cls inst g).servedEntry ch jc unit with
      | some x => .next ((s.revoke ch cls inst g).abortEntry ch x 4)
      | none => .next (s.revoke ch cls inst g)
    | _ => .next (s.revoke ch cls inst g) := by
  have e : exec (.resourceHang ch cls inst unit) s = execResourceHang ch cls inst unit s := rfl
  rw [e, execResourceHang]
  dsimp only
  rw [h]
  rfl

/-- The arbiter after a hang, and its count. -/
def State.hungBy (s : State) (ch : ChIdx) (cls : Fin 4) (inst : Nat) (g : Grant) (t : State) : Prop :=
  (t.arb ch cls inst).grant = none ∧ g ∈ (t.arb ch cls inst).masked ∧
    t.f ch (R.CH_ARB_STAT_HANGS cls) = min 255 (s.f ch (R.CH_ARB_STAT_HANGS cls) + 1)

theorem revoke_hungBy : s.hungBy ch cls inst g (s.revoke ch cls inst g) := by
  obtain ⟨hc, hi⟩ := arb_names (s := s) (ch := ch) (c := cls.val) (i := inst)
  have ha : (s.revoke ch cls inst g).arb ch cls inst =
      { s.arb ch cls inst with grant := none, holder := none, left := 0, masked := (s.arb ch cls inst).masked ++ [g] } :=
    setArb_arb (a := { s.arb ch cls inst with
      grant := none, holder := none, left := 0, masked := (s.arb ch cls inst).masked ++ [g] }) hc hi
  refine ⟨by rw [ha], by rw [ha]; simp, ?_⟩
  have hp : State.StatsKept ch (s.draw.2.satF ch (R.CH_ARB_STAT_HANGS cls) 1) ((s.draw.2.satF ch (R.CH_ARB_STAT_HANGS cls) 1).post
      (srcOf ch 0x070) .resourceHang [cls.val, inst, s.hungArg g]) := State.StatsKept.refl.post
  exact setArb_f.trans (hp.hangs.trans hangs_counts)

theorem revoke_posts : s.postedBy (s.revoke ch cls inst g) (srcOf ch 0x070) :=
  (State.post_does (s.draw.2.satF ch (R.CH_ARB_STAT_HANGS cls) 1) (srcOf ch 0x070) .resourceHang [cls.val, inst, s.hungArg g]).2

/-- Queues and contexts stand beside the arbiters. -/
theorem revoke_jobs : (s.revoke ch cls inst g).eq ch eng = s.eq ch eng ∧ (s.revoke ch cls inst g).ctx ch jc = s.ctx ch jc := by
  have hs : s.SeqKept ch ((s.draw.2.satF ch (R.CH_ARB_STAT_HANGS cls) 1).post (srcOf ch 0x070) .resourceHang
      [cls.val, inst, s.hungArg g]) := (State.SeqKept.refl (s := s.draw.2)).satF.post
  unfold State.revoke State.setArb
  refine ⟨?_, (State.modC_ctx _ _ _ _ _ rfl).trans (hs.ctx jc)⟩
  rw [← hs.eq eng]
  unfold State.eq
  rw [State.modC_same]

/-- The answer of the host port changes neither. -/
theorem answer_hung {c : Cpl} {d : Word} {src : Nat} (h : s.hungBy ch cls inst g u) (hp : s.postedBy u src) :
    s.hungBy ch cls inst g (u.answer c d) ∧ s.postedBy (u.answer c d) src := ⟨h, hp⟩

theorem resourceHang_plain (h : (s.arb ch cls inst).grant = some g)
    (hu : unit = none ∨ ∀ jc, (s.arb ch cls inst).holder ≠ some (.ctx jc)) :
    exec (.resourceHang ch cls inst unit) s = .next (if (s.arb ch cls inst).holder = some .host
      then (s.revoke ch cls inst g).answer .abort 0 else s.revoke ch cls inst g) := by
  rw [resourceHang_eq h]
  split
  · next hh => rw [if_pos hh]
  · next hh =>
    obtain rfl : unit = none := hu.resolve_right fun hn => hn _ hh
    rw [if_neg (by rw [hh]; simp)]
    rfl
  · next hh _ => rw [if_neg hh]

/-- A hang that serves no entry of a context. -/
theorem resourceHang_does (h : (s.arb ch cls inst).grant = some g)
    (hu : unit = none ∨ ∀ jc, (s.arb ch cls inst).holder ≠ some (.ctx jc)) :
    goesTo (exec (.resourceHang ch cls inst unit) s) fun t => s.hungBy ch cls inst g t ∧ s.postedBy t (srcOf ch 0x070) ∧
      ((s.arb ch cls inst).holder = some .host → t.pkg.out.cpl = .abort) := by
  refine ⟨_, resourceHang_plain h hu, ?_⟩
  by_cases hh : (s.arb ch cls inst).holder = some .host
  · obtain ⟨ha, hp⟩ := answer_hung (c := .abort) (d := 0) (revoke_hungBy (s := s) (ch := ch) (cls := cls) (inst := inst) (g := g)) revoke_posts
    rw [if_pos hh]
    exact ⟨ha, hp, fun _ => rfl⟩
  · rw [if_neg hh]
    exact ⟨revoke_hungBy, revoke_posts, fun hn => absurd hn hh⟩

/-- A hang that serves the started entry of an engine. -/
theorem resourceHang_entry (h : (s.arb ch cls inst).grant = some g) (hh : (s.arb ch cls inst).holder = some (.ctx jc))
    (hr : (s.eq ch eng).run = some x) (hj : x.jc = jc.val) (hx : x.started = true) :
    exec (.resourceHang ch cls inst (some eng)) s = .next ((s.revoke ch cls inst g).abortEntry ch x 4) := by
  have hs : (s.revoke ch cls inst g).servedEntry ch jc (some eng) = some x := by
    unfold State.servedEntry
    rw [Option.bind_some, (revoke_jobs (jc := jc)).1, hr]
    simp [hj, hx]
  rw [resourceHang_eq h, hh]
  dsimp only
  rw [hs]

/-- Aborting the entry leaves the arbiters and their counts. -/
theorem abortEntry_hungBy {reason : Nat} (h : s.hungBy ch cls inst g u) : s.hungBy ch cls inst g (u.abortEntry ch x reason) := by
  have ha : (u.abortEntry ch x reason).arb ch cls inst = u.arb ch cls inst := State.Timed.arb abortEntry_timing
  have hs : State.StatsKept ch u (u.abortEntry ch x reason) := State.StatsKept.refl.abortEntry
  have hf := hs.hangs (cls := cls)
  unfold State.hungBy at *
  rw [ha, hf]
  exact h

/-- The requester is unmasked. -/
theorem requesterUnmasked_does : goesTo (exec (.requesterUnmasked ch cls inst g) s) fun t => s.onlyChan t ch ∧
    g ∉ (t.arb ch cls inst).masked ∧ (t.arb ch cls inst).grant = (s.arb ch cls inst).grant := by
  obtain ⟨hc, hi⟩ := arb_names (s := s) (ch := ch) (c := cls.val) (i := inst)
  refine ⟨s.setArb ch { s.arb ch cls inst with masked := (s.arb ch cls inst).masked.filter (· != g) }, rfl,
    setArb_onlyChan onlyChan_refl, ?_⟩
  rw [setArb_arb (a := { s.arb ch cls inst with masked := (s.arb ch cls inst).masked.filter (· != g) }) hc hi]
  exact ⟨by simp, rfl⟩

/-! ## The clauses of an arbitration point -/

/-- The arbiter after a requester has won outside the routers. -/
def State.wonAt (s : State) (ch : ChIdx) (cls : Fin 4) (inst : Nat) (r : Req) (t : State) : Prop :=
  (t.arb ch cls inst).grant = some (.req r.idx) ∧ (t.arb ch cls inst).last = r.idx ∧ (t.arb ch cls inst).waits r.idx = 0 ∧
    (t.arb ch cls inst).left = max 1 (s.f ch (R.CH_ARB_CFG_BURST cls))

theorem wonBy_winner {a : Arb} {lim n : Nat} {rs : List Req} {r : Req} :
    (a.wonBy lim rs r n).last = r.idx ∧ (a.wonBy lim rs r n).waits r.idx = 0 :=
  ⟨(charge_winner (a := a) (lim := lim) (rs := rs)).2, (charge_winner (a := a) (lim := lim) (rs := rs)).1⟩

/-- A requester is picked: the grant is its, and FORCED counts where it was due. -/
theorem arbGrant_won {r : Req} {forced : Bool} (hm : (s.arb ch cls inst).masked = []) (h2 : cls ≠ 2)
    (ho : (s.arb ch cls inst).over reqs ems made = true) (hn : ∀ e, ¬ Emerg.first cls ems e)
    (hp : (s.arb ch cls inst).pick (s.waitLim ch cls) (s.reqLc ch) (sortReqs reqs) = some (r, forced)) :
    goesTo (exec (.arbGrant ch cls inst reqs ⟨ems, made⟩) s) fun t => s.onlyChan t ch ∧ s.wonAt ch cls inst r t ∧
      t.f ch (R.CH_ARB_STAT_FORCED cls) =
        if forced then min 255 (s.f ch (R.CH_ARB_STAT_FORCED cls) + 1) else s.f ch (R.CH_ARB_STAT_FORCED cls) := by
  obtain ⟨hc, hi⟩ := arb_names (s := s) (ch := ch) (c := cls.val) (i := inst)
  have he := arbGrant_over hm ho
  rw [firstEmerg_none hn, arbDecide_won hp h2] at he
  refine ⟨_, he, setArb_onlyChan ?_, ?_, setArb_f.trans ?_⟩
  · split
    · exact satF_onlyChan
    · exact onlyChan_refl
  · unfold State.wonAt
    rw [setArb_arb (wonBy_names.1.trans hc) (wonBy_names.2.trans hi)]
    exact ⟨rfl, wonBy_winner.1, wonBy_winner.2, rfl⟩
  · split
    · exact forced_counts
    · rfl

/-- An emergency requester is granted, at once or in place of a requester. -/
theorem arbGrant_first (hm : (s.arb ch cls inst).masked = []) (hf : Emerg.first cls ems e)
    (h : (s.arb ch cls inst).over reqs ems made = true ∨ ∃ j, (s.arb ch cls inst).grant = some (.req j)) :
    goesTo (exec (.arbGrant ch cls inst reqs ⟨ems, made⟩) s) fun t => s.onlyChan t ch ∧
      (t.arb ch cls inst).grant = some (.emerg e) ∧ t.f ch (R.CH_ARB_STAT_EMERG cls) =
        if (s.arb ch cls inst).over reqs ems made then s.f ch (R.CH_ARB_STAT_EMERG cls)
        else min 255 (s.f ch (R.CH_ARB_STAT_EMERG cls) + 1) := by
  obtain ⟨hc, hi⟩ := arb_names (s := s) (ch := ch) (c := cls.val) (i := inst)
  have granted {t : State} {n : Nat} : ((t.setArb ch { s.arb ch cls inst with
      grant := some (.emerg e), holder := none, left := n }).arb ch cls inst).grant = some (.emerg e) :=
    setArb_grant (a := { s.arb ch cls inst with grant := some (.emerg e), holder := none, left := n }) hc hi
  cases ho : (s.arb ch cls inst).over reqs ems made with
  | true =>
    have he := arbGrant_over hm ho
    rw [firstEmerg_iff.2 hf] at he
    exact ⟨_, he, setArb_onlyChan onlyChan_refl, granted, setArb_f⟩
  | false =>
    obtain ⟨j, hj⟩ := h.resolve_left (by simp [ho])
    exact ⟨_, arbGrant_taken hm ho hj (firstEmerg_iff.2 hf), setArb_onlyChan satF_onlyChan, granted,
      setArb_f.trans emerg_counts⟩

/-- A grant that stays loses the transfers made. -/
theorem arbGrant_kept (hm : (s.arb ch cls inst).masked = []) (ho : (s.arb ch cls inst).over reqs ems made = false)
    (h : (∀ e, ¬ Emerg.first cls ems e) ∨ ∃ e, (s.arb ch cls inst).grant = some (.emerg e)) :
    goesTo (exec (.arbGrant ch cls inst reqs ⟨ems, made⟩) s) fun t => s.onlyChan t ch ∧
      (t.arb ch cls inst).grant = (s.arb ch cls inst).grant ∧ (t.arb ch cls inst).left = (s.arb ch cls inst).left - made ∧
      t.f ch (R.CH_ARB_STAT_EMERG cls) = s.f ch (R.CH_ARB_STAT_EMERG cls) := by
  obtain ⟨hc, hi⟩ := arb_names (s := s) (ch := ch) (c := cls.val) (i := inst)
  refine ⟨_, arbGrant_stays hm ho (h.imp_left firstEmerg_none), setArb_onlyChan onlyChan_refl, ?_⟩
  rw [setArb_arb (a := { s.arb ch cls inst with left := (s.arb ch cls inst).left - made }) hc hi]
  exact ⟨rfl, rfl, setArb_f⟩

/-- Without a requester nothing is granted. -/
theorem arbGrant_empty (hm : (s.arb ch cls inst).masked = []) (ho : (s.arb ch cls inst).over [] ems made = true)
    (hn : ∀ e, ¬ Emerg.first cls ems e) : goesTo (exec (.arbGrant ch cls inst [] ⟨ems, made⟩) s) fun t => s.onlyChan t ch ∧
      (t.arb ch cls inst).grant = none := by
  obtain ⟨hc, hi⟩ := arb_names (s := s) (ch := ch) (c := cls.val) (i := inst)
  have he := arbGrant_over hm ho
  rw [firstEmerg_none hn, arbDecide_none (rs := sortReqs []) pick_nil] at he
  exact ⟨_, he, setArb_onlyChan onlyChan_refl,
    setArb_grant (a := { s.arb ch cls inst with grant := none, holder := none, left := 0 }) hc hi⟩

/-- Settles O33: quanta by what their charges and decisions keep; an arbitration point by who is picked; a hang by what an
aborted entry keeps. -/
theorem quantaAndArbiters : Obligations.QuantaAndArbiters := by
  intro s ch cls inst reqs ems made g a now point ended first none_ lim emerg forced won last
  have hover : ended = a.over reqs ems made := rfl
  refine ⟨fun hl => ?_, quantumBoundary_last, fun hm => ⟨fun e hf h => ?_, fun ho h => ?_, fun ho hn hr => ?_,
    fun h2 ho hn => ⟨fun hw hne => ?_, fun hd => ?_⟩⟩, arbGrant_masked, resourceHang_idle, fun hg unit => ⟨fun hu => ?_,
    fun jc e x hh hu hr hj hx hxe hst => ?_⟩, requesterUnmasked_does⟩
  · obtain ⟨t, ht, hq, hu⟩ := quantumBoundary_quantum hl
    refine ⟨t, ht, hq, fun hn => ?_⟩
    rw [hu hn]
    exact ⟨⟨rfl, rfl, rfl, fun c hc => State.modC_other _ _ hc⟩, State.modC_same ..⟩
  · exact arbGrant_first hm hf h
  · exact arbGrant_kept hm (Bool.eq_false_iff.2 ho) h
  · subst hr
    exact arbGrant_empty hm ho hn
  · obtain ⟨r, hr, hp, hlc⟩ := turn_some (a := a) (lc := s.reqLc ch) (sortReqs_ne_nil hne)
    have hpick := pick_turn (lc := s.reqLc ch) (lim := lim) fun r hr => hw r (mem_sortReqs.1 hr)
    obtain ⟨t, ht, ho', hwon, hf⟩ := arbGrant_won hm h2 ho hn (hpick.trans hp)
    exact ⟨t, ht, ho', hf, r, mem_sortReqs.1 hr, hwon, fun ⟨x, hx, hxl⟩ => hlc ⟨x, mem_sortReqs.2 hx, hxl⟩⟩
  · obtain ⟨x, hx, hxl⟩ := hd
    obtain ⟨r, hr, hp, hdue, hlow⟩ := pick_due (lc := s.reqLc ch) ⟨x, mem_sortReqs.2 hx, hxl⟩
    obtain ⟨t, ht, ho', hwon, hf⟩ := arbGrant_won hm h2 ho hn hp
    exact ⟨t, ht, ho', hf, r, mem_sortReqs.1 hr, hwon, hdue, fun h0 y hy hy' => hlow h0 y (mem_sortReqs.2 hy) hy'⟩
  · exact resourceHang_does hg hu
  · subst hu
    have hj' : jcOf x.jc = jc := by rw [hj, jcOf_val]
    have he' : engOf x.eng = e := by rw [hxe, engOf_val]
    have hctx : (s.revoke ch cls inst g).ctx ch jc = s.ctx ch jc := (revoke_jobs (eng := e)).2
    have hal : ((s.revoke ch cls inst g).ctx ch (jcOf x.jc)).alive := by
      rw [hj', hctx]
      exact ⟨by simp [hst], by simp [hst], by simp [hst]⟩
    have hk := (abortEntry_killed (reason := 4) hal).1
    have hoff := abortEntry_off (s := s.revoke ch cls inst g) (ch := ch) (x := x) (reason := 4)
    rw [hj'] at hk
    rw [he'] at hoff
    exact ⟨_, resourceHang_entry hg hh hr hj hx, abortEntry_hungBy revoke_hungBy,
      fun y hy => hoff y (by simp [EngQ.begun, hy]), hk⟩

end Sys2Proof.Machine
end
